-- ==== Sys2Proof/Word.lean ====
section
/-! DEFINITION. The word types of the Briper architecture (R8, R22, R24) and the plainest operations on them. -/
namespace Sys2Proof

/-- One byte of memory. -/
abbrev Byte := BitVec 8
/-- One 32-bit register word (Table 01-2). -/
abbrev Word := BitVec 32
/-- A 64-bit operand: an even-odd register pair (R24). -/
abbrev Dword := BitVec 64
/-- A 128-bit operand: a register quad (R24), for example a typed pointer. -/
abbrev Quad := BitVec 128
/-- A virtual address or program counter: 57 bits (R18). -/
abbrev VAddr := BitVec 57

end Sys2Proof
end

