-- ==== Sys2Proof/Machine/Map.lean ====
section
/-! DEFINITION. Sparse maps as plain data: lists of key and value pairs in one canonical form (keys strictly rising,
no entry equal to what an unlisted key reads as). Registers, memories and tables are held this way, so that equal
contents are equal data. -/
namespace Sys2Proof.Machine

/-- A sparse map from natural numbers. What an unlisted key reads as is the `d` of the operations. -/
abbrev NMap (α : Type) := List (Nat × α)

/-- The value at key `k`; `d k` when `k` is not listed. -/
def nget {α : Type} (d : Nat → α) : NMap α → Nat → α
  | [], k => d k
  | (k', v) :: m, k => if k = k' then v else nget d m k

/-- Takes key `k` out. -/
def nerase {α : Type} : NMap α → Nat → NMap α
  | [], _ => []
  | (k', v) :: m, k => if k = k' then nerase m k else (k', v) :: nerase m k

/-- Puts `(k, v)` in its place among rising keys. -/
def ninsert {α : Type} : NMap α → Nat → α → NMap α
  | [], k, v => [(k, v)]
  | (k', v') :: m, k, v =>
    if k = k' then (k, v) :: m
    else if k < k' then (k, v) :: (k', v') :: m
    else (k', v') :: ninsert m k v

/-- Writes `v` at `k`. Writing what an unlisted key reads as takes the entry out. -/
def nset {α : Type} [DecidableEq α] (d : Nat → α) (m : NMap α) (k : Nat) (v : α) : NMap α :=
  if v = d k then nerase m k else ninsert m k v

/-- The canonical form: keys strictly rising from `lo`, no entry that an unlisted key would read as. -/
def nwfFrom {α : Type} [DecidableEq α] (d : Nat → α) : Nat → NMap α → Bool
  | _, [] => true
  | lo, (k, v) :: m => decide (lo ≤ k) && !decide (v = d k) && nwfFrom d (k + 1) m

/-- The canonical form of a whole map. -/
def nwf {α : Type} [DecidableEq α] (d : Nat → α) (m : NMap α) : Bool := nwfFrom d 0 m

/-- What an unlisted word reads as: zero. -/
def zeroW : Nat → Word := fun _ => 0
/-- Reads a word map whose unlisted keys read zero. -/
def wget (m : NMap Word) (k : Nat) : Word := nget zeroW m k
/-- Writes a word map whose unlisted keys read zero. -/
def wset (m : NMap Word) (k : Nat) (v : Word) : NMap Word := nset zeroW m k v

/-- Looks an optional entry up: `none` when the key is not listed. -/
def nfind? {α : Type} : NMap α → Nat → Option α
  | [], _ => none
  | (k', v) :: m, k => if k = k' then some v else nfind? m k

/-- The element at place `i` of a list replaced; nothing changes when there is no such place. -/
def lset {α : Type} : List α → Nat → α → List α
  | [], _, _ => []
  | _ :: l, 0, x => x :: l
  | y :: l, i + 1, x => y :: lset l i x

/-- Element `i` of a list, or `d`. -/
def lget {α : Type} (d : α) : List α → Nat → α
  | [], _ => d
  | x :: _, 0 => x
  | _ :: l, i + 1 => lget d l i

/-- The natural numbers from `a`, `n` of them. -/
def natsFrom : Nat → Nat → List Nat
  | _, 0 => []
  | a, n + 1 => a :: natsFrom (a + 1) n

/-- Lanes 0 to 31 of a crew. -/
def allLanes : List Nat := natsFrom 0 32

/-- The lanes of a mask, rising. -/
def lanesOf (m : Word) : List Nat := allLanes.filter (fun l => m.getLsbD l)

/-- The mask with lane `l` set. -/
def laneBit (l : Nat) : Word := (1 : Word) <<< l

/-- Sets or clears bit `l`. -/
def setLane (m : Word) (l : Nat) (b : Bool) : Word :=
  if b then m ||| laneBit l else m &&& ~~~ laneBit l

/-- The bytes of `w`, lowest first: `n` of them. -/
def leBytes : Nat → Nat → List Byte
  | 0, _ => []
  | n + 1, w => BitVec.ofNat 8 w :: leBytes n (w / 256)

/-- The number whose little-endian bytes are `bs` (R8). -/
def ofLeBytes : List Byte → Nat
  | [] => 0
  | b :: bs => b.toNat + 256 * ofLeBytes bs

/-- Bits [hi:lo] of a number. -/
def bits (x hi lo : Nat) : Nat := (x >>> lo) % 2 ^ (hi + 1 - lo)

/-- Bit `i` of a number. -/
def bit (x i : Nat) : Bool := x.testBit i

/-- `x` with bits [hi:lo] replaced by `v`. -/
def setBits (x hi lo v : Nat) : Nat :=
  let w := hi + 1 - lo
  (x >>> (hi + 1)) <<< (hi + 1) + (v % 2 ^ w) <<< lo + x % 2 ^ lo

end Sys2Proof.Machine
end

