-- ==== Sys2Proof/Syntax.lean ====
section
/-! DEFINITION. The syntax: one constructor of `Instr` per row of the opcode table. The rows are the Briper
instructions in each of their lengths, and the part's other steps (a load completing, a packet arriving, a
register written by the host), which have no encoding. -/
namespace Sys2Proof

/-- Word 0 of an instruction (Table 03-1), less LEN and OPC, which the constructor gives. -/
structure Word0 where
  /-- GP, the guard predicate. -/
  gp : BitVec 4
  /-- GN, guard negate. -/
  gn : Bool
  /-- D, the destination field. -/
  d : BitVec 8
  /-- A, source A. -/
  a : BitVec 8
  /-- AU: A names a uniform register. -/
  au : Bool
deriving DecidableEq, Repr

/-- Word 1 of the 8-byte and 12-byte forms (Table 03-2). -/
structure Word1 where
  b : BitVec 8
  c : BitVec 8
  bu : Bool
  cu : Bool
  rnd : BitVec 2
  fzi : Bool
  fzo : Bool
  sat : Bool
  typ : BitVec 5
  sub : BitVec 4
deriving DecidableEq, Repr

/-- One slot of a pair word (Table 03-6). -/
structure PairSlot where
  psub : BitVec 6
  d : BitVec 8
  a : BitVec 8
  b : BitVec 8
  f : Bool
deriving DecidableEq, Repr

/-- Why an encoding is refused, by the word-only step of Table 03-10 that fails first (R107, R108). -/
inductive Why where
  | reserved     -- step 1: OPC or PSUB reserved or permanently illegal
  | length       -- step 2: LEN not among the opcode's lengths
  | unusedField  -- step 4: a field the instruction does not use is non-zero
  | subOrType    -- step 5: SUB or TYP not accepted
  | operand      -- step 6: an operand field outside its range
  | pairRule     -- step 8: a pair word breaks R102
  | truncated    -- fewer bytes than the instruction has
deriving DecidableEq, Repr

/-- The step number of Table 03-10 that a refusal reports. -/
def Why.step : Why → Nat
  | .reserved => 1 | .length => 2 | .unusedField => 4 | .subOrType => 5
  | .operand => 6 | .pairRule => 8 | .truncated => 1

/-- A refused encoding: the failing step, the slot of a pair word it lies in, and what the checks of step 3, which
come earlier but read the issuing slice, need to know of the word. -/
structure Reject where
  why : Why
  slot1 : Bool
  /-- The opcode may issue in the access slice, in a crew, only in a handler (Table 03-9). -/
  inAccess : Bool
  inCrew : Bool
  handlerOnly : Bool
  /-- Step 3 fails in the access slice for another reason: a U bit 0, `MFSR` with SUB 0, a `.c` or `.d` level. -/
  accessBad : Bool
  /-- A `.u` pointer instruction, which the access slice refuses at step 5 (R246). -/
  accessU : Bool
deriving DecidableEq, Repr

/-- A request at a home: an L2 slice or a vault controller (R368, R372). `addr` is a package-local address. -/
structure HomeReq where
  id : Nat
  addr : Nat
  /-- 0 read, 1 write, 2 atomic add, 3 swap, 4 compare and swap, 5 store of an element into its unit (R215), 64 + 32 × SUB + TYP any `ATOM`
  (R232). -/
  op : Nat
  /-- Bytes read. -/
  len : Nat
  /-- The bytes written or the atomic's operands, compare before swap. -/
  data : List Byte
  /-- The core that asks, as a flat core number; `none` for an engine, a gateway, a port or a walker. -/
  core : Option Nat
  /-- The line is on a coherent page, so the home's directory tracks its copies (R367). -/
  coherent : Bool
  /-- The partition in whose space `addr` lies. -/
  part : Nat
  /-- The bytes written are marked poisoned (R493). -/
  bad : Bool := false
deriving DecidableEq, Repr

/-- Which replicated page a store goes to (R383): its frame and size, the queue and the group, copy or other owner that stored, the
store's number, and whether its bytes are marked poisoned (R493). -/
structure ReplPage where
  frame : Nat
  size : Nat
  queue : Nat
  owner : Nat
  id : Nat
  bad : Bool := false
deriving DecidableEq, Repr

/-- A store to a replicated page: its bytes from offset `off` of the page (R383). -/
structure ReplStore extends ReplPage where
  off : Nat
  bytes : List Byte
deriving DecidableEq, Repr

/-- The die that is asked for a batch and the die that asks (R407). -/
structure Steal where
  victim : Nat
  thief : Nat
deriving DecidableEq, Repr

/-- A gateway of a job's list: package number and gateway index. -/
structure GwRef where
  peer : Nat
  gw : Nat
deriving DecidableEq, Repr

/-- A switch named in a job request with what attesting it finds (R508). -/
structure SwitchRef where
  id : Nat
  /-- Its certificate chain leads to the root named in the request. -/
  chainOk : Bool
  /-- Its measurements equal the reference digests of the request. -/
  measured : Bool
deriving DecidableEq, Repr

/-- One rank's elements inside a partial. -/
structure RankData where
  rank : Nat
  elems : List Dword
deriving DecidableEq, Repr

/-- An Axsis packet as its receiver finds it (Table 16-5, Table 16-7), header fields and payload apart. -/
structure AxPkt where
  typ : Nat
  srcPeer : Nat
  srcGw : Nat
  dstPeer : Nat
  dstGw : Nat
  cls : Nat
  seq : Nat
  addr : Nat
  jobTag : Nat
  epoch : Nat
  cmp : Bool
  enc : Bool
  ident : Nat
  rank : Nat
  count : Nat
  op : Nat
  fmt : Nat
  timeout : Nat
  status : Nat
  nanSeen : Bool
  viaSwitch : Bool
  /-- The request or reply carries an error. -/
  err : Bool
  /-- Transaction tag that a reply repeats. -/
  tag : Nat
  mask : Nat
  data : List Byte
  elems : List Dword
  /-- The contributions that a partial holds (R463: a partial is combined as the set it holds). -/
  parts : List RankData
  bitmap : List Nat
  bitmap2 : List Nat
  /-- The bytes of a write or reply are marked poisoned (R493, Table 18-2). -/
  bad : Bool := false
  /-- The header's reserved bits, and TSPEC of a type that gives it no meaning (R453). -/
  reserved : Nat := 0
  /-- The counter ahead of an encrypted payload, and that the tag behind it verifies (R468, R469). -/
  counter : Nat := 0
  tagOk : Bool := true
deriving DecidableEq, Repr

/-- An inbound PCI Express request at a port (R478). `off` is its BAR2 offset. -/
structure Tlp where
  port : Nat
  requester : Nat
  off : Nat
  len : Nat
  data : List Byte
  /-- AtomicOp: 0 FetchAdd, 1 Swap, 2 CAS. -/
  op : Nat
  /-- A secure IDE stream protects it; its integrity check passed; the stream that carries it. -/
  secure : Bool
  intact : Bool
  stream : Nat
deriving DecidableEq, Repr

/-- A firmware image offered for staging (R506, R511). -/
structure FwImage where
  /-- 0 to 3 a die, 4 the trust die. -/
  target : Nat
  digest : Nat
  version : Nat
  /-- Its Falcon-1024 signature verifies against a Camoz key held in the boot ROM. -/
  signed : Bool
deriving DecidableEq, Repr

/-- One constructor per row of the opcode table. -/
inductive Instr where
  /-- NOP: 4-byte no-operation (R141). -/
  | nop (f : Word0)
  /-- NOP_8: 8-byte no-operation (R141). -/
  | nop8 (f : Word0) (h : Word1)
  /-- NOP_12: 12-byte no-operation (R141). -/
  | nop12 (f : Word0) (h : Word1) (w : Word)
  /-- BRA: 4-byte branch: active lanes jump by 4 x sext(OFF17); the other issued lanes advance (R136). -/
  | bra (gp : BitVec 4) (gn : Bool) (off17 : BitVec 17)
  /-- BRA_12: 12-byte branch whose word-2 offset gives the target (R136). -/
  | bra12 (f : Word0) (h : Word1) (w : Word)
  /-- BRAL: Branch and link: writes the return address once to a uniform pair and jumps the active lanes (R136). -/
  | bral (f : Word0) (h : Word1) (w : Word)
  /-- JMPI: Indirect jump of each active lane to the address in pair A, with an alignment check (R138). -/
  | jmpi (f : Word0)
  /-- RET: Return: acts as JMPI to an address written by BRAL (R138). -/
  | ret (f : Word0)
  /-- EXIT: Marks the active lanes exited, or ends the access slice (R140). -/
  | exit (f : Word0)
  /-- DBNZ: Decrements a uniform register once per issue group and branches when the result is non-zero (R136). -/
  | dbnz (f : Word0) (h : Word1) (w : Word)
  /-- BRQ: Access slice waits for a back-queue entry, pops it, writes it and branches on zero or non-zero (R139). -/
  | brq (f : Word0) (h : Word1) (w : Word)
  /-- YIELD: Makes the issuing crew or slice the lowest issue candidate for the next cycle (R141). -/
  | yield (f : Word0)
  /-- SLEEPC: 4-byte sleep of each active lane for a register count of local cycles (R142). -/
  | sleepc (f : Word0)
  /-- SLEEPC_12: 12-byte sleep for an immediate count of local cycles (R142). -/
  | sleepc12 (f : Word0) (h : Word1) (w : Word)
  /-- TRAP: Raises USER_TRAP with code k in the active lanes (R302). -/
  | trap (f : Word0)
  /-- TRET: Leaves the handler: reloads the frame, replays log records, frees the slot and resumes the group (R425). -/
  | tret (f : Word0)
  /-- TRET_END: Ends the group as stopped by a trap, discarding its block store buffer (R304). -/
  | tretEnd (f : Word0)
  /-- BKPT: Raises BKPT while breakpoints are enabled; otherwise acts as NOP (R303). -/
  | bkpt (f : Word0)
  /-- ICINV: Commits, writes back and invalidates instruction caches over a range at its scope (R305). -/
  | icinv (f : Word0) (h : Word1)
  /-- MFSR: Reads a special register into a vector or uniform register (R300). -/
  | mfsr (f : Word0) (h : Word1)
  /-- MTSR: Writes a handler-only special register from a trap handler (R300). -/
  | mtsr (f : Word0) (h : Word1)
  /-- BAR: Arrives at a barrier with the default count and waits for the release (R291). -/
  | bar (f : Word0) (h : Word1)
  /-- BAR_12: Arrives at a barrier with an explicit count and waits (R291). -/
  | bar12 (f : Word0) (h : Word1) (w : Word)
  /-- BARA: Arrives at a barrier with the default count and returns the generation token (R291). -/
  | bara (f : Word0) (h : Word1)
  /-- BARA_12: Arrives at a barrier with an explicit count and returns the token (R291). -/
  | bara12 (f : Word0) (h : Word1) (w : Word)
  /-- BARW: Waits until the barrier generation differs from a uniform-register token (R291). -/
  | barw (f : Word0) (h : Word1)
  /-- BARW_12: Waits until the barrier generation differs from an immediate token (R291). -/
  | barw12 (f : Word0) (h : Word1) (w : Word)
  /-- CANCEL: Cancels the group, launch, graph, phase or job that contains the issuer (R297). -/
  | cancel (f : Word0) (h : Word1)
  /-- IADD: Integer add, wrapping or saturating (R144). -/
  | iadd (f : Word0) (h : Word1)
  /-- IADD_12: Integer add with an immediate B (R144). -/
  | iadd12 (f : Word0) (h : Word1) (w : Word)
  /-- ISUB: Integer subtract (R144). -/
  | isub (f : Word0) (h : Word1)
  /-- ISUB_12: Integer subtract with an immediate B (R144). -/
  | isub12 (f : Word0) (h : Word1) (w : Word)
  /-- IADDC: 32-bit add with predicate carry-in and carry-out (R147). -/
  | iaddc (f : Word0) (h : Word1)
  /-- IADDC_12: IADDC with an immediate B (R147). -/
  | iaddc12 (f : Word0) (h : Word1) (w : Word)
  /-- ISUBC: 32-bit subtract with predicate borrow-in and borrow-out (R147). -/
  | isubc (f : Word0) (h : Word1)
  /-- ISUBC_12: ISUBC with an immediate B (R147). -/
  | isubc12 (f : Word0) (h : Word1) (w : Word)
  /-- INEG: 4-byte integer negate, s32 (R144). -/
  | ineg (f : Word0)
  /-- INEG_8: 8-byte integer negate with any W type and optional saturation (R144). -/
  | ineg8 (f : Word0) (h : Word1)
  /-- IMUL: Integer multiply, low N bits (R144). -/
  | imul (f : Word0) (h : Word1)
  /-- IMUL_12: Integer multiply with an immediate B (R144). -/
  | imul12 (f : Word0) (h : Word1) (w : Word)
  /-- IMULH: Integer multiply, high N bits (R144). -/
  | imulh (f : Word0) (h : Word1)
  /-- IMULH_12: IMULH with an immediate B (R144). -/
  | imulh12 (f : Word0) (h : Word1) (w : Word)
  /-- IMAD: Integer multiply-add (R144). -/
  | imad (f : Word0) (h : Word1)
  /-- IMAD_12: IMAD with an immediate B (R144). -/
  | imad12 (f : Word0) (h : Word1) (w : Word)
  /-- IMADW: Wide multiply-add into a register pair, with a carry predicate (R148). -/
  | imadw (f : Word0) (h : Word1)
  /-- IMADW_12: IMADW with an immediate B (R148). -/
  | imadw12 (f : Word0) (h : Word1) (w : Word)
  /-- IMIN: Integer minimum (R144). -/
  | imin (f : Word0) (h : Word1)
  /-- IMIN_12: Integer minimum with an immediate B (R144). -/
  | imin12 (f : Word0) (h : Word1) (w : Word)
  /-- IMAX: Integer maximum (R144). -/
  | imax (f : Word0) (h : Word1)
  /-- IMAX_12: Integer maximum with an immediate B (R144). -/
  | imax12 (f : Word0) (h : Word1) (w : Word)
  /-- IABS: 4-byte integer absolute value, s32 (R144). -/
  | iabs (f : Word0)
  /-- IABS_8: 8-byte integer absolute value, optionally saturating (R144). -/
  | iabs8 (f : Word0) (h : Word1)
  /-- IADIF: Integer absolute difference (R144). -/
  | iadif (f : Word0) (h : Word1)
  /-- IADIF_12: IADIF with an immediate B (R144). -/
  | iadif12 (f : Word0) (h : Word1) (w : Word)
  /-- SHL: Shift left (R149). -/
  | shl (f : Word0) (h : Word1)
  /-- SHL_12: Shift left by an immediate count (R149). -/
  | shl12 (f : Word0) (h : Word1) (w : Word)
  /-- SHR: Logical shift right (R149). -/
  | shr (f : Word0) (h : Word1)
  /-- SHR_12: Logical shift right by an immediate count (R149). -/
  | shr12 (f : Word0) (h : Word1) (w : Word)
  /-- SAR: Arithmetic shift right (R149). -/
  | sar (f : Word0) (h : Word1)
  /-- SAR_12: Arithmetic shift right by an immediate count (R149). -/
  | sar12 (f : Word0) (h : Word1) (w : Word)
  /-- DSH: Returns one word of a 64-bit funnel shift (R150). -/
  | dsh (f : Word0) (h : Word1)
  /-- DSH_12: Funnel shift by an immediate count (R150). -/
  | dsh12 (f : Word0) (h : Word1) (w : Word)
  /-- ROT: Rotate left or right (R149). -/
  | rot (f : Word0) (h : Word1)
  /-- ROT_12: Rotate by an immediate count (R149). -/
  | rot12 (f : Word0) (h : Word1) (w : Word)
  /-- LUT3: Three-input bitwise truth-table function (R151). -/
  | lut3 (f : Word0) (h : Word1) (w : Word)
  /-- POPC: 4-byte population count (R152). -/
  | popc (f : Word0)
  /-- POPC_8: 8-byte typed population count (R152). -/
  | popc8 (f : Word0) (h : Word1)
  /-- CLZ: 4-byte count of leading zeros (R152). -/
  | clz (f : Word0)
  /-- CLZ_8: 8-byte typed count of leading zeros (R152). -/
  | clz8 (f : Word0) (h : Word1)
  /-- CTZ: 4-byte count of trailing zeros (R152). -/
  | ctz (f : Word0)
  /-- CTZ_8: 8-byte typed count of trailing zeros (R152). -/
  | ctz8 (f : Word0) (h : Word1)
  /-- BREV: 4-byte bit reverse (R152). -/
  | brev (f : Word0)
  /-- BREV_8: 8-byte typed bit reverse (R152). -/
  | brev8 (f : Word0) (h : Word1)
  /-- BFX: Extracts a bit field (R153). -/
  | bfx (f : Word0) (h : Word1)
  /-- BFX_12: Extracts a bit field under an immediate control word (R153). -/
  | bfx12 (f : Word0) (h : Word1) (w : Word)
  /-- BFI: Inserts a bit field (R153). -/
  | bfi (f : Word0) (h : Word1)
  /-- BFI_12: Inserts a bit field under an immediate control word (R153). -/
  | bfi12 (f : Word0) (h : Word1) (w : Word)
  /-- BSEL: Selects bytes from a 64-bit value (R154). -/
  | bsel (f : Word0) (h : Word1)
  /-- BSEL_12: Byte select under an immediate control word (R154). -/
  | bsel12 (f : Word0) (h : Word1) (w : Word)
  /-- ISETP: Integer compare into a predicate, ANDed with pC (R155). -/
  | isetp (f : Word0) (h : Word1)
  /-- ISETP_12: Integer compare against an immediate (R155). -/
  | isetp12 (f : Word0) (h : Word1) (w : Word)
  /-- ISEL: Selects A or B by predicate (R155). -/
  | isel (f : Word0) (h : Word1)
  /-- ISEL_12: Selects A or an immediate by predicate (R155). -/
  | isel12 (f : Word0) (h : Word1) (w : Word)
  /-- MOV: 4-byte register move (R156). -/
  | mov (f : Word0)
  /-- MOV_8: 8-byte typed register move (R156). -/
  | mov8 (f : Word0) (h : Word1)
  /-- MOVI: Moves the word-2 immediate into the destination (R156). -/
  | movi (f : Word0) (h : Word1) (w : Word)
  /-- PLOP: Predicate truth-table function of three predicates (R157). -/
  | plop (f : Word0) (h : Word1) (w : Word)
  /-- P2V: 4-byte copy of the predicates into a vector register (R158). -/
  | p2v (f : Word0)
  /-- P2V_8: 8-byte copy of the predicates into a vector register (R158). -/
  | p2v8 (f : Word0) (h : Word1)
  /-- V2P: Sets predicates from vector bits under a mask (R158). -/
  | v2p (f : Word0) (h : Word1)
  /-- S2V: 4-byte broadcast of a uniform register to a vector register (R159). -/
  | s2v (f : Word0)
  /-- S2V_8: 8-byte broadcast, or linear per-lane sequence with .lin (R159). -/
  | s2v8 (f : Word0) (h : Word1)
  /-- V2S: Writes a crew uniform register from the lowest active lane or a named lane (R160). -/
  | v2s (f : Word0) (h : Word1)
  /-- LEA: 64-bit address computation A + ext(B) x 2^shift (R161). -/
  | lea (f : Word0) (h : Word1)
  /-- LEA_12: LEA with an immediate B (R161). -/
  | lea12 (f : Word0) (h : Word1) (w : Word)
  /-- FADD: fp32 add (R168). -/
  | fadd (f : Word0) (h : Word1)
  /-- FADD_12: fp32 add with an immediate B (R168). -/
  | fadd12 (f : Word0) (h : Word1) (w : Word)
  /-- FSUB: fp32 subtract (R168). -/
  | fsub (f : Word0) (h : Word1)
  /-- FSUB_12: fp32 subtract with an immediate B (R168). -/
  | fsub12 (f : Word0) (h : Word1) (w : Word)
  /-- FMUL: fp32 multiply (R168). -/
  | fmul (f : Word0) (h : Word1)
  /-- FMUL_12: fp32 multiply with an immediate B (R168). -/
  | fmul12 (f : Word0) (h : Word1) (w : Word)
  /-- FFMA: fp32 fused multiply-add with optional negations (R169). -/
  | ffma (f : Word0) (h : Word1)
  /-- FFMA_12: FFMA with an immediate B (R169). -/
  | ffma12 (f : Word0) (h : Word1) (w : Word)
  /-- FMIN: fp32 minimumNumber (R170). -/
  | fmin (f : Word0) (h : Word1)
  /-- FMIN_12: FMIN with an immediate B (R170). -/
  | fmin12 (f : Word0) (h : Word1) (w : Word)
  /-- FMAX: fp32 maximumNumber (R170). -/
  | fmax (f : Word0) (h : Word1)
  /-- FMAX_12: FMAX with an immediate B (R170). -/
  | fmax12 (f : Word0) (h : Word1) (w : Word)
  /-- FMINP: NaN-propagating fp32 minimum (R170). -/
  | fminp (f : Word0) (h : Word1)
  /-- FMINP_12: FMINP with an immediate B (R170). -/
  | fminp12 (f : Word0) (h : Word1) (w : Word)
  /-- FMAXP: NaN-propagating fp32 maximum (R170). -/
  | fmaxp (f : Word0) (h : Word1)
  /-- FMAXP_12: FMAXP with an immediate B (R170). -/
  | fmaxp12 (f : Word0) (h : Word1) (w : Word)
  /-- FSETP: fp32 compare into a predicate (R171). -/
  | fsetp (f : Word0) (h : Word1)
  /-- FSETP_12: fp32 compare against an immediate (R171). -/
  | fsetp12 (f : Word0) (h : Word1) (w : Word)
  /-- FSEL: Bit-copying select by predicate (R172). -/
  | fsel (f : Word0) (h : Word1)
  /-- FSEL_12: FSEL with an immediate B (R172). -/
  | fsel12 (f : Word0) (h : Word1) (w : Word)
  /-- FCLASS: Writes a one-hot floating-point class mask (R173). -/
  | fclass (f : Word0) (h : Word1)
  /-- FSCALE: Multiplies fp32 by 2^B with one rounding (R174). -/
  | fscale (f : Word0) (h : Word1)
  /-- FSCALE_12: FSCALE by an immediate exponent (R174). -/
  | fscale12 (f : Word0) (h : Word1) (w : Word)
  /-- FRND: 4-byte round to an integral fp32 value in RNE (R175). -/
  | frnd (f : Word0)
  /-- FRND_8: 8-byte round to integral with mode and flush fields (R175). -/
  | frnd8 (f : Word0) (h : Word1)
  /-- DADD: fp64 add or subtract (R168). -/
  | dadd (f : Word0) (h : Word1)
  /-- DMUL: fp64 multiply (R168). -/
  | dmul (f : Word0) (h : Word1)
  /-- DFMA: fp64 fused multiply-add (R169). -/
  | dfma (f : Word0) (h : Word1)
  /-- DSETP: fp64 compare into a predicate (R171). -/
  | dsetp (f : Word0) (h : Word1)
  /-- HADD2: Packed two-element fp16 or bf16 add (R176). -/
  | hadd2 (f : Word0) (h : Word1)
  /-- HADD2_12: HADD2 with an immediate B (R176). -/
  | hadd212 (f : Word0) (h : Word1) (w : Word)
  /-- HMUL2: Packed two-element multiply (R176). -/
  | hmul2 (f : Word0) (h : Word1)
  /-- HMUL2_12: HMUL2 with an immediate B (R176). -/
  | hmul212 (f : Word0) (h : Word1) (w : Word)
  /-- HFMA2: Packed two-element fused multiply-add (R176). -/
  | hfma2 (f : Word0) (h : Word1)
  /-- HFMA2_12: HFMA2 with an immediate B (R176). -/
  | hfma212 (f : Word0) (h : Word1) (w : Word)
  /-- FDOT2: Two-element dot product plus fp32 C, rounded once (R177). -/
  | fdot2 (f : Word0) (h : Word1)
  /-- FDOT4: Four-element 8-bit float dot product plus fp32 C, rounded once (R177). -/
  | fdot4 (f : Word0) (h : Word1)
  /-- FCVT: Float-to-float conversion with a write mode (R180). -/
  | fcvt (f : Word0) (h : Word1)
  /-- FCVTI: Float-to-integer conversion, always saturating (R181). -/
  | fcvti (f : Word0) (h : Word1)
  /-- ICVTF: Integer-to-float conversion (R182). -/
  | icvtf (f : Word0) (h : Word1)
  /-- FRCP: 4-byte fp32 reciprocal approximation (R183). -/
  | frcp (f : Word0)
  /-- FRCP_8: 8-byte fp32 reciprocal with flush fields (R183). -/
  | frcp8 (f : Word0) (h : Word1)
  /-- FRSQ: 4-byte fp32 reciprocal square root (R183). -/
  | frsq (f : Word0)
  /-- FRSQ_8: 8-byte fp32 reciprocal square root (R183). -/
  | frsq8 (f : Word0) (h : Word1)
  /-- FSQRT: 4-byte correctly rounded fp32 square root (R183). -/
  | fsqrt (f : Word0)
  /-- FSQRT_8: 8-byte fp32 square root with a rounding mode (R183). -/
  | fsqrt8 (f : Word0) (h : Word1)
  /-- FEX2: 4-byte fp32 base-2 exponential (R183). -/
  | fex2 (f : Word0)
  /-- FEX2_8: 8-byte fp32 base-2 exponential (R183). -/
  | fex28 (f : Word0) (h : Word1)
  /-- FLG2: 4-byte fp32 base-2 logarithm (R183). -/
  | flg2 (f : Word0)
  /-- FLG2_8: 8-byte fp32 base-2 logarithm (R183). -/
  | flg28 (f : Word0) (h : Word1)
  /-- FSIN: 4-byte fp32 sine (R183). -/
  | fsin (f : Word0)
  /-- FSIN_8: 8-byte fp32 sine (R183). -/
  | fsin8 (f : Word0) (h : Word1)
  /-- FCOS: 4-byte fp32 cosine (R183). -/
  | fcos (f : Word0)
  /-- FCOS_8: 8-byte fp32 cosine (R183). -/
  | fcos8 (f : Word0) (h : Word1)
  /-- FTANH: 4-byte fp32 hyperbolic tangent (R183). -/
  | ftanh (f : Word0)
  /-- FTANH_8: 8-byte fp32 hyperbolic tangent (R183). -/
  | ftanh8 (f : Word0) (h : Word1)
  /-- FDIVF: Finishes fp32 division from a candidate quotient (R184). -/
  | fdivf (f : Word0) (h : Word1)
  /-- VOTE: Predicate vote over a member set with the identity fill (R199). -/
  | vote (f : Word0) (h : Word1)
  /-- VOTE_12: Vote with an explicit fill or .e (R199). -/
  | vote12 (f : Word0) (h : Word1) (w : Word)
  /-- LPICK: Reads a value from another lane of the tile (R200). -/
  | lpick (f : Word0) (h : Word1)
  /-- LPICK_12: LPICK with an explicit fill or .e (R200). -/
  | lpick12 (f : Word0) (h : Word1) (w : Word)
  /-- REDUX: Reduction over the tile's member set (R201). -/
  | redux (f : Word0) (h : Word1)
  /-- REDUX_12: Reduction with an explicit fill or .e (R201). -/
  | redux12 (f : Word0) (h : Word1) (w : Word)
  /-- SCAN: Inclusive or exclusive prefix scan within the tile (R203). -/
  | scan (f : Word0) (h : Word1)
  /-- SCAN_12: Scan with an explicit fill or .e (R203). -/
  | scan12 (f : Word0) (h : Word1) (w : Word)
  /-- MATCH: Masks of lanes holding equal values (R204). -/
  | matchLanes (f : Word0) (h : Word1)
  /-- MATCH_12: Match in the 12-byte form with .e (R204). -/
  | matchLanes12 (f : Word0) (h : Word1) (w : Word)
  /-- ELECT: Elects the lowest arrived lane (R205). -/
  | elect (f : Word0) (h : Word1)
  /-- ELECT_12: Elect in the 12-byte form with .e (R205). -/
  | elect12 (f : Word0) (h : Word1) (w : Word)
  /-- PART: 4-byte set of the crew's partition width once all lanes converge (R206). -/
  | part (f : Word0)
  /-- PART_8: 8-byte set of the partition width (R206). -/
  | part8 (f : Word0) (h : Word1)
  /-- LD: Checked, typed load through a register pointer (R212). -/
  | ld (f : Word0) (h : Word1)
  /-- LD_12: Load through a pointer literal (R210). -/
  | ld12 (f : Word0) (h : Word1) (w : Word)
  /-- ST: Checked, typed store into the block store buffer or its destination (R212). -/
  | st (f : Word0) (h : Word1)
  /-- ST_12: Store through a pointer literal (R210). -/
  | st12 (f : Word0) (h : Word1) (w : Word)
  /-- ATOM: Commits the buffer, then a per-lane atomic read-modify-write (R232). -/
  | atom (f : Word0) (h : Word1)
  /-- ATOM_12: Atomic through a pointer literal (R232). -/
  | atom12 (f : Word0) (h : Word1) (w : Word)
  /-- CAS: Compare-and-swap with a success predicate (R232). -/
  | cas (f : Word0) (h : Word1)
  /-- CAS_12: Compare-and-swap through a pointer literal (R232). -/
  | cas12 (f : Word0) (h : Word1) (w : Word)
  /-- PREF: Prefetches lines into L1; never traps (R234). -/
  | pref (f : Word0) (h : Word1)
  /-- PREF_12: Prefetch through a pointer literal (R234). -/
  | pref12 (f : Word0) (h : Word1) (w : Word)
  /-- PMAKE: Builds a typed pointer with ANCHOR set to the issuer (R235). -/
  | pmake (f : Word0) (h : Word1)
  /-- PSUB: Narrows a pointer to a byte sub-range (R237). -/
  | psub (f : Word0) (h : Word1)
  /-- PSUB_12: PSUB with an immediate offset (R237). -/
  | psub12 (f : Word0) (h : Word1) (w : Word)
  /-- PADV: Advances a pointer's BASE and shortens its LEN (R238). -/
  | padv (f : Word0) (h : Word1)
  /-- PADV_12: PADV by an immediate (R238). -/
  | padv12 (f : Word0) (h : Word1) (w : Word)
  /-- PRETYPE: Changes a pointer's FMT and optionally makes it read-shared (R239). -/
  | pretype (f : Word0) (h : Word1)
  /-- PWIDEN: Widens pointer scope; commits, writes back and may drain the write-combining buffer (R241). -/
  | pwiden (f : Word0) (h : Word1)
  /-- PNARROW: Narrows pointer scope and invalidates its range in L1 (R242). -/
  | pnarrow (f : Word0) (h : Word1)
  /-- PCHK: Tests whether an access would pass check_ptr, into a predicate (R240). -/
  | pchk (f : Word0) (h : Word1)
  /-- PCHK_12: PCHK with an immediate index (R240). -/
  | pchk12 (f : Word0) (h : Word1) (w : Word)
  /-- RWB: Commits the buffer and writes back dirty L1 bytes of a range (R243). -/
  | rwb (f : Word0) (h : Word1)
  /-- RINV: Writes back and invalidates L1 lines of a range (R244). -/
  | rinv (f : Word0) (h : Word1)
  /-- QLD: Access slice pushes one loaded entry into every crew's sub-FIFO (R247). -/
  | qld (f : Word0) (h : Word1)
  /-- QLD_12: QLD with an explicit lane stride (R247). -/
  | qld12 (f : Word0) (h : Word1) (w : Word)
  /-- QPUSH: Pushes a uniform value into every crew's sub-FIFO (R249). -/
  | qpush (f : Word0) (h : Word1)
  /-- QPOP: 4-byte pop of the crew's forward-queue head (R250). -/
  | qpop (f : Word0)
  /-- QPOP_8: Pop that also writes VMASK into a predicate (R250). -/
  | qpop8 (f : Word0) (h : Word1)
  /-- QBPUSH: 4-byte push of one value to a back queue (R252). -/
  | qbpush (f : Word0)
  /-- QBPUSH_8: 8-byte back-queue push (R252). -/
  | qbpush8 (f : Word0) (h : Word1)
  /-- QBPOP: 4-byte access-slice pop of a back queue (R253). -/
  | qbpop (f : Word0)
  /-- QBPOP_8: 8-byte back-queue pop (R253). -/
  | qbpop8 (f : Word0) (h : Word1)
  /-- OPH: Binds an operand handle with the format from a register, or unbinds it (R258). -/
  | oph (f : Word0) (h : Word1)
  /-- OPH_12: Binds an operand handle with the format from word 2 (R258). -/
  | oph12 (f : Word0) (h : Word1) (w : Word)
  /-- MMA: Accepts a 32x32x32 bit-plane matrix multiply-accumulate (R263). -/
  | mma (f : Word0) (h : Word1)
  /-- MMAS: Accepts a structured-sparse matrix multiply-accumulate (R266). -/
  | mmas (f : Word0) (h : Word1)
  /-- AZERO: Zeroes an accumulator (R267). -/
  | azero (f : Word0)
  /-- AMOV: Moves an accumulator row or column to or from a vector register (R267). -/
  | amov (f : Word0) (h : Word1)
  /-- TLDV: Writes a vector register into a tile row, raw or typed (R267). -/
  | tldv (f : Word0) (h : Word1)
  /-- TSTV: Reads a tile row into a vector register (R267). -/
  | tstv (f : Word0) (h : Word1)
  /-- PARK: Parks a vector register in a tile or accumulator row (R268). -/
  | park (f : Word0) (h : Word1)
  /-- UNPARK: Restores a parked register and frees its slot (R268). -/
  | unpark (f : Word0) (h : Word1)
  /-- TCOPY: Accepts a tile copy of 32 rows between memory and handle rows (R269). -/
  | tcopy (f : Word0) (h : Word1)
  /-- TCOPY_12: Tile copy with explicit ROW0 and NROWS (R269). -/
  | tcopy12 (f : Word0) (h : Word1) (w : Word)
  /-- COLL: Posts a contribution to a fabric reduction (R272). -/
  | coll (f : Word0) (h : Word1) (w : Word)
  /-- WAIT: 4-byte stall until the counters fall to the thresholds (R275). -/
  | wait (gp : BitVec 4) (gn : Bool) (tlw cpw stw ldw : BitVec 4)
  /-- WAIT_8: 8-byte WAIT with 6-bit thresholds (R275). -/
  | wait8 (gp : BitVec 4) (gn : Bool) (tlw cpw stw ldw : BitVec 6)
  /-- PAIR_WORD: Issues two pairable operations as one instruction (R101). -/
  | pairWord (s0 s1 : PairSlot)
  /-- LOAD_COMPLETE: Load data returns; the destination is written and ld lowered (R212). -/
  | loadComplete (gid fid : Nat)
  /-- LOAD_TRANSLATION_FAULT: A load's faulting translation returns; it is logged and trapped at the next boundary (R218). -/
  | loadTranslationFault (gid fid : Nat)
  /-- STORE_PERFORMED: A bypassing store is written at its destination and st is lowered (R212). -/
  | storePerformed (gid fid : Nat)
  /-- ATOMIC_COMPLETE: Atomic or CAS replies are written and ld is lowered (R232). -/
  | atomicComplete (gid fid : Nat)
  /-- RELEASE_PERFORMED: A release performs at the home once its prerequisites complete (R227). -/
  | releasePerformed (gid fid : Nat)
  /-- WRITEBACK_ACCEPTED: A write-back is accepted at the home and st is lowered (R243). -/
  | writebackAccepted (gid fid : Nat)
  /-- ICINV_COMPLETE: All instruction-cache invalidations complete and the crew resumes (R305). -/
  | icinvComplete (gid fid : Nat)
  /-- WCB_DRAIN_TIMEOUT: A write-combining entry drains 4096 local cycles after being taken (R231). -/
  | wcbDrainTimeout (core line : Nat)
  /-- QUEUE_LANE_FILL: QLD data arrives for a filling slot; the slot becomes poppable when complete (R342). -/
  | queueLaneFill (gid fid crew : Nat) (lanes : Word)
  /-- QLD_POISON: A QLD lane translation faults, poisoning entries and writing the log record (R248). -/
  | qldPoison (gid fid : Nat)
  /-- BACK_QUEUE_VISIBLE: A back-queue entry becomes visible 4 cycles after its push (R346). -/
  | backQueueVisible (gid q : Nat)
  /-- MMA_COMPLETE: The matrix engine writes D and lowers tl (R263). -/
  | mmaComplete (gid cid : Nat)
  /-- TCOPY_ROW_WRITTEN: A tile-copy row is written; after the last row cp is lowered (R270). -/
  | tcopyRowWritten (gid cid : Nat)
  /-- SLEEPC_EXPIRY: A sleeping thread's count elapses and it becomes ready (R142). -/
  | sleepcExpiry (gid u lane : Nat)
  /-- GROUP_RESOURCES_RETURN: Resources return once commit is accepted and transaction entries drain (R299). -/
  | groupResourcesReturn (gid : Nat)
  /-- CANCEL_MESSAGE: A cancel message reaches another die of the partition (R299). -/
  | cancelMessage (die inst : Nat)
  /-- PREEMPT_REQUEST: A pre-emption request arrives and its mode is chosen (R428). -/
  | preemptRequest (gid : Nat) (fromReset : Bool)
  /-- TIME_SLICE_EXPIRY: A context time slice expires and requests pre-emption (R427). -/
  | timeSliceExpiry (gid : Nat)
  /-- DRAIN_LIMIT: A draining group exceeds its instruction allowance; the mode is chosen again (R429). -/
  | drainLimit (gid : Nat)
  /-- SAVE_COMPLETE: The image is written after awaited work completes (R432). -/
  | saveComplete (gid : Nat)
  /-- PREEMPT_RETRY: A waiting pre-emption request retries when a slot frees or a COLL completes (R428). -/
  | preemptRetry (gid : Nat)
  /-- RESTORE_GROUP: A saved group is restored on its origin die and its replays issued (R436). -/
  | restoreGroup (gid : Nat)
  /-- GROUP_DISPATCH: The die distributor admits a group, gang or die share to a core (R409). -/
  | groupDispatch (die launch : Nat)
  /-- STEAL_REQUEST: A dry die asks the fullest die for a batch (R407). -/
  | stealRequest (ask : Steal) (launch : Nat)
  /-- STEAL_REPLY: A die gives up its highest undispatched batch or answers none (R407). -/
  | stealReply (victim thief launch : Nat)
  /-- BACKFILL_AGE_LIMIT: The oldest waiting launch reaches 65,536 cycles and back-fill stops (R411). -/
  | backfillAgeLimit (die : Nat)
  /-- PRIORITY_WAIT_EXPIRY: A higher-priority launch waits 4,096 cycles and pre-emption is requested (R411). -/
  | priorityWaitExpiry (die launch : Nat)
  /-- Q_DOORBELL: A doorbell write makes the front-end read WIDX and consume packets (R390). -/
  | qDoorbell (q : Nat)
  /-- Q_RESET: Resets a disabled or errored queue's indices (R393). -/
  | qReset (q : Nat) (v : Dword)
  /-- Q_CTL_WRITE: A Q_CTL write enables or disables a queue (R388). -/
  | qCtlWrite (q : Nat) (v : Dword)
  /-- REGISTER_WRITE: A write to a control-window register with no behaviour of its own (R387). -/
  | registerWrite (part port off : Nat) (v : Dword)
  /-- JOB_START: Opens a job in the queue's context (R397). -/
  | jobStart (q : Nat)
  /-- PHASE_START: Opens a phase, a restart point with WAITPREV (R397). -/
  | phaseStart (q : Nat)
  /-- GRAPH_SUBMIT: Hands a node table to the graph walker (R403). -/
  | graphSubmit (q : Nat)
  /-- LAUNCH: Reads the launch record and descriptor and admits or refuses the launch (R128). -/
  | launch (q : Nat)
  /-- COPY: Starts a one-node copy graph (R396). -/
  | copy (q : Nat)
  /-- SIGNAL_MEM: Performs a synchronising write or add to memory (R399). -/
  | signalMem (q : Nat)
  /-- WAIT_MEM: Holds the queue until a masked comparison holds (R399). -/
  | waitMem (q : Nat)
  /-- CANCEL_COMMAND: Cancels the instance named by a counter record (R398). -/
  | cancelCommand (q : Nat)
  /-- PARTITION_FENCE: Waits for prior commands, then writes back and invalidates every L1 (R396). -/
  | partitionFence (q : Nat)
  /-- COMMAND_BEGIN: A blocked head command begins once its predecessors finish (R396). -/
  | commandBegin (q : Nat)
  /-- WAIT_MEM_REREAD: The front-end re-reads a WAIT_MEM word after a report or 1,024 cycles (R399). -/
  | waitMemReread (q : Nat)
  /-- WAIT_MEM_TIMEOUT: A WAIT_MEM timeout expires and the queue enters ERROR (R399). -/
  | waitMemTimeout (q : Nat)
  /-- NODE_FINISH: A node finishes; its record is written and successors decremented (R403). -/
  | nodeFinish (graph node : Nat)
  /-- COPY_FINISH: A copy finishes writing or stops on a fault (R401). -/
  | copyFinish (inst : Nat)
  /-- TLBI_ADDRESS: GO with KIND 00 invalidates entries covering TLBI_VA in a context (R382). -/
  | tlbiAddress (part : Nat)
  /-- TLBI_CONTEXT: GO with KIND 01 invalidates every entry of a context (R382). -/
  | tlbiContext (part : Nat)
  /-- TLBI_ALL: GO with KIND 10 invalidates every entry (R382). -/
  | tlbiAll (part : Nat)
  /-- TLBI_COMPLETE: The invalidation completes and GO reads 0 (R382). -/
  | tlbiComplete (part : Nat)
  /-- TLB_MISS_REQUEST: A core TLB miss reaches its second-level slice (R380). -/
  | tlbMissRequest (core ctx va : Nat)
  /-- WALK_START: A walker takes a queued miss (R381). -/
  | walkStart (die : Nat)
  /-- WALK_READ_COMPLETE: A page-table entry read returns to the walker (R376). -/
  | walkReadComplete (die wid : Nat)
  /-- L2_REQUEST: A request arrives at an L2 slice and is applied or listed (R368). -/
  | l2Request (r : HomeReq)
  /-- L2_FILL: HBM fill data arrives and listed requests are performed (R370). -/
  | l2Fill (key : Nat)
  /-- INVALIDATE_PROBE: A directory invalidation reaches a sharer core (R367). -/
  | invalidateProbe (core line : Nat)
  /-- INVALIDATE_ACK: An acknowledgement returns; the write performs when all arrive (R367). -/
  | invalidateAck (core line : Nat)
  /-- L1_WRITEBACK: An L1 writes back a line's dirty bytes spontaneously or on eviction (R365). -/
  | l1Writeback (core line : Nat)
  /-- VAULT_REQUEST: A request is performed at a vault controller (R372). -/
  | vaultRequest (r : HomeReq)
  /-- OTT_ENTRY_GRANT: A freed transaction-table entry goes to the oldest eligible waiter (R416). -/
  | ottEntryGrant (core : Nat)
  /-- REPLICA_STORE: The sequencer stamps a store and multicasts it (R383). -/
  | replicaStore (page : ReplPage) (off : Nat) (bytes : List Byte)
  /-- REPLICA_WRITE: A replica applies a stamped write in stamp order (R383). -/
  | replicaWrite (die frame : Nat) (ok : Bool)
  /-- DIVERGED_HOLD: Writing STATE 10 holds new stores to the page (R502). -/
  | divergedHold (die k : Nat)
  /-- HOLD_COMPLETE: Stamped stores are applied and HELD reads 1 (R502). -/
  | holdComplete (die k : Nat)
  /-- DIVERGED_CLEAR: Writing STATE 00 releases the held stores (R502). -/
  | divergedClear (die k : Nat)
  /-- MESH_PACKET_HOP: A packet is granted and moves to the next router (R439). -/
  | meshPacketHop (die router out : Nat)
  /-- PACKET_DELIVERY: A packet reaches its destination port and is delivered in sequence (R440). -/
  | packetDelivery (pid : Nat)
  /-- REORDER_CREDIT_REQUEST: A source port requests a reorder credit (R440). -/
  | reorderCreditRequest (src dst cls : Nat)
  /-- REORDER_CREDIT_GRANT: A destination port grants a reorder credit (R440). -/
  | reorderCreditGrant (dst cls : Nat)
  /-- DELIVERY_CONFIRMATION: The destination confirms a head packet's delivery (R440). -/
  | deliveryConfirmation (src dst cls : Nat)
  /-- PERMIT_AUDIT: An audit period expires and the sender snapshots and sends a marker (R443). -/
  | permitAudit (link ch : Nat)
  /-- AUDIT_MARKER: The marker arrives and the receiver snapshots its slots (R443). -/
  | auditMarker (link ch : Nat)
  /-- AUDIT_MARKER_RETURN: The marker returns and P + O + C is checked (R443). -/
  | auditMarkerReturn (link ch : Nat)
  /-- CHANNEL_RESTART: The receiver empties and the channel restarts with full permits (R444). -/
  | channelRestart (link ch : Nat)
  /-- LINK_TRAINING: A link trains and negotiates its revision (R446). -/
  | linkTraining (link peerRevs : Nat) (ok : Bool)
  /-- MODULE_RETRAIN: A UCIe module retrains narrower or switches off; unacknowledged packets are replayed (R448). -/
  | moduleRetrain (link m width : Nat)
  /-- LINK_FAILED: A link fails and its traffic detours through a third die (R449). -/
  | linkFailed (link : Nat)
  /-- AXSIS_FLIT_RETRY: An uncorrectable or CRC-failed flit is requested again (R452). -/
  | axsisFlitRetry (port flit : Nat)
  /-- AXSIS_PORT_RETRAIN: An Axsis port retrains at 4 lanes or fails (R452). -/
  | axsisPortRetrain (port lanes : Nat)
  /-- AXSIS_READ: A peer read request arrives at the gateway (R454). -/
  | axsisRead (p : AxPkt)
  /-- READ_REPLY: A peer read reply arrives at the requesting gateway (R454). -/
  | readReply (p : AxPkt)
  /-- AXSIS_WRITE: A masked peer line write arrives and is performed at the home (R456). -/
  | axsisWrite (p : AxPkt)
  /-- WRITE_ACKNOWLEDGEMENT: A peer write acknowledgement or error arrives (R454). -/
  | writeAcknowledgement (p : AxPkt)
  /-- AXSIS_ATOMIC: A peer atomic arrives and is performed at the home (R454). -/
  | axsisAtomic (p : AxPkt)
  /-- ATOMIC_REPLY: A peer atomic reply arrives (R454). -/
  | atomicReply (p : AxPkt)
  /-- CONTRIBUTION: A contribution arrives at a switch or the root and is combined (R464). -/
  | contribution (p : AxPkt)
  /-- PARTIAL: A partial arrives and is combined as its set of contributions (R463). -/
  | partialArrival (p : AxPkt)
  /-- COMPLETION: A root completion broadcast arrives at a gateway (R464). -/
  | completion (p : AxPkt)
  /-- NOTICE: A LATE, MISMATCH or LINK notice arrives at a gateway (R465). -/
  | notice (p : AxPkt)
  /-- FLOW_ACKNOWLEDGEMENT: A cumulative flow acknowledgement arrives (R455). -/
  | flowAcknowledgement (p : AxPkt)
  /-- AXSIS_RESEND_TIMEOUT: An unacknowledged packet is resent after 2^20 cycles (R455). -/
  | axsisResendTimeout (gw dst seq : Nat)
  /-- REDUCTION_TIMEOUT: The root's TIMEOUT expires and the reduction completes PARTIAL (R464). -/
  | reductionTimeout (job ident : Nat)
  /-- RETENTION_EXPIRY: A retention entry's time runs out (R465). -/
  | retentionExpiry (job ident : Nat)
  /-- SWITCH_SLOT_TIMEOUT: A switch slot sends its partial after 2,048 ns (R470). -/
  | switchSlotTimeout (sw job ident : Nat)
  /-- REKEY_REQUEST: A key holder's counter reaches 2^63 and it requests a rekey (R469). -/
  | rekeyRequest (job holder : Nat)
  /-- INBOUND_POSTED_WRITE: An inbound PCIe posted write is translated and performed (R478). -/
  | inboundPostedWrite (t : Tlp)
  /-- INBOUND_READ: An inbound PCIe read is translated and completed (R478). -/
  | inboundRead (t : Tlp)
  /-- INBOUND_ATOMICOP: An inbound AtomicOp is performed as a synchronising atomic (R478). -/
  | inboundAtomicop (t : Tlp)
  /-- HOST_READ_COMPLETION: A host read or AtomicOp completion arrives (R480). -/
  | hostReadCompletion (tag : Nat) (ok : Bool) (data : List Byte)
  /-- HOST_COMPLETION_TIMEOUT: CTO elapses without completion; the access becomes a fault record (R480). -/
  | hostCompletionTimeout (tag : Nat)
  /-- XPART_REQUEST: An importer request reaches the exporter's home and is admitted or refused (R484). -/
  | xpartRequest (importer exporter : Nat) (r : HomeReq)
  /-- XWIN_DRAINED: A closed window's admitted requests are performed and BUSY clears (R484). -/
  | xwinDrained (part k : Nat)
  /-- PART_RESET: GO resets the partition without scrub (R486). -/
  | partReset (part : Nat)
  /-- PART_RESET_SCRUB: GO with SCRUB resets the partition and replaces its memory key (R486). -/
  | partResetScrub (part : Nat)
  /-- FUNCTION_LEVEL_RESET: A port FLR resets its owning partition (R485). -/
  | functionLevelReset (die : Nat)
  /-- RESET_WAIT_EXPIRY: PART_WAIT elapses; groups not stopped are cancelled (R486). -/
  | resetWaitExpiry (part : Nat)
  /-- EVT_RIDX_WRITE: Software advances EVT_RIDX and clears the pending interrupt (R501). -/
  | evtRidxWrite (part : Nat) (v : Dword)
  /-- PATROL_SCRUB: The scrubber reads and corrects HBM and vault lines periodically (R492). -/
  | patrolScrub (die line : Nat)
  /-- PACKAGE_POWER_ON: The trust die boots and starts bring-up (R514). -/
  | packagePowerOn
  /-- DIE_RELEASE: The trust die measures a die's firmware and releases or holds it (R515). -/
  | dieRelease (die : Nat)
  /-- FULL_SERVICE: Writing BOOT.FULL resets die 0's partition and forms the layout (R516). -/
  | fullService
  /-- JOB_KEY: Attests switches, keys gateways and writes job entries (R511). -/
  | jobKey (part ctx : Nat) (tag : Nat) (gateways : List GwRef) (switches : List SwitchRef)
  /-- JOB_REKEY: Installs a new epoch key and raises EPOCH (R512). -/
  | jobRekey (part ctx : Nat)
  /-- JOB_CLEAR: Cancels the job's reductions and invalidates its entries (R513). -/
  | jobClear (part ctx : Nat)
  /-- FW_STAGE: Verifies and stores a firmware image for the next bring-up (R511). -/
  | fwStage (part : Nat) (img : FwImage)
  /-- GET_VERSION: SPDM version request answered (R507). -/
  | getVersion (port : Nat)
  /-- GET_CAPABILITIES: SPDM capabilities request answered (R507). -/
  | getCapabilities (port : Nat)
  /-- NEGOTIATE_ALGORITHMS: SPDM algorithm negotiation answered (R507). -/
  | negotiateAlgorithms (port : Nat)
  /-- GET_DIGESTS: Certificate-chain digests returned (R507). -/
  | getDigests (port : Nat)
  /-- GET_CERTIFICATE: The DeviceID-to-Alias chain returned (R507). -/
  | getCertificate (port : Nat)
  /-- CHALLENGE: SPDM challenge answered with the Alias key (R507). -/
  | challenge (port nonce : Nat)
  /-- GET_MEASUREMENTS: Measurement blocks returned (R507). -/
  | getMeasurements (port index : Nat)
  /-- KEY_EXCHANGE: Starts a secure session, refused beyond four (R507). -/
  | keyExchange (port : Nat)
  /-- FINISH: Completes the secure session handshake (R507). -/
  | finish (port session : Nat)
  /-- KEY_UPDATE: Updates the session keys (R507). -/
  | keyUpdate (port session : Nat)
  /-- HEARTBEAT: Keeps a secure session alive (R507). -/
  | heartbeat (port session : Nat)
  /-- END_SESSION: Ends a secure session (R507). -/
  | endSession (port session : Nat)
  /-- IDE_KM: Programs port IDE stream keys inside a session (R481). -/
  | ideKm (port session stream key : Nat)
  /-- GOVERNOR_WINDOW: At each 2^20-cycle window the governor steps clocks against the cap (R520). -/
  | governorWindow (part milliwatts : Nat)
  /-- PWR_LIMIT_WRITE: Writing MAX below CUR lowers the die's step at once (R520). -/
  | pwrLimitWrite (part : Nat) (v : Dword)
  /-- THERMAL_THROTTLE: At 100 C the die drops to step 0 and sets HOT (R521). -/
  | thermalThrottle (die : Nat)
  /-- THERMAL_RECOVER: Below 95 C HOT clears (R521). -/
  | thermalRecover (die : Nat)
  /-- THERMAL_TRIP: At 110 C the partition is reset and held (R521). -/
  | thermalTrip (die : Nat)
  /-- ILLEGAL_OP: An issue group reaches a word whose opcode is reserved or permanently illegal (for example 0x00 or 0xFF), and ILLEGAL_OP is raised with no effect (R107). -/
  | illegalOp (r : Reject)
  /-- PCI_EXPRESS_PORT_TRAINING: The bring-up die's PCI Express port finishes training, and the device enters reduced service, or presents the recovery function (R515). -/
  | pciExpressPortTraining (die : Nat)
  /-- CTX_ROOT_WRITE: A write to CTX_ROOT that enables the context clears its save-slot occupancy, and a write that disables it makes later translations fault (R433). -/
  | ctxRootWrite (ctx : Nat) (v : Dword)
deriving DecidableEq, Repr

end Sys2Proof
end

