-- ==== Sys2Proof/Machine/Encoding.lean ====
section
/-! DEFINITION. The encoding tables of the Briper instructions as data: for each instruction its opcode, length,
slices, the role of every field and the SUB, TYP, flag and word-2 values it accepts (Tables 03-9, 05-1, 05-2, 06-1,
07-1, 08-1, 09-1, 10-1), and the checks of Table 03-10 that read the words alone. -/
namespace Sys2Proof.Machine
open Sys2Proof

/-- What an operand field names (Table 03-4, R95). A number is the count of 32-bit registers (R24). -/
inductive Role where
  | unused                 -- holds 0, U bit 0
  | src (n : Nat)          -- source: vector, or uniform with its U bit 1
  | dst (n : Nat)          -- destination: vector; in the access slice its own uniform
  | vec (n : Nat)          -- vector source, U bit 0
  | uni (n : Nat)          -- uniform source, U bit 1
  | uniS (n : Nat)         -- source of a `.u` pointer instruction: uniform, else step 5 (R246)
  | duni (n : Nat)         -- uniform destination
  | pred | npred | tile | acc | foreQueue | backQueue | handle | special
  | barrier (level : Nat)
  | imm (lo hi : Nat)
  | stype (codes : Nat)    -- a second type code (R97)
  | any                    -- every value
  | partw                  -- 2, 4, 8, 16 or 32 (R190)
  | mmaA                   -- Table 09-2
  | mmasC                  -- NS and the metadata handle of MMAS (Table 09-1)
deriving DecidableEq, Repr

/-- Which fills a cross-lane instruction takes (R189). -/
inductive Fill where
  | none | vote | all
deriving DecidableEq, Repr

/-- The role of word 2 (R90). -/
inductive W2 where
  | none | immB | zero | offset | table | value | count | token | fill (k : Fill) | format | rows | flag
deriving DecidableEq, Repr

/-- One row of the encoding tables. `typ` and `sub` are masks of accepted codes; `flags` has bit 0 RND, 1 FZI,
2 FZO, 3 SAT. -/
structure Row where
  opc : Nat
  len : Nat
  /-- May issue in the access slice, in a crew, only in a handler. -/
  acc : Bool := true
  crew : Bool := true
  hand : Bool := false
  d : Role := .unused
  a : Role := .unused
  b : Role := .unused
  c : Role := .unused
  typ : Nat := 1
  sub : Nat := 1
  flags : Nat := 0
  w2 : W2 := .none
  /-- Refused in the access slice for its SUB (R286). -/
  accBad : Bool := false
deriving DecidableEq, Repr

/-- The three words of an instruction as fields. A 4-byte form has the word 1 of R92. -/
structure Fields where
  f : Word0
  h : Word1
  w : Word
deriving DecidableEq, Repr

/-- The mask of SUB or TYP codes 0 to `n`. -/
def subTo (n : Nat) : Nat := 2 ^ (n + 1) - 1
/-- Every SUB code. -/
def subAll : Nat := 0xFFFF
/-- The mask of one TYP code. -/
def ty1 (t : Nat) : Nat := 2 ^ t
/-- The mask of TYP codes `a` to `b` (Table 03-5). -/
def tyR (a b : Nat) : Nat := 2 ^ (b + 1) - 2 ^ a
/-- W: `s32`, `n32`, `s64`, `n64`. -/
def tyW : Nat := tyR 5 8
/-- W32: `s32`, `n32`. -/
def tyW32 : Nat := tyR 5 6
def fRnd : Nat := 1
def fFzi : Nat := 2
def fFzo : Nat := 4
def fSat : Nat := 8
def fFz : Nat := 6
def fAll : Nat := 7

/-- Registers of an operand of type `t`: two for the 64-bit types (R24). -/
def wide (t : BitVec 5) : Nat := if t = 7 ∨ t = 8 ∨ t = 9 then 2 else 1
/-- The highest element number of a packed source of type code `c` (R178). -/
def elemMax (c : BitVec 8) : Nat :=
  if c = 0x0B ∨ c = 0x0C then 1 else if c = 0x0D ∨ c = 0x0E then 3
  else if c = 0x0F ∨ c = 0x10 then 4 else if c = 0x11 then 7 else 0
/-- SUB of the conversions: the half-register writes only for 16-bit destinations (R179). -/
def subHalf (t : BitVec 5) : Nat := if t = 3 ∨ t = 4 ∨ t = 0x0B ∨ t = 0x0C then 7 else 1
/-- SAT of `FCVT` and `ICVTF`: destinations of 16 bits or less (R180, R182). DEDUCED: by the TYP code alone, from 0x0B up, codes that are no
floating-point destination too (log entry 21). -/
def satNarrow (t : BitVec 5) : Nat := if 0x0B ≤ t.toNat then fSat else 0
/-- TYP codes of `ATOM` by SUB (Table 08-5). -/
def tyAtom (sub : Nat) : Nat :=
  if sub = 1 ∨ sub = 4 then tyR 9 10 else if sub = 8 then tyR 5 10 else tyR 5 8
/-- TYP codes of `MMA` by its A operand (Table 09-2): a tile's format, or untyped for a handle. -/
def tyMma (f : Word0) : Nat :=
  let fmts := tyR 1 2 + tyR 11 22
  if f.a.toNat < 0x10 then fmts else if 0x80 ≤ f.a.toNat then 1 else fmts + 1
/-- A source of a pointer instruction: uniform under `.u` (R246). -/
def usrc (h : Word1) (n : Nat) : Role := if h.sub.getLsbD 0 then .uniS n else .src n
/-- The quad a pointer instruction writes (R246). -/
def dquad (h : Word1) : Role := if h.sub.getLsbD 0 then .duni 4 else .dst 4
/-- An operand that `OPH.unbind` does not have. -/
def bindOnly (h : Word1) : Role := if h.sub = 0 then .uni 1 else .unused

/-- Word 1 of a 4-byte form: the default type and zeros (R92). -/
def shortWord1 (t : BitVec 5) : Word1 :=
  { b := 0, c := 0, bu := false, cu := false, rnd := 0, fzi := false, fzo := false, sat := false, typ := t, sub := 0 }

/-- The row of each instruction; length 0 for a step that has no encoding. DEDUCED: in the access slice a barrier with any SUB other than 0 is
refused at step 3, as a level that is not `.g` (Table 03-9), SUB 3 to 15 too, which Table 03-10 also puts at step 5 (log entry 21). -/
def rowOf : Instr → Row
  | .nop _ => { opc := 0x01, len := 4 }
  | .nop8 _ _ => { opc := 0x01, len := 8 }
  | .nop12 _ _ _ => { opc := 0x01, len := 12, w2 := .zero }
  | .bra _ _ _ => { opc := 0x02, len := 4 }
  | .bra12 _ _ _ => { opc := 0x02, len := 12, w2 := .offset }
  | .bral _ _ _ => { opc := 0x03, len := 12, d := .duni 2, w2 := .offset }
  | .jmpi _ => { opc := 0x04, len := 4, a := .src 2 }
  | .ret _ => { opc := 0x05, len := 4, a := .src 2 }
  | .exit _ => { opc := 0x06, len := 4 }
  | .dbnz _ _ _ => { opc := 0x07, len := 12, d := .duni 1, w2 := .offset }
  | .brq _ _ _ => { opc := 0x08, len := 12, crew := false, d := .duni 1, a := .backQueue, sub := subTo 1, w2 := .offset }
  | .yield _ => { opc := 0x09, len := 4 }
  | .sleepc _ => { opc := 0x0A, len := 4, a := .src 1 }
  | .sleepc12 _ _ _ => { opc := 0x0A, len := 12, w2 := .value }
  | .trap _ => { opc := 0x0B, len := 4, acc := false, d := .any }
  | .tret _ => { opc := 0x0C, len := 4, hand := true, d := .imm 0 0 }
  | .tretEnd _ => { opc := 0x0C, len := 4, hand := true, d := .imm 1 1 }
  | .bkpt _ => { opc := 0x0D, len := 4 }
  | .icinv _ _ => { opc := 0x0E, len := 8, acc := false, a := .src 4 }
  | .mfsr _ h => { opc := 0x0F, len := 8, d := if h.sub = 0 then .dst 1 else .duni 1, a := .special, sub := subTo 1, accBad := decide (h.sub = 0) }
  | .mtsr _ _ => { opc := 0x10, len := 8, acc := false, d := .special, a := .src 1 }
  | .bar _ h => { opc := 0x11, len := 8, a := .barrier h.sub.toNat, sub := subTo 2, accBad := decide (h.sub ≠ 0) }
  | .bar12 _ h _ => { opc := 0x11, len := 12, a := .barrier h.sub.toNat, sub := subTo 2, w2 := .count, accBad := decide (h.sub ≠ 0) }
  | .bara _ h => { opc := 0x12, len := 8, d := .duni 1, a := .barrier h.sub.toNat, sub := subTo 2, accBad := decide (h.sub ≠ 0) }
  | .bara12 _ h _ => { opc := 0x12, len := 12, d := .duni 1, a := .barrier h.sub.toNat, sub := subTo 2, w2 := .count, accBad := decide (h.sub ≠ 0) }
  | .barw _ h => { opc := 0x13, len := 8, a := .barrier h.sub.toNat, b := .uni 1, sub := subTo 2, accBad := decide (h.sub ≠ 0) }
  | .barw12 _ h _ => { opc := 0x13, len := 12, a := .barrier h.sub.toNat, sub := subTo 2, w2 := .token, accBad := decide (h.sub ≠ 0) }
  | .cancel _ _ => { opc := 0x14, len := 8, acc := false, sub := subTo 4 }
  | .iadd _ h => { opc := 0x20, len := 8, d := .dst (wide h.typ), a := .src (wide h.typ), b := .src (wide h.typ), typ := tyW, flags := fSat }
  | .iadd12 _ h _ => { opc := 0x20, len := 12, d := .dst (wide h.typ), a := .src (wide h.typ), typ := tyW, flags := fSat, w2 := .immB }
  | .isub _ h => { opc := 0x21, len := 8, d := .dst (wide h.typ), a := .src (wide h.typ), b := .src (wide h.typ), typ := tyW, flags := fSat }
  | .isub12 _ h _ => { opc := 0x21, len := 12, d := .dst (wide h.typ), a := .src (wide h.typ), typ := tyW, flags := fSat, w2 := .immB }
  | .iaddc _ _ => { opc := 0x22, len := 8, d := .dst 1, a := .src 1, b := .src 1, c := .npred, typ := ty1 5, sub := subAll }
  | .iaddc12 _ _ _ => { opc := 0x22, len := 12, d := .dst 1, a := .src 1, c := .npred, typ := ty1 5, sub := subAll, w2 := .immB }
  | .isubc _ _ => { opc := 0x23, len := 8, d := .dst 1, a := .src 1, b := .src 1, c := .npred, typ := ty1 5, sub := subAll }
  | .isubc12 _ _ _ => { opc := 0x23, len := 12, d := .dst 1, a := .src 1, c := .npred, typ := ty1 5, sub := subAll, w2 := .immB }
  | .ineg _ => { opc := 0x24, len := 4, d := .dst (wide 6), a := .src (wide 6), typ := tyW, flags := fSat }
  | .ineg8 _ h => { opc := 0x24, len := 8, d := .dst (wide h.typ), a := .src (wide h.typ), typ := tyW, flags := fSat }
  | .imul _ h => { opc := 0x25, len := 8, d := .dst (wide h.typ), a := .src (wide h.typ), b := .src (wide h.typ), typ := tyW }
  | .imul12 _ h _ => { opc := 0x25, len := 12, d := .dst (wide h.typ), a := .src (wide h.typ), typ := tyW, w2 := .immB }
  | .imulh _ h => { opc := 0x26, len := 8, d := .dst (wide h.typ), a := .src (wide h.typ), b := .src (wide h.typ), typ := tyW }
  | .imulh12 _ h _ => { opc := 0x26, len := 12, d := .dst (wide h.typ), a := .src (wide h.typ), typ := tyW, w2 := .immB }
  | .imad _ h => { opc := 0x27, len := 8, d := .dst (wide h.typ), a := .src (wide h.typ), b := .src (wide h.typ), c := .src (wide h.typ), typ := tyW }
  | .imad12 _ h _ => { opc := 0x27, len := 12, d := .dst (wide h.typ), a := .src (wide h.typ), c := .src (wide h.typ), typ := tyW, w2 := .immB }
  | .imadw _ _ => { opc := 0x28, len := 8, d := .dst 2, a := .src 1, b := .src 1, c := .src 1, typ := ty1 5, sub := subAll }
  | .imadw12 _ _ _ => { opc := 0x28, len := 12, d := .dst 2, a := .src 1, c := .src 1, typ := ty1 5, sub := subAll, w2 := .immB }
  | .imin _ h => { opc := 0x29, len := 8, d := .dst (wide h.typ), a := .src (wide h.typ), b := .src (wide h.typ), typ := tyW }
  | .imin12 _ h _ => { opc := 0x29, len := 12, d := .dst (wide h.typ), a := .src (wide h.typ), typ := tyW, w2 := .immB }
  | .imax _ h => { opc := 0x2A, len := 8, d := .dst (wide h.typ), a := .src (wide h.typ), b := .src (wide h.typ), typ := tyW }
  | .imax12 _ h _ => { opc := 0x2A, len := 12, d := .dst (wide h.typ), a := .src (wide h.typ), typ := tyW, w2 := .immB }
  | .iabs _ => { opc := 0x2B, len := 4, d := .dst (wide 6), a := .src (wide 6), typ := ty1 6 + ty1 8, flags := fSat }
  | .iabs8 _ h => { opc := 0x2B, len := 8, d := .dst (wide h.typ), a := .src (wide h.typ), typ := ty1 6 + ty1 8, flags := fSat }
  | .iadif _ h => { opc := 0x2C, len := 8, d := .dst (wide h.typ), a := .src (wide h.typ), b := .src (wide h.typ), typ := tyW, flags := fSat }
  | .iadif12 _ h _ => { opc := 0x2C, len := 12, d := .dst (wide h.typ), a := .src (wide h.typ), typ := tyW, flags := fSat, w2 := .immB }
  | .shl _ h => { opc := 0x30, len := 8, d := .dst (wide h.typ), a := .src (wide h.typ), b := .src 1, typ := tyW }
  | .shl12 _ h _ => { opc := 0x30, len := 12, d := .dst (wide h.typ), a := .src (wide h.typ), typ := tyW, w2 := .immB }
  | .shr _ h => { opc := 0x31, len := 8, d := .dst (wide h.typ), a := .src (wide h.typ), b := .src 1, typ := tyW }
  | .shr12 _ h _ => { opc := 0x31, len := 12, d := .dst (wide h.typ), a := .src (wide h.typ), typ := tyW, w2 := .immB }
  | .sar _ h => { opc := 0x32, len := 8, d := .dst (wide h.typ), a := .src (wide h.typ), b := .src 1, typ := tyW }
  | .sar12 _ h _ => { opc := 0x32, len := 12, d := .dst (wide h.typ), a := .src (wide h.typ), typ := tyW, w2 := .immB }
  | .dsh _ _ => { opc := 0x33, len := 8, d := .dst 1, a := .src 1, b := .src 1, c := .src 1, typ := tyW32, sub := subTo 7 }
  | .dsh12 _ _ _ => { opc := 0x33, len := 12, d := .dst 1, a := .src 1, c := .src 1, typ := tyW32, sub := subTo 7, w2 := .immB }
  | .rot _ h => { opc := 0x34, len := 8, d := .dst (wide h.typ), a := .src (wide h.typ), b := .src 1, typ := tyW, sub := subTo 1 }
  | .rot12 _ h _ => { opc := 0x34, len := 12, d := .dst (wide h.typ), a := .src (wide h.typ), typ := tyW, w2 := .immB, sub := subTo 1 }
  | .lut3 _ h _ => { opc := 0x35, len := 12, d := .dst (wide h.typ), a := .src (wide h.typ), b := .src (wide h.typ), c := .src (wide h.typ), typ := tyW, w2 := .table }
  | .popc _ => { opc := 0x36, len := 4, d := .dst 1, a := .src (wide 6), typ := tyW }
  | .popc8 _ h => { opc := 0x36, len := 8, d := .dst 1, a := .src (wide h.typ), typ := tyW }
  | .clz _ => { opc := 0x37, len := 4, d := .dst 1, a := .src (wide 6), typ := tyW }
  | .clz8 _ h => { opc := 0x37, len := 8, d := .dst 1, a := .src (wide h.typ), typ := tyW }
  | .ctz _ => { opc := 0x38, len := 4, d := .dst 1, a := .src (wide 6), typ := tyW }
  | .ctz8 _ h => { opc := 0x38, len := 8, d := .dst 1, a := .src (wide h.typ), typ := tyW }
  | .brev _ => { opc := 0x39, len := 4, d := .dst (wide 6), a := .src (wide 6), typ := tyW }
  | .brev8 _ h => { opc := 0x39, len := 8, d := .dst (wide h.typ), a := .src (wide h.typ), typ := tyW }
  | .bfx _ _ => { opc := 0x3A, len := 8, d := .dst 1, a := .src 1, b := .src 1, typ := tyW32 }
  | .bfx12 _ _ _ => { opc := 0x3A, len := 12, d := .dst 1, a := .src 1, typ := tyW32, w2 := .immB }
  | .bfi _ _ => { opc := 0x3B, len := 8, d := .dst 1, a := .src 1, b := .src 1, c := .src 1, typ := tyW32 }
  | .bfi12 _ _ _ => { opc := 0x3B, len := 12, d := .dst 1, a := .src 1, c := .src 1, typ := tyW32, w2 := .immB }
  | .bsel _ _ => { opc := 0x3C, len := 8, d := .dst 1, a := .src 1, b := .src 1, c := .src 1, typ := tyW32 }
  | .bsel12 _ _ _ => { opc := 0x3C, len := 12, d := .dst 1, a := .src 1, c := .src 1, typ := tyW32, w2 := .immB }
  | .isetp _ h => { opc := 0x40, len := 8, d := .pred, a := .src (wide h.typ), b := .src (wide h.typ), c := .npred, typ := tyW, sub := subTo 5 }
  | .isetp12 _ h _ => { opc := 0x40, len := 12, d := .pred, a := .src (wide h.typ), c := .npred, typ := tyW, sub := subTo 5, w2 := .immB }
  | .isel _ h => { opc := 0x41, len := 8, d := .dst (wide h.typ), a := .src (wide h.typ), b := .src (wide h.typ), c := .npred, typ := tyW }
  | .isel12 _ h _ => { opc := 0x41, len := 12, d := .dst (wide h.typ), a := .src (wide h.typ), c := .npred, typ := tyW, w2 := .immB }
  | .mov _ => { opc := 0x42, len := 4, d := .dst (wide 6), a := .src (wide 6), typ := tyW }
  | .mov8 _ h => { opc := 0x42, len := 8, d := .dst (wide h.typ), a := .src (wide h.typ), typ := tyW }
  | .movi _ h _ => { opc := 0x43, len := 12, d := .dst (wide h.typ), typ := tyW, w2 := .value }
  | .plop _ _ _ => { opc := 0x44, len := 12, d := .pred, a := .npred, b := .npred, c := .npred, w2 := .table }
  | .p2v _ => { opc := 0x45, len := 4, acc := false, d := .dst 1, typ := ty1 6 }
  | .p2v8 _ _ => { opc := 0x45, len := 8, acc := false, d := .dst 1, typ := ty1 6 }
  | .v2p _ _ => { opc := 0x46, len := 8, acc := false, a := .vec 1, b := .src 1, typ := ty1 6 }
  | .s2v _ => { opc := 0x47, len := 4, acc := false, d := .dst 1, a := .uni 1, b := if (0 : BitVec 4) = 1 then .uni 1 else .unused, typ := ty1 6, sub := subTo 1 }
  | .s2v8 _ h => { opc := 0x47, len := 8, acc := false, d := .dst 1, a := .uni 1, b := if h.sub = 1 then .uni 1 else .unused, typ := ty1 6, sub := subTo 1 }
  | .v2s _ h => { opc := 0x48, len := 8, acc := false, d := .duni 1, a := .vec 1, b := if h.sub = 1 then .uni 1 else .unused, typ := ty1 6, sub := subTo 1 }
  | .lea _ _ => { opc := 0x49, len := 8, d := .dst 2, a := .src 2, b := .src 1, typ := tyW32, sub := subAll }
  | .lea12 _ _ _ => { opc := 0x49, len := 12, d := .dst 2, a := .src 2, typ := tyW32, sub := subAll, w2 := .immB }
  | .fadd _ _ => { opc := 0x60, len := 8, acc := false, d := .dst 1, a := .src 1, b := .src 1, typ := ty1 10, flags := fAll }
  | .fadd12 _ _ _ => { opc := 0x60, len := 12, acc := false, d := .dst 1, a := .src 1, typ := ty1 10, flags := fAll, w2 := .immB }
  | .fsub _ _ => { opc := 0x61, len := 8, acc := false, d := .dst 1, a := .src 1, b := .src 1, typ := ty1 10, flags := fAll }
  | .fsub12 _ _ _ => { opc := 0x61, len := 12, acc := false, d := .dst 1, a := .src 1, typ := ty1 10, flags := fAll, w2 := .immB }
  | .fmul _ _ => { opc := 0x62, len := 8, acc := false, d := .dst 1, a := .src 1, b := .src 1, typ := ty1 10, flags := fAll }
  | .fmul12 _ _ _ => { opc := 0x62, len := 12, acc := false, d := .dst 1, a := .src 1, typ := ty1 10, flags := fAll, w2 := .immB }
  | .ffma _ _ => { opc := 0x63, len := 8, acc := false, d := .dst 1, a := .src 1, b := .src 1, typ := ty1 10, c := .src 1, sub := subTo 3, flags := fAll }
  | .ffma12 _ _ _ => { opc := 0x63, len := 12, acc := false, d := .dst 1, a := .src 1, typ := ty1 10, c := .src 1, sub := subTo 3, flags := fAll, w2 := .immB }
  | .fmin _ _ => { opc := 0x64, len := 8, acc := false, d := .dst 1, a := .src 1, b := .src 1, typ := ty1 10, flags := fFz }
  | .fmin12 _ _ _ => { opc := 0x64, len := 12, acc := false, d := .dst 1, a := .src 1, typ := ty1 10, flags := fFz, w2 := .immB }
  | .fmax _ _ => { opc := 0x65, len := 8, acc := false, d := .dst 1, a := .src 1, b := .src 1, typ := ty1 10, flags := fFz }
  | .fmax12 _ _ _ => { opc := 0x65, len := 12, acc := false, d := .dst 1, a := .src 1, typ := ty1 10, flags := fFz, w2 := .immB }
  | .fminp _ _ => { opc := 0x66, len := 8, acc := false, d := .dst 1, a := .src 1, b := .src 1, typ := ty1 10, flags := fFz }
  | .fminp12 _ _ _ => { opc := 0x66, len := 12, acc := false, d := .dst 1, a := .src 1, typ := ty1 10, flags := fFz, w2 := .immB }
  | .fmaxp _ _ => { opc := 0x67, len := 8, acc := false, d := .dst 1, a := .src 1, b := .src 1, typ := ty1 10, flags := fFz }
  | .fmaxp12 _ _ _ => { opc := 0x67, len := 12, acc := false, d := .dst 1, a := .src 1, typ := ty1 10, flags := fFz, w2 := .immB }
  | .fsetp _ _ => { opc := 0x68, len := 8, acc := false, d := .pred, a := .src 1, b := .src 1, c := .npred, typ := ty1 10, sub := subTo 13, flags := fFzi }
  | .fsetp12 _ _ _ => { opc := 0x68, len := 12, acc := false, d := .pred, a := .src 1, c := .npred, typ := ty1 10, sub := subTo 13, flags := fFzi, w2 := .immB }
  | .fsel _ _ => { opc := 0x69, len := 8, acc := false, d := .dst 1, a := .src 1, b := .src 1, typ := ty1 10, c := .npred }
  | .fsel12 _ _ _ => { opc := 0x69, len := 12, acc := false, d := .dst 1, a := .src 1, typ := ty1 10, c := .npred, w2 := .immB }
  | .fclass _ h => { opc := 0x6A, len := 8, acc := false, d := .dst 1, a := .src (wide h.typ), typ := tyR 9 12 }
  | .fscale _ _ => { opc := 0x6B, len := 8, acc := false, d := .dst 1, a := .src 1, b := .src 1, typ := ty1 10, flags := fAll }
  | .fscale12 _ _ _ => { opc := 0x6B, len := 12, acc := false, d := .dst 1, a := .src 1, typ := ty1 10, flags := fAll, w2 := .immB }
  | .frnd _ => { opc := 0x6C, len := 4, acc := false, d := .dst 1, a := .src 1, typ := ty1 10, flags := fAll }
  | .frnd8 _ _ => { opc := 0x6C, len := 8, acc := false, d := .dst 1, a := .src 1, typ := ty1 10, flags := fAll }
  | .dadd _ _ => { opc := 0x70, len := 8, acc := false, d := .dst 2, a := .src 2, b := .src 2, typ := ty1 9, sub := subTo 1, flags := fAll }
  | .dmul _ _ => { opc := 0x71, len := 8, acc := false, d := .dst 2, a := .src 2, b := .src 2, typ := ty1 9, flags := fAll }
  | .dfma _ _ => { opc := 0x72, len := 8, acc := false, d := .dst 2, a := .src 2, b := .src 2, typ := ty1 9, c := .src 2, sub := subTo 3, flags := fAll }
  | .dsetp _ _ => { opc := 0x73, len := 8, acc := false, d := .pred, a := .src 2, b := .src 2, c := .npred, typ := ty1 9, sub := subTo 13, flags := fFzi }
  | .hadd2 _ _ => { opc := 0x78, len := 8, acc := false, d := .dst 1, a := .src 1, b := .src 1, typ := tyR 11 12, flags := fAll + fSat }
  | .hadd212 _ _ _ => { opc := 0x78, len := 12, acc := false, d := .dst 1, a := .src 1, typ := tyR 11 12, flags := fAll + fSat, w2 := .immB }
  | .hmul2 _ _ => { opc := 0x79, len := 8, acc := false, d := .dst 1, a := .src 1, b := .src 1, typ := tyR 11 12, flags := fAll + fSat }
  | .hmul212 _ _ _ => { opc := 0x79, len := 12, acc := false, d := .dst 1, a := .src 1, typ := tyR 11 12, flags := fAll + fSat, w2 := .immB }
  | .hfma2 _ _ => { opc := 0x7A, len := 8, acc := false, d := .dst 1, a := .src 1, b := .src 1, typ := tyR 11 12, c := .src 1, sub := subTo 3, flags := fAll + fSat }
  | .hfma212 _ _ _ => { opc := 0x7A, len := 12, acc := false, d := .dst 1, a := .src 1, typ := tyR 11 12, c := .src 1, sub := subTo 3, flags := fAll + fSat, w2 := .immB }
  | .fdot2 _ _ => { opc := 0x7B, len := 8, acc := false, d := .dst 1, a := .src 1, b := .src 1, typ := tyR 11 12, c := .src 1, flags := fAll }
  | .fdot4 _ _ => { opc := 0x7C, len := 8, acc := false, d := .dst 1, a := .src 1, b := .src 1, c := .src 1, typ := tyR 13 14, flags := fAll }
  | .fcvt _ h => { opc := 0x80, len := 8, acc := false, d := .dst (wide h.typ), a := .src (wide (h.c.setWidth 5)), sub := subHalf h.typ, b := .imm 0 (elemMax h.c), c := .stype (tyR 9 17), typ := tyR 9 17, flags := fAll + satNarrow h.typ }
  | .fcvti _ h => { opc := 0x81, len := 8, acc := false, d := .dst (wide h.typ), a := .src (wide (h.c.setWidth 5)), sub := subHalf h.typ, b := .imm 0 (elemMax h.c), c := .stype (tyR 9 17), typ := tyR 1 8, flags := fRnd + fFzi + fSat }
  | .icvtf _ h => { opc := 0x82, len := 8, acc := false, d := .dst (wide h.typ), a := .src (wide (h.c.setWidth 5)), sub := subHalf h.typ, b := .imm 0 0, c := .stype (tyR 1 8), typ := tyR 9 17, flags := fRnd + satNarrow h.typ }
  | .frcp _ => { opc := 0x88, len := 4, acc := false, d := .dst 1, a := .src 1, typ := ty1 10, flags := fFz }
  | .frcp8 _ _ => { opc := 0x88, len := 8, acc := false, d := .dst 1, a := .src 1, typ := ty1 10, flags := fFz }
  | .frsq _ => { opc := 0x89, len := 4, acc := false, d := .dst 1, a := .src 1, typ := ty1 10, flags := fFz }
  | .frsq8 _ _ => { opc := 0x89, len := 8, acc := false, d := .dst 1, a := .src 1, typ := ty1 10, flags := fFz }
  | .fsqrt _ => { opc := 0x8A, len := 4, acc := false, d := .dst 1, a := .src 1, typ := ty1 10, flags := fAll }
  | .fsqrt8 _ _ => { opc := 0x8A, len := 8, acc := false, d := .dst 1, a := .src 1, typ := ty1 10, flags := fAll }
  | .fex2 _ => { opc := 0x8B, len := 4, acc := false, d := .dst 1, a := .src 1, typ := ty1 10, flags := fFz }
  | .fex28 _ _ => { opc := 0x8B, len := 8, acc := false, d := .dst 1, a := .src 1, typ := ty1 10, flags := fFz }
  | .flg2 _ => { opc := 0x8C, len := 4, acc := false, d := .dst 1, a := .src 1, typ := ty1 10, flags := fFz }
  | .flg28 _ _ => { opc := 0x8C, len := 8, acc := false, d := .dst 1, a := .src 1, typ := ty1 10, flags := fFz }
  | .fsin _ => { opc := 0x8D, len := 4, acc := false, d := .dst 1, a := .src 1, typ := ty1 10, flags := fFz }
  | .fsin8 _ _ => { opc := 0x8D, len := 8, acc := false, d := .dst 1, a := .src 1, typ := ty1 10, flags := fFz }
  | .fcos _ => { opc := 0x8E, len := 4, acc := false, d := .dst 1, a := .src 1, typ := ty1 10, flags := fFz }
  | .fcos8 _ _ => { opc := 0x8E, len := 8, acc := false, d := .dst 1, a := .src 1, typ := ty1 10, flags := fFz }
  | .ftanh _ => { opc := 0x8F, len := 4, acc := false, d := .dst 1, a := .src 1, typ := ty1 10, flags := fFz }
  | .ftanh8 _ _ => { opc := 0x8F, len := 8, acc := false, d := .dst 1, a := .src 1, typ := ty1 10, flags := fFz }
  | .fdivf _ _ => { opc := 0x90, len := 8, acc := false, d := .dst 1, a := .src 1, b := .src 1, typ := ty1 10, c := .src 1, flags := fAll }
  | .vote _ h => { opc := 0xA0, len := 8, acc := false, d := if h.sub.toNat < 3 then .pred else .dst 1, a := .npred, c := .src 1, sub := subTo 4 }
  | .vote12 _ h _ => { opc := 0xA0, len := 12, acc := false, d := if h.sub.toNat < 3 then .pred else .dst 1, a := .npred, c := .src 1, sub := subTo 4, w2 := .fill .vote }
  | .lpick _ _ => { opc := 0xA1, len := 8, acc := false, d := .dst 1, a := .vec 1, b := .src 1, c := .src 1, sub := subTo 3 }
  | .lpick12 _ _ _ => { opc := 0xA1, len := 12, acc := false, d := .dst 1, a := .vec 1, b := .src 1, c := .src 1, sub := subTo 3, w2 := .fill .all }
  | .redux _ h => { opc := 0xA2, len := 8, acc := false, d := .dst (if h.sub.toNat < 6 then 1 else 2), a := .src 1, b := if h.sub.toNat < 8 then .unused else .src 1, c := .src 1, typ := tyR 5 6 + (if h.sub.toNat < 3 ∨ 6 ≤ h.sub.toNat then ty1 10 else 0), sub := subTo 9, flags := if h.typ = 10 then fAll else 0 }
  | .redux12 _ h _ => { opc := 0xA2, len := 12, acc := false, d := .dst (if h.sub.toNat < 6 then 1 else 2), a := .src 1, b := if h.sub.toNat < 8 then .unused else .src 1, c := .src 1, typ := tyR 5 6 + (if h.sub.toNat < 3 ∨ 6 ≤ h.sub.toNat then ty1 10 else 0), sub := subTo 9, flags := if h.typ = 10 then fAll else 0, w2 := .fill .all }
  | .scan _ h => { opc := 0xA3, len := 8, acc := false, d := .dst 1, a := .src 1, c := .src 1, typ := tyR 5 6 + (if h.sub.toNat % 8 < 3 then ty1 10 else 0), sub := subTo 5 + subTo 5 * 256, flags := if h.typ = 10 then fAll else 0 }
  | .scan12 _ h _ => { opc := 0xA3, len := 12, acc := false, d := .dst 1, a := .src 1, c := .src 1, typ := tyR 5 6 + (if h.sub.toNat % 8 < 3 then ty1 10 else 0), sub := subTo 5 + subTo 5 * 256, flags := if h.typ = 10 then fAll else 0, w2 := .fill .all }
  | .matchLanes _ h => { opc := 0xA4, len := 8, acc := false, d := .dst 1, a := .vec (wide h.typ), c := .src 1, typ := ty1 0 + ty1 7, sub := subTo 1 }
  | .matchLanes12 _ h _ => { opc := 0xA4, len := 12, acc := false, d := .dst 1, a := .vec (wide h.typ), c := .src 1, typ := ty1 0 + ty1 7, sub := subTo 1, w2 := .fill .none }
  | .elect _ _ => { opc := 0xA5, len := 8, acc := false, d := .pred, c := .src 1 }
  | .elect12 _ _ _ => { opc := 0xA5, len := 12, acc := false, d := .pred, c := .src 1, w2 := .fill .none }
  | .part _ => { opc := 0xA6, len := 4, acc := false, d := .partw }
  | .part8 _ _ => { opc := 0xA6, len := 8, acc := false, d := .partw }
  | .ld _ h => { opc := 0xB0, len := 8, d := .dst (wide h.typ), a := .src 4, b := .src 1, typ := tyR 0 17, flags := fSat }
  | .ld12 _ h _ => { opc := 0xB0, len := 12, d := .dst (wide h.typ), b := .src 1, typ := tyR 0 17, flags := fSat, w2 := .offset }
  | .st _ h => { opc := 0xB1, len := 8, acc := false, a := .src 4, b := .src 1, c := .src (wide h.typ), typ := tyR 0 17, flags := fSat }
  | .st12 _ h _ => { opc := 0xB1, len := 12, acc := false, b := .src 1, c := .src (wide h.typ), typ := tyR 0 17, flags := fSat, w2 := .offset }
  | .atom _ h => { opc := 0xB2, len := 8, acc := false, d := .dst (wide h.typ), a := .src 4, b := .src 1, c := .src (wide h.typ), typ := tyAtom h.sub.toNat, sub := subTo 8 }
  | .atom12 _ h _ => { opc := 0xB2, len := 12, acc := false, d := .dst (wide h.typ), b := .src 1, c := .src (wide h.typ), typ := tyAtom h.sub.toNat, sub := subTo 8, w2 := .offset }
  | .cas _ h => { opc := 0xB3, len := 8, acc := false, d := .dst (wide h.typ), a := .src 4, b := .src 1, c := .src (2 * wide h.typ), typ := tyR 5 8, sub := subAll }
  | .cas12 _ h _ => { opc := 0xB3, len := 12, acc := false, d := .dst (wide h.typ), b := .src 1, c := .src (2 * wide h.typ), typ := tyR 5 8, sub := subAll, w2 := .offset }
  | .pref _ _ => { opc := 0xB4, len := 8, a := .src 4, b := .src 1 }
  | .pref12 _ _ _ => { opc := 0xB4, len := 12, b := .src 1, w2 := .offset }
  | .pmake _ h => { opc := 0xB8, len := 8, d := dquad h, a := usrc h 2, b := usrc h 2, c := usrc h 1, sub := subTo 1 }
  | .psub _ h => { opc := 0xB9, len := 8, d := dquad h, a := usrc h 4, b := usrc h 1, c := usrc h 1, sub := subTo 1 }
  | .psub12 _ h _ => { opc := 0xB9, len := 12, d := dquad h, a := usrc h 4, c := usrc h 1, sub := subTo 1, w2 := .immB }
  | .padv _ h => { opc := 0xBA, len := 8, d := dquad h, a := usrc h 4, b := usrc h (wide h.typ), typ := ty1 5 + ty1 7, sub := subTo 1 }
  | .padv12 _ h _ => { opc := 0xBA, len := 12, d := dquad h, a := usrc h 4, typ := ty1 5 + ty1 7, sub := subTo 1, w2 := .immB }
  | .pretype _ h => { opc := 0xBB, len := 8, d := dquad h, a := usrc h 4, b := usrc h 1, sub := subTo 1 }
  | .pwiden _ h => { opc := 0xBC, len := 8, d := dquad h, a := usrc h 4, sub := subTo 9 }
  | .pnarrow _ h => { opc := 0xBD, len := 8, d := dquad h, a := usrc h 4, sub := subTo 9 }
  | .pchk _ _ => { opc := 0xBE, len := 8, d := .pred, a := .src 4, b := .src 1, sub := subTo 1 }
  | .pchk12 _ _ _ => { opc := 0xBE, len := 12, d := .pred, a := .src 4, sub := subTo 1, w2 := .immB }
  | .rwb _ _ => { opc := 0xC0, len := 8, acc := false, a := .src 4 }
  | .rinv _ _ => { opc := 0xC1, len := 8, acc := false, a := .src 4 }
  | .qld _ _ => { opc := 0xC4, len := 8, crew := false, d := .foreQueue, a := .uni 4, b := .uni 1, c := .uni 1, sub := subTo 1 }
  | .qld12 _ _ _ => { opc := 0xC4, len := 12, crew := false, d := .foreQueue, a := .uni 4, b := .uni 1, c := .uni 1, sub := subTo 1, w2 := .value }
  | .qpush _ _ => { opc := 0xC5, len := 8, crew := false, d := .foreQueue, a := .uni 1 }
  | .qpop _ => { opc := 0xC6, len := 4, acc := false, d := .dst 1, a := .foreQueue, sub := subAll }
  | .qpop8 _ _ => { opc := 0xC6, len := 8, acc := false, d := .dst 1, a := .foreQueue, sub := subAll }
  | .qbpush _ => { opc := 0xC7, len := 4, acc := false, d := .backQueue, a := .src 1 }
  | .qbpush8 _ _ => { opc := 0xC7, len := 8, acc := false, d := .backQueue, a := .src 1 }
  | .qbpop _ => { opc := 0xC8, len := 4, crew := false, d := .duni 1, a := .backQueue }
  | .qbpop8 _ _ => { opc := 0xC8, len := 8, crew := false, d := .duni 1, a := .backQueue }
  | .oph _ h => { opc := 0xD0, len := 8, d := .handle, a := bindOnly h, b := bindOnly h, c := bindOnly h, sub := subTo 1 }
  | .oph12 _ h _ => { opc := 0xD0, len := 12, d := .handle, a := bindOnly h, b := bindOnly h, sub := subTo 1, w2 := if h.sub = 0 then .format else .zero }
  | .mma f _ => { opc := 0xD1, len := 8, acc := false, d := .acc, a := .mmaA, b := .any, c := .acc, typ := tyMma f, sub := subAll, flags := fFzo }
  | .mmas f _ => { opc := 0xD2, len := 8, acc := false, d := .acc, a := .mmaA, b := .any, c := .mmasC, typ := tyMma f, sub := subAll, flags := fFzo }
  | .azero _ => { opc := 0xD3, len := 4, acc := false, d := .acc }
  | .amov _ h => { opc := 0xD4, len := 8, acc := false, d := if h.sub = 2 then .acc else .dst 1, a := if h.sub = 2 then .vec 1 else .acc, b := .imm 0 31, sub := subTo 2 }
  | .tldv _ h => { opc := 0xD5, len := 8, acc := false, d := .tile, a := .vec 1, b := .imm 0 (if h.typ = 0 then 7 else 31), typ := ty1 0 + tyR 1 2 + tyR 11 17 }
  | .tstv _ h => { opc := 0xD6, len := 8, acc := false, d := .dst 1, a := .tile, b := .imm 0 (if h.typ = 0 then 7 else 31), typ := ty1 0 + tyR 1 2 + tyR 11 17 }
  | .park _ h => { opc := 0xD7, len := 8, acc := false, d := .imm 0 31, a := .vec 1, b := if h.sub = 0 then .tile else .acc, c := .imm 0 (if h.sub = 0 then 7 else 31), sub := subTo 1 }
  | .unpark _ _ => { opc := 0xD8, len := 8, acc := false, d := .imm 0 31 }
  | .tcopy _ _ => { opc := 0xD9, len := 8, d := .handle, a := .uni 4, b := .uni 1, c := .uni 1, sub := subTo 1 }
  | .tcopy12 _ _ _ => { opc := 0xD9, len := 12, d := .handle, a := .uni 4, b := .uni 1, c := .uni 1, sub := subTo 1, w2 := .rows }
  | .coll _ _ _ => { opc := 0xDA, len := 12, acc := false, d := .duni 4, a := .uni 4, b := .uni 4, c := .uni 4, sub := subTo 6, w2 := .flag }
  | .wait _ _ _ _ _ _ => { opc := 0xDF, len := 4 }
  | .wait8 _ _ _ _ _ _ => { opc := 0xDF, len := 8 }
  | .pairWord _ _ => { opc := 0, len := 8 }
  | .loadComplete _ _ => { opc := 0, len := 0 }
  | .loadTranslationFault _ _ => { opc := 0, len := 0 }
  | .storePerformed _ _ => { opc := 0, len := 0 }
  | .atomicComplete _ _ => { opc := 0, len := 0 }
  | .releasePerformed _ _ => { opc := 0, len := 0 }
  | .writebackAccepted _ _ => { opc := 0, len := 0 }
  | .icinvComplete _ _ => { opc := 0, len := 0 }
  | .wcbDrainTimeout _ _ => { opc := 0, len := 0 }
  | .queueLaneFill _ _ _ _ => { opc := 0, len := 0 }
  | .qldPoison _ _ => { opc := 0, len := 0 }
  | .backQueueVisible _ _ => { opc := 0, len := 0 }
  | .mmaComplete _ _ => { opc := 0, len := 0 }
  | .tcopyRowWritten _ _ => { opc := 0, len := 0 }
  | .sleepcExpiry _ _ _ => { opc := 0, len := 0 }
  | .groupResourcesReturn _ => { opc := 0, len := 0 }
  | .cancelMessage _ _ => { opc := 0, len := 0 }
  | .preemptRequest _ _ => { opc := 0, len := 0 }
  | .timeSliceExpiry _ => { opc := 0, len := 0 }
  | .drainLimit _ => { opc := 0, len := 0 }
  | .saveComplete _ => { opc := 0, len := 0 }
  | .preemptRetry _ => { opc := 0, len := 0 }
  | .restoreGroup _ => { opc := 0, len := 0 }
  | .groupDispatch _ _ => { opc := 0, len := 0 }
  | .stealRequest _ _ => { opc := 0, len := 0 }
  | .stealReply _ _ _ => { opc := 0, len := 0 }
  | .backfillAgeLimit _ => { opc := 0, len := 0 }
  | .priorityWaitExpiry _ _ => { opc := 0, len := 0 }
  | .qDoorbell _ => { opc := 0, len := 0 }
  | .qReset _ _ => { opc := 0, len := 0 }
  | .qCtlWrite _ _ => { opc := 0, len := 0 }
  | .registerWrite _ _ _ _ => { opc := 0, len := 0 }
  | .jobStart _ => { opc := 0, len := 0 }
  | .phaseStart _ => { opc := 0, len := 0 }
  | .graphSubmit _ => { opc := 0, len := 0 }
  | .launch _ => { opc := 0, len := 0 }
  | .copy _ => { opc := 0, len := 0 }
  | .signalMem _ => { opc := 0, len := 0 }
  | .waitMem _ => { opc := 0, len := 0 }
  | .cancelCommand _ => { opc := 0, len := 0 }
  | .partitionFence _ => { opc := 0, len := 0 }
  | .commandBegin _ => { opc := 0, len := 0 }
  | .waitMemReread _ => { opc := 0, len := 0 }
  | .waitMemTimeout _ => { opc := 0, len := 0 }
  | .nodeFinish _ _ => { opc := 0, len := 0 }
  | .copyFinish _ => { opc := 0, len := 0 }
  | .tlbiAddress _ => { opc := 0, len := 0 }
  | .tlbiContext _ => { opc := 0, len := 0 }
  | .tlbiAll _ => { opc := 0, len := 0 }
  | .tlbiComplete _ => { opc := 0, len := 0 }
  | .tlbMissRequest _ _ _ => { opc := 0, len := 0 }
  | .walkStart _ => { opc := 0, len := 0 }
  | .walkReadComplete _ _ => { opc := 0, len := 0 }
  | .l2Request _ => { opc := 0, len := 0 }
  | .l2Fill _ => { opc := 0, len := 0 }
  | .invalidateProbe _ _ => { opc := 0, len := 0 }
  | .invalidateAck _ _ => { opc := 0, len := 0 }
  | .l1Writeback _ _ => { opc := 0, len := 0 }
  | .vaultRequest _ => { opc := 0, len := 0 }
  | .ottEntryGrant _ => { opc := 0, len := 0 }
  | .replicaStore _ _ _ => { opc := 0, len := 0 }
  | .replicaWrite _ _ _ => { opc := 0, len := 0 }
  | .divergedHold _ _ => { opc := 0, len := 0 }
  | .holdComplete _ _ => { opc := 0, len := 0 }
  | .divergedClear _ _ => { opc := 0, len := 0 }
  | .meshPacketHop _ _ _ => { opc := 0, len := 0 }
  | .packetDelivery _ => { opc := 0, len := 0 }
  | .reorderCreditRequest _ _ _ => { opc := 0, len := 0 }
  | .reorderCreditGrant _ _ => { opc := 0, len := 0 }
  | .deliveryConfirmation _ _ _ => { opc := 0, len := 0 }
  | .permitAudit _ _ => { opc := 0, len := 0 }
  | .auditMarker _ _ => { opc := 0, len := 0 }
  | .auditMarkerReturn _ _ => { opc := 0, len := 0 }
  | .channelRestart _ _ => { opc := 0, len := 0 }
  | .linkTraining _ _ _ => { opc := 0, len := 0 }
  | .moduleRetrain _ _ _ => { opc := 0, len := 0 }
  | .linkFailed _ => { opc := 0, len := 0 }
  | .axsisFlitRetry _ _ => { opc := 0, len := 0 }
  | .axsisPortRetrain _ _ => { opc := 0, len := 0 }
  | .axsisRead _ => { opc := 0, len := 0 }
  | .readReply _ => { opc := 0, len := 0 }
  | .axsisWrite _ => { opc := 0, len := 0 }
  | .writeAcknowledgement _ => { opc := 0, len := 0 }
  | .axsisAtomic _ => { opc := 0, len := 0 }
  | .atomicReply _ => { opc := 0, len := 0 }
  | .contribution _ => { opc := 0, len := 0 }
  | .partialArrival _ => { opc := 0, len := 0 }
  | .completion _ => { opc := 0, len := 0 }
  | .notice _ => { opc := 0, len := 0 }
  | .flowAcknowledgement _ => { opc := 0, len := 0 }
  | .axsisResendTimeout _ _ _ => { opc := 0, len := 0 }
  | .reductionTimeout _ _ => { opc := 0, len := 0 }
  | .retentionExpiry _ _ => { opc := 0, len := 0 }
  | .switchSlotTimeout _ _ _ => { opc := 0, len := 0 }
  | .rekeyRequest _ _ => { opc := 0, len := 0 }
  | .inboundPostedWrite _ => { opc := 0, len := 0 }
  | .inboundRead _ => { opc := 0, len := 0 }
  | .inboundAtomicop _ => { opc := 0, len := 0 }
  | .hostReadCompletion _ _ _ => { opc := 0, len := 0 }
  | .hostCompletionTimeout _ => { opc := 0, len := 0 }
  | .xpartRequest _ _ _ => { opc := 0, len := 0 }
  | .xwinDrained _ _ => { opc := 0, len := 0 }
  | .partReset _ => { opc := 0, len := 0 }
  | .partResetScrub _ => { opc := 0, len := 0 }
  | .functionLevelReset _ => { opc := 0, len := 0 }
  | .resetWaitExpiry _ => { opc := 0, len := 0 }
  | .evtRidxWrite _ _ => { opc := 0, len := 0 }
  | .patrolScrub _ _ => { opc := 0, len := 0 }
  | .packagePowerOn => { opc := 0, len := 0 }
  | .dieRelease _ => { opc := 0, len := 0 }
  | .fullService => { opc := 0, len := 0 }
  | .jobKey _ _ _ _ _ => { opc := 0, len := 0 }
  | .jobRekey _ _ => { opc := 0, len := 0 }
  | .jobClear _ _ => { opc := 0, len := 0 }
  | .fwStage _ _ => { opc := 0, len := 0 }
  | .getVersion _ => { opc := 0, len := 0 }
  | .getCapabilities _ => { opc := 0, len := 0 }
  | .negotiateAlgorithms _ => { opc := 0, len := 0 }
  | .getDigests _ => { opc := 0, len := 0 }
  | .getCertificate _ => { opc := 0, len := 0 }
  | .challenge _ _ => { opc := 0, len := 0 }
  | .getMeasurements _ _ => { opc := 0, len := 0 }
  | .keyExchange _ => { opc := 0, len := 0 }
  | .finish _ _ => { opc := 0, len := 0 }
  | .keyUpdate _ _ => { opc := 0, len := 0 }
  | .heartbeat _ _ => { opc := 0, len := 0 }
  | .endSession _ _ => { opc := 0, len := 0 }
  | .ideKm _ _ _ _ => { opc := 0, len := 0 }
  | .governorWindow _ _ => { opc := 0, len := 0 }
  | .pwrLimitWrite _ _ => { opc := 0, len := 0 }
  | .thermalThrottle _ => { opc := 0, len := 0 }
  | .thermalRecover _ => { opc := 0, len := 0 }
  | .thermalTrip _ => { opc := 0, len := 0 }
  | .illegalOp _ => { opc := 0, len := 0 }
  | .pciExpressPortTraining _ => { opc := 0, len := 0 }
  | .ctxRootWrite _ _ => { opc := 0, len := 0 }

/-- The fields of each instruction. -/
def fieldsOf : Instr → Fields
  | .nop f => ⟨f, shortWord1 0, 0⟩
  | .nop8 f h => ⟨f, h, 0⟩
  | .nop12 f h w => ⟨f, h, w⟩
  | .bra gp gn _ => ⟨⟨gp, gn, 0, 0, false⟩, shortWord1 0, 0⟩
  | .bra12 f h w => ⟨f, h, w⟩
  | .bral f h w => ⟨f, h, w⟩
  | .jmpi f => ⟨f, shortWord1 0, 0⟩
  | .ret f => ⟨f, shortWord1 0, 0⟩
  | .exit f => ⟨f, shortWord1 0, 0⟩
  | .dbnz f h w => ⟨f, h, w⟩
  | .brq f h w => ⟨f, h, w⟩
  | .yield f => ⟨f, shortWord1 0, 0⟩
  | .sleepc f => ⟨f, shortWord1 0, 0⟩
  | .sleepc12 f h w => ⟨f, h, w⟩
  | .trap f => ⟨f, shortWord1 0, 0⟩
  | .tret f => ⟨f, shortWord1 0, 0⟩
  | .tretEnd f => ⟨f, shortWord1 0, 0⟩
  | .bkpt f => ⟨f, shortWord1 0, 0⟩
  | .icinv f h => ⟨f, h, 0⟩
  | .mfsr f h => ⟨f, h, 0⟩
  | .mtsr f h => ⟨f, h, 0⟩
  | .bar f h => ⟨f, h, 0⟩
  | .bar12 f h w => ⟨f, h, w⟩
  | .bara f h => ⟨f, h, 0⟩
  | .bara12 f h w => ⟨f, h, w⟩
  | .barw f h => ⟨f, h, 0⟩
  | .barw12 f h w => ⟨f, h, w⟩
  | .cancel f h => ⟨f, h, 0⟩
  | .iadd f h => ⟨f, h, 0⟩
  | .iadd12 f h w => ⟨f, h, w⟩
  | .isub f h => ⟨f, h, 0⟩
  | .isub12 f h w => ⟨f, h, w⟩
  | .iaddc f h => ⟨f, h, 0⟩
  | .iaddc12 f h w => ⟨f, h, w⟩
  | .isubc f h => ⟨f, h, 0⟩
  | .isubc12 f h w => ⟨f, h, w⟩
  | .ineg f => ⟨f, shortWord1 6, 0⟩
  | .ineg8 f h => ⟨f, h, 0⟩
  | .imul f h => ⟨f, h, 0⟩
  | .imul12 f h w => ⟨f, h, w⟩
  | .imulh f h => ⟨f, h, 0⟩
  | .imulh12 f h w => ⟨f, h, w⟩
  | .imad f h => ⟨f, h, 0⟩
  | .imad12 f h w => ⟨f, h, w⟩
  | .imadw f h => ⟨f, h, 0⟩
  | .imadw12 f h w => ⟨f, h, w⟩
  | .imin f h => ⟨f, h, 0⟩
  | .imin12 f h w => ⟨f, h, w⟩
  | .imax f h => ⟨f, h, 0⟩
  | .imax12 f h w => ⟨f, h, w⟩
  | .iabs f => ⟨f, shortWord1 6, 0⟩
  | .iabs8 f h => ⟨f, h, 0⟩
  | .iadif f h => ⟨f, h, 0⟩
  | .iadif12 f h w => ⟨f, h, w⟩
  | .shl f h => ⟨f, h, 0⟩
  | .shl12 f h w => ⟨f, h, w⟩
  | .shr f h => ⟨f, h, 0⟩
  | .shr12 f h w => ⟨f, h, w⟩
  | .sar f h => ⟨f, h, 0⟩
  | .sar12 f h w => ⟨f, h, w⟩
  | .dsh f h => ⟨f, h, 0⟩
  | .dsh12 f h w => ⟨f, h, w⟩
  | .rot f h => ⟨f, h, 0⟩
  | .rot12 f h w => ⟨f, h, w⟩
  | .lut3 f h w => ⟨f, h, w⟩
  | .popc f => ⟨f, shortWord1 6, 0⟩
  | .popc8 f h => ⟨f, h, 0⟩
  | .clz f => ⟨f, shortWord1 6, 0⟩
  | .clz8 f h => ⟨f, h, 0⟩
  | .ctz f => ⟨f, shortWord1 6, 0⟩
  | .ctz8 f h => ⟨f, h, 0⟩
  | .brev f => ⟨f, shortWord1 6, 0⟩
  | .brev8 f h => ⟨f, h, 0⟩
  | .bfx f h => ⟨f, h, 0⟩
  | .bfx12 f h w => ⟨f, h, w⟩
  | .bfi f h => ⟨f, h, 0⟩
  | .bfi12 f h w => ⟨f, h, w⟩
  | .bsel f h => ⟨f, h, 0⟩
  | .bsel12 f h w => ⟨f, h, w⟩
  | .isetp f h => ⟨f, h, 0⟩
  | .isetp12 f h w => ⟨f, h, w⟩
  | .isel f h => ⟨f, h, 0⟩
  | .isel12 f h w => ⟨f, h, w⟩
  | .mov f => ⟨f, shortWord1 6, 0⟩
  | .mov8 f h => ⟨f, h, 0⟩
  | .movi f h w => ⟨f, h, w⟩
  | .plop f h w => ⟨f, h, w⟩
  | .p2v f => ⟨f, shortWord1 6, 0⟩
  | .p2v8 f h => ⟨f, h, 0⟩
  | .v2p f h => ⟨f, h, 0⟩
  | .s2v f => ⟨f, shortWord1 6, 0⟩
  | .s2v8 f h => ⟨f, h, 0⟩
  | .v2s f h => ⟨f, h, 0⟩
  | .lea f h => ⟨f, h, 0⟩
  | .lea12 f h w => ⟨f, h, w⟩
  | .fadd f h => ⟨f, h, 0⟩
  | .fadd12 f h w => ⟨f, h, w⟩
  | .fsub f h => ⟨f, h, 0⟩
  | .fsub12 f h w => ⟨f, h, w⟩
  | .fmul f h => ⟨f, h, 0⟩
  | .fmul12 f h w => ⟨f, h, w⟩
  | .ffma f h => ⟨f, h, 0⟩
  | .ffma12 f h w => ⟨f, h, w⟩
  | .fmin f h => ⟨f, h, 0⟩
  | .fmin12 f h w => ⟨f, h, w⟩
  | .fmax f h => ⟨f, h, 0⟩
  | .fmax12 f h w => ⟨f, h, w⟩
  | .fminp f h => ⟨f, h, 0⟩
  | .fminp12 f h w => ⟨f, h, w⟩
  | .fmaxp f h => ⟨f, h, 0⟩
  | .fmaxp12 f h w => ⟨f, h, w⟩
  | .fsetp f h => ⟨f, h, 0⟩
  | .fsetp12 f h w => ⟨f, h, w⟩
  | .fsel f h => ⟨f, h, 0⟩
  | .fsel12 f h w => ⟨f, h, w⟩
  | .fclass f h => ⟨f, h, 0⟩
  | .fscale f h => ⟨f, h, 0⟩
  | .fscale12 f h w => ⟨f, h, w⟩
  | .frnd f => ⟨f, shortWord1 10, 0⟩
  | .frnd8 f h => ⟨f, h, 0⟩
  | .dadd f h => ⟨f, h, 0⟩
  | .dmul f h => ⟨f, h, 0⟩
  | .dfma f h => ⟨f, h, 0⟩
  | .dsetp f h => ⟨f, h, 0⟩
  | .hadd2 f h => ⟨f, h, 0⟩
  | .hadd212 f h w => ⟨f, h, w⟩
  | .hmul2 f h => ⟨f, h, 0⟩
  | .hmul212 f h w => ⟨f, h, w⟩
  | .hfma2 f h => ⟨f, h, 0⟩
  | .hfma212 f h w => ⟨f, h, w⟩
  | .fdot2 f h => ⟨f, h, 0⟩
  | .fdot4 f h => ⟨f, h, 0⟩
  | .fcvt f h => ⟨f, h, 0⟩
  | .fcvti f h => ⟨f, h, 0⟩
  | .icvtf f h => ⟨f, h, 0⟩
  | .frcp f => ⟨f, shortWord1 10, 0⟩
  | .frcp8 f h => ⟨f, h, 0⟩
  | .frsq f => ⟨f, shortWord1 10, 0⟩
  | .frsq8 f h => ⟨f, h, 0⟩
  | .fsqrt f => ⟨f, shortWord1 10, 0⟩
  | .fsqrt8 f h => ⟨f, h, 0⟩
  | .fex2 f => ⟨f, shortWord1 10, 0⟩
  | .fex28 f h => ⟨f, h, 0⟩
  | .flg2 f => ⟨f, shortWord1 10, 0⟩
  | .flg28 f h => ⟨f, h, 0⟩
  | .fsin f => ⟨f, shortWord1 10, 0⟩
  | .fsin8 f h => ⟨f, h, 0⟩
  | .fcos f => ⟨f, shortWord1 10, 0⟩
  | .fcos8 f h => ⟨f, h, 0⟩
  | .ftanh f => ⟨f, shortWord1 10, 0⟩
  | .ftanh8 f h => ⟨f, h, 0⟩
  | .fdivf f h => ⟨f, h, 0⟩
  | .vote f h => ⟨f, h, 0⟩
  | .vote12 f h w => ⟨f, h, w⟩
  | .lpick f h => ⟨f, h, 0⟩
  | .lpick12 f h w => ⟨f, h, w⟩
  | .redux f h => ⟨f, h, 0⟩
  | .redux12 f h w => ⟨f, h, w⟩
  | .scan f h => ⟨f, h, 0⟩
  | .scan12 f h w => ⟨f, h, w⟩
  | .matchLanes f h => ⟨f, h, 0⟩
  | .matchLanes12 f h w => ⟨f, h, w⟩
  | .elect f h => ⟨f, h, 0⟩
  | .elect12 f h w => ⟨f, h, w⟩
  | .part f => ⟨f, shortWord1 0, 0⟩
  | .part8 f h => ⟨f, h, 0⟩
  | .ld f h => ⟨f, h, 0⟩
  | .ld12 f h w => ⟨f, h, w⟩
  | .st f h => ⟨f, h, 0⟩
  | .st12 f h w => ⟨f, h, w⟩
  | .atom f h => ⟨f, h, 0⟩
  | .atom12 f h w => ⟨f, h, w⟩
  | .cas f h => ⟨f, h, 0⟩
  | .cas12 f h w => ⟨f, h, w⟩
  | .pref f h => ⟨f, h, 0⟩
  | .pref12 f h w => ⟨f, h, w⟩
  | .pmake f h => ⟨f, h, 0⟩
  | .psub f h => ⟨f, h, 0⟩
  | .psub12 f h w => ⟨f, h, w⟩
  | .padv f h => ⟨f, h, 0⟩
  | .padv12 f h w => ⟨f, h, w⟩
  | .pretype f h => ⟨f, h, 0⟩
  | .pwiden f h => ⟨f, h, 0⟩
  | .pnarrow f h => ⟨f, h, 0⟩
  | .pchk f h => ⟨f, h, 0⟩
  | .pchk12 f h w => ⟨f, h, w⟩
  | .rwb f h => ⟨f, h, 0⟩
  | .rinv f h => ⟨f, h, 0⟩
  | .qld f h => ⟨f, h, 0⟩
  | .qld12 f h w => ⟨f, h, w⟩
  | .qpush f h => ⟨f, h, 0⟩
  | .qpop f => ⟨f, shortWord1 0, 0⟩
  | .qpop8 f h => ⟨f, h, 0⟩
  | .qbpush f => ⟨f, shortWord1 0, 0⟩
  | .qbpush8 f h => ⟨f, h, 0⟩
  | .qbpop f => ⟨f, shortWord1 0, 0⟩
  | .qbpop8 f h => ⟨f, h, 0⟩
  | .oph f h => ⟨f, h, 0⟩
  | .oph12 f h w => ⟨f, h, w⟩
  | .mma f h => ⟨f, h, 0⟩
  | .mmas f h => ⟨f, h, 0⟩
  | .azero f => ⟨f, shortWord1 0, 0⟩
  | .amov f h => ⟨f, h, 0⟩
  | .tldv f h => ⟨f, h, 0⟩
  | .tstv f h => ⟨f, h, 0⟩
  | .park f h => ⟨f, h, 0⟩
  | .unpark f h => ⟨f, h, 0⟩
  | .tcopy f h => ⟨f, h, 0⟩
  | .tcopy12 f h w => ⟨f, h, w⟩
  | .coll f h w => ⟨f, h, w⟩
  | .wait gp gn _ _ _ _ => ⟨⟨gp, gn, 0, 0, false⟩, shortWord1 0, 0⟩
  | .wait8 gp gn _ _ _ _ => ⟨⟨gp, gn, 0, 0, false⟩, shortWord1 0, 0⟩
  | .pairWord _ _ => ⟨⟨15, false, 0, 0, false⟩, shortWord1 0, 0⟩
  | .loadComplete _ _ => ⟨⟨15, false, 0, 0, false⟩, shortWord1 0, 0⟩
  | .loadTranslationFault _ _ => ⟨⟨15, false, 0, 0, false⟩, shortWord1 0, 0⟩
  | .storePerformed _ _ => ⟨⟨15, false, 0, 0, false⟩, shortWord1 0, 0⟩
  | .atomicComplete _ _ => ⟨⟨15, false, 0, 0, false⟩, shortWord1 0, 0⟩
  | .releasePerformed _ _ => ⟨⟨15, false, 0, 0, false⟩, shortWord1 0, 0⟩
  | .writebackAccepted _ _ => ⟨⟨15, false, 0, 0, false⟩, shortWord1 0, 0⟩
  | .icinvComplete _ _ => ⟨⟨15, false, 0, 0, false⟩, shortWord1 0, 0⟩
  | .wcbDrainTimeout _ _ => ⟨⟨15, false, 0, 0, false⟩, shortWord1 0, 0⟩
  | .queueLaneFill _ _ _ _ => ⟨⟨15, false, 0, 0, false⟩, shortWord1 0, 0⟩
  | .qldPoison _ _ => ⟨⟨15, false, 0, 0, false⟩, shortWord1 0, 0⟩
  | .backQueueVisible _ _ => ⟨⟨15, false, 0, 0, false⟩, shortWord1 0, 0⟩
  | .mmaComplete _ _ => ⟨⟨15, false, 0, 0, false⟩, shortWord1 0, 0⟩
  | .tcopyRowWritten _ _ => ⟨⟨15, false, 0, 0, false⟩, shortWord1 0, 0⟩
  | .sleepcExpiry _ _ _ => ⟨⟨15, false, 0, 0, false⟩, shortWord1 0, 0⟩
  | .groupResourcesReturn _ => ⟨⟨15, false, 0, 0, false⟩, shortWord1 0, 0⟩
  | .cancelMessage _ _ => ⟨⟨15, false, 0, 0, false⟩, shortWord1 0, 0⟩
  | .preemptRequest _ _ => ⟨⟨15, false, 0, 0, false⟩, shortWord1 0, 0⟩
  | .timeSliceExpiry _ => ⟨⟨15, false, 0, 0, false⟩, shortWord1 0, 0⟩
  | .drainLimit _ => ⟨⟨15, false, 0, 0, false⟩, shortWord1 0, 0⟩
  | .saveComplete _ => ⟨⟨15, false, 0, 0, false⟩, shortWord1 0, 0⟩
  | .preemptRetry _ => ⟨⟨15, false, 0, 0, false⟩, shortWord1 0, 0⟩
  | .restoreGroup _ => ⟨⟨15, false, 0, 0, false⟩, shortWord1 0, 0⟩
  | .groupDispatch _ _ => ⟨⟨15, false, 0, 0, false⟩, shortWord1 0, 0⟩
  | .stealRequest _ _ => ⟨⟨15, false, 0, 0, false⟩, shortWord1 0, 0⟩
  | .stealReply _ _ _ => ⟨⟨15, false, 0, 0, false⟩, shortWord1 0, 0⟩
  | .backfillAgeLimit _ => ⟨⟨15, false, 0, 0, false⟩, shortWord1 0, 0⟩
  | .priorityWaitExpiry _ _ => ⟨⟨15, false, 0, 0, false⟩, shortWord1 0, 0⟩
  | .qDoorbell _ => ⟨⟨15, false, 0, 0, false⟩, shortWord1 0, 0⟩
  | .qReset _ _ => ⟨⟨15, false, 0, 0, false⟩, shortWord1 0, 0⟩
  | .qCtlWrite _ _ => ⟨⟨15, false, 0, 0, false⟩, shortWord1 0, 0⟩
  | .registerWrite _ _ _ _ => ⟨⟨15, false, 0, 0, false⟩, shortWord1 0, 0⟩
  | .jobStart _ => ⟨⟨15, false, 0, 0, false⟩, shortWord1 0, 0⟩
  | .phaseStart _ => ⟨⟨15, false, 0, 0, false⟩, shortWord1 0, 0⟩
  | .graphSubmit _ => ⟨⟨15, false, 0, 0, false⟩, shortWord1 0, 0⟩
  | .launch _ => ⟨⟨15, false, 0, 0, false⟩, shortWord1 0, 0⟩
  | .copy _ => ⟨⟨15, false, 0, 0, false⟩, shortWord1 0, 0⟩
  | .signalMem _ => ⟨⟨15, false, 0, 0, false⟩, shortWord1 0, 0⟩
  | .waitMem _ => ⟨⟨15, false, 0, 0, false⟩, shortWord1 0, 0⟩
  | .cancelCommand _ => ⟨⟨15, false, 0, 0, false⟩, shortWord1 0, 0⟩
  | .partitionFence _ => ⟨⟨15, false, 0, 0, false⟩, shortWord1 0, 0⟩
  | .commandBegin _ => ⟨⟨15, false, 0, 0, false⟩, shortWord1 0, 0⟩
  | .waitMemReread _ => ⟨⟨15, false, 0, 0, false⟩, shortWord1 0, 0⟩
  | .waitMemTimeout _ => ⟨⟨15, false, 0, 0, false⟩, shortWord1 0, 0⟩
  | .nodeFinish _ _ => ⟨⟨15, false, 0, 0, false⟩, shortWord1 0, 0⟩
  | .copyFinish _ => ⟨⟨15, false, 0, 0, false⟩, shortWord1 0, 0⟩
  | .tlbiAddress _ => ⟨⟨15, false, 0, 0, false⟩, shortWord1 0, 0⟩
  | .tlbiContext _ => ⟨⟨15, false, 0, 0, false⟩, shortWord1 0, 0⟩
  | .tlbiAll _ => ⟨⟨15, false, 0, 0, false⟩, shortWord1 0, 0⟩
  | .tlbiComplete _ => ⟨⟨15, false, 0, 0, false⟩, shortWord1 0, 0⟩
  | .tlbMissRequest _ _ _ => ⟨⟨15, false, 0, 0, false⟩, shortWord1 0, 0⟩
  | .walkStart _ => ⟨⟨15, false, 0, 0, false⟩, shortWord1 0, 0⟩
  | .walkReadComplete _ _ => ⟨⟨15, false, 0, 0, false⟩, shortWord1 0, 0⟩
  | .l2Request _ => ⟨⟨15, false, 0, 0, false⟩, shortWord1 0, 0⟩
  | .l2Fill _ => ⟨⟨15, false, 0, 0, false⟩, shortWord1 0, 0⟩
  | .invalidateProbe _ _ => ⟨⟨15, false, 0, 0, false⟩, shortWord1 0, 0⟩
  | .invalidateAck _ _ => ⟨⟨15, false, 0, 0, false⟩, shortWord1 0, 0⟩
  | .l1Writeback _ _ => ⟨⟨15, false, 0, 0, false⟩, shortWord1 0, 0⟩
  | .vaultRequest _ => ⟨⟨15, false, 0, 0, false⟩, shortWord1 0, 0⟩
  | .ottEntryGrant _ => ⟨⟨15, false, 0, 0, false⟩, shortWord1 0, 0⟩
  | .replicaStore _ _ _ => ⟨⟨15, false, 0, 0, false⟩, shortWord1 0, 0⟩
  | .replicaWrite _ _ _ => ⟨⟨15, false, 0, 0, false⟩, shortWord1 0, 0⟩
  | .divergedHold _ _ => ⟨⟨15, false, 0, 0, false⟩, shortWord1 0, 0⟩
  | .holdComplete _ _ => ⟨⟨15, false, 0, 0, false⟩, shortWord1 0, 0⟩
  | .divergedClear _ _ => ⟨⟨15, false, 0, 0, false⟩, shortWord1 0, 0⟩
  | .meshPacketHop _ _ _ => ⟨⟨15, false, 0, 0, false⟩, shortWord1 0, 0⟩
  | .packetDelivery _ => ⟨⟨15, false, 0, 0, false⟩, shortWord1 0, 0⟩
  | .reorderCreditRequest _ _ _ => ⟨⟨15, false, 0, 0, false⟩, shortWord1 0, 0⟩
  | .reorderCreditGrant _ _ => ⟨⟨15, false, 0, 0, false⟩, shortWord1 0, 0⟩
  | .deliveryConfirmation _ _ _ => ⟨⟨15, false, 0, 0, false⟩, shortWord1 0, 0⟩
  | .permitAudit _ _ => ⟨⟨15, false, 0, 0, false⟩, shortWord1 0, 0⟩
  | .auditMarker _ _ => ⟨⟨15, false, 0, 0, false⟩, shortWord1 0, 0⟩
  | .auditMarkerReturn _ _ => ⟨⟨15, false, 0, 0, false⟩, shortWord1 0, 0⟩
  | .channelRestart _ _ => ⟨⟨15, false, 0, 0, false⟩, shortWord1 0, 0⟩
  | .linkTraining _ _ _ => ⟨⟨15, false, 0, 0, false⟩, shortWord1 0, 0⟩
  | .moduleRetrain _ _ _ => ⟨⟨15, false, 0, 0, false⟩, shortWord1 0, 0⟩
  | .linkFailed _ => ⟨⟨15, false, 0, 0, false⟩, shortWord1 0, 0⟩
  | .axsisFlitRetry _ _ => ⟨⟨15, false, 0, 0, false⟩, shortWord1 0, 0⟩
  | .axsisPortRetrain _ _ => ⟨⟨15, false, 0, 0, false⟩, shortWord1 0, 0⟩
  | .axsisRead _ => ⟨⟨15, false, 0, 0, false⟩, shortWord1 0, 0⟩
  | .readReply _ => ⟨⟨15, false, 0, 0, false⟩, shortWord1 0, 0⟩
  | .axsisWrite _ => ⟨⟨15, false, 0, 0, false⟩, shortWord1 0, 0⟩
  | .writeAcknowledgement _ => ⟨⟨15, false, 0, 0, false⟩, shortWord1 0, 0⟩
  | .axsisAtomic _ => ⟨⟨15, false, 0, 0, false⟩, shortWord1 0, 0⟩
  | .atomicReply _ => ⟨⟨15, false, 0, 0, false⟩, shortWord1 0, 0⟩
  | .contribution _ => ⟨⟨15, false, 0, 0, false⟩, shortWord1 0, 0⟩
  | .partialArrival _ => ⟨⟨15, false, 0, 0, false⟩, shortWord1 0, 0⟩
  | .completion _ => ⟨⟨15, false, 0, 0, false⟩, shortWord1 0, 0⟩
  | .notice _ => ⟨⟨15, false, 0, 0, false⟩, shortWord1 0, 0⟩
  | .flowAcknowledgement _ => ⟨⟨15, false, 0, 0, false⟩, shortWord1 0, 0⟩
  | .axsisResendTimeout _ _ _ => ⟨⟨15, false, 0, 0, false⟩, shortWord1 0, 0⟩
  | .reductionTimeout _ _ => ⟨⟨15, false, 0, 0, false⟩, shortWord1 0, 0⟩
  | .retentionExpiry _ _ => ⟨⟨15, false, 0, 0, false⟩, shortWord1 0, 0⟩
  | .switchSlotTimeout _ _ _ => ⟨⟨15, false, 0, 0, false⟩, shortWord1 0, 0⟩
  | .rekeyRequest _ _ => ⟨⟨15, false, 0, 0, false⟩, shortWord1 0, 0⟩
  | .inboundPostedWrite _ => ⟨⟨15, false, 0, 0, false⟩, shortWord1 0, 0⟩
  | .inboundRead _ => ⟨⟨15, false, 0, 0, false⟩, shortWord1 0, 0⟩
  | .inboundAtomicop _ => ⟨⟨15, false, 0, 0, false⟩, shortWord1 0, 0⟩
  | .hostReadCompletion _ _ _ => ⟨⟨15, false, 0, 0, false⟩, shortWord1 0, 0⟩
  | .hostCompletionTimeout _ => ⟨⟨15, false, 0, 0, false⟩, shortWord1 0, 0⟩
  | .xpartRequest _ _ _ => ⟨⟨15, false, 0, 0, false⟩, shortWord1 0, 0⟩
  | .xwinDrained _ _ => ⟨⟨15, false, 0, 0, false⟩, shortWord1 0, 0⟩
  | .partReset _ => ⟨⟨15, false, 0, 0, false⟩, shortWord1 0, 0⟩
  | .partResetScrub _ => ⟨⟨15, false, 0, 0, false⟩, shortWord1 0, 0⟩
  | .functionLevelReset _ => ⟨⟨15, false, 0, 0, false⟩, shortWord1 0, 0⟩
  | .resetWaitExpiry _ => ⟨⟨15, false, 0, 0, false⟩, shortWord1 0, 0⟩
  | .evtRidxWrite _ _ => ⟨⟨15, false, 0, 0, false⟩, shortWord1 0, 0⟩
  | .patrolScrub _ _ => ⟨⟨15, false, 0, 0, false⟩, shortWord1 0, 0⟩
  | .packagePowerOn => ⟨⟨15, false, 0, 0, false⟩, shortWord1 0, 0⟩
  | .dieRelease _ => ⟨⟨15, false, 0, 0, false⟩, shortWord1 0, 0⟩
  | .fullService => ⟨⟨15, false, 0, 0, false⟩, shortWord1 0, 0⟩
  | .jobKey _ _ _ _ _ => ⟨⟨15, false, 0, 0, false⟩, shortWord1 0, 0⟩
  | .jobRekey _ _ => ⟨⟨15, false, 0, 0, false⟩, shortWord1 0, 0⟩
  | .jobClear _ _ => ⟨⟨15, false, 0, 0, false⟩, shortWord1 0, 0⟩
  | .fwStage _ _ => ⟨⟨15, false, 0, 0, false⟩, shortWord1 0, 0⟩
  | .getVersion _ => ⟨⟨15, false, 0, 0, false⟩, shortWord1 0, 0⟩
  | .getCapabilities _ => ⟨⟨15, false, 0, 0, false⟩, shortWord1 0, 0⟩
  | .negotiateAlgorithms _ => ⟨⟨15, false, 0, 0, false⟩, shortWord1 0, 0⟩
  | .getDigests _ => ⟨⟨15, false, 0, 0, false⟩, shortWord1 0, 0⟩
  | .getCertificate _ => ⟨⟨15, false, 0, 0, false⟩, shortWord1 0, 0⟩
  | .challenge _ _ => ⟨⟨15, false, 0, 0, false⟩, shortWord1 0, 0⟩
  | .getMeasurements _ _ => ⟨⟨15, false, 0, 0, false⟩, shortWord1 0, 0⟩
  | .keyExchange _ => ⟨⟨15, false, 0, 0, false⟩, shortWord1 0, 0⟩
  | .finish _ _ => ⟨⟨15, false, 0, 0, false⟩, shortWord1 0, 0⟩
  | .keyUpdate _ _ => ⟨⟨15, false, 0, 0, false⟩, shortWord1 0, 0⟩
  | .heartbeat _ _ => ⟨⟨15, false, 0, 0, false⟩, shortWord1 0, 0⟩
  | .endSession _ _ => ⟨⟨15, false, 0, 0, false⟩, shortWord1 0, 0⟩
  | .ideKm _ _ _ _ => ⟨⟨15, false, 0, 0, false⟩, shortWord1 0, 0⟩
  | .governorWindow _ _ => ⟨⟨15, false, 0, 0, false⟩, shortWord1 0, 0⟩
  | .pwrLimitWrite _ _ => ⟨⟨15, false, 0, 0, false⟩, shortWord1 0, 0⟩
  | .thermalThrottle _ => ⟨⟨15, false, 0, 0, false⟩, shortWord1 0, 0⟩
  | .thermalRecover _ => ⟨⟨15, false, 0, 0, false⟩, shortWord1 0, 0⟩
  | .thermalTrip _ => ⟨⟨15, false, 0, 0, false⟩, shortWord1 0, 0⟩
  | .illegalOp _ => ⟨⟨15, false, 0, 0, false⟩, shortWord1 0, 0⟩
  | .pciExpressPortTraining _ => ⟨⟨15, false, 0, 0, false⟩, shortWord1 0, 0⟩
  | .ctxRootWrite _ _ => ⟨⟨15, false, 0, 0, false⟩, shortWord1 0, 0⟩

/-- The numbers of the special registers (Table 01-6). -/
def specialNumbers : List Nat :=
  [0x00, 0x01, 0x02, 0x03, 0x04, 0x05, 0x06, 0x07, 0x08, 0x09, 0x0A, 0x0B, 0x10, 0x11, 0x12, 0x13,
   0x20, 0x21, 0x22, 0x23, 0x24, 0x30, 0x31]

/-- A U bit that its field's role forbids (R95, R143): step 4. -/
def Role.badU : Role → Bool → Bool
  | .src _, _ => false
  | .uniS _, _ => false
  | .uni _, u => !u
  | _, u => u

/-- A source field that the instruction does not use and that is not zero, or a wrong U bit: step 4. -/
def Role.bad4 (r : Role) (v : BitVec 8) (u : Bool) : Bool :=
  r.badU u || (decide (r = .unused) && !decide (v = 0))

/-- A word 2 whose bits break R90 or its entry: step 4. -/
def W2.bad4 : W2 → Word → Bool
  | .none, _ => false
  | .immB, _ => false
  | .value, _ => false
  | .zero, w => !decide (w = 0)
  | .offset, w => !decide (w.toNat % 4 = 0)
  | .table, w => !decide (w.toNat < 256)
  | .count, w => decide (w = 0) || !decide (w.toNat < 65536)
  | .token, w => !decide (w.toNat < 256)
  | .format, w => !decide (w.toNat < 64)
  | .rows, w => !decide (w.toNat < 2 ^ 24)
  | .flag, w => !decide (w.toNat < 2)
  | .fill _, w =>
    !decide (bits w.toNat 28 16 = 0)
      || (decide (bits w.toNat 30 29 = 0) && !decide (bits w.toNat 15 0 = 0))
      || (decide (bits w.toNat 30 29 = 1) && !decide (bits w.toNat 15 9 = 0))

/-- A fill that the instruction does not take (R189): step 5. -/
def W2.bad5 : W2 → Word → Bool
  | .fill .none, w => !decide (bits w.toNat 30 29 = 0)
  | .fill .vote, w =>
    !(decide (bits w.toNat 30 29 = 0) || (decide (bits w.toNat 30 29 = 2) && decide (bits w.toNat 15 0 < 2)))
  | _, _ => false

/-- A uniform fill register out of range (R189): step 6. -/
def W2.bad6 : W2 → Word → Bool
  | .fill .all, w => decide (bits w.toNat 30 29 = 1) && bit w.toNat 8 && !decide (bits w.toNat 7 0 < 64)
  | _, _ => false

/-- A second type that is not accepted, or a vector source of a `.u` instruction: step 5. -/
def Role.bad5 : Role → BitVec 8 → Bool → Bool
  | .stype codes, v, _ => !(decide (v.toNat < 32) && codes.testBit v.toNat)
  | .uniS _, _, u => !u
  | _, _, _ => false

/-- A field value outside its range in Table 03-4: step 6. -/
def Role.bad6 : Role → BitVec 8 → Bool → Bool
  | .src _, v, u => u && !decide (v.toNat < 64)
  | .uni _, v, _ => !decide (v.toNat < 64)
  | .uniS _, v, _ => !decide (v.toNat < 64)
  | .duni _, v, _ => !decide (v.toNat < 64)
  | .pred, v, _ => !decide (v.toNat < 16)
  | .npred, v, _ => !decide (v.toNat % 128 < 16)
  | .tile, v, _ => !decide (v.toNat < 16)
  | .acc, v, _ => !decide (v.toNat < 8)
  | .foreQueue, v, _ => !decide (v.toNat < 8)
  | .backQueue, v, _ => !(decide (8 ≤ v.toNat) && decide (v.toNat < 12))
  | .handle, v, _ => !decide (v.toNat < 16)
  | .special, v, _ => !specialNumbers.contains v.toNat
  | .barrier level, v, _ => !decide (v.toNat < if level = 0 then 16 else 4)
  | .imm lo hi, v, _ => !(decide (lo ≤ v.toNat) && decide (v.toNat ≤ hi))
  | .partw, v, _ => !([2, 4, 8, 16, 32].contains v.toNat)
  | .mmaA, v, _ => !(decide (v.toNat < 0x10) || decide (0x80 ≤ v.toNat))
  | .mmasC, v, _ => decide (192 ≤ v.toNat) || !decide (v.toNat % 64 < 16)
  | _, _, _ => false

/-- A control instruction whose SUB column holds 0 (Table 05-1). -/
def Row.controlSub (r : Row) : Bool := decide (1 ≤ r.opc ∧ r.opc ≤ 0x0A ∧ r.sub = 1)
/-- An integer, bit-field, compare or move instruction (Table 05-2). -/
def Row.integer (r : Row) : Bool := decide (0x20 ≤ r.opc ∧ r.opc ≤ 0x49)
/-- SAT is 1 where the row does not accept it. -/
def satBad (r : Row) (x : Fields) : Bool := x.h.sat && !r.flags.testBit 3

/-- Step 4 of Table 03-10. DEDUCED: a SUB other than 0 of a control instruction whose SUB column holds 0 (`NOP`, `BRA`, `BRAL`, `DBNZ`, `SLEEPC`)
is refused here, as R135 says of these instructions, and not at step 5, where Table 03-10 names SUB of any (log entry 21). -/
def fails4 (r : Row) (x : Fields) : Bool :=
  (decide (r.d = .unused) && !decide (x.f.d = 0))
    || r.a.bad4 x.f.a x.f.au || r.b.bad4 x.h.b x.h.bu || r.c.bad4 x.h.c x.h.cu
    || (!decide (x.h.rnd = 0) && !r.flags.testBit 0) || (x.h.fzi && !r.flags.testBit 1)
    || (x.h.fzo && !r.flags.testBit 2) || (satBad r x && !r.integer) || (r.controlSub && !decide (x.h.sub = 0)) || r.w2.bad4 x.w

/-- Step 5 of Table 03-10. DEDUCED: SAT = 1 on an integer instruction that does not accept it is refused here, as R143 says of these instructions,
and not at step 4, where Table 03-10 names SAT of any (log entry 21). -/
def fails5 (r : Row) (x : Fields) : Bool :=
  (satBad r x && r.integer) || !r.sub.testBit x.h.sub.toNat || !r.typ.testBit x.h.typ.toNat
    || r.a.bad5 x.f.a x.f.au || r.b.bad5 x.h.b x.h.bu || r.c.bad5 x.h.c x.h.cu || r.w2.bad5 x.w

/-- Step 6 of Table 03-10. -/
def fails6 (r : Row) (x : Fields) : Bool :=
  r.d.bad6 x.f.d false || r.a.bad6 x.f.a x.f.au || r.b.bad6 x.h.b x.h.bu || r.c.bad6 x.h.c x.h.cu || r.w2.bad6 x.w

/-- A register source whose U bit the access slice requires to be 1 (R95): step 3 there. -/
def Role.needsU : Role → Bool
  | .src _ | .uni _ | .uniS _ | .vec _ => true
  | _ => false

/-- The conditions of step 3 that the words decide for the access slice. -/
def accessBad (r : Row) (x : Fields) : Bool :=
  r.accBad || (r.a.needsU && !x.f.au) || (r.b.needsU && !x.h.bu) || (r.c.needsU && !x.h.cu)

/-- A `.u` pointer instruction: its quad and destination are uniform (R246). -/
def dotU (r : Row) : Bool :=
  let isS := fun (q : Role) => match q with
    | .uniS _ => true
    | _ => false
  isS r.a || isS r.b || isS r.c || decide (r.d = .duni 4)

/-- What a pairable form is (Table 03-7): its class (0 I, 1 F, 2 S) and its number of sources; `none` reserved. -/
def pairForm (p : Nat) : Option (Nat × Nat) :=
  if p ≤ 0x12 then some (0, 2) else if p ≤ 0x19 then some (0, 1) else if p < 0x20 then none
  else if p ≤ 0x2B then some (1, 2) else if p ≤ 0x2D then some (1, 1) else if p < 0x30 then none
  else if p ≤ 0x37 then some (2, 1) else none

/-- Step 4 in a slot: B of a one-source form is not zero (Table 03-6). -/
def slotFails4 (s : PairSlot) : Bool :=
  match pairForm s.psub.toNat with
  | some (_, 1) => !decide (s.b = 0)
  | _ => false

/-- Step 6 in a slot: a uniform register out of range. -/
def slotFails6 (s : PairSlot) : Bool :=
  match pairForm s.psub.toNat with
  | some (_, 1) => s.f && !decide (s.a.toNat < 64)
  | some _ => s.f && !decide (s.b.toNat < 64)
  | none => false

/-- The source registers of a slot that count under R102: uniform registers as 256 + k. -/
def slotSources (s : PairSlot) : List Nat :=
  match pairForm s.psub.toNat with
  | some (_, 1) => if s.f then (if s.a.toNat = 63 then [] else [256 + s.a.toNat])
                   else (if s.a.toNat = 255 then [] else [s.a.toNat])
  | some _ =>
    (if s.a.toNat = 255 then [] else [s.a.toNat])
      ++ (if s.f then (if s.b.toNat = 63 then [] else [256 + s.b.toNat])
          else (if s.b.toNat = 255 then [] else [s.b.toNat]))
  | none => []

/-- A list of numbers without repeats. -/
def nub : List Nat → List Nat
  | [] => []
  | x :: l => if l.contains x then nub l else x :: nub l

/-- R102: the sources, destinations and classes of a pair word are legal. -/
def pairLegal (s0 s1 : PairSlot) : Bool :=
  let src := nub (slotSources s0 ++ slotSources s1)
  let bank := fun b => (src.filter (fun k => decide (k < 256) && decide (k % 4 = b))).length
  decide (src.length ≤ 4) && decide (bank 0 ≤ 2) && decide (bank 1 ≤ 2) && decide (bank 2 ≤ 2) && decide (bank 3 ≤ 2)
    && !decide (s0.d.toNat % 4 = s1.d.toNat % 4)
    && (match pairForm s0.psub.toNat, pairForm s1.psub.toNat with
        | some (0, _), some (0, _) => false
        | some (2, _), some (2, _) => false
        | some _, some _ => true
        | _, _ => false)

/-- The first check of Table 03-10 that the slots of a pair word fail, and in which slot. DESIGN CHOICE: where both slots fail the same step,
slot 0 is reported; R108 does not say which (log entry 21). -/
def pairCheck (s0 s1 : PairSlot) : Option (Why × Bool) :=
  if (pairForm s0.psub.toNat).isNone then some (.reserved, false)
  else if (pairForm s1.psub.toNat).isNone then some (.reserved, true)
  else if slotFails4 s0 then some (.unusedField, false)
  else if slotFails4 s1 then some (.unusedField, true)
  else if slotFails6 s0 then some (.operand, false)
  else if slotFails6 s1 then some (.operand, true)
  else none

/-- The first word-only check of steps 4 to 6 that an instruction fails. R102 (step 8) comes after the register
checks of step 7, so issuing the pair word makes it. -/
def encCheck (i : Instr) : Option (Why × Bool) :=
  match i with
  | .pairWord s0 s1 => pairCheck s0 s1
  | i =>
    if (rowOf i).len = 0 then some (.reserved, false)
    else if fails4 (rowOf i) (fieldsOf i) then some (.unusedField, false)
    else if fails5 (rowOf i) (fieldsOf i) then some (.subOrType, false)
    else if fails6 (rowOf i) (fieldsOf i) then some (.operand, false)
    else none

end Sys2Proof.Machine
end

