-- ==== Sys2Proof/WellFormed.lean ====
section
/-! DEFINITION. Which instructions are well formed: those whose words pass every check of Table 03-10 that reads the
words alone. -/
namespace Sys2Proof
open Sys2Proof.Machine

/-- The instruction has an encoding, and its words pass steps 1, 2, 4, 5, 6 and 8 of Table 03-10. -/
def Instr.wf (i : Instr) : Bool :=
  (encCheck i).isNone && (match i with
    | .pairWord s0 s1 => pairLegal s0 s1
    | _ => true)

end Sys2Proof
end

