-- ==== Sys2Proof/Decode.lean ====
section
/-! DEFINITION. From bytes to instructions and back. `decode` is total: it answers an instruction or the step of
Table 03-10 at which the words are refused (R107, R108). -/
namespace Sys2Proof
open Sys2Proof.Machine

/-- Word 0 (Table 03-1) of the number `x`. -/
def word0Of (x : Nat) : Word0 :=
  { gp := BitVec.ofNat 4 (bits x 13 10), gn := bit x 14, d := BitVec.ofNat 8 (bits x 22 15),
    a := BitVec.ofNat 8 (bits x 30 23), au := bit x 31 }

/-- Word 1 (Table 03-2) of the number `x`. -/
def word1Of (x : Nat) : Word1 :=
  { b := BitVec.ofNat 8 (bits x 7 0), c := BitVec.ofNat 8 (bits x 15 8), bu := bit x 16, cu := bit x 17,
    rnd := BitVec.ofNat 2 (bits x 19 18), fzi := bit x 20, fzo := bit x 21, sat := bit x 22,
    typ := BitVec.ofNat 5 (bits x 27 23), sub := BitVec.ofNat 4 (bits x 31 28) }

/-- A slot of a pair word (Table 03-6) of the 31-bit number `x`. -/
def slotOf (x : Nat) : PairSlot :=
  { psub := BitVec.ofNat 6 (bits x 5 0), d := BitVec.ofNat 8 (bits x 13 6), a := BitVec.ofNat 8 (bits x 21 14),
    b := BitVec.ofNat 8 (bits x 29 22), f := bit x 30 }

/-- The instruction of opcode `opc` and length `len` with the given words; none where the opcode map (Table 03-9)
has no such opcode or length. The short layouts of Table 03-3 are read in `decodeWords`. -/
def ofFields (opc len : Nat) (f : Word0) (h : Word1) (w : Word) : Option Instr :=
  match opc with
  | 0x01 => if len = 4 then some (.nop f) else if len = 8 then some (.nop8 f h) else if len = 12 then some (.nop12 f h w) else none
  | 0x02 => if len = 12 then some (.bra12 f h w) else none
  | 0x03 => if len = 12 then some (.bral f h w) else none
  | 0x04 => if len = 4 then some (.jmpi f) else none
  | 0x05 => if len = 4 then some (.ret f) else none
  | 0x06 => if len = 4 then some (.exit f) else none
  | 0x07 => if len = 12 then some (.dbnz f h w) else none
  | 0x08 => if len = 12 then some (.brq f h w) else none
  | 0x09 => if len = 4 then some (.yield f) else none
  | 0x0A => if len = 4 then some (.sleepc f) else if len = 12 then some (.sleepc12 f h w) else none
  | 0x0B => if len = 4 then some (.trap f) else none
  | 0x0C => if len = 4 then (if f.d = 1 then some (.tretEnd f) else some (.tret f)) else none
  | 0x0D => if len = 4 then some (.bkpt f) else none
  | 0x0E => if len = 8 then some (.icinv f h) else none
  | 0x0F => if len = 8 then some (.mfsr f h) else none
  | 0x10 => if len = 8 then some (.mtsr f h) else none
  | 0x11 => if len = 8 then some (.bar f h) else if len = 12 then some (.bar12 f h w) else none
  | 0x12 => if len = 8 then some (.bara f h) else if len = 12 then some (.bara12 f h w) else none
  | 0x13 => if len = 8 then some (.barw f h) else if len = 12 then some (.barw12 f h w) else none
  | 0x14 => if len = 8 then some (.cancel f h) else none
  | 0x20 => if len = 8 then some (.iadd f h) else if len = 12 then some (.iadd12 f h w) else none
  | 0x21 => if len = 8 then some (.isub f h) else if len = 12 then some (.isub12 f h w) else none
  | 0x22 => if len = 8 then some (.iaddc f h) else if len = 12 then some (.iaddc12 f h w) else none
  | 0x23 => if len = 8 then some (.isubc f h) else if len = 12 then some (.isubc12 f h w) else none
  | 0x24 => if len = 4 then some (.ineg f) else if len = 8 then some (.ineg8 f h) else none
  | 0x25 => if len = 8 then some (.imul f h) else if len = 12 then some (.imul12 f h w) else none
  | 0x26 => if len = 8 then some (.imulh f h) else if len = 12 then some (.imulh12 f h w) else none
  | 0x27 => if len = 8 then some (.imad f h) else if len = 12 then some (.imad12 f h w) else none
  | 0x28 => if len = 8 then some (.imadw f h) else if len = 12 then some (.imadw12 f h w) else none
  | 0x29 => if len = 8 then some (.imin f h) else if len = 12 then some (.imin12 f h w) else none
  | 0x2A => if len = 8 then some (.imax f h) else if len = 12 then some (.imax12 f h w) else none
  | 0x2B => if len = 4 then some (.iabs f) else if len = 8 then some (.iabs8 f h) else none
  | 0x2C => if len = 8 then some (.iadif f h) else if len = 12 then some (.iadif12 f h w) else none
  | 0x30 => if len = 8 then some (.shl f h) else if len = 12 then some (.shl12 f h w) else none
  | 0x31 => if len = 8 then some (.shr f h) else if len = 12 then some (.shr12 f h w) else none
  | 0x32 => if len = 8 then some (.sar f h) else if len = 12 then some (.sar12 f h w) else none
  | 0x33 => if len = 8 then some (.dsh f h) else if len = 12 then some (.dsh12 f h w) else none
  | 0x34 => if len = 8 then some (.rot f h) else if len = 12 then some (.rot12 f h w) else none
  | 0x35 => if len = 12 then some (.lut3 f h w) else none
  | 0x36 => if len = 4 then some (.popc f) else if len = 8 then some (.popc8 f h) else none
  | 0x37 => if len = 4 then some (.clz f) else if len = 8 then some (.clz8 f h) else none
  | 0x38 => if len = 4 then some (.ctz f) else if len = 8 then some (.ctz8 f h) else none
  | 0x39 => if len = 4 then some (.brev f) else if len = 8 then some (.brev8 f h) else none
  | 0x3A => if len = 8 then some (.bfx f h) else if len = 12 then some (.bfx12 f h w) else none
  | 0x3B => if len = 8 then some (.bfi f h) else if len = 12 then some (.bfi12 f h w) else none
  | 0x3C => if len = 8 then some (.bsel f h) else if len = 12 then some (.bsel12 f h w) else none
  | 0x40 => if len = 8 then some (.isetp f h) else if len = 12 then some (.isetp12 f h w) else none
  | 0x41 => if len = 8 then some (.isel f h) else if len = 12 then some (.isel12 f h w) else none
  | 0x42 => if len = 4 then some (.mov f) else if len = 8 then some (.mov8 f h) else none
  | 0x43 => if len = 12 then some (.movi f h w) else none
  | 0x44 => if len = 12 then some (.plop f h w) else none
  | 0x45 => if len = 4 then some (.p2v f) else if len = 8 then some (.p2v8 f h) else none
  | 0x46 => if len = 8 then some (.v2p f h) else none
  | 0x47 => if len = 4 then some (.s2v f) else if len = 8 then some (.s2v8 f h) else none
  | 0x48 => if len = 8 then some (.v2s f h) else none
  | 0x49 => if len = 8 then some (.lea f h) else if len = 12 then some (.lea12 f h w) else none
  | 0x60 => if len = 8 then some (.fadd f h) else if len = 12 then some (.fadd12 f h w) else none
  | 0x61 => if len = 8 then some (.fsub f h) else if len = 12 then some (.fsub12 f h w) else none
  | 0x62 => if len = 8 then some (.fmul f h) else if len = 12 then some (.fmul12 f h w) else none
  | 0x63 => if len = 8 then some (.ffma f h) else if len = 12 then some (.ffma12 f h w) else none
  | 0x64 => if len = 8 then some (.fmin f h) else if len = 12 then some (.fmin12 f h w) else none
  | 0x65 => if len = 8 then some (.fmax f h) else if len = 12 then some (.fmax12 f h w) else none
  | 0x66 => if len = 8 then some (.fminp f h) else if len = 12 then some (.fminp12 f h w) else none
  | 0x67 => if len = 8 then some (.fmaxp f h) else if len = 12 then some (.fmaxp12 f h w) else none
  | 0x68 => if len = 8 then some (.fsetp f h) else if len = 12 then some (.fsetp12 f h w) else none
  | 0x69 => if len = 8 then some (.fsel f h) else if len = 12 then some (.fsel12 f h w) else none
  | 0x6A => if len = 8 then some (.fclass f h) else none
  | 0x6B => if len = 8 then some (.fscale f h) else if len = 12 then some (.fscale12 f h w) else none
  | 0x6C => if len = 4 then some (.frnd f) else if len = 8 then some (.frnd8 f h) else none
  | 0x70 => if len = 8 then some (.dadd f h) else none
  | 0x71 => if len = 8 then some (.dmul f h) else none
  | 0x72 => if len = 8 then some (.dfma f h) else none
  | 0x73 => if len = 8 then some (.dsetp f h) else none
  | 0x78 => if len = 8 then some (.hadd2 f h) else if len = 12 then some (.hadd212 f h w) else none
  | 0x79 => if len = 8 then some (.hmul2 f h) else if len = 12 then some (.hmul212 f h w) else none
  | 0x7A => if len = 8 then some (.hfma2 f h) else if len = 12 then some (.hfma212 f h w) else none
  | 0x7B => if len = 8 then some (.fdot2 f h) else none
  | 0x7C => if len = 8 then some (.fdot4 f h) else none
  | 0x80 => if len = 8 then some (.fcvt f h) else none
  | 0x81 => if len = 8 then some (.fcvti f h) else none
  | 0x82 => if len = 8 then some (.icvtf f h) else none
  | 0x88 => if len = 4 then some (.frcp f) else if len = 8 then some (.frcp8 f h) else none
  | 0x89 => if len = 4 then some (.frsq f) else if len = 8 then some (.frsq8 f h) else none
  | 0x8A => if len = 4 then some (.fsqrt f) else if len = 8 then some (.fsqrt8 f h) else none
  | 0x8B => if len = 4 then some (.fex2 f) else if len = 8 then some (.fex28 f h) else none
  | 0x8C => if len = 4 then some (.flg2 f) else if len = 8 then some (.flg28 f h) else none
  | 0x8D => if len = 4 then some (.fsin f) else if len = 8 then some (.fsin8 f h) else none
  | 0x8E => if len = 4 then some (.fcos f) else if len = 8 then some (.fcos8 f h) else none
  | 0x8F => if len = 4 then some (.ftanh f) else if len = 8 then some (.ftanh8 f h) else none
  | 0x90 => if len = 8 then some (.fdivf f h) else none
  | 0xA0 => if len = 8 then some (.vote f h) else if len = 12 then some (.vote12 f h w) else none
  | 0xA1 => if len = 8 then some (.lpick f h) else if len = 12 then some (.lpick12 f h w) else none
  | 0xA2 => if len = 8 then some (.redux f h) else if len = 12 then some (.redux12 f h w) else none
  | 0xA3 => if len = 8 then some (.scan f h) else if len = 12 then some (.scan12 f h w) else none
  | 0xA4 => if len = 8 then some (.matchLanes f h) else if len = 12 then some (.matchLanes12 f h w) else none
  | 0xA5 => if len = 8 then some (.elect f h) else if len = 12 then some (.elect12 f h w) else none
  | 0xA6 => if len = 4 then some (.part f) else if len = 8 then some (.part8 f h) else none
  | 0xB0 => if len = 8 then some (.ld f h) else if len = 12 then some (.ld12 f h w) else none
  | 0xB1 => if len = 8 then some (.st f h) else if len = 12 then some (.st12 f h w) else none
  | 0xB2 => if len = 8 then some (.atom f h) else if len = 12 then some (.atom12 f h w) else none
  | 0xB3 => if len = 8 then some (.cas f h) else if len = 12 then some (.cas12 f h w) else none
  | 0xB4 => if len = 8 then some (.pref f h) else if len = 12 then some (.pref12 f h w) else none
  | 0xB8 => if len = 8 then some (.pmake f h) else none
  | 0xB9 => if len = 8 then some (.psub f h) else if len = 12 then some (.psub12 f h w) else none
  | 0xBA => if len = 8 then some (.padv f h) else if len = 12 then some (.padv12 f h w) else none
  | 0xBB => if len = 8 then some (.pretype f h) else none
  | 0xBC => if len = 8 then some (.pwiden f h) else none
  | 0xBD => if len = 8 then some (.pnarrow f h) else none
  | 0xBE => if len = 8 then some (.pchk f h) else if len = 12 then some (.pchk12 f h w) else none
  | 0xC0 => if len = 8 then some (.rwb f h) else none
  | 0xC1 => if len = 8 then some (.rinv f h) else none
  | 0xC4 => if len = 8 then some (.qld f h) else if len = 12 then some (.qld12 f h w) else none
  | 0xC5 => if len = 8 then some (.qpush f h) else none
  | 0xC6 => if len = 4 then some (.qpop f) else if len = 8 then some (.qpop8 f h) else none
  | 0xC7 => if len = 4 then some (.qbpush f) else if len = 8 then some (.qbpush8 f h) else none
  | 0xC8 => if len = 4 then some (.qbpop f) else if len = 8 then some (.qbpop8 f h) else none
  | 0xD0 => if len = 8 then some (.oph f h) else if len = 12 then some (.oph12 f h w) else none
  | 0xD1 => if len = 8 then some (.mma f h) else none
  | 0xD2 => if len = 8 then some (.mmas f h) else none
  | 0xD3 => if len = 4 then some (.azero f) else none
  | 0xD4 => if len = 8 then some (.amov f h) else none
  | 0xD5 => if len = 8 then some (.tldv f h) else none
  | 0xD6 => if len = 8 then some (.tstv f h) else none
  | 0xD7 => if len = 8 then some (.park f h) else none
  | 0xD8 => if len = 8 then some (.unpark f h) else none
  | 0xD9 => if len = 8 then some (.tcopy f h) else if len = 12 then some (.tcopy12 f h w) else none
  | 0xDA => if len = 12 then some (.coll f h w) else none
  | _ => none

/-- The opcode is assigned in some length (Table 03-9). -/
def opcKnown (opc : Nat) (f : Word0) (h : Word1) (w : Word) : Bool :=
  decide (opc = 0x02) || decide (opc = 0xDF) || (ofFields opc 4 f h w).isSome || (ofFields opc 8 f h w).isSome
    || (ofFields opc 12 f h w).isSome

/-- A refusal that no slice can change. -/
def rejectWord (y : Why) (slot1 : Bool) : Reject :=
  { why := y, slot1 := slot1, inAccess := true, inCrew := true, handlerOnly := false, accessBad := false, accessU := false }

/-- A refusal of an instruction of a known row. -/
def rejectInstr (i : Instr) (y : Why) (slot1 : Bool) : Reject :=
  match i with
  | .pairWord _ _ => { why := y, slot1 := slot1, inAccess := false, inCrew := true, handlerOnly := false, accessBad := false, accessU := false }
  | i => { why := y, slot1 := slot1, inAccess := (rowOf i).acc, inCrew := (rowOf i).crew, handlerOnly := (rowOf i).hand,
           accessBad := accessBad (rowOf i) (fieldsOf i), accessU := dotU (rowOf i) }

/-- An instruction that passes the checks of steps 4 to 6, or the refusal. -/
def checked (i : Instr) : Except Reject Instr :=
  match encCheck i with
  | none => .ok i
  | some (y, slot1) => .error (rejectInstr i y slot1)

/-- The length in bytes that bits [1:0] of word 0 give (R87). -/
def lengthOf (w0 : Nat) : Nat :=
  if w0 % 4 = 0 then 4 else if w0 % 4 = 1 then 8 else if w0 % 4 = 2 then 12 else 8

/-- Decodes an instruction from its words (R87 to R93, R99, R107, R108). -/
def decodeWords (w0 w1 w2 : Nat) : Except Reject Instr :=
  if w0 % 4 = 3 then
    checked (.pairWord (slotOf (bits (w0 + 2 ^ 32 * w1) 32 2)) (slotOf (bits (w0 + 2 ^ 32 * w1) 63 33)))
  else
    let opc := bits w0 9 2
    let len := lengthOf w0
    let f := word0Of w0
    if opc = 0x02 ∧ len = 4 then .ok (.bra f.gp f.gn (BitVec.ofNat 17 (bits w0 31 15)))
    else if opc = 0xDF ∧ len = 4 then
      if bit w0 31 then .error (rejectWord .unusedField false)
      else .ok (.wait f.gp f.gn (BitVec.ofNat 4 (bits w0 30 27)) (BitVec.ofNat 4 (bits w0 26 23))
        (BitVec.ofNat 4 (bits w0 22 19)) (BitVec.ofNat 4 (bits w0 18 15)))
    else if opc = 0xDF ∧ len = 8 then
      if bits w0 31 15 = 0 ∧ bits w1 31 24 = 0 then
        .ok (.wait8 f.gp f.gn (BitVec.ofNat 6 (bits w1 23 18)) (BitVec.ofNat 6 (bits w1 17 12))
          (BitVec.ofNat 6 (bits w1 11 6)) (BitVec.ofNat 6 (bits w1 5 0)))
      else .error (rejectWord .unusedField false)
    else match ofFields opc len f (word1Of w1) (BitVec.ofNat 32 w2) with
      | some i => checked i
      | none => .error (rejectWord (if opcKnown opc f (word1Of w1) (BitVec.ofNat 32 w2) then .length else .reserved) false)

/-- Decodes the instruction at the head of a list of bytes, each word little-endian (R87). -/
def decode (bs : List Byte) : Except Reject Instr :=
  let w0 := ofLeBytes (bs.take 4)
  if bs.length < 4 ∨ bs.length < lengthOf w0 then .error (rejectWord .truncated false)
  else decodeWords w0 (ofLeBytes ((bs.drop 4).take 4)) (ofLeBytes ((bs.drop 8).take 4))

/-- Bit `i` of a word from a flag. -/
def flagAt (b : Bool) (i : Nat) : Nat := if b then 2 ^ i else 0

/-- Word 0 as a number. -/
def Word0.pack (f : Word0) (opc lenCode : Nat) : Nat :=
  lenCode + opc * 2 ^ 2 + f.gp.toNat * 2 ^ 10 + flagAt f.gn 14 + f.d.toNat * 2 ^ 15 + f.a.toNat * 2 ^ 23 + flagAt f.au 31

/-- Word 1 as a number. -/
def Word1.pack (h : Word1) : Nat :=
  h.b.toNat + h.c.toNat * 2 ^ 8 + flagAt h.bu 16 + flagAt h.cu 17 + h.rnd.toNat * 2 ^ 18 + flagAt h.fzi 20
    + flagAt h.fzo 21 + flagAt h.sat 22 + h.typ.toNat * 2 ^ 23 + h.sub.toNat * 2 ^ 28

/-- A slot as a 31-bit number. -/
def PairSlot.pack (s : PairSlot) : Nat :=
  s.psub.toNat + s.d.toNat * 2 ^ 6 + s.a.toNat * 2 ^ 14 + s.b.toNat * 2 ^ 22 + flagAt s.f 30

/-- The words of an instruction; none for a step that has no encoding. -/
def encodeWords (i : Instr) : List Nat :=
  match i with
  | .bra gp gn o => [0x02 * 2 ^ 2 + gp.toNat * 2 ^ 10 + flagAt gn 14 + o.toNat * 2 ^ 15]
  | .wait gp gn t c s l =>
    [0xDF * 2 ^ 2 + gp.toNat * 2 ^ 10 + flagAt gn 14 + l.toNat * 2 ^ 15 + s.toNat * 2 ^ 19 + c.toNat * 2 ^ 23
      + t.toNat * 2 ^ 27]
  | .wait8 gp gn t c s l =>
    [1 + 0xDF * 2 ^ 2 + gp.toNat * 2 ^ 10 + flagAt gn 14,
      l.toNat + s.toNat * 2 ^ 6 + c.toNat * 2 ^ 12 + t.toNat * 2 ^ 18]
  | .pairWord s0 s1 =>
    let v := 3 + s0.pack * 2 ^ 2 + s1.pack * 2 ^ 33
    [v % 2 ^ 32, v / 2 ^ 32]
  | i =>
    let r := rowOf i
    let x := fieldsOf i
    if r.len = 4 then [x.f.pack r.opc 0]
    else if r.len = 8 then [x.f.pack r.opc 1, x.h.pack]
    else if r.len = 12 then [x.f.pack r.opc 2, x.h.pack, x.w.toNat]
    else []

/-- The bytes of an instruction, each word little-endian (R87). -/
def encode (i : Instr) : List Byte := (encodeWords i).flatMap (leBytes 4)

/-- What the decoder reads from an instruction whose bits are `w`, numbered as the opcode table numbers them: bit 0
lowest in the first word; operand words that the table gives no bits are zero. -/
def decodeTableWord (nbits w : Nat) : Option Instr :=
  match decode (leBytes 12 (w % 2 ^ nbits)) with
  | .ok i => some i
  | .error _ => none

end Sys2Proof
end

