-- ==== Sys2Proof/Config.lean ====
section
/-! DEFINITION. What one implementation fixes and what the spec leaves open: the free values, opaque constants
that nothing can evaluate, so that a claim holds whatever they are; and the part's fixed counts (Table 00-1). -/
namespace Sys2Proof.Config
open Sys2Proof

/-- Which of several steps that could come next comes next (R17, R18, R133: no issue order between units is fixed).
Applied to the free-value counter of the state. Log entry 3. -/
opaque pick : Nat → Nat
/-- How many local cycles of die `d` pass during a step (R9, R518). Log entry 4. -/
opaque elapsed : Nat → Nat → Nat
/-- Whether an item that a cache may drop at any time (a TLB entry, an instruction-cache line) is still held. Log entry 5. -/
opaque kept : Nat → Bool
/-- The result bits of a special function within its bound (R183): `fn` is the opcode. Log entry 6. -/
opaque special : Nat → Word → Word
/-- What a byte of the memory of a die reads as after its memory key was replaced `n` times (R486 step 5). Log entry 7. -/
opaque scrubbed : Nat → Nat → Byte
/-- The value of a scratchpad byte that a group reads before writing it (R226). Log entry 8. -/
opaque scratchByte : Nat → Nat → Byte
/-- The code that a store leaves in an element of a NaN block (R215), by format and value: a function of the operands (R85). Log entry 9. -/
opaque nanBlock : Nat → Nat → Word
/-- A value that the spec leaves open at one occurrence: applied to the free-value counter. Log entry 9. -/
opaque freeWord : Nat → Word
/-- Whether an event that the spec leaves to chance or to the part's physics happens. Log entry 10. -/
opaque chance : Nat → Bool

/-- The link-protocol revisions that the firmware of die `d`, or with 4 of the trust die, supports, bit k for revision k + 1 (R446). Log entry 14. -/
opaque linkRevs : Nat → Nat
/-- The IDE stream that the trust die assigns to the outbound requests of port `d` (R481). Log entry 82. -/
opaque outStream : Nat → Nat
/-- The digest of measured content, written as a number (R506). Log entry 14. -/
opaque digest : Nat → Nat
/-- The AES-256-GCM authentication tag of a payload: by the job and the epoch of its key, the nonce and the payload (R468). Log entry 14. -/
opaque gcmTag : Nat → Nat → Nat → Nat → Nat

/-- The Briper revision the part reports (R1). -/
def revision : Nat := 1
/-- Dies of a package (R2, Table 00-1). -/
def dies : Nat := 4
/-- Clusters of a die. -/
def clusters : Nat := 8
/-- Cores of a cluster. -/
def cores : Nat := 12
/-- Bytes of a physical line (R360). -/
def lineBytes : Nat := 192
/-- Bytes of a sector (R360). -/
def sectorBytes : Nat := 48

end Sys2Proof.Config
end

