-- ==== Sys2Proof/Machine/Alu.lean ====
section
/-! DEFINITION. The values that the integer, bit-field and move instructions compute in one lane (Table 05-2, R144 to
R161). Operands and results are bit patterns as natural numbers below 2^N, N being the width of the type. -/
namespace Sys2Proof.Machine
open Sys2Proof

/-- The width in bits of an operand type (Table 03-5); 32 for the untyped code. -/
def tyBits (t : BitVec 5) : Nat :=
  if t = 1 ∨ t = 2 then 8 else if t = 3 ∨ t = 4 then 16 else if t = 7 ∨ t = 8 ∨ t = 9 then 64
  else if t = 0x0B ∨ t = 0x0C then 16 else if t = 0x0D ∨ t = 0x0E then 8
  else if t = 0x0F ∨ t = 0x10 then 6 else if t = 0x11 then 4 else if t = 0x17 then 8 else 32

/-- The signed integer types. -/
def tySigned (t : BitVec 5) : Bool := decide (t = 2 ∨ t = 4 ∨ t = 6 ∨ t = 8)

/-- The N-bit pattern `x` read as an integer. -/
def readInt (signed : Bool) (n x : Nat) : Int :=
  let y := x % 2 ^ n
  if signed && decide (2 ^ (n - 1) ≤ y) then (y : Int) - 2 ^ n else y

/-- The N-bit two's-complement pattern of `x` (R144). -/
def wrapInt (n : Nat) (x : Int) : Nat := (x % (2 : Int) ^ n).toNat

/-- The least value of a type. -/
def intMin (signed : Bool) (n : Nat) : Int := if signed then -(2 : Int) ^ (n - 1) else 0
/-- The greatest value of a type. -/
def intMax (signed : Bool) (n : Nat) : Int := if signed then (2 : Int) ^ (n - 1) - 1 else (2 : Int) ^ n - 1

/-- `x` confined to the range of a type. -/
def clampInt (signed : Bool) (n : Nat) (x : Int) : Int := min (max x (intMin signed n)) (intMax signed n)

/-- The exact integer `x` as the pattern written: clamped first under SAT (R144, R146). -/
def intResult (t : BitVec 5) (sat : Bool) (x : Int) : Nat :=
  wrapInt (tyBits t) (if sat then clampInt (tySigned t) (tyBits t) x else x)

/-- Operand pattern `a` as an integer of type `t`. -/
def asInt (t : BitVec 5) (a : Nat) : Int := readInt (tySigned t) (tyBits t) a

/-- The exact results of Table 05-3. -/
def addX (a b : Int) : Int := a + b
def subX (a b : Int) : Int := a - b
def negX (a : Int) : Int := -a
def absX (a : Int) : Int := if a < 0 then -a else a
def absDiffX (a b : Int) : Int := absX (a - b)
def minX (a b : Int) : Int := if a ≤ b then a else b
def maxX (a b : Int) : Int := if a ≤ b then b else a
def mulX (a b : Int) : Int := a * b
/-- floor(A × B ÷ 2^N), N the width. -/
def mulHighX (n : Nat) (a b : Int) : Int := (a * b) / (2 : Int) ^ n

/-- R149: a shift left. -/
def shlV (n a c : Nat) : Nat := if c < n then (a * 2 ^ c) % 2 ^ n else 0
/-- R149: a logical shift right. -/
def shrV (n a c : Nat) : Nat := if c < n then (a % 2 ^ n) / 2 ^ c else 0
/-- R149: an arithmetic shift right. -/
def sarV (n a c : Nat) : Nat := wrapInt n (readInt true n a / (2 : Int) ^ min c (n - 1))
/-- R149: a rotation left by `c mod N`. -/
def rolV (n a c : Nat) : Nat :=
  let k := c % n
  let y := a % 2 ^ n
  (y * 2 ^ k) % 2 ^ n + y / 2 ^ (n - k)
/-- R149: a rotation right by `c mod N`. -/
def rorV (n a c : Nat) : Nat := rolV n a (n - c % n)

/-- R150: the funnel shift. `sub` [1:0] selects the part and bit 2 saturates the count. -/
def dshV (signed : Bool) (sub : Nat) (a b c : Nat) : Nat :=
  let v : Int := readInt signed 64 (c % 2 ^ 32 * 2 ^ 32 + a % 2 ^ 32)
  let k := if sub.testBit 2 then min b 64 else b % 64
  wrapInt 32 (match sub % 4 with
    | 0 => v / (2 : Int) ^ k
    | 1 => v / (2 : Int) ^ (k + 32)
    | 2 => v * (2 : Int) ^ k
    | _ => v * (2 : Int) ^ k / (2 : Int) ^ 32)

/-- R151: bit `i` of the result for each of `n` bits, from bit a + 2b + 4c of the table. -/
def lut3V (table : Nat) : Nat → Nat → Nat → Nat → Nat
  | 0, _, _, _ => 0
  | n + 1, a, b, c =>
    (if table.testBit (a % 2 + 2 * (b % 2) + 4 * (c % 2)) then 1 else 0) + 2 * lut3V table n (a / 2) (b / 2) (c / 2)

/-- R152: the number of 1 bits among the low `n`. -/
def popcV : Nat → Nat → Nat
  | 0, _ => 0
  | n + 1, a => a % 2 + popcV n (a / 2)

/-- R152: the number of 0 bits below the lowest 1 bit; `n` for zero. -/
def ctzV : Nat → Nat → Nat
  | 0, _ => 0
  | n + 1, a => if a % 2 = 1 then 0 else 1 + ctzV n (a / 2)

/-- R152: the number of 0 bits above the highest 1 bit; `n` for zero. -/
def clzV : Nat → Nat → Nat
  | 0, _ => 0
  | n + 1, a => if a.testBit n then 0 else 1 + clzV n a

/-- R152: bit `i` moved to bit n − 1 − i. -/
def brevV : Nat → Nat → Nat
  | 0, _ => 0
  | n + 1, a => (a % 2) * 2 ^ n + brevV n (a / 2)

/-- R153: the bit field of A that the control word names. -/
def bfxV (signed : Bool) (a ctl : Nat) : Nat :=
  let pos := bits ctl 7 0
  let len := bits ctl 15 8
  if len = 0 ∨ 32 ≤ pos then 0
  else
    let e := min (pos + len) 32
    wrapInt 32 (readInt signed (e - pos) (bits a (e - 1) pos))

/-- R153: the field of A inserted into C. -/
def bfiV (a ctl c : Nat) : Nat :=
  let pos := bits ctl 7 0
  let len := bits ctl 15 8
  if len = 0 ∨ 32 ≤ pos then c
  else setBits c (min (pos + len) 32 - 1) pos a

/-- R154: one byte of `BSEL`. -/
def bselByte (v ctl k : Nat) : Nat :=
  let x := bits v (8 * bits ctl (3 * k + 2) (3 * k) + 7) (8 * bits ctl (3 * k + 2) (3 * k))
  if bit ctl (16 + k) then (if bit x 7 then 0xFF else 0) else if bit ctl (12 + k) then 0 else x

/-- R154: the four selected bytes. -/
def bselV (a ctl c : Nat) : Nat :=
  let v := c % 2 ^ 32 * 2 ^ 32 + a % 2 ^ 32
  bselByte v ctl 0 + 2 ^ 8 * bselByte v ctl 1 + 2 ^ 16 * bselByte v ctl 2 + 2 ^ 24 * bselByte v ctl 3

/-- R155: the comparisons of `ISETP`. -/
def icmp (sub : Nat) (a b : Int) : Bool :=
  match sub with
  | 0 => decide (a = b)
  | 1 => !decide (a = b)
  | 2 => decide (a < b)
  | 3 => decide (a ≤ b)
  | 4 => decide (b < a)
  | _ => decide (b ≤ a)

/-- R157: bit a + 2b + 4c of a truth table. -/
def lutBit (table : Nat) (a b c : Bool) : Bool :=
  table.testBit ((if a then 1 else 0) + (if b then 2 else 0) + (if c then 4 else 0))

/-- R161: a raw byte address. -/
def leaV (signed : Bool) (sub a b : Nat) : Nat :=
  wrapInt 64 ((a : Int) + readInt signed 32 b * (2 : Int) ^ sub)

/-- R91: the 64-bit or 32-bit operand that an immediate stands for. -/
def immOperand (t : BitVec 5) (w : Word) : Nat :=
  if t = 8 then wrapInt 64 (readInt true 32 w.toNat) else w.toNat

end Sys2Proof.Machine
end

