-- ==== Sys2Proof/Machine/Float.lean ====
section
/-! DEFINITION. Floating point (R49 to R86): the formats, exact values, one rounding, flushing, overflow, NaN and the
selections of minimum and maximum. A value is exact: a sign and a dyadic magnitude. -/
namespace Sys2Proof.Machine
open Sys2Proof

/-- A floating-point format (Table 02-2): exponent bits, fraction bits, bias, and which special encodings it has
(Table 02-3): 0 infinities and NaNs, 1 the NaN of `e4m3`, 2 none. -/
structure FFmt where
  ebits : Nat
  mbits : Nat
  bias : Nat
  specials : Nat
deriving DecidableEq, Repr

def fp64F : FFmt := ⟨11, 52, 1023, 0⟩
def fp32F : FFmt := ⟨8, 23, 127, 0⟩
def fp16F : FFmt := ⟨5, 10, 15, 0⟩
def bf16F : FFmt := ⟨8, 7, 127, 0⟩
def e5m2F : FFmt := ⟨5, 2, 15, 0⟩
def e4m3F : FFmt := ⟨4, 3, 7, 1⟩
def e3m2F : FFmt := ⟨3, 2, 3, 2⟩
def e2m3F : FFmt := ⟨2, 3, 1, 2⟩
def e2m1F : FFmt := ⟨2, 1, 1, 2⟩

/-- The format of a TYP code (Table 03-5); fp32 for codes that name no float. -/
def ffOfTyp (t : BitVec 5) : FFmt :=
  if t = 0x09 then fp64F else if t = 0x0B then fp16F else if t = 0x0C then bf16F else if t = 0x0D then e5m2F
  else if t = 0x0E then e4m3F else if t = 0x0F then e3m2F else if t = 0x10 then e2m3F else if t = 0x11 then e2m1F
  else fp32F

/-- The width of a format. -/
def FFmt.width (f : FFmt) : Nat := 1 + f.ebits + f.mbits
/-- The exponent of the largest finite value (Table 02-2). -/
def FFmt.emax (f : FFmt) : Int :=
  if f.specials = 0 then (2 : Int) ^ f.ebits - 2 - f.bias else (2 : Int) ^ f.ebits - 1 - f.bias
/-- The code of the largest finite magnitude. -/
def FFmt.maxCode (f : FFmt) : Nat :=
  if f.specials = 0 then (2 ^ f.ebits - 1) * 2 ^ f.mbits - 1
  else if f.specials = 1 then 2 ^ (f.ebits + f.mbits) - 2
  else 2 ^ (f.ebits + f.mbits) - 1
/-- The code of +∞ in a format that has it. -/
def FFmt.infCode (f : FFmt) : Nat := (2 ^ f.ebits - 1) * 2 ^ f.mbits
/-- The canonical quiet NaN (Table 02-3); +0 where the format has no NaN (R72). -/
def FFmt.nanCode (f : FFmt) : Nat :=
  if f.specials = 0 then f.infCode + 2 ^ (f.mbits - 1)
  else if f.specials = 1 then 2 ^ (f.ebits + f.mbits) - 1 else 0
/-- A code with its sign bit. -/
def FFmt.signed (f : FFmt) (neg : Bool) (code : Nat) : Nat :=
  if neg then 2 ^ (f.ebits + f.mbits) + code else code

/-- An exact value: NaN, an infinity, or ±m × 2^e. -/
inductive Val where
  | nan
  | inf (neg : Bool)
  | fin (neg : Bool) (m : Nat) (e : Int)
deriving DecidableEq, Repr

/-- The value of a code (R49, R50). -/
def FFmt.read (f : FFmt) (code : Nat) : Val :=
  let neg := code.testBit (f.ebits + f.mbits)
  let e := bits code (f.ebits + f.mbits - 1) f.mbits
  let m := code % 2 ^ f.mbits
  if f.specials = 0 ∧ e = 2 ^ f.ebits - 1 then (if m = 0 then .inf neg else .nan)
  else if f.specials = 1 ∧ e = 2 ^ f.ebits - 1 ∧ m = 2 ^ f.mbits - 1 then .nan
  else if e = 0 then .fin neg m (1 - (f.bias : Int) - f.mbits)
  else .fin neg (2 ^ f.mbits + m) ((e : Int) - f.bias - f.mbits)

/-- The code is a subnormal. -/
def FFmt.subnormal (f : FFmt) (code : Nat) : Bool :=
  decide (bits code (f.ebits + f.mbits - 1) f.mbits = 0) && !decide (code % 2 ^ f.mbits = 0)

/-- A subnormal code replaced by a zero of its sign when `fz` is set (R65). -/
def FFmt.flush (f : FFmt) (fz : Bool) (code : Nat) : Nat :=
  if fz && f.subnormal code then f.signed (code.testBit (f.ebits + f.mbits)) 0 else code

/-- Rounds the magnitude quotient `q` with remainder `r` of `2^s`: whether to add one (R64). -/
def roundUp (rnd : Nat) (neg : Bool) (q r half2 : Nat) : Bool :=
  match rnd with
  | 0 => decide (half2 < 2 * r) || (decide (2 * r = half2) && decide (q % 2 = 1))
  | 1 => false
  | 2 => !neg && !decide (r = 0)
  | _ => neg && !decide (r = 0)

/-- The magnitude code of `m × 2^e` rounded with an unbounded exponent (R64); 0 for zero. -/
def FFmt.roundMag (f : FFmt) (rnd : Nat) (neg : Bool) (m : Nat) (e : Int) : Nat :=
  if m = 0 then 0
  else
    let qmin : Int := 1 - (f.bias : Int) - f.mbits
    let q := max ((Nat.log2 m : Int) + e - f.mbits) qmin
    let sig :=
      if q ≤ e then m * 2 ^ (e - q).toNat
      else
        let s := (q - e).toNat
        let hi := m / 2 ^ s
        if roundUp rnd neg hi (m % 2 ^ s) (2 ^ s) then hi + 1 else hi
    sig + (q - qmin).toNat * 2 ^ f.mbits

/-- What an overflow of sign `neg` gives with SAT = 0 (Table 02-8). -/
def FFmt.overflow (f : FFmt) (rnd : Nat) (neg : Bool) : Nat :=
  let toInf := decide (rnd = 0) || (decide (rnd = 2) && !neg) || (decide (rnd = 3) && neg)
  if f.specials = 2 then f.signed neg f.maxCode
  else if toInf then (if f.specials = 0 then f.signed neg f.infCode else f.nanCode)
  else f.signed neg f.maxCode

/-- What an infinite input of a conversion gives (R66, Table 02-8). -/
def FFmt.convInf (f : FFmt) (sat neg : Bool) : Nat :=
  if sat then f.signed neg f.maxCode
  else if f.specials = 0 then f.signed neg f.infCode
  else if f.specials = 1 then f.nanCode
  else f.signed neg f.maxCode

/-- The finite `±m × 2^e` rounded to the format, overflow by SAT (R64 to R66). -/
def FFmt.roundFin (f : FFmt) (rnd : Nat) (sat neg : Bool) (m : Nat) (e : Int) : Nat :=
  let c := f.roundMag rnd neg m e
  if c ≤ f.maxCode then f.signed neg c
  else if sat then f.signed neg f.maxCode
  else f.overflow rnd neg

/-- An arithmetic result delivered: NaN canonical, an infinity kept, a finite value rounded once (R66, R70, R78). -/
def FFmt.deliver (f : FFmt) (rnd : Nat) (sat : Bool) : Val → Nat
  | .nan => f.nanCode
  | .inf neg => if f.specials = 0 then f.signed neg f.infCode else f.convInf sat neg
  | .fin neg m e => f.roundFin rnd sat neg m e

/-- A conversion's result (R66, R72). -/
def FFmt.convert (f : FFmt) (rnd : Nat) (sat : Bool) : Val → Nat
  | .nan => f.nanCode
  | .inf neg => f.convInf sat neg
  | .fin neg m e => f.roundFin rnd sat neg m e

/-- The negation of a value. -/
def Val.negate : Val → Val
  | .nan => .nan
  | .inf n => .inf (!n)
  | .fin n m e => .fin (!n) m e

/-- The exact product; 0 × ∞ is NaN (R68). -/
def Val.mul : Val → Val → Val
  | .nan, _ => .nan
  | _, .nan => .nan
  | .inf n, .inf n' => .inf (n != n')
  | .inf n, .fin n' m _ => if m = 0 then .nan else .inf (n != n')
  | .fin n m _, .inf n' => if m = 0 then .nan else .inf (n != n')
  | .fin n m e, .fin n' m' e' => .fin (n != n') (m * m') (e + e')

/-- `±m` at exponent `e` as an integer multiple of `2^lo`, `lo ≤ e`. -/
def scaled (neg : Bool) (m : Nat) (e lo : Int) : Int :=
  let x : Int := (m * 2 ^ (e - lo).toNat : Nat)
  if neg then -x else x

/-- The least exponent among the finite values of a list. -/
def leastExp : List Val → Int → Int
  | [], lo => lo
  | .fin _ m e :: l, lo => leastExp l (if m = 0 then lo else min e lo)
  | _ :: l, lo => leastExp l lo

/-- The sum of the finite values of a list, in units of `2^lo`. -/
def sumFin (lo : Int) : List Val → Int
  | [] => 0
  | .fin n m e :: l => (if m = 0 then 0 else scaled n m e lo) + sumFin lo l
  | _ :: l => sumFin lo l

/-- R69: the sign of an exact zero sum. -/
def zeroSumSign (rnd : Nat) (l : List Val) : Bool :=
  if l.all (fun v => decide (v = .fin true 0 0) || (match v with | .fin n m _ => n && decide (m = 0) | _ => false)) then true
  else if l.all (fun v => match v with | .fin n m _ => !n && decide (m = 0) | _ => false) then false
  else decide (rnd = 3)

/-- R78: the exact sum of a non-empty list; a zero sum takes the sign of R69. -/
def exactSum (rnd : Nat) (l : List Val) : Val :=
  if l.any (fun v => decide (v = .nan)) then .nan
  else
    let pos := l.any (fun v => decide (v = .inf false))
    let neg := l.any (fun v => decide (v = .inf true))
    if pos && neg then .nan
    else if pos then .inf false
    else if neg then .inf true
    else
      let lo := leastExp l 4096
      let s := sumFin lo l
      if s = 0 then .fin (zeroSumSign rnd l) 0 0 else .fin (decide (s < 0)) s.natAbs lo

/-- The order of two values that are not NaN: −1, 0 or 1; −0 equals +0. -/
def Val.order : Val → Val → Int
  | .inf n, .inf n' => if n = n' then 0 else if n then -1 else 1
  | .inf n, _ => if n then -1 else 1
  | _, .inf n' => if n' then 1 else -1
  | .fin n m e, .fin n' m' e' =>
    let lo := min e e'
    let x := scaled n m e lo
    let y := scaled n' m' e' lo
    if x < y then -1 else if x = y then 0 else 1
  | _, _ => 0

/-- The comparisons of Table 06-2. -/
def fcmp (sub : Nat) (a b : Val) : Bool :=
  let uno := decide (a = .nan) || decide (b = .nan)
  let o := a.order b
  let rel := match sub % 8 with
    | 0 => decide (o = 0)
    | 1 => !decide (o = 0)
    | 2 => decide (o = -1)
    | 3 => !decide (o = 1)
    | 4 => decide (o = 1)
    | _ => !decide (o = -1)
  if sub = 6 then !uno
  else if sub = 7 then uno
  else if 8 ≤ sub then uno || rel
  else !uno && rel

/-- `a` comes before `b` in the order of R71: −0 below +0. -/
def FFmt.before (f : FFmt) (a b : Nat) : Bool :=
  let o := (f.read a).order (f.read b)
  decide (o = -1) || (decide (o = 0) && a.testBit (f.ebits + f.mbits) && !b.testBit (f.ebits + f.mbits))

/-- R71: the minimum (`max` false) or maximum of two codes; `prop` gives NaN when either is NaN. -/
def FFmt.select (f : FFmt) (max prop : Bool) (a b : Nat) : Nat :=
  let na := decide (f.read a = .nan)
  let nb := decide (f.read b = .nan)
  if na && nb then f.nanCode
  else if na || nb then (if prop then f.nanCode else if na then b else a)
  else if (if max then f.before b a else f.before a b) then a else b

/-- R175: the code of `a` rounded to an integral value. -/
def FFmt.integral (f : FFmt) (rnd : Nat) (code : Nat) : Nat :=
  match f.read code with
  | .nan => f.nanCode
  | .inf _ => code
  | .fin neg m e =>
    if 0 ≤ e then code
    else
      let s := (-e).toNat
      let q := m / 2 ^ s
      let q' := if roundUp rnd neg q (m % 2 ^ s) (2 ^ s) then q + 1 else q
      f.roundFin rnd false neg q' 0

/-- A value rounded to an integer by mode, exactly. -/
def roundToInt (rnd : Nat) (neg : Bool) (m : Nat) (e : Int) : Int :=
  let q : Nat :=
    if 0 ≤ e then m * 2 ^ e.toNat
    else
      let s := (-e).toNat
      let hi := m / 2 ^ s
      if roundUp rnd neg hi (m % 2 ^ s) (2 ^ s) then hi + 1 else hi
  if neg then -(q : Int) else q

/-- R73: a float value converted to an integer pattern of width `n`; it always saturates. -/
def valToInt (signed : Bool) (n rnd : Nat) : Val → Nat
  | .nan => 0
  | .inf neg => wrapInt n (if neg then intMin signed n else intMax signed n)
  | .fin neg m e =>
    -- a magnitude beyond every integer type saturates without forming it
    if decide (m ≠ 0) && decide (70 < (Nat.log2 m : Int) + e) then
      wrapInt n (if neg then intMin signed n else intMax signed n)
    else wrapInt n (clampInt signed n (roundToInt rnd neg m e))

/-- The exact value of an integer; zero is +0 (R74). -/
def intVal (x : Int) : Val := .fin (decide (x < 0)) x.natAbs 0

/-- Table 06-3: the mask of a code, its class bit alone. -/
def FFmt.classBit (f : FFmt) (code : Nat) : Nat :=
  match f.read code with
  | .nan => 256
  | .inf neg => if neg then 1 else 128
  | .fin neg m _ =>
    if m = 0 then (if neg then 8 else 16)
    else if f.subnormal code then (if neg then 4 else 32)
    else (if neg then 2 else 64)

/-- A quotient of two finite non-zero magnitudes with a sticky lowest bit: enough bits for any one rounding. -/
def quotient (m : Nat) (e : Int) (m' : Nat) (e' : Int) : Nat × Int :=
  let k := 80 + Nat.log2 m'
  let n := m * 2 ^ k
  (2 * (n / m') + (if n % m' = 0 then 0 else 1), e - e' - k - 1)

/-- IEEE division of values (R184). -/
def Val.div : Val → Val → Val
  | .nan, _ => .nan
  | _, .nan => .nan
  | .inf _, .inf _ => .nan
  | .inf n, .fin n' _ _ => .inf (n != n')
  | .fin n _ _, .inf n' => .fin (n != n') 0 0
  | .fin n m e, .fin n' m' e' =>
    if m' = 0 then (if m = 0 then .nan else .inf (n != n'))
    else if m = 0 then .fin (n != n') 0 0
    else .fin (n != n') (quotient m e m' e').1 (quotient m e m' e').2

/-- The integer square root by bisection over `n` bits: the greatest `r` with r² ≤ x. -/
def isqrtGo (x : Nat) : Nat → Nat → Nat
  | 0, r => r
  | n + 1, r => if (r + 2 ^ n) * (r + 2 ^ n) ≤ x then isqrtGo x n (r + 2 ^ n) else isqrtGo x n r

/-- The square root of a value with a sticky lowest bit (R183). -/
def Val.sqrt : Val → Val
  | .nan => .nan
  | .inf neg => if neg then .nan else .inf false
  | .fin neg m e =>
    if m = 0 then .fin neg 0 0
    else if neg then .nan
    else
      let s : Nat := if e % 2 = 0 then 80 else 81
      let x := m * 2 ^ s
      let r := isqrtGo x ((Nat.log2 x) / 2 + 1) 0
      .fin false (2 * r + (if r * r = x then 0 else 1)) ((e - (s : Int)) / 2 - 1)

end Sys2Proof.Machine
end

