-- ==== Sys2Proof/Machine/Special.lean ====
section
/-! DEFINITION. The special functions (R183, Table 06-4). The manual gives each a bound and some exact results; which
result within the bound the part returns is one fixed mapping that it does not give. The mapping is `Config.special`,
a free value, held to the bound: an enclosure of the exact function value, far tighter than any bound of the table, is
computed in fixed point with 400 fraction bits. -/
namespace Sys2Proof.Machine
open Sys2Proof

/-- Fixed point: a real `x` stands as the integer nearest `x * 2^400`. -/
def fixOne : Int := (2 : Int) ^ 400
/-- π in fixed point. -/
def fixPi : Int := 8112377246730971238862271351300894519161151600179265203591191037615230905373990498745523360926816815427566779727327576236
/-- ln 2 in fixed point. -/
def fixLn2 : Int := 1789879222497203190815761498240779176894896805856420935579692301363062920687047601279850318367644315849030039181347319086
/-- The product of two fixed-point numbers. -/
def fixMul (a b : Int) : Int := (a * b) / fixOne
/-- The quotient of two fixed-point numbers. -/
def fixDiv (a b : Int) : Int := (a * fixOne) / b

/-- `±m * 2^e` in fixed point. -/
def fixOf (neg : Bool) (m : Nat) (e : Int) : Int :=
  let x : Int := if -400 ≤ e then (m : Int) * (2 : Int) ^ (e + 400).toNat else (m : Int) / (2 : Int) ^ (-400 - e).toNat
  if neg then -x else x

/-- Taylor terms of the exponential: `n` terms from term `t` = x^k / k!. -/
def expTerms (x : Int) : Nat → Nat → Int → Int
  | 0, _, _ => 0
  | n + 1, k, t => t + expTerms x n (k + 1) (fixMul t x / ((k : Int) + 1))

/-- e^x for |x| ≤ 1, in fixed point. -/
def expSmall (x : Int) : Int := expTerms x 100 0 fixOne

/-- Terms z^(2k+1) / (2k+1) of the inverse hyperbolic tangent. -/
def atanhTerms (z2 : Int) : Nat → Nat → Int → Int
  | 0, _, _ => 0
  | n + 1, k, t => t / (2 * (k : Int) + 1) + atanhTerms z2 n (k + 1) (fixMul t z2)

/-- log2 of a fixed-point number in [1, 2). -/
def log2Frac (x : Int) : Int :=
  let z := fixDiv (x - fixOne) (x + fixOne)
  fixDiv (2 * atanhTerms (fixMul z z) 140 0 z) fixLn2

/-- Alternating terms of the sine (from t = x, k = 1) and cosine (from t = 1, k = 0). -/
def trigTerms (x2 : Int) : Nat → Nat → Int → Int
  | 0, _, _ => 0
  | n + 1, k, t => t + trigTerms x2 n (k + 2) (-(fixMul t x2) / (((k : Int) + 1) * ((k : Int) + 2)))

/-- An angle reduced into [-π, π), exactly for the precision of π. -/
def reduceAngle (x : Int) : Int := (x + fixPi) % (2 * fixPi) - fixPi

/-- The exponent k with 2^k ≤ |y| < 2^(k+1), for y not 0. -/
def fixExp (y : Int) : Int := (Nat.log2 y.natAbs : Int) - 400

/-- The exact value 2^x of a fixed-point x, -200 < x < 200. -/
def exp2Fix (x : Int) : Int :=
  let n := x / fixOne
  let r := expSmall (fixMul (x % fixOne) fixLn2)
  if 0 ≤ n then r * (2 : Int) ^ n.toNat else r / (2 : Int) ^ (-n).toNat

/-- The exact function value of opcode `fn` at the finite non-zero ±m * 2^e, in fixed point. -/
def specialValue (fn : Nat) (neg : Bool) (m : Nat) (e : Int) : Int :=
  let x := fixOf neg m e
  match fn with
  | 0x88 => fixDiv fixOne x
  | 0x89 => (isqrtGo ((2 : Int) ^ 1200 / x).toNat 600 0 : Nat)
  | 0x8B => exp2Fix x
  | 0x8C =>
    let k := (Nat.log2 m : Int) + e
    k * fixOne + log2Frac (fixOf false m (e - k))
  | 0x8D => let r := reduceAngle x; trigTerms (fixMul r r) 80 1 r
  | 0x8E => let r := reduceAngle x; trigTerms (fixMul r r) 80 0 fixOne
  | _ =>
    -- tanh |x| = (1 - e^(-2|x|)) / (1 + e^(-2|x|)), |x| < 10
    let y := exp2Fix (fixDiv (-2 * (if x < 0 then -x else x)) fixLn2)
    let r := fixDiv (fixOne - y) (fixOne + y)
    if x < 0 then -r else r

/-- One ulp of the exact value `y` (R183), in fixed point. -/
def fixUlp (y : Int) : Int :=
  let k := max (fixExp y) (-126)
  (2 : Int) ^ (k - 23 + 400).toNat

/-- The bound of Table 06-4 on the distance from the exact value `y`, a little widened by the enclosure. -/
def specialBound (fn : Nat) (m : Nat) (e : Int) (y : Int) : Int :=
  let slack : Int := (2 : Int) ^ 100
  let u := if y = 0 then (2 : Int) ^ 251 else fixUlp y
  let k := (Nat.log2 m : Int) + e
  slack + (match fn with
    | 0x88 => u
    | 0x89 => u
    | 0x8C => if k = -1 ∨ k = 0 ∨ (k = 1 ∧ m = 2 ^ Nat.log2 m) then (2 : Int) ^ 378 else 2 * u
    | 0x8D => (2 : Int) ^ 379
    | 0x8E => (2 : Int) ^ 379
    | _ => 2 * u)

/-- A result code lies within the bound of the exact value. +∞ stands one step past the largest finite value. -/
def withinBound (fn : Nat) (m : Nat) (e : Int) (y : Int) (r : Nat) : Bool :=
  match fp32F.read r with
  | .nan => false
  | .inf neg => decide ((fixOf neg 1 128 - y).natAbs ≤ (specialBound fn m e y).natAbs)
  | .fin neg m' e' => decide ((fixOf neg m' e' - y).natAbs ≤ (specialBound fn m e y).natAbs)

/-- The exact value rounded to fp32: what stands in for a mapping that would leave the bound. -/
def roundFix (y : Int) : Nat := fp32F.roundFin 0 false (decide (y < 0)) y.natAbs (-400)

/-- The free mapping held to its bound. -/
def boundedSpecial (fn code : Nat) (neg : Bool) (m : Nat) (e : Int) : Nat :=
  let y := specialValue fn neg m e
  let r := (Config.special fn (BitVec.ofNat 32 code)).toNat
  if withinBound fn m e y r then r else roundFix y

/-- The result of special function `fn` (an opcode of 0x88 to 0x8F) at an fp32 code, before FZO (Table 06-4). -/
def specialResult (fn rnd code : Nat) : Nat :=
  let f := fp32F
  let one := 0x3F800000
  match f.read code with
  | .nan => f.nanCode
  | .inf neg =>
    match fn with
    | 0x88 => f.signed neg 0
    | 0x89 => if neg then f.nanCode else 0
    | 0x8A => if neg then f.nanCode else code
    | 0x8B => if neg then 0 else code
    | 0x8C => if neg then f.nanCode else code
    | 0x8D => f.nanCode
    | 0x8E => f.nanCode
    | _ => f.signed neg one
  | .fin neg m e =>
    if m = 0 then
      match fn with
      | 0x88 => f.signed neg f.infCode
      | 0x89 => f.signed neg f.infCode
      | 0x8A => code
      | 0x8B => one
      | 0x8C => f.signed true f.infCode
      | 0x8D => code
      | 0x8E => one
      | _ => code
    else
      let k := (Nat.log2 m : Int) + e
      let pow2 := decide (m = 2 ^ Nat.log2 m)
      match fn with
      | 0x88 =>
        if pow2 && decide (-126 ≤ k) && decide (k ≤ 126) then f.roundFin 0 false neg 1 (-k)
        else if k < -128 ∨ (k = -128 ∧ pow2) then f.signed neg f.infCode
        else boundedSpecial fn code neg m e
      | 0x89 =>
        if neg then f.nanCode
        else if pow2 && decide (k % 2 = 0) then f.roundFin 0 false false 1 (-(k / 2))
        else boundedSpecial fn code neg m e
      | 0x8A => f.deliver rnd false (Val.sqrt (.fin neg m e))
      | 0x8B =>
        if !neg && decide (7 ≤ k) then f.infCode
        else if neg && (decide (8 ≤ k) || decide (fixOf neg m e < -149 * fixOne)) then 0
        else
          let x := fixOf neg m e
          if x % fixOne = 0 then f.roundFin 0 false false 1 (x / fixOne)
          else boundedSpecial fn code neg m e
      | 0x8C =>
        if neg then f.nanCode
        else if pow2 then (if k = 0 then 0 else f.roundFin 0 false (decide (k < 0)) k.natAbs 0)
        else boundedSpecial fn code neg m e
      | 0x8D => boundedSpecial fn code neg m e
      | 0x8E => boundedSpecial fn code neg m e
      | _ =>
        if decide (4 ≤ k) || decide (10 * fixOne ≤ fixOf false m e) then f.signed neg one
        else boundedSpecial fn code neg m e

/-- A special function with its flushes (R183). -/
def sfu (fn rnd : Nat) (fzi fzo : Bool) (code : Nat) : Nat :=
  fp32F.flush fzo (specialResult fn rnd (fp32F.flush fzi code))

end Sys2Proof.Machine
end

