-- ==== Sys2Proof/Machine/FloatOps.lean ====
section
/-! DEFINITION. The values that the floating-point instructions compute in one lane (Table 06-1, R168 to R185), from
operand codes to a result code. -/
namespace Sys2Proof.Machine
open Sys2Proof

/-- The rounding, flush and saturation fields of word 1 (R165). -/
structure FCtl where
  rnd : Nat
  fzi : Bool
  fzo : Bool
  sat : Bool
deriving DecidableEq, Repr

/-- The control fields of word 1. -/
def fctl (h : Word1) : FCtl := { rnd := h.rnd.toNat, fzi := h.fzi, fzo := h.fzo, sat := h.sat }
/-- RNE without flushing or saturation: the pairable forms (R100). -/
def fctlRne : FCtl := { rnd := 0, fzi := false, fzo := false, sat := false }

/-- An input code after `flush_in`, as a value. -/
def fin (f : FFmt) (k : FCtl) (code : Nat) : Val := f.read (f.flush k.fzi code)

/-- A value rounded once, then `flush_out`. -/
def fout (f : FFmt) (k : FCtl) (v : Val) : Nat := f.flush k.fzo (f.deliver k.rnd k.sat v)

/-- A value, negated when the flag is set: exact (R169). -/
def negIf (b : Bool) (v : Val) : Val := if b then v.negate else v

/-- R168. -/
def faddV (f : FFmt) (k : FCtl) (sub : Bool) (a b : Nat) : Nat :=
  fout f k (exactSum k.rnd [fin f k a, negIf sub (fin f k b)])
/-- R168. -/
def fmulV (f : FFmt) (k : FCtl) (a b : Nat) : Nat := fout f k ((fin f k a).mul (fin f k b))
/-- R169: `sub` bit 0 negates the product and bit 1 negates C. -/
def ffmaV (f : FFmt) (k : FCtl) (sub a b c : Nat) : Nat :=
  fout f k (exactSum k.rnd [negIf (sub.testBit 0) ((fin f k a).mul (fin f k b)), negIf (sub.testBit 1) (fin f k c)])
/-- R170. -/
def fselV (f : FFmt) (k : FCtl) (max prop : Bool) (a b : Nat) : Nat :=
  f.flush k.fzo (f.select max prop (f.flush k.fzi a) (f.flush k.fzi b))
/-- R171. -/
def fcmpV (f : FFmt) (k : FCtl) (sub a b : Nat) : Bool := fcmp sub (fin f k a) (fin f k b)
/-- R174: a × 2^B. A count beyond ±600 gives what ±600 gives in every mode. -/
def fscaleV (k : FCtl) (a b : Nat) : Nat :=
  let n := max (-600) (min 600 (readInt true 32 b))
  match fin fp32F k a with
  | .fin neg m e => if m = 0 then fp32F.signed neg 0 else fout fp32F k (.fin neg m (e + n))
  | v => fout fp32F k v
/-- R175. -/
def frndV (k : FCtl) (a : Nat) : Nat := fp32F.integral k.rnd (fp32F.flush k.fzi a)

/-- R52: element `i` of width `w`. -/
def elemAt (w i x : Nat) : Nat := bits x (w * (i + 1) - 1) (w * i)

/-- R176: a packed operation on elements 0 and 1. -/
def packed2 (g : Nat → Nat → Nat → Nat) (a b c : Nat) : Nat :=
  g (elemAt 16 0 a) (elemAt 16 0 b) (elemAt 16 0 c) + 2 ^ 16 * g (elemAt 16 1 a) (elemAt 16 1 b) (elemAt 16 1 c)

/-- R177: the exact sum of `n` products and c, rounded once to fp32; the sources' subnormals in their own format. -/
def fdotV (f : FFmt) (w n : Nat) (k : FCtl) (a b c : Nat) : Nat :=
  fout fp32F k (exactSum k.rnd (fin fp32F k c
    :: (natsFrom 0 n).map (fun i => (fin f k (elemAt w i a)).mul (fin f k (elemAt w i b)))))

/-- R72, R180: float to float. -/
def fcvtV (src dst : FFmt) (k : FCtl) (a : Nat) : Nat := dst.flush k.fzo (dst.convert k.rnd k.sat (fin src k a))
/-- R73, R181: float to integer. -/
def fcvtiV (src : FFmt) (t : BitVec 5) (k : FCtl) (a : Nat) : Nat :=
  valToInt (tySigned t) (tyBits t) k.rnd (fin src k a)
/-- R74, R182: integer to float. -/
def icvtfV (s : BitVec 5) (dst : FFmt) (k : FCtl) (a : Nat) : Nat :=
  dst.convert k.rnd k.sat (intVal (readInt (tySigned s) (tyBits s) a))

/-- R179, R23: how a conversion's result is written over the old value of D: the full register, extended by type, or
one half. -/
def halfWrite (sub : Nat) (t : BitVec 5) (old x : Nat) : Nat :=
  match sub with
  | 1 => setBits old 15 0 x
  | 2 => setBits old 31 16 x
  | _ => if tyBits t < 32 ∧ tySigned t then wrapInt 32 (readInt true (tyBits t) x) else x

/-- The code is a normal number. -/
def isNormal32 (code : Nat) : Bool :=
  match fp32F.read code with
  | .fin _ m _ => !decide (m = 0) && !fp32F.subnormal code
  | _ => false

/-- The distance |c * b - a| of candidate `c` from a / b, scaled by |b|: comparable among candidates. -/
def quotDist (a b c : Nat) : Val :=
  match exactSum 0 [(fp32F.read c).mul (fp32F.read b), (fp32F.read a).negate] with
  | .fin _ m e => .fin false m e
  | v => v

/-- Candidate `y` is nearer a / b than `x`, a tie going to the even significand (R184). -/
def nearer (a b x y : Nat) : Bool :=
  let o := (quotDist a b y).order (quotDist a b x)
  decide (o = -1) || (decide (o = 0) && decide (y % 2 = 0) && !decide (x % 2 = 0))

/-- The finite neighbours of a normal code and the code itself (R184). -/
def candidates (q : Nat) : List Nat :=
  let mag := q % 2 ^ 31
  let s := q - mag
  [s + (mag - 1), q] ++ (if mag + 1 ≤ fp32F.maxCode then [s + (mag + 1)] else [])

/-- R184: the quotient C ÷ B with candidate A. -/
def fdivfV (k : FCtl) (qc bc ac : Nat) : Nat :=
  let q := fp32F.flush k.fzi qc
  let b := fp32F.flush k.fzi bc
  let a := fp32F.flush k.fzi ac
  let x := (fp32F.read a).div (fp32F.read b)
  let y := fp32F.deliver k.rnd false x
  let direct := !(isNormal32 a && isNormal32 b && isNormal32 q)
    || (match x with
        | .fin _ m e =>
          let ax := Val.fin false m e
          decide (ax.order (.fin false 1 (-124)) = -1) || !decide (ax.order (.fin false 1 127) = -1)
        | _ => true)
  let r :=
    if direct || (candidates q).contains y then y
    else (candidates q).foldl (fun best c => if nearer a b best c then c else best) q
  fp32F.flush k.fzo r

end Sys2Proof.Machine
end

