-- ==== Sys2Proof/Machine/Format.lean ====
section
/-! DEFINITION. Memory formats: the FMT codes, where an element lies, and the conversions between memory formats and
register types (Tables 02-1, 02-5, 02-6, 08-2; R47, R48, R53 to R59, R213, R215). -/
namespace Sys2Proof.Machine
open Sys2Proof

/-- What a format is: its kind (0 raw, 1 integer, 2 float, 3 block; 4 reserved), the TYP code of its element, and for a
block its records per line. -/
structure FmtInfo where
  kind : Nat
  typ : BitVec 5
  /-- Element width in bits, access unit in bytes, `elem_bytes` (Table 02-1). -/
  width : Nat
  unit : Nat
  bytes : Nat
  perLine : Nat
deriving DecidableEq, Repr

/-- Table 02-1. -/
def fmtInfo (fmt : Nat) : FmtInfo :=
  match fmt with
  | 0x00 => ⟨0, 0, 8, 1, 1, 0⟩
  | 0x01 => ⟨1, 1, 8, 1, 1, 0⟩ | 0x02 => ⟨1, 2, 8, 1, 1, 0⟩
  | 0x03 => ⟨1, 3, 16, 2, 2, 0⟩ | 0x04 => ⟨1, 4, 16, 2, 2, 0⟩
  | 0x05 => ⟨1, 5, 32, 4, 4, 0⟩ | 0x06 => ⟨1, 6, 32, 4, 4, 0⟩
  | 0x07 => ⟨1, 7, 64, 8, 8, 0⟩ | 0x08 => ⟨1, 8, 64, 8, 8, 0⟩
  | 0x10 => ⟨2, 0x09, 64, 8, 8, 0⟩ | 0x11 => ⟨2, 0x0A, 32, 4, 4, 0⟩
  | 0x12 => ⟨2, 0x0B, 16, 2, 2, 0⟩ | 0x13 => ⟨2, 0x0C, 16, 2, 2, 0⟩
  | 0x18 => ⟨2, 0x0D, 8, 1, 1, 0⟩ | 0x19 => ⟨2, 0x0E, 8, 1, 1, 0⟩
  | 0x1A => ⟨2, 0x0F, 6, 3, 0, 0⟩ | 0x1B => ⟨2, 0x10, 6, 3, 0, 0⟩ | 0x1C => ⟨2, 0x11, 4, 1, 0, 0⟩
  | 0x20 => ⟨3, 0x0E, 8, 33, 0, 5⟩ | 0x21 => ⟨3, 0x0D, 8, 33, 0, 5⟩
  | 0x22 => ⟨3, 0x0F, 6, 25, 0, 7⟩ | 0x23 => ⟨3, 0x10, 6, 25, 0, 7⟩ | 0x24 => ⟨3, 0x11, 4, 17, 0, 11⟩
  | _ => ⟨4, 0, 8, 1, 1, 0⟩

/-- The format is listed in Table 02-1. -/
def fmtListed (fmt : Nat) : Bool := decide ((fmtInfo fmt).kind ≠ 4)

/-- Elements in one access unit of a plain sub-byte format. -/
def FmtInfo.perUnit (f : FmtInfo) : Nat := if f.width = 4 then 2 else 4

/-- `elem_offset(fmt, i)` (R53, R59). -/
def elemOffset (fmt i : Nat) : Nat :=
  let f := fmtInfo fmt
  if f.kind = 3 then i / 32 / f.perLine * 192 + i / 32 % f.perLine * f.unit
  else if f.bytes = 0 then i / f.perUnit * f.unit
  else i * f.bytes

/-- `unit_bit(fmt, i)` (R53); 0 for whole-byte formats. -/
def unitBit (fmt i : Nat) : Nat :=
  let f := fmtInfo fmt
  if f.kind = 3 then 8 + f.width * (i % 32)
  else if f.bytes = 0 then f.width * (i % f.perUnit)
  else 0

/-- A value multiplied by 2^k. -/
def Val.scale (k : Int) : Val → Val
  | .fin neg m e => .fin neg m (e + k)
  | v => v

/-- The exponent of a block's scale byte, or none for a NaN block (R57, R58). -/
def scaleExp (fmt b : Nat) : Option Int :=
  if fmt = 0x24 then (if b / 4 = 63 then none else some ((b / 4 : Nat) - 31 : Int))
  else if b = 0xFF then none else some ((b : Int) - 127)

/-- An `mx4e2m1` element code under the block's eft selector (Table 02-5). -/
def eftVal (eft code : Nat) : Val :=
  if code = 8 then
    match eft with
    | 0 => .fin true 0 0
    | 1 => .fin false 8 0
    | 2 => .fin true 8 0
    | _ => .fin false 1 (-2)
  else e2m1F.read code

/-- The value of an element of a float or block unit: its exact value, scale applied (R56). -/
def unitVal (fmt unit bitOff : Nat) : Val :=
  let f := fmtInfo fmt
  let code := bits unit (bitOff + f.width - 1) bitOff
  if f.kind = 3 then
    match scaleExp fmt (unit % 256) with
    | none => .nan
    | some k => (if fmt = 0x24 then eftVal (unit % 4) code else (ffOfTyp f.typ).read code).scale k
  else (ffOfTyp f.typ).read code

/-- A result of type `t` as it fills its registers: zero- or sign-extended to 32 bits (R23). -/
def extendTo (t : BitVec 5) (x : Nat) : Nat := if tyBits t < 32 ∧ tySigned t then wrapInt 32 (readInt true (tyBits t) x) else x

/-- A type code names an integer. -/
def isIntTyp (t : BitVec 5) : Bool := decide (1 ≤ t.toNat ∧ t.toNat ≤ 8)

/-- SAT as a conversion to float type `t` honours it: for destinations of 16 bits or fewer (R67). -/
def satFor (t : BitVec 5) (sat : Bool) : Bool := sat && decide (tyBits t ≤ 16)

/-- What `LD` writes for the element at `bitOff` of a unit (Table 08-2). -/
def loadConvert (fmt : Nat) (unit bitOff : Nat) (t : BitVec 5) (sat : Bool) : Nat :=
  let f := fmtInfo fmt
  let code := bits unit (bitOff + f.width - 1) bitOff
  if t = 0 ∨ f.kind = 0 then code
  else if f.kind = 1 then
    let v := readInt (tySigned f.typ) f.width code
    if isIntTyp t then extendTo t (intResult t sat v) else (ffOfTyp t).convert 0 (satFor t sat) (intVal v)
  else
    let v := unitVal fmt unit bitOff
    if isIntTyp t then extendTo t (valToInt (tySigned t) (tyBits t) 0 v) else (ffOfTyp t).convert 0 (satFor t sat) v

/-- The element code that `ST` writes from the value `c` of type `t` into a unit whose old value is `unit`
(Table 08-2, R215). `fv` is the free value of an element written into a NaN block. DESIGN CHOICE: with type 0 the code is written as it stands, as
Table 08-2 says, code 1000 of `mx4e2m1` too, which R215 says is never written (log entry 24). -/
def storeConvert (fmt : Nat) (unit : Nat) (t : BitVec 5) (sat : Bool) (c fv : Nat) : Nat :=
  let f := fmtInfo fmt
  let m := 2 ^ f.width
  if t = 0 ∨ f.kind = 0 then c % m
  else if f.kind = 1 then
    if isIntTyp t then intResult f.typ sat (asInt t c) % m
    else valToInt (tySigned f.typ) f.width 0 ((ffOfTyp t).read (c % 2 ^ tyBits t)) % m
  else
    let v := if isIntTyp t then intVal (asInt t c) else (ffOfTyp t).read (c % 2 ^ tyBits t)
    let g := ffOfTyp f.typ
    if f.kind = 3 then
      match scaleExp fmt (unit % 256) with
      | none => fv % m
      | some k =>
        let x := g.convert 0 sat (v.scale (-k))
        if fmt = 0x24 ∧ x = 8 then 0 else x
    else g.convert 0 (satFor f.typ sat) v

/-- The unit's number with the element at `bitOff` replaced. -/
def putElem (fmt unit bitOff code : Nat) : Nat := setBits unit (bitOff + (fmtInfo fmt).width - 1) bitOff code

/-- The bytes of a unit with element value `v` of type `t` stored at `bitOff` over the unit's old bytes (R215). The code that a NaN block takes
is a function of the operands that the spec leaves open (log entry 9). -/
def elemBytes (fmt n bitOff : Nat) (t : BitVec 5) (sat : Bool) (v : Nat) (old : List Byte) : List Byte :=
  let u := ofLeBytes old
  leBytes n (putElem fmt u bitOff (storeConvert fmt u t sat v (Config.nanBlock fmt v).toNat))

/-- What a request to store an element carries: format, bit offset, type, SAT, value. -/
def elemData (fmt bitOff : Nat) (t : BitVec 5) (sat : Bool) (v : Nat) : List Byte :=
  leBytes 1 fmt ++ leBytes 2 bitOff ++ leBytes 1 t.toNat ++ leBytes 1 sat.toNat ++ leBytes 8 v

/-- The unit that such a request leaves of the bytes it finds. -/
def elemNew (data old : List Byte) : List Byte :=
  elemBytes (ofLeBytes (data.take 1)) old.length (ofLeBytes ((data.drop 1).take 2)) (BitVec.ofNat 5 (ofLeBytes ((data.drop 3).take 1)))
    (decide (ofLeBytes ((data.drop 4).take 1) = 1)) (ofLeBytes ((data.drop 5).take 8)) old

/-- The new value of an `ATOM` (Table 08-5). -/
def atomNew (sub : Nat) (t : BitVec 5) (old c : Nat) : Nat :=
  let n := tyBits t
  let f := ffOfTyp t
  match sub with
  | 0 => (old + c) % 2 ^ n
  | 1 => faddV f fctlRne false old c
  | 2 => if asInt t old ≤ asInt t c then old else c % 2 ^ n
  | 3 => if asInt t c ≤ asInt t old then old else c % 2 ^ n
  | 4 => fselV f fctlRne true false old c
  | 5 => old &&& (c % 2 ^ n)
  | 6 => old ||| (c % 2 ^ n)
  | 7 => old ^^^ (c % 2 ^ n)
  | _ => c % 2 ^ n

end Sys2Proof.Machine
end

