-- ==== Sys2Proof/Machine/Event.lean ====
section
/-! DEFINITION. The steps of the hardware that have no encoding, as data that the state holds: what earlier steps have
posted and what comes from outside. Each stands for the constructor of `Instr` of the same name, whose meaning it runs. -/
namespace Sys2Proof.Machine
open Sys2Proof

/-- A posted step or an input: one constructor per row of the opcode table that is no Briper instruction. -/
inductive Ev where
  | loadComplete (gid fid : Nat)
  | loadTranslationFault (gid fid : Nat)
  | storePerformed (gid fid : Nat)
  | atomicComplete (gid fid : Nat)
  | releasePerformed (gid fid : Nat)
  | writebackAccepted (gid fid : Nat)
  | icinvComplete (gid fid : Nat)
  | wcbDrainTimeout (core line : Nat)
  | queueLaneFill (gid fid crew : Nat) (lanes : Word)
  | qldPoison (gid fid : Nat)
  | backQueueVisible (gid q : Nat)
  | mmaComplete (gid cid : Nat)
  | tcopyRowWritten (gid cid : Nat)
  | sleepcExpiry (gid u lane : Nat)
  | groupResourcesReturn (gid : Nat)
  | cancelMessage (die inst : Nat)
  | preemptRequest (gid : Nat) (fromReset : Bool)
  | timeSliceExpiry (gid : Nat)
  | drainLimit (gid : Nat)
  | saveComplete (gid : Nat)
  | preemptRetry (gid : Nat)
  | restoreGroup (gid : Nat)
  | groupDispatch (die launch : Nat)
  | stealRequest (victim thief launch : Nat)
  | stealReply (victim thief launch : Nat)
  | backfillAgeLimit (die : Nat)
  | priorityWaitExpiry (die launch : Nat)
  | qDoorbell (q : Nat)
  | qReset (q : Nat) (v : Dword)
  | qCtlWrite (q : Nat) (v : Dword)
  | registerWrite (part port off : Nat) (v : Dword)
  | jobStart (q : Nat)
  | phaseStart (q : Nat)
  | graphSubmit (q : Nat)
  | launch (q : Nat)
  | copy (q : Nat)
  | signalMem (q : Nat)
  | waitMem (q : Nat)
  | cancelCommand (q : Nat)
  | partitionFence (q : Nat)
  | commandBegin (q : Nat)
  | waitMemReread (q : Nat)
  | waitMemTimeout (q : Nat)
  | nodeFinish (graph node : Nat)
  | copyFinish (inst : Nat)
  | tlbiAddress (part : Nat)
  | tlbiContext (part : Nat)
  | tlbiAll (part : Nat)
  | tlbiComplete (part : Nat)
  | tlbMissRequest (core ctx va : Nat)
  | walkStart (die : Nat)
  | walkReadComplete (die wid : Nat)
  | l2Request (r : HomeReq)
  | l2Fill (key : Nat)
  | invalidateProbe (core line : Nat)
  | invalidateAck (core line : Nat)
  | l1Writeback (core line : Nat)
  | vaultRequest (r : HomeReq)
  | ottEntryGrant (core : Nat)
  | replicaStore (w : ReplStore)
  | replicaWrite (die frame : Nat) (ok : Bool)
  | divergedHold (die k : Nat)
  | holdComplete (die k : Nat)
  | divergedClear (die k : Nat)
  | meshPacketHop (die router out : Nat)
  | packetDelivery (pid : Nat)
  | reorderCreditRequest (src dst cls : Nat)
  | reorderCreditGrant (dst cls : Nat)
  | deliveryConfirmation (src dst cls : Nat)
  | permitAudit (link ch : Nat)
  | auditMarker (link ch : Nat)
  | auditMarkerReturn (link ch : Nat)
  | channelRestart (link ch : Nat)
  | linkTraining (link peerRevs : Nat) (ok : Bool)
  | moduleRetrain (link m width : Nat)
  | linkFailed (link : Nat)
  | axsisFlitRetry (port flit : Nat)
  | axsisPortRetrain (port lanes : Nat)
  | axsisRead (p : AxPkt)
  | readReply (p : AxPkt)
  | axsisWrite (p : AxPkt)
  | writeAcknowledgement (p : AxPkt)
  | axsisAtomic (p : AxPkt)
  | atomicReply (p : AxPkt)
  | contribution (p : AxPkt)
  | partialArrival (p : AxPkt)
  | completion (p : AxPkt)
  | notice (p : AxPkt)
  | flowAcknowledgement (p : AxPkt)
  | axsisResendTimeout (gw dst seq : Nat)
  | reductionTimeout (job ident : Nat)
  | retentionExpiry (job ident : Nat)
  | switchSlotTimeout (sw job ident : Nat)
  | rekeyRequest (job holder : Nat)
  | inboundPostedWrite (t : Tlp)
  | inboundRead (t : Tlp)
  | inboundAtomicop (t : Tlp)
  | hostReadCompletion (tag : Nat) (ok : Bool) (data : List Byte)
  | hostCompletionTimeout (tag : Nat)
  | xpartRequest (importer exporter : Nat) (r : HomeReq)
  | xwinDrained (part k : Nat)
  | partReset (part : Nat)
  | partResetScrub (part : Nat)
  | functionLevelReset (die : Nat)
  | resetWaitExpiry (part : Nat)
  | evtRidxWrite (part : Nat) (v : Dword)
  | patrolScrub (die line : Nat)
  | packagePowerOn
  | dieRelease (die : Nat)
  | fullService
  | jobKey (part ctx : Nat) (tag : Nat) (gateways : List GwRef) (switches : List SwitchRef)
  | jobRekey (part ctx : Nat)
  | jobClear (part ctx : Nat)
  | fwStage (part : Nat) (img : FwImage)
  | getVersion (port : Nat)
  | getCapabilities (port : Nat)
  | negotiateAlgorithms (port : Nat)
  | getDigests (port : Nat)
  | getCertificate (port : Nat)
  | challenge (port nonce : Nat)
  | getMeasurements (port index : Nat)
  | keyExchange (port : Nat)
  | finish (port session : Nat)
  | keyUpdate (port session : Nat)
  | heartbeat (port session : Nat)
  | endSession (port session : Nat)
  | ideKm (port session stream key : Nat)
  | governorWindow (part milliwatts : Nat)
  | pwrLimitWrite (part : Nat) (v : Dword)
  | thermalThrottle (die : Nat)
  | thermalRecover (die : Nat)
  | thermalTrip (die : Nat)
  | illegalOp (r : Reject)
  | pciExpressPortTraining (die : Nat)
  | ctxRootWrite (ctx : Nat) (v : Dword)
deriving DecidableEq, Repr

end Sys2Proof.Machine
end

