-- ==== Sys2Proof/Machine/LaneOps.lean ====
section
/-! DEFINITION. What a cross-lane instruction computes when its member set completes (R198 to R205), from the operands
that the arrived lanes gave. Lanes are numbers 0 to 31. -/
namespace Sys2Proof.Machine
open Sys2Proof

/-- What an active lane gave at its arrival (R192): operand A, operand B, and the fill it is to receive. -/
structure LaneIn where
  x : Nat
  b : Nat
  fill : Nat
deriving DecidableEq, Repr

/-- A completed member set: its mask, the tile's base lane and width, the lanes that arrived active, and what each
lane contributes as fill when it did not arrive active. -/
structure MemberSet where
  mask : Word
  base : Nat
  width : Nat
  arrived : List (Nat × LaneIn)
  fills : List (Nat × Nat)
deriving DecidableEq, Repr

/-- The lane's arrival, if it arrived active. -/
def MemberSet.get (m : MemberSet) (l : Nat) : Option LaneIn := nfind? m.arrived l
/-- The fill that position `y` contributes. -/
def MemberSet.fillAt (m : MemberSet) (y : Nat) : Nat := nget (fun _ => 0) m.fills y
/-- The lanes of the tile, rising. -/
def MemberSet.lanes (m : MemberSet) : List Nat := natsFrom m.base m.width

/-- x(y) of R198: operand A where the lane arrived active, else the fill. -/
def MemberSet.x (m : MemberSet) (y : Nat) : Nat :=
  match m.get y with
  | some i => i.x
  | none => m.fillAt y

/-- The operations of `REDUX` and `SCAN` that share an identity (Table 07-4), by SUB modulo 8. -/
def reduceIdentity (op : Nat) (t : BitVec 5) : Nat :=
  match op with
  | 0 => if t = 10 then 0x80000000 else 0
  | 1 => if t = 10 then 0x7FC00000 else if t = 6 then 0x7FFFFFFF else 0xFFFFFFFF
  | 2 => if t = 10 then 0x7FC00000 else if t = 6 then 0x80000000 else 0
  | 3 => 0xFFFFFFFF
  | _ => 0

/-- One combining step of an operation on 32-bit patterns (R201). -/
def combine (op : Nat) (t : BitVec 5) (k : FCtl) (a b : Nat) : Nat :=
  match op with
  | 0 => if t = 10 then faddV fp32F { k with fzi := false } false a b else (a + b) % 2 ^ 32
  | 1 => if t = 10 then fp32F.select false false a b else if asInt t a ≤ asInt t b then a else b
  | 2 => if t = 10 then fp32F.select true false a b else if asInt t a ≤ asInt t b then b else a
  | 3 => (a &&& b)
  | 4 => (a ||| b)
  | _ => (a ^^^ b)

/-- One stage of the tree of R82: neighbours combined. -/
def treeStage (g : Nat → Nat → Nat) : List Nat → List Nat
  | a :: b :: l => g a b :: treeStage g l
  | l => l

/-- The tree of R82 in at most `n` stages. -/
def treeReduce (g : Nat → Nat → Nat) : Nat → List Nat → Nat
  | 0, l => l.headD 0
  | n + 1, l => if l.length ≤ 1 then l.headD 0 else treeReduce g n (treeStage g l)

/-- One stage of R83: lane `l` at least `d` combines the value `d` lanes below with its own. -/
def scanStage (g : Nat → Nat → Nat) (d : Nat) (l : List Nat) : List Nat :=
  l.take d ++ (l.zip (l.drop d)).map (fun p => g p.1 p.2)

/-- The stages of R83 with distances 1, 2, 4, ... -/
def scanStages (g : Nat → Nat → Nat) : Nat → Nat → List Nat → List Nat
  | 0, _, l => l
  | n + 1, d, l => if l.length ≤ d then l else scanStages g n (2 * d) (scanStage g d l)

/-- The tile's values after `flush_in` where the type is fp32 (R198). -/
def MemberSet.values (m : MemberSet) (t : BitVec 5) (k : FCtl) : List Nat :=
  m.lanes.map (fun y => if t = 10 then fp32F.flush k.fzi (m.x y) else m.x y % 2 ^ 32)

/-- A result after `flush_out` where the type is fp32 (R198). -/
def laneOut (t : BitVec 5) (k : FCtl) (x : Nat) : Nat := if t = 10 then fp32F.flush k.fzo x else x

/-- R201: the one result of `REDUX` SUB 0 to 5. -/
def reduxV (m : MemberSet) (op : Nat) (t : BitVec 5) (k : FCtl) : Nat :=
  laneOut t k (treeReduce (combine op t k) 5 (m.values t k))

/-- A pair of `REDUX` with an index (R202). -/
structure IdxPair where
  x : Nat
  i : Nat
deriving DecidableEq, Repr

/-- R202: `a` is selected over `b`; `least` for the minimum forms. -/
def idxBefore (least : Bool) (t : BitVec 5) (a b : IdxPair) : Bool :=
  let nan := fun (p : IdxPair) => decide (t = 10) && decide (fp32F.read p.x = .nan)
  let lt := fun (p q : IdxPair) => if t = 10 then fp32F.before p.x q.x else decide (asInt t p.x < asInt t q.x)
  if nan a && nan b then decide (a.i ≤ b.i)
  else if nan a then false
  else if nan b then true
  else
    let ahead := if least then lt a b else lt b a
    let behind := if least then lt b a else lt a b
    ahead || (!behind && decide (a.i ≤ b.i))

/-- R202: the selected pair; `withB` takes the index from operand B. -/
def reduxIdxV (m : MemberSet) (least withB : Bool) (t : BitVec 5) (k : FCtl) : IdxPair :=
  let pair := fun y =>
    let x := m.x y
    { x := if t = 10 then fp32F.flush k.fzi x else x % 2 ^ 32
      i := match m.get y with
        | some a => if withB then a.b else y
        | none => 0xFFFFFFFF : IdxPair }
  let best := (m.lanes.map pair).foldl
    (fun (b : Option IdxPair) p => match b with
      | none => some p
      | some q => if idxBefore least t p q && !idxBefore least t q p then some p else some q) none
  match best with
  | none => ⟨0, 0⟩
  | some q => ⟨laneOut t k (if t = 10 ∧ fp32F.read q.x = .nan then fp32F.nanCode else q.x), q.i⟩

/-- A result of `SCAN` as it is delivered: an fp32 NaN is the canonical one (R70). DEDUCED: also one that no stage combined and the fill that
an exclusive form delivers, which R83 says keep their value (log entry 24). -/
def scanOut (t : BitVec 5) (k : FCtl) (x : Nat) : Nat := if t = 10 ∧ fp32F.read x = .nan then fp32F.nanCode else laneOut t k x

/-- R203: the result of `SCAN` in lane `l`, which arrived active giving `a`. SUB 8 and above are exclusive. -/
def scanV (m : MemberSet) (sub : Nat) (t : BitVec 5) (k : FCtl) (l : Nat) (a : LaneIn) : Nat :=
  let out := scanStages (combine (sub % 8) t k) 5 1 (m.values t k)
  if sub < 8 then scanOut t k (lget 0 out (l - m.base))
  else if l = m.base then scanOut t k (a.fill % 2 ^ 32)
  else scanOut t k (lget 0 out (l - m.base - 1))

/-- R200: the source lane of `LPICK` and whether the operand names one in the tile. -/
def pickSource (m : MemberSet) (sub : Nat) (l b : Nat) : Nat × Bool :=
  match sub with
  | 0 => (m.base + b, decide (b < m.width))
  | 1 =>
    let s := (l : Int) + readInt true 32 b
    (s.toNat, decide ((m.base : Int) ≤ s) && decide (s < (m.base : Int) + m.width))
  | 2 => (m.base + (l - m.base + b) % m.width, true)
  | _ => (l ^^^ b, decide (b < m.width))

/-- R200: the value that receiving lane `l` gets. -/
def lpickV (m : MemberSet) (sub : Nat) (l : Nat) (a : LaneIn) : Nat :=
  let (s, ok) := pickSource m sub l a.b
  match if ok && m.mask.getLsbD s then m.get s else none with
  | some src => src.x
  | none => a.fill

/-- R199: the votes, lane and value. `fillVote` is what a lane that contributes fill votes, if it votes. -/
def votes (m : MemberSet) (fillVote : Option Bool) : List (Nat × Bool) :=
  (m.lanes.filter (fun y => m.mask.getLsbD y)).filterMap (fun y =>
    match m.get y with
    | some i => some (y, decide (i.x ≠ 0))
    | none => fillVote.map (fun v => (y, v)))

/-- R199: the result of `VOTE`: 0 or 1 for a predicate, else the 32-bit value. -/
def voteV (sub : Nat) (vs : List (Nat × Bool)) : Nat :=
  match sub with
  | 0 => if vs.all (fun p => p.2) then 1 else 0
  | 1 => if vs.any (fun p => p.2) then 1 else 0
  | 2 => if vs.all (fun p => p.2) || vs.all (fun p => !p.2) then 1 else 0
  | 3 => (vs.foldl (fun (w : Word) p => setLane w p.1 p.2) 0).toNat
  | _ => (vs.filter (fun p => p.2)).length

/-- R204: the mask of the arrived lanes whose value equals `x`. -/
def matchMask (m : MemberSet) (x : Nat) : Word :=
  m.arrived.foldl (fun w p => if p.2.x = x then setLane w p.1 true else w) 0

/-- R204: the result of `MATCH` in a lane that gave `x`. -/
def matchV (m : MemberSet) (all : Bool) (x : Nat) : Nat :=
  if all then (if m.arrived.all (fun p => decide (p.2.x = x)) then (matchMask m x).toNat else 0)
  else (matchMask m x).toNat

/-- The lowest lane of a list of lanes in rising order. -/
def lowestLane : List (Nat × LaneIn) → Nat
  | [] => 0
  | p :: l => l.foldl (fun a q => min a q.1) p.1

end Sys2Proof.Machine
end

