-- ==== Sys2Proof/Machine/CoreState.lean ====
section
/-! DEFINITION. The state of a core's groups, crews and access slices as plain data (Tables 01-1 to 01-9, 15-3 to
15-10): registers, program counters, counters, queues, handles, barriers, the operand logs, the block store buffer, and
the accesses and engine commands under way. -/
namespace Sys2Proof.Machine
open Sys2Proof

/-- A place in the package: die, cluster within the die, core within the cluster (R44 `issuer()`). -/
structure Pos where
  die : Nat
  cluster : Nat
  core : Nat
deriving DecidableEq, Repr

/-- A queue descriptor (Table 04-4). Depth 0: not declared. -/
structure QDesc where
  typ : Nat
  depth : Nat
deriving DecidableEq, Repr

/-- A kernel descriptor's fields (Table 04-3). -/
structure Desc where
  /-- Its virtual address. -/
  addr : Nat
  exec : Nat
  access : Nat
  nv : Nat
  ns : Nat
  nsa : Nat
  nt : Nat
  na : Nat
  bsbg : Nat
  scr256 : Nat
  cores : Nat
  idem : Bool
  inh : Option (Nat × Nat)
  estimate : Nat
  fq : List QDesc
  bq : List QDesc
deriving DecidableEq, Repr

/-- A trap: the cause code, lane, detail (bits [31:13] of `sr.tcause`), `sr.tfaddr` and `sr.tfirst` (R417). -/
structure Trap where
  cause : Nat
  lane : Nat
  detail : Nat
  addr : Nat
  first : Nat
  /-- For the fault of a logged load, the order of its issue, which tells its age (R419); else 0. -/
  seq : Nat := 0
  /-- The handler's address as it was when the trap was raised (R423). -/
  entry : Option Nat := none
deriving DecidableEq, Repr

/-- A lane's arrival at a cross-lane or barrier instruction, with the inputs it gave (R192). -/
structure Arrival where
  addr : Nat
  mask : Word
  input : LaneIn
  /-- The instruction carries E = 1: exited lanes count as arrived. -/
  exitsCount : Bool
  ins : Instr
deriving DecidableEq, Repr

/-- What a lane waits for (Table 15-9 wait states, R192). -/
inductive LaneWait where
  | ready
  /-- `SLEEPC` at `addr`: ready when the die's cycle count reaches `due` (R142). -/
  | asleep (due addr : Nat)
  | arrived (a : Arrival)
  /-- The crew's lanes have all reached the barrier at `addr`; the crew's arrival does not count yet (R290 to R292). -/
  | held (addr : Nat)
  /-- A counted barrier wait: level, barrier, token, and the address of the instruction (R288, R296). -/
  | counted (level bar token addr : Nat)
deriving DecidableEq, Repr

/-- A parked register (R268, Table 15-9): in an accumulator or a tile, which one, its row, the register. -/
structure Park where
  acc : Bool
  idx : Nat
  row : Nat
  reg : Nat
deriving DecidableEq, Repr

/-- One lane's part of an access: its virtual address, bytes, bit offset of the element within the unit (R53), the
physical address of each byte, the page's sharing attribute (0 private, 1 read-shared, 2 coherent), whether the page is
replicated (its size; 0 where it is not), and the value stored or returned. -/
structure LaneAcc where
  lane : Nat
  va : Nat
  n : Nat
  bitOff : Nat
  pa : List Nat
  share : Nat
  repl : Nat
  edge : Bool
  value : Nat
  /-- The fields of the lane's own pointer that the access follows (R211). -/
  space : Nat
  cls : Nat
  scope : Nat
  fmt : Nat
  swz : Nat
  /-- The lane's bytes come by an answer to a request sent out of the partition's memory, or were taken from the L1 at issue. -/
  away : Bool := false
  /-- Bytes of the unit, by offset, that the group held in its buffer when the request went out (R224). -/
  fwd : List (Nat × Byte) := []
  /-- For a store to part of a unit in another memory, what the unit held (R55, R215). -/
  old : Nat := 0
deriving DecidableEq, Repr

/-- A crew operand-log record (Table 15-3), with the lanes' accesses as their replay needs them. FMT is that of the lowest
lane. -/
structure LogRec where
  /-- The order of the load's issue: records stand oldest first (R419, R425). -/
  seq : Nat
  addr : Nat
  typ : BitVec 5
  d : Nat
  sat : Bool
  /-- false: fault record; true: replay record of a save. -/
  replay : Bool
  fcode : Nat
  valid : Bool
  mask : Word
  accs : List LaneAcc
deriving DecidableEq, Repr

/-- An access-slice operand-log or queue replay record (Table 12-3). -/
structure QRec where
  addr : Nat
  ptr : Quad
  index : Word
  cstride : Word
  lstride : Word
  crews : Word
  fcode : Nat
  clip : Bool
  queue : Nat
  replay : Bool
  /-- The lowest faulting lane's address of each poisoned crew (R251). -/
  faddr : NMap Nat
  /-- The order in which the `QLD`s of its queue issued, which replays keep (R352, R354). -/
  seq : Nat := 0
deriving DecidableEq, Repr

/-- Why a unit's instruction was left not begun (Table 12-2, R254, R348). -/
inductive Stall where
  /-- `QPOP` of an empty sub-FIFO. -/
  | popEmpty (q : Nat)
  /-- `QBPOP` or `BRQ` of an empty back queue: `sr.decoup` reads 1. -/
  | backEmpty (q : Nat)
  /-- `WAIT` stalled on `cp` (R274). -/
  | waitCp
  /-- `QBPUSH` of these lanes into a back queue at DEPTH: the crew's other lanes do not issue past it (R346). -/
  | backFull (q : Nat) (lanes : Word)
  /-- The `n` transaction-table entries that the access needs are not free for it (R230). -/
  | ott (sync : Bool) (n : Nat)
  | other
deriving DecidableEq, Repr

/-- A barrier operation whose crew has converged but whose arrival does not count yet (R290 to R292). -/
structure PendBar where
  ins : Instr
  addr : Nat
  lanes : Word
  /-- `BARW`'s token. -/
  token : Nat
deriving DecidableEq, Repr

/-- A crew, or the access slice (which uses lane 0). -/
structure Crew where
  /-- Vector register k, lane l at key 32k + l. -/
  v : NMap Word
  /-- Uniform registers. -/
  s : NMap Word
  /-- Predicate k as a mask of lanes. -/
  p : NMap Word
  /-- Word w of tile k at key 256k + w. -/
  t : NMap Word
  /-- Element (i, j) of accumulator k at key 1024k + 32i + j. -/
  acc : NMap Word
  pc : NMap Nat
  exited : Word
  wait : NMap LaneWait
  /-- Pass records (R192): lane to the address passed, plus 2^57 where the instruction takes the whole crew. -/
  pass : NMap Nat
  /-- What the lanes waited for when the crew entered its handler. -/
  aside : NMap LaneWait
  ld : Nat
  st : Nat
  cp : Nat
  tl : Nat
  partw : Nat
  parks : NMap Park
  hmode : Bool
  tcause : Word
  tfirst : Nat
  tfaddr : Nat
  /-- Upper halves latched by a `.lo` read, by the number of the `.lo` register (R37). -/
  latch : NMap Word
  log : List LogRec
  qlog : List QRec
  stall : Option Stall
  /-- Lanes that wait at a `QPOP` of an empty sub-FIFO, with its queue (R348). -/
  hungry : NMap Nat := []
  /-- Issue cycles of its quadrant ready without issuing, and the model's instant at which they reached 64 (R414). -/
  age : Nat
  ripe : Nat := 0
  /-- The addresses at which issue groups of a diverged crew stand ready, each with the model's instant since which (R414). -/
  readySince : NMap Nat := []
  /-- Made last by `YIELD` (R141); the quadrant (R413). -/
  yielded : Bool
  quadrant : Nat
  /-- Lanes stalled on `cp` at a `WAIT`; COLL_STATUS traps not yet raised: `COLL` address, record address, STATUS, and the lanes whose
  `WAIT` was stalled on `cp` when the record was written, none for any `WAIT` (R274). -/
  waitCp : Word := 0
  collTraps : List (Nat × Nat × Nat × Word)
  /-- The lanes and address whose next execution is not watched (R425). -/
  unwatched : Option (Nat × Word)
  pendBar : Option PendBar
deriving DecidableEq, Repr

/-- The state of a forward-queue entry (R352). -/
inductive QState where
  | ready | filling | poisoned
deriving DecidableEq, Repr

/-- A forward-queue entry (Table 01-5). -/
structure QEntry where
  vmask : Word
  data : NMap Word
  state : QState
  token : Nat
  /-- The access that fills it. -/
  fid : Nat
deriving DecidableEq, Repr

/-- A back-queue entry (R29); `seen` when it is visible to the access slice (R346). -/
structure BEntry where
  value : Word
  crew : Nat
  seen : Bool
deriving DecidableEq, Repr

/-- An operand handle (R31). -/
structure Handle where
  bound : Bool
  base : Nat
  words : Nat
  fmt : Nat
  planes : Nat
  gen : Word
deriving DecidableEq, Repr

/-- A barrier (R32): participants that have arrived are numbers the level gives. -/
structure Barrier where
  expected : Nat
  dflt : Bool
  arrivals : Nat
  gen : Nat
  arrived : List Nat
deriving DecidableEq, Repr

/-- A sector of the block store buffer (R35): its physical address, valid bytes by offset, and what its commit needs:
the page's sharing attribute and, for a replicated page, its size. `tie` names the sectors that hold the rest of an access unit (R271). -/
structure Sector where
  addr : Nat
  data : NMap Byte
  share : Nat
  repl : Nat
  edge : Bool
  tie : List Nat
deriving DecidableEq, Repr

/-- What an access under way is (R212, R227, R232, R241 to R247, R305). -/
inductive FlightKind where
  | load | store | atomic | release | writeback | icinv | qload | coll
deriving DecidableEq, Repr

/-- An access that a unit has issued and that is not complete. `unit` is a crew, or 32 for the access slice. -/
structure Flight where
  id : Nat
  unit : Nat
  kind : FlightKind
  addr : Nat
  lanes : List LaneAcc
  typ : BitVec 5
  sat : Bool
  d : Nat
  /-- `CAS` success predicate; `QLD` queue. -/
  aux : Nat
  /-- A translation fault found after issue (R218). -/
  fault : Option Trap
  /-- The record a replay came from. -/
  replay : Bool
  /-- Operand of `ATOM`/`CAS`: the instruction. -/
  ins : Instr
  /-- `QLD`: what its replay record would hold. -/
  qrec : Option QRec
  /-- Ranges (base, length) of a write-back, invalidation or `ICINV`. -/
  ranges : List (Nat × Nat)
  /-- A reply from a peer or the host is awaited; the bytes it returned. -/
  away : Bool
  /-- Lanes of an atomic that have been performed (R232), how far a store has come, or the crews of a `QLD` that are expanded (R337). -/
  done : Nat := 0
  /-- Entries of the transaction table that it holds (R230). -/
  entries : Nat := 0
deriving DecidableEq, Repr

/-- An operand of the matrix engine: a tile group and its format code of Table 03-5, or a block of a handle as bound
at acceptance (R281). -/
inductive MatA where
  | tile (first : Nat) (typ : BitVec 5)
  | block (h : Handle) (j : Nat)
deriving DecidableEq, Repr

/-- An `MMA` or `MMAS` (R263, R266). -/
structure MmaCmd where
  a : MatA
  b : Handle
  bj : Nat
  c : Nat
  d : Nat
  prec : Nat
  fzo : Bool
  /-- `MMAS`: N, the metadata handle and its block. -/
  sparse : Option (Nat × Handle × Nat)
  /-- Once it has begun to read, the scratchpad's cells as they then stood (R280). -/
  snap : Option (NMap Byte) := none
deriving DecidableEq, Repr

/-- A `TCOPY` (R269): direction, handle number and binding, pointer, next row and rows remaining. -/
structure TcopyCmd where
  out : Bool
  hnum : Nat
  h : Handle
  ptr : Quad
  e0 : Nat
  pitch : Nat
  row0 : Nat
  row : Nat
  remaining : Nat
  /-- For each row still to copy, its element accesses (R269: translated at issue). -/
  rows : List (List LaneAcc)
  /-- The reading of the next row's source has begun; of a row that leaves the scratchpad, its cells as they then stood (R280). -/
  asked : Bool
  snap : Option (NMap Byte) := none
  /-- Its next row was refused or does not translate: it goes on when the handler of that trap is left (Table 15-1). -/
  stuck : Bool := false
deriving DecidableEq, Repr

/-- A `COLL` or a collective node (R272, R402). -/
structure CollCmd where
  op : Nat
  ts : Bool
  ident : Nat
  count : Nat
  rank : Nat
  timeout : Nat
  fmt : Nat
  /-- Fabric physical addresses of the bytes of source, result and record; those of the scratchpad are cells above 2^60. With each
  byte of result and record the size of its replicated page, 0 of any other. -/
  src : List Nat
  dst : List (Nat × Nat)
  recd : List (Nat × Nat)
  recVa : Nat
  /-- The issuing core; none of a collective node. -/
  core : Option Nat
deriving DecidableEq, Repr

inductive CmdKind where
  | mma (c : MmaCmd)
  | tcopy (c : TcopyCmd)
  | coll (c : CollCmd)
deriving DecidableEq, Repr

/-- An accepted engine command (R277): its number is its place in the acceptance order. -/
structure Cmd where
  id : Nat
  unit : Nat
  addr : Nat
  kind : CmdKind
deriving DecidableEq, Repr

/-- Where a group stands. -/
inductive Phase where
  | live
  /-- Stopped for a trap of this unit; accesses already sent are still awaited (R418). -/
  | stopping (unit : Nat) (t : Trap)
  /-- A handler of this trap runs in this unit. -/
  | handler (unit : Nat) (t : Trap)
  /-- Running on under a drain pre-emption up to this retired count (R429). -/
  | drain (limit : Nat)
  /-- Stopped for a save: the slot its image goes to (R432). -/
  | saving (slot : Nat)
  /-- Saved in this slot (R434). -/
  | saved (slot : Nat)
  /-- Ended: its resources return once its accesses have drained (R16, R299). 0 completed, 1 by a trap (R420), 0x28 `CANCELLED` (R299). -/
  | ended (how : Nat)
deriving DecidableEq, Repr

/-- The group has ended. -/
def Phase.ends : Phase → Bool
  | .ended _ => true
  | _ => false


/-- A group (R12 to R16, Table 01-4). -/
structure Group where
  id : Nat
  /-- The launch instance it belongs to and its linear number (R406). -/
  launch : Nat
  g : Nat
  ctx : Nat
  queue : Nat
  prio : Nat
  part : Nat
  pos : Pos
  loc : Pos
  desc : Desc
  launchId : Word
  gid : Nat × Nat × Nat
  ngroups : Nat × Nat × Nat
  param : Nat
  paramLen : Nat
  crews : List Crew
  slice : Crew
  /-- Forward queue q of crew c at key 32q + c. -/
  fq : NMap (List QEntry)
  bq : NMap (List BEntry)
  handles : NMap Handle
  bars : NMap Barrier
  bsb : List Sector
  flights : List Flight
  cmds : List Cmd
  /-- First row of its scratchpad run, and the cells written, by byte (R373). -/
  scrBase : Nat
  scratch : NMap Byte
  committed : Bool
  chain : Bool
  retired : Nat
  phase : Phase
  /-- Traps held pending (R418): unit and trap. -/
  pend : List (Nat × Trap)
  slot : Option Nat
  gang : Nat
  /-- Admission number on its die, local cycle of admission or restore (R427), local cycles coupled (R344). -/
  order : Nat
  since : Nat
  coupled : Nat
  /-- A pre-emption request that waits, and whether a partition reset made it (R427, R428). -/
  wanted : Option Bool
  /-- A replay record of the same queue that waits (R354). -/
  qreplays : List QRec
  /-- The retired count at which a drain that a trap has interrupted ends (R429). -/
  drainTo : Option Nat := none
  /-- It has ended and its end is reported (R14, R16). -/
  told : Bool := false
deriving DecidableEq, Repr

end Sys2Proof.Machine
end

