-- ==== Sys2Proof/Machine/PackageState.lean ====
section
/-! DEFINITION. The state of the package around its groups as plain data: the cores' caches and tables, the homes, the
hardware queues, jobs, phases, graphs and launches with their completion counters, and gangs and die shares with their
barrier sets (files 13 and 14). -/
namespace Sys2Proof.Machine
open Sys2Proof

/-- A line of an L1 data cache (R364): way, sectors valid, tracked bit, dirty mask by byte, bytes. -/
structure L1Line where
  way : Nat
  valid : Nat
  tracked : Bool
  dirty : Nat
  data : NMap Byte
  /-- Sectors whose dirty bytes are marked poisoned (R493), and of each sector filled the instant of its fill (R55). -/
  bad : Nat := 0
  filled : NMap Nat := []
deriving DecidableEq, Repr

/-- A translation held in a TLB (R380): context, virtual base and size of the page, and its leaf entry. -/
structure TlbEntry where
  ctx : Nat
  va : Nat
  size : Nat
  leaf : Nat
deriving DecidableEq, Repr

/-- A table entry held in a walk cache (R381): context, level of the table it points to, the address prefix it serves,
the table. -/
structure WalkEntry where
  ctx : Nat
  level : Nat
  va : Nat
  table : Nat
deriving DecidableEq, Repr

/-- An entry of a write-combining buffer (R231): its line, bytes by offset, the queue whose store it holds, the local
cycle it was taken, its number, and the groups whose stores it holds. -/
structure WcbEntry where
  line : Nat
  data : NMap Byte
  queue : Nat
  since : Nat
  id : Nat
  owners : List Nat
  /-- It is to drain and no transaction-table entry is free for it (R230). -/
  out : Bool := false
deriving DecidableEq, Repr

/-- A waiter for transaction-table entries (R416): group, unit, whether the access synchronises, and how many it needs. -/
structure OttWait where
  gid : Nat
  unit : Nat
  sync : Bool
  granted : Bool
  n : Nat
deriving DecidableEq, Repr

/-- One core's structures outside its groups. -/
structure Core where
  l1 : NMap L1Line
  /-- Tree pseudo-LRU bits of each set. -/
  plru : NMap Nat
  /-- Instruction-cache lines, by physical line: the bytes fetched. -/
  icache : NMap (List Byte)
  tlb : List TlbEntry
  wcb : List WcbEntry
  ottWait : List OttWait
  /-- Local cycles of the errors charged to this core, and the quarantine flag (R503). -/
  errors : List Nat
  quarantined : Bool
  /-- Where the access engine's round-robin goes on (R335). -/
  aae : Nat
deriving DecidableEq, Repr

/-- A directory entry (R367): up to four exact sharers, or a vector of clusters. -/
inductive Sharers where
  | exact (cores : List Nat)
  | clusters (v : Nat)
deriving DecidableEq, Repr

/-- A request listed at a home, with the invalidation acknowledgements it waits for (R367, R369) and, once it is performed, the bytes of
its reply, none where they are uncorrectable. -/
structure Listed where
  req : HomeReq
  acks : List Nat
  ans : Option (Option (List Byte)) := none
deriving DecidableEq, Repr

/-- A page-table walk in progress or queued (R381): who asks, the context and address, the level reached and its table. -/
structure Walk where
  wid : Nat
  core : Nat
  ctx : Nat
  va : Nat
  started : Bool
  level : Nat
  table : Nat
deriving DecidableEq, Repr

/-- One die's second-level TLB slice, walk cache and walks (R380, R381). -/
structure DieXlate where
  tlb : List TlbEntry
  wcache : List WalkEntry
  walks : List Walk
deriving DecidableEq, Repr

/-- A partition (R474, R475): its index, its dies in rising order, its state (Table 17-3). -/
structure Part where
  id : Nat
  dies : List Nat
  /-- 0 running, 1 resetting, 2 reset complete. -/
  state : Nat
  /-- HBM channels enabled on each of its dies (R505). -/
  channels : List Nat
deriving DecidableEq, Repr

/-- The kind of a completion counter's instance (R14, Table 14-7). -/
inductive Level where
  | launch | graph | phase | job | copy | coll | signal
deriving DecidableEq, Repr

/-- The LEVEL code of a counter record (Table 14-7). -/
def Level.code : Level → Nat
  | .launch => 1 | .graph => 2 | .phase => 3 | .job => 4 | .copy => 5 | .coll => 6 | .signal => 7

/-- An instance with a completion counter (R14, Table 14-7). -/
structure Inst where
  id : Nat
  level : Level
  queue : Nat
  ctx : Nat
  part : Nat
  /-- The instance above: the graph of a node, the phase of a graph, the job of a phase. -/
  parent : Option Nat
  /-- Address of its record; 0 none. -/
  recd : Nat
  /-- Children expected; none for an implicit level, which never finishes (R397). -/
  expected : Option Nat
  children : Nat
  done : Nat
  canc : Nat
  gdone : Nat
  gcanc : Nat
  launchId : Nat
  closed : Bool
  finished : Bool
  cancelled : Bool
  torn : Bool
  /-- STATUS of its record when other than 0 to 2: 3 refused, 5 stalled, 6 copy fault. -/
  special : Nat
  /-- Node index in its graph. -/
  node : Nat
deriving DecidableEq, Repr

/-- A die share of a launch (R12, R408). -/
structure Share where
  die : Nat
  /-- Whole batches not begun, and the groups left of the batch begun. -/
  batches : List Nat
  cur : List Nat
  /-- Groups (or whole gangs) returned to be dispatched next, each with a cluster to keep off (R431, R495). -/
  back : List (List Nat × Option Nat)
  live : Nat
  done : Nat
  canc : Nat
  reported : Bool
  bars : NMap Barrier
  /-- Local cycle since which the launch has waited to admit, and the groups whose pre-emption it last had asked for (R411). -/
  since : Nat
  asked : List Nat
  /-- Batches that another die has given up to it and that are on their way (R407). -/
  coming : List Nat := []
deriving DecidableEq, Repr

/-- A launch (R12, R127, R406). -/
structure Launch where
  id : Nat
  queue : Nat
  ctx : Nat
  prio : Nat
  part : Nat
  desc : Desc
  launchId : Nat
  ngroups : Nat × Nat × Nat
  crews : Nat
  gang : Nat
  param : Nat
  paramLen : Nat
  shares : List Share
  /-- A vacated register block waiting for a successor (R410, R21): core, the values of the range by crew, register
  and lane (key (crew × 256 + register) × 32 + lane). -/
  vacated : List (Nat × NMap Word)
  /-- Relaunch counts by group (R495). -/
  relaunch : NMap Nat
  /-- The performance counts that its groups have reported: the local cycles coupled, by group (R344). -/
  perf : NMap Nat := []
  /-- Its place in the order in which the front-end consumed launches (R409). -/
  seq : Nat := 0
deriving DecidableEq, Repr

/-- A cluster gang (R12). -/
structure Gang where
  id : Nat
  launch : Nat
  die : Nat
  cluster : Nat
  members : List Nat
  done : Nat
  canc : Nat
  bars : NMap Barrier
  /-- A member has passed a barrier of the gang, or has ended and committed: it is no more as its start found it (R494). -/
  spent : Bool := false
deriving DecidableEq, Repr

/-- A command consumed from a queue and not finished (R396): its place in the order of consumption, the instance it opened, whether it
is a job or phase start, and the level it belongs to (R397); 0 none. -/
structure QCmd where
  seq : Nat
  inst : Option Nat
  opens : Bool
  under : Nat
  /-- Of a LAUNCH, what the front-end took as it consumed it: `sr.launchid`, and the launch unless it fails at admission (R128, R401). -/
  got : Option (Nat × Option Launch) := none
  /-- Its code, and that its effect is done: it is finished once the replicas hold what it and its instance wrote (R396). -/
  opc : Nat := 0
  ended : Bool := false
deriving DecidableEq, Repr

/-- A hardware queue (Table 14-1, Table 14-3). -/
structure Queue where
  base : Nat
  ctl : Nat
  /-- 0 disabled, 1 idle, 2 active, 3 blocked, 4 error. -/
  state : Nat
  reason : Nat
  ridx : Nat
  prevW : Nat
  /-- The head packet, read and not begun (R396), and the cycle its `WAIT_MEM` began. -/
  head : Option (List Byte)
  waitSince : Nat
  /-- Open job and phase instances, implicit ones when none (R397). -/
  job : Nat
  phase : Nat
  implicitJob : Nat
  implicitPhase : Nat
  cmds : List QCmd
deriving DecidableEq, Repr

/-- A graph under way (R402 to R405). -/
structure Graph where
  inst : Nat
  ctx : Nat
  queue : Nat
  table : Nat
  work : Nat
  nodes : Nat
  /-- Nodes released, with their instances; nodes finished. -/
  released : List (Nat × Nat)
  finished : List Nat
  /-- The walker has stopped releasing (R405). -/
  stopped : Bool
  /-- Every node not released was dropped (R404). -/
  dropped : Bool
deriving DecidableEq, Repr

/-- A copy under way (R396, R401). -/
structure CopyOp where
  inst : Nat
  ctx : Nat
  queue : Nat
  dst : Nat
  src : Nat
  len : Nat
  /-- Bytes written; the next piece has been asked of another package or the host. -/
  pos : Nat
  asked : Bool
  /-- The bytes that the answer to it brought are marked poisoned (R493). -/
  bad : Bool := false
deriving DecidableEq, Repr

/-- A request that a core, an engine or the front-end sends out of the package's memory: to a peer or to the host
(R220). `op` as at a home; the answer goes to lane `lane` of flight `fid`. -/
structure RemoteReq where
  tag : Nat
  gid : Nat
  fid : Nat
  lane : Nat
  op : Nat
  pa : Nat
  len : Nat
  data : List Byte
  mask : Nat
  queue : Nat
  core : Nat
  /-- The partition that asks, and the local cycle. -/
  part : Nat
  since : Nat
  /-- Groups, copies and other owners whose bytes a write carries. -/
  owners : List Nat := []
  /-- The bytes read fill the core's L1 (R220, R480). -/
  fill : Bool := false
  /-- The line was invalidated in its core's L1 since: what it brings does not stay there (R323, R334). -/
  stale : Bool := false
  /-- The bytes of a write are marked poisoned (R493). -/
  bad : Bool := false
deriving DecidableEq, Repr

/-- A context save slot in use (R433): context, slot, the group, and the saved group when it holds an image. -/
structure SlotUse where
  ctx : Nat
  slot : Nat
  gid : Nat
deriving DecidableEq, Repr

end Sys2Proof.Machine
end

