-- ==== Sys2Proof/Machine/FabricState.lean ====
section
/-! DEFINITION. The state of the package's networks, gateways and reductions, of replicated pages, of the PCI Express ports
and of the trust die, as plain data (files 13 and 16 to 19). -/
namespace Sys2Proof.Machine
open Sys2Proof

/-- A packet in the mesh (R438 to R442). Its place: die, router, the input port it came in by, the channel whose slots it
holds on the link it came over (`link` 0: it stands at its source port); `level` 0 to 2 is its gecko level, 3 while
adaptive. `key` names its flow. Delivering it makes its payload happen. -/
structure MeshPkt where
  id : Nat
  src : Nat
  dst : Nat
  cls : Nat
  seq : Nat
  credit : Bool
  flits : Nat
  prio : Nat
  die : Nat
  router : Nat
  inPort : Nat
  level : Nat
  crossings : Nat
  link : Nat
  chan : Nat
  age : Nat
  arrived : Bool
  payload : Ev
deriving DecidableEq, Repr

/-- A flow of the mesh (R440): the next sequence numbers at source and destination, credits held and asked for, and what
waits to be sent (priority and payload). -/
structure Flow where
  src : Nat
  dst : Nat
  cls : Nat
  next : Nat
  expect : Nat
  unconfirmed : Nat
  credits : Nat
  queue : List (Nat × Ev)
deriving DecidableEq, Repr

/-- A destination port's reorder credits of a class (R440): granted, and the source ports that ask. -/
structure ReorderPort where
  granted : Nat
  asking : List Nat
deriving DecidableEq, Repr

/-- A virtual channel of a link (R443, R444): permits held by the sender less its full count, slots occupied, permits on
their way back; the audit's phase (0 none, 1 marker sent, 2 marker at the receiver), its snapshots and count; stopped. -/
structure Channel where
  used : Nat
  occupied : Nat
  returning : Nat
  phase : Nat
  p : Nat
  o : Nat
  c : Nat
  stopped : Bool
  /-- When the next audit is due, by the die's local count. -/
  nextAudit : Nat
deriving DecidableEq, Repr

/-- A packet given to Axsis and not acknowledged (R455): whether it has left (the flow's window holds it back else), when it was last
sent and how often again. -/
structure SentPkt where
  pkt : AxPkt
  left : Bool
  since : Nat
  resends : Nat
deriving DecidableEq, Repr

/-- A `COLL` or collective node that a gateway holds (R461): its group and command number, or 0 and the graph and node; the
command with its addresses; COLL_STATUS wanted. -/
structure WaitColl where
  gid : Nat
  cid : Nat
  graph : Nat
  node : Nat
  unit : Nat
  addr : Nat
  queue : Nat
  part : Nat
  die : Nat
  job : Nat
  inst : Nat
  cmd : CollCmd
  /-- The source's bytes, each with the size of its replicated page, until they are read a second time (R280). -/
  src : List (Nat × Nat) := []
deriving DecidableEq, Repr

/-- A reduction at its root (R464): what the first arrival fixed, the contributions held, the ranks answered `MISMATCH`, when the
slot was taken. -/
structure RootSlot where
  job : Nat
  ident : Nat
  gw : Nat
  op : Nat
  fmt : Nat
  count : Nat
  len : Nat
  timeout : Nat
  since : Nat
  parts : List RankData
  refused : List Nat
  viaSwitch : Bool
deriving DecidableEq, Repr

/-- A retention entry (R465): status, ranks combined, every rank answered, and its time. -/
structure Retained where
  job : Nat
  ident : Nat
  gw : Nat
  status : Nat
  ranks : List Nat
  answered : List Nat
  count : Nat
  timeout : Nat
  since : Nat
deriving DecidableEq, Repr

/-- A slot of an attested switch (R470). -/
structure SwitchSlot where
  sw : Nat
  job : Nat
  ident : Nat
  pkt : AxPkt
  parts : List RankData
  since : Nat
deriving DecidableEq, Repr

/-- A job as the trust die and the gateways hold it (R468 to R471, R511, R512): its lists, its epoch, and each holder's invocation counter in the current epoch. -/
structure JobEntry where
  ctx : Nat
  part : Nat
  tag : Nat
  valid : Bool
  epoch : Nat
  gateways : List GwRef
  switches : List Nat
  counters : NMap Nat
deriving DecidableEq, Repr

/-- A stamped write to a replicated page (R383): the store, its stamp, and the dies whose replica has not applied it. -/
structure StampedWrite where
  w : ReplStore
  stamp : Nat
  left : List Nat
deriving DecidableEq, Repr

/-- A request that a port sends to the host (R479, R501): the bus address, kind (0 posted write, 1 read, 2 FetchAdd, 3 Swap, 4 CAS), what it
carries, the port function's Requester ID, traffic class, No Snoop, Relaxed Ordering, the IDE stream (R481). -/
structure HostTlp where
  port : Nat
  addr : Nat
  data : List Byte
  kind : Nat := 0
  len : Nat := 0
  tag : Nat := 0
  requester : Nat := 0
  tc : Nat := 0
  noSnoop : Bool := false
  relaxed : Bool := false
  stream : Nat := 0
  ep : Bool := false
deriving DecidableEq, Repr

/-- What a port completes towards its requester (R478): port, requester, status (0 success, 1 unsupported request, 2
completer abort), the EP bit, the bytes. -/
structure Completion where
  port : Nat
  requester : Nat
  status : Nat
  ep : Bool
  data : List Byte
deriving DecidableEq, Repr

/-- An SPDM session of a port (R507): its key's number among those drawn, whether FINISH has come. -/
structure Session where
  port : Nat
  id : Nat
  key : Nat
  finished : Bool
deriving DecidableEq, Repr

/-- What the trust die answers an SPDM request with: the port, the request code, the numbers of the answer. -/
structure SpdmAnswer where
  port : Nat
  code : Nat
  body : List Nat
deriving DecidableEq, Repr

/-- The networks, gateways, reductions, replicas and ports. -/
structure Net where
  packets : List MeshPkt
  flows : List Flow
  reorder : NMap ReorderPort
  /-- Channel of link l and index c at key 32l + c. -/
  channels : NMap Channel
  /-- Outputs of each router that have granted a packet in its mesh cycle (R441), by 48 × die + router. -/
  grants : NMap (List Nat) := []
  /-- Collective packets that wait for their job's next epoch to be sealed (R469): the gateway here, the destination, the packet. -/
  unsealed : List (Nat × GwRef × AxPkt) := []
  /-- Axsis: the next sequence number of each flow sent, that expected of each flow received, packets unacknowledged, and
  every packet that has left, oldest first. -/
  axNext : NMap Nat
  axExpect : NMap Nat
  axSent : List SentPkt
  axOut : List AxPkt
  /-- Packets discarded by a gateway (R453, R468), by gateway. -/
  axErrors : NMap Nat
  colls : List WaitColl
  roots : List RootSlot
  retained : List Retained
  switchSlots : List SwitchSlot
  jobs : List JobEntry
  /-- Stamps given out, by page; stamped writes not applied everywhere, in stamp order. -/
  stamps : NMap Nat
  stamped : List StampedWrite
  /-- Completions sent by the ports, oldest first. -/
  completions : List Completion
  /-- Cross-partition requests admitted and not yet performed, by exporter and window (R484). -/
  admitted : List (Nat × Nat × Nat)
  /-- Corrected errors, by unit (R501 type 0x01). -/
  corrected : NMap Nat
deriving DecidableEq, Repr

/-- The trust die (file 19). -/
structure Trust where
  /-- BOOT.FULL was accepted: the layout is formed once the reset of the bring-up partition is over (R516). -/
  forming : Bool
  /-- 0 trust die only, 1 reduced service, 2 full service; dies released, dies refused. -/
  service : Nat
  released : List Nat
  failed : List Nat
  /-- The configured layout: log2 of the number of partitions (R474). -/
  layout : Nat
  /-- The retired-unit record (R504): the words of DEG_CORE0 and DEG_CORE1 less quarantine, DEG_CHAN and DEG_SLICE0 to DEG_SLICE2 of
  die `d`, at key 64d + offset. -/
  record : NMap Nat
  /-- Firmware images stored, by target; those staged for the next bring-up; security versions in the fuses. -/
  images : List FwImage
  staged : List FwImage
  fuses : NMap Nat
  /-- The trust die runs its recovery image (R514). -/
  recovery : Bool
  /-- Ports that present the recovery function (R515), ports trained. -/
  recoveryPorts : List Nat
  trained : List Nat
  /-- Measurements 1 to 7 (Table 19-1). -/
  measured : NMap Nat
  sessions : List Session
  answers : List SpdmAnswer
  /-- Keys drawn from the random source. -/
  draws : Nat
  /-- IDE streams: key of stream k of port p at 8p + k; streams that are Insecure. -/
  ideKeys : NMap Nat
  insecure : List Nat
  /-- Partitions held in reset after a thermal trip (R521). -/
  held : List Nat
deriving DecidableEq, Repr

/-- What the codes on storage find (Table 18-1). -/
inductive Damage where
  /-- An error corrected in a unit of a die: partition, die, UKIND and UNIT of Table 18-5. -/
  | corrected (part die ukind unit : Nat)
  /-- An uncorrectable error in the sector of a storage address: L2, vault or HBM. -/
  | sector (part die ukind unit addr : Nat)
  /-- An uncorrectable error in dirty bytes of a core's L1: sector `k` of a line. -/
  | dirty (core line k : Nat)
  /-- An uncorrectable error in storage that a group owns. -/
  | owned (gid : Nat)
  /-- An uncorrectable error in a structure of a core: L1 tag or mask, transaction table, write-combining buffer. -/
  | core (core : Nat)
  /-- An uncorrectable error in a structure that a partition shares: an L2 tag or directory, miss-status register, vault directory, walker,
  die distributor, queue front-end or graph walker. -/
  | shared (part : Nat)
deriving DecidableEq, Repr

/-- Networks with nothing in them. -/
def Net.empty : Net :=
  { packets := [], flows := [], reorder := [], channels := [], axNext := [], axExpect := [], axSent := [], axOut := [], axErrors := []
    colls := [], roots := [], retained := [], switchSlots := [], jobs := [], stamps := [], stamped := [], completions := []
    admitted := [], corrected := [] }

/-- A trust die before its boot, with a verifying image of version 0 stored for every die and for itself, and one partition of
four dies configured (log entry 12). -/
def Trust.reset : Trust :=
  { forming := false, service := 0, released := [], failed := [], layout := 0, record := []
    images := (natsFrom 0 5).map (fun t => { target := t, digest := t, version := 0, signed := true }), staged := [], fuses := []
    recovery := false, recoveryPorts := [], trained := [], measured := [], sessions := [], answers := [], draws := 0
    ideKeys := [], insecure := [], held := [] }

end Sys2Proof.Machine
end

