-- ==== Sys2Proof/Machine/State.lean ====
section
/-! DEFINITION. The state of one T940 package as plain data, the reasons a step can stop, and the state after reset. -/
namespace Sys2Proof.Machine
open Sys2Proof

/-- The issue group whose instruction is executing: group, unit (a crew, or 32 for the access slice), lanes issued,
the address and length of the instruction. -/
structure Issue where
  gid : Nat
  unit : Nat
  lanes : Word
  addr : Nat
  ilen : Nat
deriving DecidableEq, Repr

/-- The state of one package. -/
structure State where
  /-- The issue group whose instruction `exec` executes; the step sets it. -/
  cur : Option Issue
  /-- The model's own counter of free values used (log entry 9). -/
  free : Nat
  /-- Steps of the hardware that may come next, posted by earlier steps. -/
  due : List Ev
  /-- Inputs from outside the package, oldest first. -/
  inputs : List Ev
  /-- `sr.cycle` of each die (R9). -/
  cycle : NMap Nat
  /-- The package's own peer number (R359). -/
  peer : Nat
  parts : List Part
  groups : List Group
  nextId : Nat
  cores : NMap Core
  /-- Memory at its homes, by storage address: die-local, vault (Table 13-1). -/
  mem : NMap Byte
  /-- How often the memory key of a die was replaced (R486). -/
  memKey : NMap Nat
  /-- Poisoned sectors, by storage sector number (R493). -/
  poison : NMap Bool
  dir : NMap Sharers
  /-- Lines present in the L2 slices (R371), by slice and set (key 512 × slice + set), the last used first, each with its dirty sectors;
  requests listed at a home (R369); requests in the slices' ingress queues (R369). -/
  l2 : NMap (List (Nat × Nat))
  listed : NMap (List Listed)
  ingress : NMap (List HomeReq)
  /-- Replies of home requests, by request number. -/
  replies : NMap (List Byte)
  xlate : NMap DieXlate
  /-- Control registers written, by partition window and offset (R387). -/
  creg : NMap Nat
  insts : List Inst
  launches : List Launch
  gangs : List Gang
  queues : NMap Queue
  graphs : List Graph
  copies : List CopyOp
  slots : List SlotUse
  /-- The next launch identifier of each partition (R401). -/
  launchCount : NMap Nat
  /-- The launch for which back-fill on a die has stopped (R411). -/
  onlyLaunch : NMap Nat
  /-- The next queue each partition's front-end looks at, by priority (R395). -/
  served : NMap Nat
  /-- Requests that the ports have sent to the host, oldest first (R479, R501). -/
  hostOut : List HostTlp
  /-- Requests to peers and to the host that have not been answered, oldest first (R220). -/
  remote : List RemoteReq
  /-- From outside: the values of `free` at which a checker finds the issuing unit's result faulty (R490, R491). -/
  upsets : List Nat
  /-- From outside: the errors that the codes on storage find, each with the value of `free` at which it is found (R492). -/
  damage : List (Nat × Damage)
  net : Net
  trust : Trust
deriving DecidableEq, Repr

/-- Why a step stops with a fault. -/
inductive Fault where
  /-- `exec` was asked for an instruction while no issue group issues one, or for a group, unit or other object that does
  not exist. Raised by the meanings; no step of the machine does it. Safe: nothing is claimed of such a state. -/
  | noIssueGroup
deriving DecidableEq, Repr

/-- Why a step is refused. -/
inductive Refusal where
  /-- The instruction has no meaning yet; raised by its arm of `exec`. Safe. -/
  | notModelled (mnemonic : String)
deriving DecidableEq, Repr

/-- The outcome of one step. -/
abbrev Out := Host.Outcome State Fault Refusal

/-- A core with nothing in it. -/
def Core.empty : Core :=
  { l1 := [], plru := [], icache := [], tlb := [], wcb := [], ottWait := [], errors := [], quarantined := false, aae := 0 }

/-- The package right after power-on: every die held, nothing resident, the trust die about to boot (R514). -/
def State.reset : State :=
  { cur := none, free := 0, due := [.packagePowerOn], inputs := [], cycle := [], peer := 0, parts := [], groups := [], nextId := 1,
    cores := [], mem := [], memKey := [], poison := [], dir := [], l2 := [], listed := [], ingress := [], replies := [], xlate := [],
    creg := [], insts := [], launches := [], gangs := [], queues := [], graphs := [], copies := [], slots := [],
    launchCount := [], onlyLaunch := [], served := [], hostOut := [], remote := [], upsets := [], damage := [], net := Net.empty, trust := Trust.reset }

end Sys2Proof.Machine
end

