-- ==== Sys2Proof/Machine/Mem.lean ====
section
/-! DEFINITION. Memory at its homes and in the L1 data caches: the package-local address space, the home of a line,
reads and writes at the home with the directory's invalidations, and the L1 policy of Table 13-2 (R359 to R373). -/
namespace Sys2Proof.Machine
open Sys2Proof

/-- What a region of Table 13-1 is. -/
inductive Region where
  | hashed | dieLocal (d : Nat) | vault (k : Nat) | host (d : Nat) | none
deriving DecidableEq, Repr

/-- Lines of one die's HBM with every channel enabled (Table 13-1). -/
def dieLines : Nat := 715827840
/-- First address of die `d`'s die-local window. -/
def dieBase (d : Nat) : Nat := 0xC000000000 + d * 0x3000000000
/-- First address of the vault of cluster `k`. -/
def vaultBase (k : Nat) : Nat := 0x18000000000 + k * 0xC000000
/-- First address of die `d`'s host window. -/
def hostBase (d : Nat) : Nat := 0xC0000000000 + d * 0x30000000000

/-- The dies of a partition as a list, its backed lines per die, and how its hashed window folds. -/
structure View where
  dies : List Nat
  /-- Lines that the hashed window takes of each die, the fewest that one of its dies backs; and the lines that each die of the
  package backs (R505). -/
  lines : Nat
  backed : List Nat
  /-- Dies whose host window is open (R479). -/
  hosts : List Nat
  /-- Ranges that other partitions export to this one: base and size (R482, R483). -/
  imports : List (Nat × Nat)
  /-- Vaults of retired clusters (R504). -/
  gone : List Nat
  /-- Of the ranges imported, those that their exporter admits reads of now, and those it admits writes of (R484). -/
  readable : List (Nat × Nat) := []
  writable : List (Nat × Nat) := []
deriving DecidableEq, Repr

/-- The address lies in a range that another partition exports to this one. -/
def View.imported (v : View) (a : Nat) : Bool := v.imports.any (fun r => decide (r.1 ≤ a ∧ a < r.1 + r.2))

/-- An access to an address is admitted at its home: one in another partition's memory only through a window that admits it (R484). -/
def View.admits (v : View) (a : Nat) (write : Bool) : Bool :=
  !v.imported a || (if write then v.writable else v.readable).any (fun r => decide (r.1 ≤ a ∧ a < r.1 + r.2))

/-- b with 2^b dies. -/
def View.b (v : View) : Nat := if v.dies.length = 4 then 2 else if v.dies.length = 2 then 1 else 0

/-- The region of a package-local address as a partition sees it (Table 13-1). -/
def regionOf (v : View) (a : Nat) : Region :=
  if a < v.dies.length * v.lines * 192 then .hashed
  else if a < 0xC000000000 then .none
  else if a < 0x18000000000 then
    let d := (a - 0xC000000000) / 0x3000000000
    if (v.dies.contains d || v.imported a) && decide ((a - 0xC000000000) % 0x3000000000 < lget 0 v.backed d * 192) then .dieLocal d else .none
  else if a < 0x18000000000 + 32 * 0xC000000 then
    let k := (a - 0x18000000000) / 0xC000000
    if (v.dies.contains (k / 8) || v.imported a) && !v.gone.contains k then .vault k else .none
  else if 0xC0000000000 ≤ a ∧ a < 0xC0000000000 + 4 * 0x30000000000 then
    let d := (a - 0xC0000000000) / 0x30000000000
    if v.dies.contains d && v.hosts.contains d then .host d else .none
  else .none

/-- The XOR of the b-bit fields of `n` (R361). -/
def foldXor (b : Nat) : Nat → Nat → Nat
  | 0, _ => 0
  | fuel + 1, n => if b = 0 ∨ n = 0 then 0 else (n % 2 ^ b) ^^^ foldXor b fuel (n / 2 ^ b)

/-- The partition's die that is the home of hashed-window line `n` (R361). -/
def View.homeDie (v : View) (n : Nat) : Nat := lget 0 v.dies (foldXor v.b 64 n)

/-- The storage address of a package-local address: hashed-window lines are stored at the die-local line R361 gives. -/
def storage (v : View) (a : Nat) : Nat :=
  match regionOf v a with
  | .hashed => dieBase (v.homeDie (a / 192)) + (a / 192 / 2 ^ v.b) * 192 + a % 192
  | _ => a

/-- The die whose memory holds a storage address. -/
def dieOfStorage (a : Nat) : Nat :=
  if a < 0x18000000000 then (a - 0xC000000000) / 0x3000000000 else (a - 0x18000000000) / 0xC000000 / 8

/-- What an unlisted byte reads as: zero, or a free value after the die's memory key was replaced. -/
def memByte0 (keys : NMap Nat) (a : Nat) : Byte :=
  match nget (fun _ => 0) keys (dieOfStorage a) with
  | 0 => 0
  | n + 1 => Config.scrubbed (n + 1) a

/-- Reads a byte of storage. -/
def State.byteAt (s : State) (a : Nat) : Byte := nget (memByte0 s.memKey) s.mem a
/-- Writes a byte of storage. -/
def State.putByte (s : State) (a : Nat) (x : Byte) : State := { s with mem := nset (memByte0 s.memKey) s.mem a x }

/-- The memory holds its canonical form. -/
def State.memWf (s : State) : Bool := nwf (memByte0 s.memKey) s.mem

/-- A sector is poisoned (R493). -/
def State.poisoned (s : State) (a : Nat) : Bool := nget (fun _ => false) s.poison (a / 48)

/-- Reads `n` bytes of storage from `a`. -/
def State.bytesAt (s : State) : Nat → Nat → List Byte
  | _, 0 => []
  | a, n + 1 => s.byteAt a :: s.bytesAt (a + 1) n

/-- Writes bytes of storage from `a`. -/
def State.putBytes (s : State) : Nat → List Byte → State
  | _, [] => s
  | a, x :: xs => (s.putByte a x).putBytes (a + 1) xs

/-- A core's state. -/
def State.core (s : State) (c : Nat) : Core := nget (fun _ => Core.empty) s.cores c
/-- Puts a core's state back. -/
def State.setCore (s : State) (c : Nat) (x : Core) : State := { s with cores := nset (fun _ => Core.empty) s.cores c x }

/-- The flat number of a core. -/
def Pos.flat (p : Pos) : Nat := p.die * 96 + p.cluster * 12 + p.core
/-- The cluster of the package that a flat core number lies in. -/
def clusterOf (c : Nat) : Nat := c / 12

/-- Takes a copy of `line` out of a core's L1 when it is tracked, or whatever it is. DEDUCED: an untracked copy stays where the directory has a
line invalidated, of a core that it names too: the directory keeps tracked copies (log entry 73). -/
def Core.dropLine (k : Core) (line : Nat) (onlyTracked : Bool) : Core :=
  match nfind? k.l1 line with
  | some l => if onlyTracked && !l.tracked then k else { k with l1 := nerase k.l1 line }
  | none => k

/-- The cores a directory entry names. -/
def Sharers.cores : Sharers → List Nat
  | .exact l => l
  | .clusters v => (natsFrom 0 384).filter (fun c => v.testBit (clusterOf c))

/-- Adds a sharer (R367): a fifth turns the entry into a vector of clusters. -/
def Sharers.add (e : Sharers) (c : Nat) : Sharers :=
  match e with
  | .exact l =>
    if l.contains c then .exact l
    else if l.length < 4 then .exact (l ++ [c])
    else .clusters ((l ++ [c]).foldl (fun v x => v ||| 2 ^ clusterOf x) 0)
  | .clusters v => .clusters (v ||| 2 ^ clusterOf c)

/-! ### Control registers -/

/-- Key of a control register: the global context and queue registers, or a partition's own (R387). -/
def cregKey (part off : Nat) : Nat := if 0x10000 ≤ off ∧ off < 0x40000 then off else (part + 1) * 0x100000 + off

/-- What a control register holds at reset, by its key: PART_WAIT, EVT_CTL.CORRLOG2, PWR_LIMIT and PWR_STEP of a partition, OUT_CTL.CTO
of a port, LINK_CTL.AUDIT of a link (Tables 17-3, 18-4, 19-5, 17-5, 16-3); else 0. -/
def regReset (key : Nat) : Nat :=
  let owner := key / 0x100000
  let off := key % 0x100000
  if owner = 0 then 0
  else if owner ≤ 16 then
    (match off with
     | 0x20 => 0x10000
     | 0x5008 => 0x10000000000000
     | 0x8008 => 0x14141414
     | 0x8010 => 0x14141414
     | _ => 0)
  else if owner ≤ 20 then (if off = 0x3008 then 0x04000000 else 0)
  else if owner = 41 ∧ 0x40000 ≤ off ∧ off < 0x40800 ∧ off % 0x40 = 8 then 0x40
  else 0

/-- Reads a control register as it is stored. -/
def State.reg (s : State) (part off : Nat) : Nat := nget regReset s.creg (cregKey part off)
/-- Stores a control register. -/
def State.setReg (s : State) (part off v : Nat) : State := { s with creg := nset regReset s.creg (cregKey part off) v }
/-- The pseudo partition under which registers of the whole package are held: links, degraded units, job entries. -/
def pkgRegs : Nat := 40

/-! ### L2 slices (R361, R371) -/

/-- The name by which the homes know a line: hashed lines apart for each partition's window (R367); die-local and vault lines under their
own number. -/
def homeKey (v : View) (line : Nat) : Nat :=
  if line * 192 < v.dies.length * v.lines * 192 then line + 2 ^ 45 * (1 + v.dies.headD 0) else line
/-- The line of a name. -/
def keyLine (key : Nat) : Nat := key % 2 ^ 45

/-- The channel of a die-local line (R361). -/
def channelOf (j : Nat) : Nat := bits j 5 0 ^^^ bits j 11 6 ^^^ bits j 17 12
/-- The channel of line `j` of die `d`: with channels retired, the enabled one of rank j mod e (R505). -/
def State.chanAt (s : State) (d j : Nat) : Nat :=
  let gone := s.reg pkgRegs (0x7010 + 0x40 * d)
  if gone = 0 then channelOf j
  else
    let on := (natsFrom 0 64).filter (fun k => !bit gone k)
    lget 0 on (j % on.length)
/-- Slice `k` of a die is retired (R504). -/
def State.sliceGone (s : State) (d k : Nat) : Bool := bit (s.reg pkgRegs (0x7018 + 0x40 * d + 8 * (k / 64))) (k % 64)
/-- The home slice of a die-local line, counted over the package, 160 to a die: the one its number names, or the next enabled (R361). -/
def State.sliceAt (s : State) (d j : Nat) : Nat :=
  let k0 := 32 * (j % 5) + s.chanAt d j % 32
  d * 160 + ((natsFrom k0 160).find? (fun k => !s.sliceGone d (k % 160))).getD k0 % 160
/-- The home slice of a line and its set there: 512 sets, which the lines of a slice take in turn (log entry 73). -/
def State.sliceOf (s : State) (v : View) (line : Nat) : Nat × Nat :=
  let a := storage v (line * 192)
  let j := (a - dieBase (dieOfStorage a)) / 192
  (s.sliceAt (dieOfStorage a) j, j / 160 % 512)

/-- Requests listed at a home, by the line's name there. -/
def State.listedAt (s : State) (key : Nat) : List Listed := nget (fun _ => []) s.listed key
def State.setListed (s : State) (key : Nat) (l : List Listed) : State := { s with listed := nset (fun _ => []) s.listed key l }

/-- The line is a vault's: no L2 slice holds it (R372). -/
def isVaultLine (line : Nat) : Bool := decide (0x18000000000 ≤ line * 192)

/-- A line is present in its slice. -/
def State.l2Has (s : State) (v : View) (line : Nat) : Bool :=
  let x := s.sliceOf v line
  (nget (fun _ => []) s.l2 (x.1 * 512 + x.2)).any (fun y => decide (y.1 = homeKey v line))

/-- The lines present in the set of a line, each with its dirty sectors. -/
def State.l2Set (s : State) (v : View) (line : Nat) : List (Nat × Nat) :=
  let x := s.sliceOf v line
  nget (fun _ => []) s.l2 (x.1 * 512 + x.2)

/-- A request performed at a slice allocates its line (R371), with the sectors of `dirty` dirty; of 13 lines of a set the one used longest ago
that has no listed request goes, its dirty sectors written back, and its directory entry stays (DESIGN CHOICE, log entry 73). A line for which
no way is free is not allocated; no miss is taken then (`State.l2Room`). -/
def State.l2Touch (s : State) (v : View) (line dirty : Nat) : State :=
  if isVaultLine line then s
  else
    let x := s.sliceOf v line
    let key := homeKey v line
    let set := s.l2Set v line
    let old := ((set.find? (fun y => decide (y.1 = key))).map (fun y => y.2)).getD 0
    let rest := set.filter (fun y => decide (y.1 ≠ key))
    let put := fun (kept : List (Nat × Nat)) => { s with l2 := nset (fun _ => []) s.l2 (x.1 * 512 + x.2) ((key, old ||| dirty) :: kept) }
    if rest.length < 12 then put rest
    else match rest.reverse.find? (fun y => (s.listedAt y.1).isEmpty) with
      | some z => put (rest.filter (fun y => decide (y.1 ≠ z.1)))
      | none => s

/-- Sectors that bytes `o` to `o + n - 1` of a line touch, as a mask. -/
def sectorMask (o n : Nat) : Nat := (natsFrom 0 4).foldl (fun m k => if o < 48 * k + 48 ∧ 48 * k < o + n then m + 2 ^ k else m) 0

/-! ### The home of a line (R367, R368) -/

/-- The directory entry of a line, by its name. -/
def State.sharers (s : State) (key : Nat) : Sharers := nget (fun _ => .exact []) s.dir key

/-- Lists a core as a sharer of a line (R367). -/
def State.addSharer (s : State) (key c : Nat) : State := { s with dir := nset (fun _ => Sharers.exact []) s.dir key ((s.sharers key).add c) }

/-- Invalidates the tracked copies of a line in every sharer other than the writer (R367). -/
def State.invalidateSharers (s : State) (key : Nat) (writer : Option Nat) : State :=
  let cs := (s.sharers key).cores.filter (fun c => decide (some c ≠ writer))
  let s1 := cs.foldl (fun t c => t.setCore c ((t.core c).dropLine (keyLine key) true)) s
  let left := match writer with
    | some c => if (s.sharers key).cores.contains c then [c] else []
    | none => []
  { s1 with dir := nset (fun _ => Sharers.exact []) s1.dir key (.exact left) }

/-- Writes bytes into a core's copy of a line from byte `o`, where it holds one (R367 step 3). -/
def State.updateCopy (s : State) (c line o : Nat) (bs : List Byte) : State :=
  match nfind? (s.core c).l1 line with
  | none => s
  | some l =>
    let d := bs.zipIdx.foldl (fun m (x : Byte × Nat) => ninsert m (o + x.2) x.1) l.data
    s.setCore c { s.core c with l1 := ninsert (s.core c).l1 line { l with data := d } }

/-- Performs a write at the home of package-local address `a`, within one line (R367, R368, R371). A write of a whole
sector clears its poison. -/
def State.homeWrite (s : State) (v : View) (a : Nat) (bs : List Byte) (writer : Option Nat) (coherent : Bool) : State :=
  let s1 := if coherent then s.invalidateSharers (homeKey v (a / 192)) writer else s
  let s2 := s1.putBytes (storage v a) bs
  let full := (natsFrom 0 4).filter (fun k => decide (a % 192 ≤ 48 * k ∧ 48 * k + 48 ≤ a % 192 + bs.length))
  let s3 := { s2 with
    poison := full.foldl (fun m k => nset (fun _ => false) m (storage v (a / 192 * 192 + 48 * k) / 48) false) s2.poison }.l2Touch v (a / 192)
      (sectorMask (a % 192) bs.length)
  match writer with
  | some c => s3.updateCopy c (a / 192) (a % 192) bs
  | none => s3

/-- Reads bytes at the home of package-local address `a`; none where a sector is poisoned (R493). -/
def State.homeRead (s : State) (v : View) (a n : Nat) : Option (List Byte) :=
  if (natsFrom 0 n).any (fun i => s.poisoned (storage v (a + i))) then none
  else some ((natsFrom 0 n).map (fun i => s.byteAt (storage v (a + i))))

/-! ### Requests at a home (R367 to R372) -/

/-- The line of a request. -/
def lineOf (r : HomeReq) : Nat := r.addr / 192
/-- The width of a read-modify-write: of an atomic's operand, or of the unit that an element is stored into. -/
def atomWidth (r : HomeReq) : Nat := if r.op = 4 then r.data.length / 2 else if r.op = 5 then r.len else r.data.length
/-- A request writes. -/
def homeWrites (r : HomeReq) : Bool := decide (r.op ≠ 0)

/-- What a read-modify-write request writes over the bytes it finds; none where a compare fails (R215, R232). -/
def homeNew (r : HomeReq) (old : List Byte) : Option (List Byte) :=
  let n := atomWidth r
  if 64 ≤ r.op then some (leBytes n (atomNew ((r.op - 64) / 32) (BitVec.ofNat 5 (r.op - 64)) (ofLeBytes old) (ofLeBytes r.data)))
  else match r.op with
  | 2 => some (leBytes n ((ofLeBytes old + ofLeBytes r.data) % 2 ^ (8 * n)))
  | 3 => some r.data
  | 5 => some (elemNew r.data old)
  | _ => if old = r.data.take n then some (r.data.drop n) else none

/-- PERFORMS a request at its home as one action (R368): a read gives the bytes and lists its core as a sharer, a write or atomic
writes. No bytes where they are uncorrectable. -/
def State.performAt (s : State) (v : View) (r : HomeReq) : State × Option (List Byte) :=
  let n := if r.op = 0 then r.len else atomWidth r
  if r.op = 1 then
    let s1 := s.homeWrite v r.addr r.data r.core r.coherent
    (if r.bad then { s1 with poison := ((natsFrom r.addr r.data.length).map (fun x => storage v x / 48)).foldl (fun m k => nset (fun _ => false) m k true) s1.poison }
      else s1, some [])
  else
    let s0 := s.l2Touch v (lineOf r) 0
    match s.homeRead v r.addr n with
    | none => (s0, none)
    | some old =>
      if r.op = 0 then
        (match r.core with
          | some c => if r.coherent then s0.addSharer (homeKey v (lineOf r)) c else s0
          | none => s0, some old)
      else
        (match homeNew r old with
          | some new => s.homeWrite v r.addr new r.core r.coherent
          | none => s0, some old)

/-- Performs listed requests in their order; their replies go when the list is run, those that wait for acknowledgements after these. -/
def State.performListed (s : State) (v : View) : List Listed → State × List Listed
  | [] => (s, [])
  | x :: l =>
    match x.ans with
    | some _ => let y := s.performListed v l
      (y.1, x :: y.2)
    | none =>
      let y := s.performAt v x.req
      let z := y.1.performListed v l
      (z.1, { x with ans := some y.2 } :: z.2)

/-- A request waits for the line of a name: of a hashed line, one of the same partition's window. -/
def State.sameLine (s : State) (v : View) (line : Nat) (r : HomeReq) : Bool :=
  decide (lineOf r = line) && (decide (homeKey v line < 2 ^ 45) ||
    s.parts.any (fun x => decide (x.id = r.part) && decide (x.dies.headD 0 = v.dies.headD 0)))
/-- Requests for a line that wait in its slice's ingress queue (R369). -/
def State.waitingAt (s : State) (v : View) (line : Nat) : List HomeReq :=
  (nget (fun _ => []) s.ingress (s.sliceOf v line).1).filter (s.sameLine v line)
/-- Takes the requests for a line out of its slice's ingress queue. -/
def State.takeWaiting (s : State) (v : View) (line : Nat) : State :=
  let slice := (s.sliceOf v line).1
  { s with ingress := nset (fun _ => []) s.ingress slice ((nget (fun _ => []) s.ingress slice).filter (fun r => !s.sameLine v line r)) }

/-- An access arrives at the home of a line: what is listed there, and what waits to be listed, was before it and is performed first (R368,
R370). -/
def State.catchUp (s : State) (v : View) (line : Nat) : State :=
  let key := homeKey v line
  match s.listedAt key, s.waitingAt v line with
  | [], [] => s
  | l, w =>
    let y := (s.takeWaiting v line).performListed v (l ++ w.map (fun r => { req := r, acks := [] }))
    let t := y.1.setListed key y.2
    if l.isEmpty then { t with due := t.due ++ [.l2Fill key] } else t

/-- A write that arrives at a home now. -/
def State.homePut (s : State) (v : View) (a : Nat) (bs : List Byte) (writer : Option Nat) (coherent : Bool) : State :=
  (s.catchUp v (a / 192)).homeWrite v a bs writer coherent

/-- What a read that arrives at a home now finds. -/
def State.homeGet (s : State) (v : View) (a n : Nat) : Option (List Byte) := (s.catchUp v (a / 192)).homeRead v a n

/-! ### The L1 data cache (R363 to R366) -/

/-- Tree pseudo-LRU victim way of a set: bit i of the state is node i + 1 of the tree, 1 pointing right. -/
def plruVictim (t : Nat) : Nat :=
  let b1 := if bit t 0 then 1 else 0
  let n2 := 2 + b1
  let b2 := if bit t (n2 - 1) then 1 else 0
  let n3 := 2 * n2 + b2
  let b3 := if bit t (n3 - 1) then 1 else 0
  4 * b1 + 2 * b2 + b3

/-- The tree after way `w` is used: every node on its path points away from it. -/
def plruTouch (t w : Nat) : Nat :=
  let b1 := w / 4
  let b2 := w / 2 % 2
  let b3 := w % 2
  let t1 := setBits t 0 0 (1 - b1)
  let t2 := setBits t1 (1 + b1) (1 + b1) (1 - b2)
  setBits t2 (3 + 2 * b1 + b2) (3 + 2 * b1 + b2) (1 - b3)

/-- The bytes of a line that are dirty, as runs (offset, bytes) of one byte each. -/
def L1Line.dirtyBytes (l : L1Line) : List (Nat × Byte) :=
  (natsFrom 0 192).filterMap (fun o => if l.dirty.testBit o then some (o, nget (fun _ => 0) l.data o) else none)

/-- The key of a line in an L1: its number in the package's own space; lines of another package apart (R364). -/
def State.l1Key (s : State) (pa : Nat) : Nat :=
  if pa / 2 ^ 45 = s.peer then pa % 2 ^ 45 / 192 else pa % 2 ^ 45 / 192 + (pa / 2 ^ 45 + 1) * 2 ^ 40
/-- The fabric physical address of a line of an L1. -/
def State.l1Addr (s : State) (key : Nat) : Nat :=
  if key < 2 ^ 40 then s.peer * 2 ^ 45 + key * 192 else (key / 2 ^ 40 - 1) * 2 ^ 45 + key % 2 ^ 40 * 192

/-- A line (the fabric physical address of its first byte) meets one of the pieces. -/
def meets (ps : List (Nat × Nat)) (line : Nat) : Bool := ps.any (fun p => decide (p.1 < line + 192 ∧ line < p.1 + p.2))

/-- The line's write-back is pending in core `c`: it is held until it is accepted (R245). -/
def State.isHeld (s : State) (c key : Nat) : Bool :=
  s.groups.any (fun h => decide (h.loc.flat = c) && h.flights.any (fun f => decide (f.kind = .writeback) && meets f.ranges (s.l1Addr key)))

/-- Bytes by offset as runs of consecutive ones: first offset and bytes. -/
def byteRuns : List (Nat × Byte) → List (Nat × List Byte)
  | [] => []
  | (o, x) :: r =>
    match byteRuns r with
    | (p, xs) :: rs => if p = o + 1 then (o, x :: xs) :: rs else (o, [x]) :: (p, xs) :: rs
    | [] => [(o, [x])]

/-- Sectors of a line that hold dirty bytes and are marked poisoned (R493). -/
def L1Line.badDirty (l : L1Line) : List Nat := (natsFrom 0 4).filter (fun k => l.bad.testBit k && decide (bits l.dirty (48 * k + 47) (48 * k) ≠ 0))

/-- Writes a line's dirty bytes back at its home and leaves them clean: a sector that is dirty as a whole takes its mark off there, and one marked
here is marked there (R322, R365, R493). -/
def State.writeBackLine (s : State) (v : View) (c line : Nat) : State :=
  match nfind? (s.core c).l1 line with
  | none => s
  | some l =>
    if l.dirty = 0 then s else
      let s1 := (byteRuns l.dirtyBytes).foldl (fun t x => t.homeWrite v (line * 192 + x.1) x.2 none false) (s.catchUp v line)
      let s2 := { s1 with poison := l.badDirty.foldl (fun m k => nset (fun _ => false) m (storage v (line * 192 + 48 * k) / 48) true) s1.poison }
      s2.setCore c { s2.core c with l1 := ninsert (s2.core c).l1 line { l with dirty := 0 } }

/-- Writes back and drops a line, as an eviction does. -/
def State.evictLine (s : State) (v : View) (c line : Nat) : State :=
  let s1 := s.writeBackLine v c line
  s1.setCore c ((s1.core c).dropLine line false)

/-- The least way below 8 that no line of the list uses. -/
def freeWay (used : List Nat) : Option Nat := (natsFrom 0 8).find? (fun w => !used.contains w)

/-- Every way of a set of a core's L1 holds a line whose write-back is pending: a line that is not there has no place (R245). -/
def State.l1Full (s : State) (c line : Nat) : Bool :=
  (nfind? (s.core c).l1 line).isNone &&
    decide (8 ≤ ((s.core c).l1.filter (fun (x : Nat × L1Line) => decide (x.1 % 128 = line % 128) && s.isHeld c x.1)).length)

/-- Makes sure that a core's L1 has a place for `line`, evicting the pseudo-LRU line of a full set, or another where its
write-back is pending; where each is, none has a place (R245, R364). -/
def State.l1Place (s : State) (v : View) (c line : Nat) (tracked : Bool) : State :=
  match nfind? (s.core c).l1 line with
  | some _ => s
  | none =>
    let set := line % 128
    let here := (s.core c).l1.filter (fun (x : Nat × L1Line) => x.1 % 128 = set)
    if s.l1Full c line then s else
    let s1 := match freeWay (here.map (fun (x : Nat × L1Line) => x.2.way)) with
      | some _ => s
      | none =>
        let w := plruVictim (nget (fun _ => 0) (s.core c).plru set)
        match here.find? (fun (x : Nat × L1Line) => decide (x.2.way = w) && !s.isHeld c x.1), here.find? (fun (x : Nat × L1Line) => !s.isHeld c x.1) with
        | some x, _ => s.evictLine v c x.1
        | none, some x => s.evictLine v c x.1
        | none, none => s
    let here1 := (s1.core c).l1.filter (fun (x : Nat × L1Line) => x.1 % 128 = set)
    let w := (freeWay (here1.map (fun (x : Nat × L1Line) => x.2.way))).getD 0
    let k := s1.core c
    s1.setCore c { k with
      l1 := ninsert k.l1 line { way := w, valid := 0, tracked := tracked, dirty := 0, data := [] }
      plru := nset (fun _ => 0) k.plru set (plruTouch (nget (fun _ => 0) k.plru set) w) }

/-- The sectors that hold bytes from `o`, `n` of them, that are not dirty. -/
def L1Line.cleanSectors (l : L1Line) (o n : Nat) : List Nat := (((natsFrom o n).filter (fun i => !l.dirty.testBit i)).map (fun i => i / 48)).eraseDups
/-- Every byte of a line from `o`, `n` of them, is valid or dirty, and those that a fill brought came by one, so that no access unit is part old
and part new (R55). -/
def L1Line.holds (l : L1Line) (o n : Nat) : Bool :=
  (natsFrom o n).all (fun i => l.valid.testBit (i / 48) || l.dirty.testBit i) &&
    decide (((l.cleanSectors o n).map (fun k => nget (fun _ => 0) l.filled k)).eraseDups.length ≤ 1)
/-- Some byte of a line from `o`, `n` of them, lies in a sector marked poisoned (R493). -/
def L1Line.hasBad (l : L1Line) (o n : Nat) : Bool := (natsFrom o n).any (fun i => l.bad.testBit (i / 48))

/-- Fills a line for `n` bytes from byte `o`. Where one is missing, every sector that they lie in is read in one action, so that an access
unit is never part old and part new (R55); only bytes that are not dirty change (R365). -/
def State.l1Fill (s : State) (v : View) (c line o n : Nat) : Option State :=
  match nfind? (s.core c).l1 line with
  | none => some s
  | some l =>
    if l.holds o n then some s else
      let q := o / 48
      let m := (o + n - 1) / 48 + 1 - q
      let s1 := (s.catchUp v line).l2Touch v line 0
      match s1.homeRead v (line * 192 + 48 * q) (48 * m) with
      | none => none
      | some bs =>
        let d := bs.zipIdx.foldl (fun m (x : Byte × Nat) =>
          if l.dirty.testBit (48 * q + x.2) then m else ninsert m (48 * q + x.2) x.1) l.data
        some (s1.setCore c { s1.core c with
          l1 := ninsert (s1.core c).l1 line { l with
            data := d, valid := l.valid ||| (natsFrom q m).foldl (fun m k => m ||| 2 ^ k) 0
            filled := (natsFrom q m).foldl (fun f k => nset (fun _ => 0) f k (s.free + 1)) l.filled } })

/-- How an access is cached (Table 13-2). -/
inductive Policy where
  | untracked | tracked | clean | home
deriving DecidableEq, Repr

/-- The L1 policy of an access: pointer class, page sharing attribute, edge line (Table 13-2). -/
def policyOf (cls share : Nat) (edge : Bool) : Policy :=
  if edge || cls = 2 then .home
  else if cls = 1 then .clean
  else if share = 2 then .tracked
  else if share = 1 then .clean
  else .untracked

/-- Marks a line of an L1 as the last used of its set. -/
def State.l1Use (s : State) (c line : Nat) (l : L1Line) : State :=
  let k := s.core c
  s.setCore c { k with plru := nset (fun _ => 0) k.plru (line % 128) (plruTouch (nget (fun _ => 0) k.plru (line % 128)) l.way) }

/-- Reads `n` bytes of one line as core `c` does (R363 to R366); none where they are uncorrectable. -/
def State.coreReadUnit (s : State) (v : View) (c : Nat) (p : Policy) (a n : Nat) : Option (State × List Byte) :=
  let line := a / 192
  match p with
  | .home =>
    let s1 := (s.catchUp v line).l2Touch v line 0
    (s1.homeRead v a n).map (fun bs => (s1, bs))
  | _ =>
    let old := nfind? (s.core c).l1 line
    -- a private read of a coherent page does not use an untracked copy (R366)
    let s0 := match p, old with
      | .tracked, some l => if l.tracked then s else s.evictLine v c line
      | _, _ => s
    let s1 := s0.l1Place v c line (decide (p = .tracked))
    match s1.l1Fill v c line (a % 192) n with
    | none => none
    | some s2 =>
      let s3 := if p = .tracked then s2.addSharer (homeKey v line) c else s2
      match nfind? (s3.core c).l1 line with
      | some l => if l.hasBad (a % 192) n then none else some (s3.l1Use c line l, (natsFrom (a % 192) n).map (fun o => nget (fun _ => 0) l.data o))
      | none => (s3.homeRead v a n).map (fun bs => (s3, bs))

/-- Consecutive addresses of a list as runs (first address, count), split at line borders. -/
def runsOf : List Nat → List (Nat × Nat)
  | [] => []
  | a :: as =>
    match runsOf as with
    | (b, n) :: r => if b = a + 1 ∧ b % 192 ≠ 0 then (a, n + 1) :: r else (a, 1) :: (b, n) :: r
    | [] => [(a, 1)]

/-- Reads runs of bytes as core `c` does. -/
def State.coreReadRuns (s : State) (v : View) (c : Nat) (p : Policy) : List (Nat × Nat) → Option (State × List Byte)
  | [] => some (s, [])
  | (a, n) :: r =>
    match s.coreReadUnit v c p a n with
    | none => none
    | some (s1, xs) =>
      match s1.coreReadRuns v c p r with
      | none => none
      | some (s2, ys) => some (s2, xs ++ ys)

/-- Reads several bytes as core `c` does: those that lie together in a line as one unit. -/
def State.coreRead (s : State) (v : View) (c : Nat) (p : Policy) (as : List Nat) : Option (State × List Byte) := s.coreReadRuns v c p (runsOf as)

/-- Performs a committed store of one byte to a private page: the line is allocated without a fill and the byte is
dirty; where no way is to be had (R245) it is performed at the home. The L1 may write the line back at any time from then on (R365). DESIGN CHOICE: a store to a line that is there is no use of it for the
pseudo-LRU tree; a load is (log entry 73). -/
def State.l1Store (s : State) (v : View) (c a : Nat) (x : Byte) : State :=
  let line := a / 192
  let s1 := s.l1Place v c line false
  match nfind? (s1.core c).l1 line with
  | none => s1.homePut v a [x] (some c) false
  | some l =>
    let s2 := s1.setCore c { s1.core c with
      l1 := ninsert (s1.core c).l1 line { l with data := ninsert l.data (a % 192) x, dirty := l.dirty ||| 2 ^ (a % 192) } }
    if l.dirty = 0 then { s2 with due := s2.due ++ [.l1Writeback c line] } else s2

/-- A store of whole sectors takes their marks off in a core's L1 (R493). -/
def State.l1Clear (s : State) (c a n : Nat) : State :=
  match nfind? (s.core c).l1 (a / 192) with
  | none => s
  | some l =>
    if l.bad = 0 then s else
      let full := (natsFrom 0 4).filter (fun k => decide (a % 192 ≤ 48 * k ∧ 48 * k + 48 ≤ a % 192 + n))
      s.setCore c { s.core c with l1 := ninsert (s.core c).l1 (a / 192) { l with bad := full.foldl (fun b k => setBits b k k 0) l.bad } }

/-- Performs a committed store of core `c` (Table 13-2): a private page's bytes go to its L1, others to the home. -/
def State.coreWrite (s : State) (v : View) (c : Nat) (p : Policy) (share : Nat) (a : Nat) (bs : List Byte) : State :=
  match p with
  | .untracked => bs.zipIdx.foldl (fun t x => t.l1Store v c (a + x.2) x.1) (s.l1Clear c a bs.length)
  | _ => s.homePut v a bs (some c) (decide (share = 2))

end Sys2Proof.Machine
end

