-- ==== Sys2Proof/Machine/Xlate.lean ====
section
/-! DEFINITION. Translation: page-table walks, the TLBs, the checks of Table 13-6 and the address spaces
(R217, R375 to R380, R388). -/
namespace Sys2Proof.Machine
open Sys2Proof

/-- Context registers (Tables 14-1 and 15-4). -/
def State.ctxReg (s : State) (ctx off : Nat) : Nat := s.reg 0 (0x10000 + 0x40 * ctx + off)

/-- A leaf entry read as fields (Table 13-5), with the page it maps. -/
structure Leaf where
  frame : Nat
  va : Nat
  size : Nat
  share : Nat
  repl : Bool
  aflag : Bool
  r : Bool
  w : Bool
  x : Bool
  /-- The address that was translated, which names the second-level slice asked (R380). -/
  asked : Nat := 0
deriving DecidableEq, Repr

/-- Why a translation does not succeed: the cause code, the detail bits, and for `TRANSLATION` whether it is replayable. -/
structure XFault where
  cause : Nat
  detail : Nat
deriving DecidableEq, Repr

/-- A `TRANSLATION` fault with its reason and level (R377). -/
def xfault (reason level : Nat) : XFault :=
  { cause := 0x10, detail := reason + level * 16 + (if reason = 0 then 128 else 0) }

/-- Page size of a SIZE code (Table 13-5). -/
def pageSize : Nat → Nat
  | 0 => 2 ^ 12 | 1 => 2 ^ 14 | 2 => 2 ^ 16 | 3 => 2 ^ 18 | 4 => 2 ^ 21 | 5 => 2 ^ 25 | 6 => 2 ^ 29 | _ => 2 ^ 34

/-- The level at which a leaf of a SIZE code stands (R375). -/
def pageLevel (code : Nat) : Nat := if code < 4 then 0 else if code < 7 then 1 else 2

/-- The sort of a table entry, before its frame is checked. -/
inductive Entry where
  | bad (f : XFault)
  | table (addr : Nat)
  | leaf (l : Leaf)

/-- Reads a table entry's fields (Table 13-5, reasons 0, 2 and 3 of Table 13-6). -/
def readEntry (peer level va e : Nat) : Entry :=
  let size := bits e 63 61
  let addr := bits e 56 12 * 4096
  let share := bits e 11 10
  if !bit e 0 then .bad (xfault 0 level)
  else if bits e 58 57 ≠ 0 ∨ bits e 9 5 ≠ 0 ∨ share = 3 then .bad (xfault 2 level)
  else if !bit e 1 then
    if level = 0 ∨ size ≠ 0 ∨ addr ≥ 2 ^ 45 then .bad (xfault 2 level) else .table addr
  else if pageLevel size ≠ level ∨ addr % pageSize size ≠ 0 ∨ (bit e 59 ∧ share ≠ 2) ∨
      (bit e 60 ∧ (share = 0 ∨ addr / 2 ^ 45 ≠ peer ∨ addr % 2 ^ 45 ≥ 2 ^ 39)) then .bad (xfault 2 level)
  else if addr % 2 ^ 45 % 192 ≠ va / pageSize size * pageSize size % 192 then .bad (xfault 3 level)
  else .leaf { frame := addr, va := va / pageSize size * pageSize size, size := pageSize size, share := share,
               repl := bit e 60, aflag := bit e 59, r := bit e 2, w := bit e 3, x := bit e 4, asked := va }

/-- Walks a table at `level` for `va`: each entry is read at the home of its line (R376). -/
def State.walkFrom (s : State) (v : View) (va : Nat) : Nat → Nat → Nat → Except XFault Leaf
  | 0, level, _ => .error (xfault 2 level)
  | fuel + 1, level, table =>
    match regionOf v table with
    | .hashed | .dieLocal _ | .vault _ =>
      if !v.admits table false then .error (xfault 8 level) else
      match s.homeGet v (table + 8 * bits va (20 + 9 * level) (12 + 9 * level)) 8 with
      | none => .error { cause := 0x21, detail := 0 }
      | some bs =>
        match readEntry s.peer level va (ofLeBytes bs) with
        | .bad f => .error f
        | .table t => s.walkFrom v va fuel (level - 1) t
        | .leaf l => .ok l
    | _ => .error (xfault 4 level)

/-- The die whose second-level slice translates an address (R380). -/
def View.sliceDie (v : View) (va : Nat) : Nat := lget 0 v.dies (foldXor v.b 64 (va / 0x200000))

/-- A die's second-level TLB slice, walk cache and walks. -/
def State.dieXlate (s : State) (d : Nat) : DieXlate := nget (fun _ => ⟨[], [], []⟩) s.xlate d
def State.setXlate (s : State) (d : Nat) (x : DieXlate) : State := { s with xlate := nset (fun _ => ⟨[], [], []⟩) s.xlate d x }

/-- The deepest table that a walk cache holds for an address: its level and address. -/
def walkCached (ws : List WalkEntry) (ctx va : Nat) : Option (Nat × Nat) :=
  (natsFrom 0 4).findSome? (fun level =>
    (ws.find? (fun e => decide (e.ctx = ctx ∧ e.level = level ∧ e.va = va / 2 ^ (21 + 9 * level)))).map (fun e => (level, e.table)))

/-- The whole walk: from the deepest table that the walk cache still holds, else from the context's root (R381). -/
def State.walk (s : State) (v : View) (ctx va : Nat) : Except XFault Leaf :=
  let root := (4, bits (s.ctxReg ctx 0) 56 12 * 4096)
  let x := match walkCached (s.dieXlate (v.sliceDie va)).wcache ctx va with
    | some y => if Config.kept (s.free + 1 + va / 0x200000) then y else root
    | none => root
  s.walkFrom v va (x.1 + 1) x.1 x.2

/-- A leaf entry held in a TLB, read again as a leaf. -/
def TlbEntry.toLeaf (e : TlbEntry) (peer va : Nat) : Option Leaf :=
  match readEntry peer (pageLevel (bits e.leaf 63 61)) va e.leaf with
  | .leaf l => some l
  | _ => none

/-- The first entry of a TLB that covers an address. -/
def tlbFind (tlb : List TlbEntry) (ctx va : Nat) : Option TlbEntry :=
  tlb.find? (fun e => decide (e.ctx = ctx ∧ e.va ≤ va ∧ va < e.va + e.size))

/-- A leaf as the 64-bit entry that encodes it. -/
def Leaf.encode (l : Leaf) : Nat :=
  let code := ((natsFrom 0 8).find? (fun k => pageSize k = l.size)).getD 0
  code * 2 ^ 61 + (if l.repl then 2 ^ 60 else 0) + (if l.aflag then 2 ^ 59 else 0) + l.frame + l.share * 1024 +
    (if l.x then 16 else 0) + (if l.w then 8 else 0) + (if l.r then 4 else 0) + 3

/-- Translates through the core's TLB, the second-level slice or a walk. An entry a TLB may have dropped is used when the
free value says that it is still held. -/
def State.leafOf (s : State) (v : View) (core ctx va : Nat) : Except XFault Leaf :=
  if !bit (s.ctxReg ctx 0) 0 then .error (xfault 9 0)
  else
    let held := fun (o : Option TlbEntry) => match o with
      | some e => if Config.kept (s.free + va / 4096) then e.toLeaf s.peer va else none
      | none => none
    match held (tlbFind (s.core core).tlb ctx va) with
    | some l => .ok l
    | none =>
      match held (tlbFind (s.dieXlate (v.sliceDie va)).tlb ctx va) with
      | some l => .ok l
      | none => s.walk v ctx va

/-- Misses of a core's TLB that are outstanding (R380). -/
def State.missesOut (s : State) (core : Nat) : Nat :=
  (s.due.filter (fun e => match e with
    | .tlbMissRequest c _ _ => decide (c = core)
    | _ => false)).length + ((natsFrom 0 4).map (fun d => ((s.dieXlate d).walks.filter (fun w => decide (w.core = core))).length)).sum

/-- The pages that an instruction's addresses miss in its core's TLB, by an address of each. -/
def State.tlbMisses (s : State) (v : View) (core ctx : Nat) : List Nat → List Nat
  | [] => []
  | va :: l =>
    let rest := s.tlbMisses v core ctx l
    let held := match tlbFind (s.core core).tlb ctx va with
      | some _ => Config.kept (s.free + va / 4096)
      | none => false
    let page := match s.leafOf v core ctx va with
      | .ok f => (f.va, f.size)
      | .error _ => (va / 4096 * 4096, 4096)
    if held || rest.any (fun x => decide (page.1 ≤ x ∧ x < page.1 + page.2)) then rest else va :: rest

/-- The misses of a core that an instruction of these addresses waits for at issue: more would be outstanding than 16, or a slice's walk
queue is full; as many as may be are sent before it. None where it does not wait (R380, R381). -/
def State.missesWait (s : State) (v : View) (core ctx : Nat) (vas : List Nat) : Option (List Ev) :=
  match s.tlbMisses v core ctx vas with
  | [] => none
  | l =>
    let out := s.missesOut core
    if 16 < out + l.length ∨ l.any (fun va => decide (256 ≤ ((s.dieXlate (v.sliceDie va)).walks.filter (fun w => !w.started)).length)) then
      some ((l.take (16 - out)).map (fun va => .tlbMissRequest core ctx va))
    else none

/-- Puts a translation into the core's TLB (128 entries). Where the core did not hold it the miss goes to the second-level slice, whose
step may come (R380). -/
def State.fillTlb (s : State) (core ctx : Nat) (l : Leaf) : State :=
  let e : TlbEntry := { ctx := ctx, va := l.va, size := l.size, leaf := l.encode }
  let k := s.core core
  if k.tlb.contains e then s
  else { s.setCore core { k with tlb := (e :: k.tlb).take 128 } with due := s.due ++ [.tlbMissRequest core ctx l.asked] }

/-- What an access asks of a page: 0 READ, 1 WRITE, 2 EXEC. -/
abbrev Need := Nat

/-- The checks of Table 13-6 on a leaf for an access: unbacked frames, `CLASS_PAGE`, `RDSHARED_STORE`, permissions, and
the region against SPACE (R43, R217). `space` 7 stands for a fetch or a hardware access, which names HBM or a vault; 8 for a
copy, which no pointer restricts. -/
def leafCheck (v : View) (peer : Nat) (l : Leaf) (va : Nat) (need : Need) (cls space : Nat) : Option XFault :=
  let pa := l.frame + (va - l.va)
  let lvl := if l.size < 2 ^ 21 then 0 else if l.size < 2 ^ 34 then 1 else 2
  let region := regionOf v (pa % 2 ^ 45)
  let own := decide (pa / 2 ^ 45 = peer)
  if own && decide (region = .none) then some (xfault 4 lvl)
  else if cls = 2 ∧ l.share = 0 then some { cause := 0x0D, detail := 0 }
  else if need = 1 ∧ l.share = 1 then some { cause := 0x0B, detail := 0 }
  else if (need = 0 ∧ !l.r) ∨ (need = 1 ∧ !l.w) ∨ (need = 2 ∧ !l.x) then some (xfault 1 lvl)
  else
    let isHbm := own && (match region with | .hashed => true | .dieLocal _ => true | _ => false)
    let isVault := own && (match region with | .vault _ => true | _ => false)
    let isHost := own && (match region with | .host _ => true | _ => false)
    let good :=
      if space = 1 then isVault
      else if space = 3 then isHost
      else if space = 4 then !own
      else if space = 7 then isHbm || isVault
      else if space = 8 then true
      else isHbm
    if good then none else some (xfault 5 lvl)

/-- One byte's translation. -/
structure XByte where
  pa : Nat
  share : Nat
  /-- Size of a replicated page; 0 of any other. -/
  repl : Nat
  edge : Bool
deriving DecidableEq, Repr

/-- The line of a physical address holds bytes outside its frame (R379). -/
def isEdge (l : Leaf) (pa : Nat) : Bool :=
  let line := pa % 2 ^ 45 / 192 * 192
  let f := l.frame % 2 ^ 45
  decide (line < f ∨ f + l.size < line + 192)

/-- Translates one byte of an access. A fetch's or a hardware unit's is admitted at its home, or refused, in the same step (R484). -/
def State.xbyte (s : State) (v : View) (core ctx va : Nat) (need : Need) (cls space : Nat) : Except XFault (XByte × Leaf) :=
  match s.leafOf v core ctx va with
  | .error f => .error f
  | .ok l =>
    match leafCheck v s.peer l va need cls space with
    | some f => .error f
    | none =>
      let pa := l.frame + (va - l.va)
      if space = 7 && !v.admits (pa % 2 ^ 45) (decide (need = 1)) then .error (xfault 8 0) else
      .ok ({ pa := pa, share := l.share, repl := if l.repl then l.size else 0, edge := isEdge l pa || v.imported (pa % 2 ^ 45) }, l)

/-- One unit's translation: the physical address of its first byte, its attribute, the leaves used. -/
structure XUnit where
  pa : Nat
  share : Nat
  repl : Nat
  edge : Bool
  leaves : List Leaf
deriving DecidableEq, Repr

/-- Translates an access unit of `n` bytes at `va` (R379): its first and last byte through their own pages. -/
def State.xunit (s : State) (v : View) (core ctx va n : Nat) (need : Need) (cls space : Nat) : Except XFault XUnit :=
  match s.xbyte v core ctx va need cls space with
  | .error f => .error f
  | .ok (b, l) =>
    if va + n ≤ l.va + l.size then .ok { pa := b.pa, share := b.share, repl := b.repl, edge := b.edge, leaves := [l] }
    else
      match s.xbyte v core ctx (va + n - 1) need cls space with
      | .error f => .error f
      | .ok (b2, l2) =>
        if b2.pa = b.pa + n - 1 then .ok { pa := b.pa, share := b.share, repl := b.repl, edge := true, leaves := [l, l2] }
        else .error { cause := 0x0A, detail := 1 }

/-- Fills the TLBs with the leaves of a translation. -/
def State.noteLeaves (s : State) (core ctx : Nat) (ls : List Leaf) : State :=
  ls.foldl (fun t l => t.fillTlb core ctx l) s

end Sys2Proof.Machine
end

