-- ==== Sys2Proof/Machine/Report.lean ====
section
/-! DEFINITION. Completion counters: the accesses of the queue front-end and the graph walker, counter records, the
finish of an instance and its report upwards, and the end of a group (R14, R16, R299, R397 to R400, R408). -/
namespace Sys2Proof.Machine
open Sys2Proof

/-- The value of the first element that `f` picks. -/
def findBy {α : Type} (f : α → Bool) (l : List α) : Option α := l.find? f

def State.group? (s : State) (g : Nat) : Option Group := s.groups.find? (fun x => x.id = g)
def State.setGroup (s : State) (g : Group) : State :=
  { s with groups := s.groups.map (fun x => if x.id = g.id then g else x) }
def State.inst? (s : State) (i : Nat) : Option Inst := s.insts.find? (fun x => x.id = i)
def State.setInst (s : State) (i : Inst) : State := { s with insts := s.insts.map (fun x => if x.id = i.id then i else x) }
def State.launch? (s : State) (i : Nat) : Option Launch := s.launches.find? (fun x => x.id = i)
def State.setLaunch (s : State) (l : Launch) : State :=
  { s with launches := s.launches.map (fun x => if x.id = l.id then l else x) }
def State.gang? (s : State) (i : Nat) : Option Gang := s.gangs.find? (fun x => x.id = i)
def State.setGang (s : State) (g : Gang) : State := { s with gangs := s.gangs.map (fun x => if x.id = g.id then g else x) }

/-- Posts a hardware step: it may come next from now on. -/
def State.post (s : State) (i : Ev) : State := { s with due := s.due ++ [i] }
/-- A port sends a request to the host: with its function's Requester ID, in traffic class 0, No Snoop and Relaxed Ordering clear, on the stream
that the trust die assigned (R479, R481). A port's Requester ID is named by the die's number. -/
def State.sendHost (s : State) (t : HostTlp) : State :=
  { s with hostOut := s.hostOut ++ [{ t with requester := t.port, tc := 0, noSnoop := false, relaxed := false, stream := Config.outStream t.port % 8 }] }
/-- A posted write of bytes at a bus address; the EP bit marks poisoned ones (R493). -/
def State.hostPost (s : State) (port addr : Nat) (bs : List Byte) (bad : Bool := false) : State :=
  s.sendHost { port := port, addr := addr, data := bs, len := bs.length, ep := bad }
/-- The local cycle count of a die. -/
def State.now (s : State) (d : Nat) : Nat := nget (fun _ => 0) s.cycle d

/-- The partition with index `p`. -/
def State.part? (s : State) (p : Nat) : Option Part := s.parts.find? (fun x => x.id = p)
/-- The partition that owns die `d` (R475). -/
def State.partOfDie (s : State) (d : Nat) : Option Part := s.parts.find? (fun x => x.dies.contains d)
/-- Lines that a die with `e` enabled channels backs (Table 13-1, R505). -/
def linesOf (e : Nat) : Nat := if e ≥ 64 then dieLines else dieLines / 64 * e
/-- A space with nothing in it. -/
def View.none : View := { dies := [], lines := 0, backed := [], hosts := [], imports := [], gone := [] }
/-- The range of a cross-partition window: base and size. -/
def State.xwinRange (s : State) (exporter k : Nat) : Nat × Nat :=
  (bits (s.reg exporter (0x60008 + 0x40 * k)) 44 21 * 2 ^ 21, 2 ^ bits (s.reg exporter (0x60000 + 0x40 * k)) 5 0)
/-- A range lies within a die-local window or a vault of a partition's own dies (R482). -/
def State.ownRange (s : State) (p : Nat) (r : Nat × Nat) : Bool :=
  s.parts.any (fun x => decide (x.id = p) && x.dies.any (fun d =>
    decide (dieBase d ≤ r.1 ∧ r.1 + r.2 ≤ dieBase d + 0x3000000000) ||
      (natsFrom (8 * d) 8).any (fun k => decide (vaultBase k ≤ r.1 ∧ r.1 + r.2 ≤ vaultBase k + 0xC000000))))
/-- Window `k` of an exporting partition is open to a partition (R482, Table 17-6). -/
def State.xwinOpen (s : State) (exporter k importer : Nat) : Bool :=
  let c := s.reg exporter (0x60000 + 0x40 * k)
  bit c 63 && bit c (8 + importer) && decide (21 ≤ bits c 5 0 ∧ bits c 5 0 ≤ 37) && s.ownRange exporter (s.xwinRange exporter k)
/-- A partition is under reset (Table 17-3). -/
def State.resetting (s : State) (p : Nat) : Bool := s.parts.any (fun x => decide (x.id = p ∧ x.state = 1))
/-- The ranges that a partition exports to another; those that it admits reads of, and those that it admits writes of (R482, R484). -/
def State.exports (s : State) (exporter importer : Nat) (write : Option Bool) : List (Nat × Nat) :=
  ((natsFrom 0 8).filter (fun k => s.xwinOpen exporter k importer && (match write with
    | none => true
    | some w => !s.resetting exporter && (!w || bit (s.reg exporter (0x60000 + 0x40 * k)) 61)))).map (s.xwinRange exporter)
/-- Lines that a die of a partition backs (R505). -/
def State.linesOfDie (s : State) (d : Nat) : Nat :=
  match s.partOfDie d with
  | some x => linesOf (lget 64 x.channels ((x.dies.findIdx? (fun e => e = d)).getD 0))
  | none => 0
/-- Core `k` of die `d` is retired: bit `k` of the die's DEG_CORE registers (R504). -/
def State.retired (s : State) (d k : Nat) : Bool :=
  if k < 64 then bit (s.reg pkgRegs (0x7000 + 0x40 * d)) k else bit (s.reg pkgRegs (0x7008 + 0x40 * d)) (k - 64)
/-- The cluster of vault `k` is retired, its vault with it (R504). DESIGN CHOICE: a cluster is retired when each of its 12 cores is, as the
registers show cores alone (log entry 81). -/
def State.vaultGone (s : State) (k : Nat) : Bool := (natsFrom (k % 8 * 12) 12).all (fun c => s.retired (k / 8) c)
/-- The physical space of a partition (Table 13-1). -/
def State.view (s : State) (p : Nat) : View :=
  match s.part? p with
  | some x => { dies := x.dies, lines := linesOf ((x.channels).foldl min 64), backed := (natsFrom 0 4).map s.linesOfDie, hosts := x.dies.filter (fun d => bit (s.reg (16 + d) 0x3008) 63)
                imports := (s.parts.filter (fun y => decide (y.id ≠ p))).flatMap (fun y => s.exports y.id p none)
                gone := (natsFrom 0 32).filter s.vaultGone
                readable := (s.parts.filter (fun y => decide (y.id ≠ p))).flatMap (fun y => s.exports y.id p (some false))
                writable := (s.parts.filter (fun y => decide (y.id ≠ p))).flatMap (fun y => s.exports y.id p (some true)) }
  | none => View.none
/-- The view of a group's partition. -/
def State.viewOf (s : State) (g : Group) : View := s.view g.part
/-- The view of the partition of a die. -/
def State.viewOfDie (s : State) (d : Nat) : View :=
  match s.partOfDie d with
  | some x => s.view x.id
  | none => View.none

/-- A queue never written. -/
def Queue.empty : Queue :=
  { base := 0, ctl := 0, state := 0, reason := 0, ridx := 0, prevW := 0, head := none, waitSince := 0, job := 0, phase := 0,
    implicitJob := 0, implicitPhase := 0, cmds := [] }
def State.queue (s : State) (k : Nat) : Queue := nget (fun _ => Queue.empty) s.queues k
def State.setQueue (s : State) (k : Nat) (q : Queue) : State := { s with queues := nset (fun _ => Queue.empty) s.queues k q }
/-- The partition index of a queue: that of die ⌊k ÷ 64⌋ (R475). -/
def State.partOfQueue (s : State) (k : Nat) : Nat :=
  match s.partOfDie (k / 64) with
  | some x => x.id
  | none => 0
/-- The queue enters ERROR with a reason, unless it is in ERROR already or DISABLED (Table 14-3). -/
def State.queueError (s : State) (k reason : Nat) : State :=
  if (s.queue k).state = 4 ∨ (s.queue k).state = 0 then s else s.setQueue k { s.queue k with state := 4, reason := reason }

/-! ### Replicated pages (R383, R384) -/

/-- A die's entry `k` of the diverged-page table (Table 18-7). -/
def State.diverged (s : State) (die k : Nat) : Nat := s.reg 32 (0x200 * die + 8 * k)

/-- The die's table marks the page of a frame (R384). -/
def State.divergedOn (s : State) (die frame : Nat) : Bool :=
  (natsFrom 0 64).any (fun k => decide (bits (s.diverged die k) 63 62 ≠ 0) && decide (bits (s.diverged die k) 56 12 * 4096 = frame))

/-- The sequencer die of a page with frame `frame` and size `n` (R383). -/
def View.sequencer (v : View) (frame n : Nat) : Nat := lget 0 v.dies (foldXor v.b 64 (frame / n))

/-- The replica or sequencer line that a byte of a replicated page of size `n` is read at (R383): plain reads at the reader's die. -/
def replAddr (s : State) (v : View) (die n : Nat) (sync : Bool) (a : Nat) : Nat :=
  let frame := a / n * n
  dieBase (if sync || s.divergedOn die frame then v.sequencer frame n else die) + a

/-- The SIZE code of a page size. -/
def sizeCode (n : Nat) : Nat := ((natsFrom 0 8).find? (fun k => pageSize k = n)).getD 0

/-- A store of an owner to a replicated page of size `n` goes to its sequencer (R383). -/
def State.storeReplica (s : State) (queue owner n a : Nat) (bs : List Byte) (bad : Bool := false) : State :=
  { s with nextId := s.nextId + 1 }.post
    (.replicaStore { frame := a / n * n, size := n, off := a % n, bytes := bs, queue := queue, owner := owner, id := s.nextId, bad := bad })

/-- The stores to replicated pages that have not reached their sequencer, oldest first. -/
def State.toStamp (s : State) : List ReplStore := s.due.filterMap (fun e => match e with
  | .replicaStore w => some w
  | _ => none)

/-- A die's table holds the page: its sequencer takes no new store (R502). -/
def State.pageHeld (s : State) (v : View) (frame : Nat) : Bool :=
  v.dies.any (fun d => (natsFrom 0 64).any (fun k => decide (bits (s.diverged d k) 63 62 = 2 ∧ bits (s.diverged d k) 56 12 * 4096 = frame)))

/-- Bytes from an address as pieces that each lie in one line. -/
def linePieces (a : Nat) (bs : List Byte) : List (Nat × List Byte) :=
  (natsFrom (a / 192) ((a % 192 + bs.length + 191) / 192)).map (fun k =>
    let lo := max a (192 * k)
    (lo, (bs.drop (lo - a)).take (192 * k + 192 - lo)))

/-- Marks the sectors of bytes poisoned (R493). -/
def State.markBad (s : State) (v : View) (a n : Nat) : State :=
  { s with poison := (((natsFrom a n).map (fun x => storage v x / 48)).eraseDups).foldl (fun m k => nset (fun _ => false) m k true) s.poison }

/-- A replica takes a stamped write, with its mark (R383, R493). -/
def State.applyAt (s : State) (v : View) (die : Nat) (w : ReplStore) : State :=
  let s1 := (linePieces (dieBase die + w.frame + w.off) w.bytes).foldl (fun (t : State) y => t.homePut v y.1 y.2 none true) s
  if w.bad then s1.markBad v (dieBase die + w.frame + w.off) w.bytes.length else s1

/-- The sequencer of a page stamps a write, applies it at its own replica and sends it to the others that have
not diverged (R383, R384). -/
def State.stamp (s : State) (v : View) (w : ReplStore) : State :=
  let home := v.sequencer w.frame w.size
  let n := nget (fun _ => 0) s.net.stamps w.frame
  let others := v.dies.filter (fun d => decide (d ≠ home) && !s.divergedOn d w.frame)
  let s1 := s.applyAt v home w
  let net1 := { s1.net with stamps := nset (fun _ => 0) s1.net.stamps w.frame (n + 1),
                            stamped := if others.isEmpty then s1.net.stamped else s1.net.stamped ++ [{ w := w, stamp := n, left := others }] }
  { s1 with net := net1, due := s1.due ++ others.map (fun d => Ev.replicaWrite d w.frame true) }

/-- A request writes and answers no value. -/
def RemoteReq.writes (r : RemoteReq) : Bool := decide (r.op = 1 ∨ r.op = 5)

/-- Bytes that an owner has stored, a write-combining buffer or a request holds, and no home has accepted (R227, R328). -/
def State.unaccepted (s : State) (owner : Nat) : Bool :=
  s.cores.any (fun (k : Nat × Core) => k.2.wcb.any (fun e => e.owners.contains owner)) ||
  s.toStamp.any (fun w => decide (w.owner = owner)) || s.net.stamped.any (fun x => decide (x.w.owner = owner)) ||
    s.remote.any (fun r => r.writes && r.owners.contains owner)

/-- Its own stores that a plain reader of die `die`'s replica has not seen applied there: the byte that the last of them left (R216, R328). -/
def State.ownReplByte (s : State) (owner die : Nat) (a : Nat) : Option Byte :=
  let here := fun (w : ReplStore) => decide (w.owner = owner) && decide (w.frame + w.off ≤ a ∧ a < w.frame + w.off + w.bytes.length)
  let ws := (s.net.stamped.filter (fun x => x.left.contains die)).map (fun x => x.w) ++ s.toStamp
  ((ws.filter here).getLast?).map (fun w => lget 0 w.bytes (a - w.frame - w.off))

/-! ### The front-end's and the walker's accesses -/

/-- The pseudo core number under which hardware units translate; no core has it. -/
def hwCore : Nat := 384

/-- Translates consecutive bytes of a hardware unit's access: storage is HBM or a vault. -/
def State.hwAddrs (s : State) (v : View) (ctx : Nat) (need : Need) : Nat → Nat → Option (List XByte)
  | _, 0 => some []
  | va, n + 1 =>
    match s.xbyte v hwCore ctx va need 0 7 with
    | .error _ => none
    | .ok (b, _) =>
      match s.hwAddrs v ctx need (va + 1) n with
      | none => none
      | some bs => some (b :: bs)

/-- The address at which a hardware unit's byte is read: of a replicated page at its sequencer's replica (R383). -/
def State.hwPlace (s : State) (v : View) (b : XByte) : Nat :=
  let a := b.pa % 2 ^ 45
  if b.repl = 0 then a else replAddr s v 0 b.repl true a

/-- Reads bytes of any homes, each behind what is listed there; none where one is uncorrectable. -/
def State.homeBytes (s : State) (v : View) : List Nat → Option (List Byte)
  | [] => some []
  | a :: l =>
    match s.homeGet v a 1, s.homeBytes v l with
    | some x, some xs => some (x ++ xs)
    | _, _ => none

/-- What the hardware's own stores to a held page will leave of a byte that it reads of it (R403, R502). -/
def State.hwPending (s : State) (b : XByte) : Option Byte :=
  let a := b.pa % 2 ^ 45
  if b.repl = 0 then none
  else ((s.toStamp.filter (fun w => decide (w.owner = 0) && decide (w.frame + w.off ≤ a ∧ a < w.frame + w.off + w.bytes.length))).getLast?).map
    (fun w => lget 0 w.bytes (a - w.frame - w.off))

/-- A read by the front-end or the walker, performed at the home (R386); none on a fault or an uncorrectable error. -/
def State.hwRead (s : State) (p ctx va n : Nat) : Option (List Byte) :=
  let v := s.view p
  match s.hwAddrs v ctx 0 va n with
  | none => none
  | some bs => (s.homeBytes v (bs.map (s.hwPlace v))).map (fun xs => (bs.zip xs).map (fun y => (s.hwPending y.1).getD y.2))

/-- What a hardware unit reads is present at its homes then (R371). -/
def State.hwTouch (s : State) (p ctx va n : Nat) : State :=
  let v := s.view p
  match s.hwAddrs v ctx 0 va n with
  | none => s
  | some bs => ((bs.map (fun b => s.hwPlace v b / 192)).eraseDups).foldl (fun (t : State) l => t.l2Touch v l 0) s

/-- Translated bytes as runs that lie together in one line under one attribute (R308): the first byte's place, and the bytes. -/
def byteLines : List (XByte × Byte) → List (XByte × List Byte)
  | [] => []
  | (b, x) :: r =>
    match byteLines r with
    | (c, xs) :: rs =>
      if c.pa = b.pa + 1 ∧ c.pa % 2 ^ 45 % 192 ≠ 0 ∧ c.share = b.share ∧ c.repl = b.repl ∧ c.pa % 4096 ≠ 0 then (b, x :: xs) :: rs
      else (b, [x]) :: (c, xs) :: rs
    | [] => [(b, [x])]

/-- Writes bytes of an owner at the homes of the addresses given, each line's as one write; on a replicated page at its sequencer, which stamps it
now, or once the page is no longer held (R383, R502). -/
def State.homeWriteAll (s : State) (v : View) (owner : Nat) (xs : List (XByte × Byte)) : State :=
  (byteLines xs).foldl (fun (t : State) y =>
    let a := y.1.pa % 2 ^ 45
    if y.1.repl = 0 then t.homePut v a y.2 none (decide (y.1.share = 2))
    else if t.pageHeld v (a / y.1.repl * y.1.repl) then t.storeReplica (64 * v.dies.headD 0) owner y.1.repl a y.2
    else { t with nextId := t.nextId + 1 }.stamp v
      { frame := a / y.1.repl * y.1.repl, size := y.1.repl, off := a % y.1.repl, bytes := y.2, queue := 64 * v.dies.headD 0, owner := owner, id := t.nextId }) s

/-- A write by a hardware unit for an owner, performed at the home as one release (R390, R400); none on a fault. -/
def State.hwWriteAs (s : State) (owner p ctx va : Nat) (bs : List Byte) : Option State :=
  let v := s.view p
  match s.hwAddrs v ctx 1 va bs.length with
  | none => none
  | some xs => some (s.homeWriteAll v owner (xs.zip bs))

/-- A write by the front-end or the walker for itself. -/
def State.hwWrite (s : State) (p ctx va : Nat) (bs : List Byte) : Option State := s.hwWriteAs 0 p ctx va bs

/-- The cores of a partition. -/
def View.cores (v : View) : List Nat := v.dies.flatMap (fun d => natsFrom (d * 96) 96)

/-- Every core of the list writes back every dirty byte of its L1 (R334). -/
def State.flushL1 (s : State) (v : View) (cs : List Nat) : State :=
  cs.foldl (fun t c => (t.core c).l1.foldl (fun u x => u.writeBackLine v c x.1) t) s

/-- STATUS of a finished instance (Table 14-7). -/
def Inst.status (i : Inst) : Nat :=
  if i.special ≠ 0 then i.special else if i.torn then 4 else if i.canc = 0 ∧ !i.cancelled then 1 else 2

/-- The bytes of a counter record (Table 14-7). -/
def Inst.recordBytes (i : Inst) (status : Nat) : List Byte :=
  let expected := if i.special = 3 then 0 else i.expected.getD 0
  leBytes 4 status ++ leBytes 4 i.level.code ++ leBytes 4 (if i.level = .launch then i.launchId else 0) ++ leBytes 4 0 ++
    leBytes 8 expected ++ leBytes 8 i.done ++ leBytes 8 i.canc ++ leBytes 8 i.gdone ++ leBytes 8 i.gcanc ++ leBytes 8 0

/-- Writes an instance's record, if it has one; a write that faults is dropped and the queue enters ERROR (R400). -/
def State.writeRecord (s : State) (i : Inst) (status : Nat) : State :=
  if i.recd = 0 then s else
    match s.hwWriteAs i.id i.part i.ctx i.recd (i.recordBytes status) with
    | some s1 => s1
    | none => s.queueError i.queue 3

/-- A command whose effect is done is finished once every replica holds what it and its instance wrote (R334, R396). -/
def State.cmdOver (s : State) (c : QCmd) : Bool := c.ended && !s.unaccepted c.seq && !(c.inst.any (fun i => s.unaccepted i))

/-- A queue's commands that match have their effect done; those finished are held no longer. -/
def State.endCmds (s : State) (q : Nat) (hit : QCmd → Bool) : State :=
  let cs := (s.queue q).cmds.map (fun (c : QCmd) => if hit c then { c with ended := true } else c)
  s.setQueue q { s.queue q with cmds := cs.filter (fun c => !s.cmdOver c) }

/-- A finished instance's command has its effect done. -/
def State.dropCmd (s : State) (i : Inst) : State := s.endCmds i.queue (fun c => decide (c.inst = some i.id))

/-- An instance whose counts meet its expected count finishes: its cores write back, its record is written and the
level above hears of it (R14, R400). A node of a graph is finished by the walker, in a step of its own (R403). -/
def State.tryFinish (s : State) : Nat → Nat → State
  | 0, _ => s
  | fuel + 1, id =>
    match s.inst? id with
    | none => s
    | some i =>
      match i.expected with
      | none => s
      | some e =>
        if i.finished || decide (i.done + i.canc < e) then s else
          let v := s.view i.part
          let s1 := if i.level = .launch then s.flushL1 v v.cores else s
          let j := { i with finished := true }
          match i.parent with
          | none => (((s1.setInst j).writeRecord j j.status).dropCmd j)
          | some p =>
            match s1.inst? p with
            | none => (((s1.setInst j).writeRecord j j.status).dropCmd j)
            | some up =>
              if up.level = .graph then (s1.setInst j).post (.nodeFinish p j.node)
              else
                let s2 := (((s1.setInst j).writeRecord j j.status).dropCmd j)
                -- R14: the counts decide; a launch refused and a copy that faulted report as cancelled (R401)
                let bad := decide (j.canc ≠ 0) || decide (j.special ≠ 0)
                let up1 := { up with
                  done := if bad then up.done else up.done + 1, canc := if bad then up.canc + 1 else up.canc,
                  gdone := up.gdone + j.gdone, gcanc := up.gcanc + j.gcanc }
                (s2.setInst up1).tryFinish fuel p

/-- A die share that has nothing left finishes and reports to the launch counter (R408). -/
def State.tryShare (s : State) (launch die : Nat) : State :=
  match s.launch? launch with
  | none => s
  | some l =>
    match l.shares.find? (fun x => x.die = die) with
    | none => s
    | some sh =>
      if sh.reported || !sh.batches.isEmpty || !sh.coming.isEmpty || !sh.cur.isEmpty || !sh.back.isEmpty || decide (sh.live ≠ 0) then s else
        let s1 := s.setLaunch { l with shares := l.shares.map (fun x => if x.die = die then { x with reported := true } else x) }
        match s1.inst? launch with
        | none => s1
        | some i =>
          let j := if sh.canc = 0 then { i with done := i.done + 1 } else { i with canc := i.canc + 1 }
          (s1.setInst j).tryFinish 8 launch

/-- `n` groups of a die share leave it without having run, counted cancelled (R298). -/
def State.countGroups (s : State) (launch : Nat) (done canc : Nat) : State :=
  match s.inst? launch with
  | none => s
  | some i => s.setInst { i with gdone := i.gdone + done, gcanc := i.gcanc + canc }

/-- Reports the end of a group of a launch on a die: its performance counts to its launch (R344), and its end through its gang, if any, to its
die share (R14). -/
def State.reportGroup (s : State) (g : Group) (cancelled : Bool) : State :=
  let s0 := s.countGroups g.launch (if cancelled then 0 else 1) (if cancelled then 1 else 0)
  match s0.launch? g.launch with
  | none => s0
  | some l0 =>
    let l := { l0 with perf := ninsert l0.perf g.g g.coupled }
    let die := g.pos.die
    let bump := fun (bad : Bool) (x : Share) =>
      if x.die = die then { x with live := x.live - 1, done := if bad then x.done else x.done + 1,
                                   canc := if bad then x.canc + 1 else x.canc } else x
    match s0.gang? g.gang with
    | none => (s0.setLaunch { l with shares := l.shares.map (bump cancelled) }).tryShare g.launch die
    | some gg =>
      let gg0 := if g.committed && !g.desc.idem then { gg with spent := true } else gg
      let gg1 := if cancelled then { gg0 with canc := gg0.canc + 1 } else { gg0 with done := gg0.done + 1 }
      if gg1.done + gg1.canc < gg1.members.length then
        (s0.setGang gg1).setLaunch { l with shares := l.shares.map (fun x => if x.die = die then { x with live := x.live - 1 } else x) }
      else
        ({ s0 with gangs := s0.gangs.filter (fun x => x.id ≠ gg.id) }.setLaunch
          { l with shares := l.shares.map (bump (decide (gg1.canc ≠ 0))) }).tryShare g.launch die

/-- Frees the save slots that a group holds (R433). -/
def State.freeSlots (s : State) (gid : Nat) : State := { s with slots := s.slots.filter (fun x => x.gid ≠ gid) }

/-- Every access of an ended group has completed, and every byte that it stored is accepted (R16, R299). -/
def State.groupDone (s : State) (g : Group) : Bool := g.flights.isEmpty && !s.unaccepted g.id && !s.remote.any (fun r => decide (r.gid = g.id))

/-- Reports the end of a group that has ended with `how`, once (R14). -/
def State.tellEnd (s : State) (g : Group) (how : Nat) : State :=
  (s.setGroup { g with told := true }).reportGroup { g with told := true } (decide (how ≠ 0))

/-- A group ends: `how` 0 completed, 1 by a trap, 0x28 `CANCELLED`; but for a completed one its block store buffer, its commands and its
waiting records are discarded. It is reported and its resources return once its accesses have drained: the report at once where none is left,
the rest in a step of its own (R16, R298, R299, R420). -/
def State.endGroup (s : State) (gid : Nat) (how : Nat) : State :=
  match s.group? gid with
  | none => s
  | some g =>
    match g.phase with
    | .ended _ => s
    | _ =>
      let g1 := { g with phase := .ended how, pend := [], slot := none, qreplays := [], wanted := none
                         bsb := if how = 0 then g.bsb else []
                         cmds := if how = 0 then g.cmds else [] }
      let s1 := (s.setGroup g1).freeSlots gid
      (if s1.groupDone g1 then s1.tellEnd g1 how else s1).post (.groupResourcesReturn gid)

end Sys2Proof.Machine
end

