-- ==== Sys2Proof/Machine/Record.lean ====
section
/-! DEFINITION. Event records: what hardware writes into a partition's ring in host memory (R501, Tables 18-4 to 18-6). -/
namespace Sys2Proof.Machine
open Sys2Proof

/-- What an event record says (Table 18-5). -/
structure EventInfo where
  typ : Nat
  action : Nat
  cause : Nat := 0
  pos : Pos := ⟨0, 0, 0⟩
  ukind : Nat := 0
  unit : Nat := 0
  queue : Option (Nat × Nat) := none
  launchId : Option (Nat × Nat × Nat × Nat) := none
  detail : Nat := 0
  addr : Nat := 0
deriving DecidableEq, Repr

/-- A position in the ANCHOR layout (Table 15-7, Table 18-5). -/
def Pos.anchor (p : Pos) : Nat := p.core * 512 + p.cluster * 32 + p.die * 4

/-- The 64 bytes of an event record with index `i` in a ring of 2^`lg` records. -/
def EventInfo.bytes (e : EventInfo) (i lg : Nat) : List Byte :=
  let phase := (i / 2 ^ lg + 1) % 2
  let q := match e.queue with
    | some (k, c) => 2 ^ 287 + k * 2 ^ 279 + c * 2 ^ 273
    | none => 0
  let g := match e.launchId with
    | some (l, x, y, z) => 2 ^ 272 + l * 2 ^ 352 + (x + y * 2 ^ 32 + z * 2 ^ 48) * 2 ^ 288
    | none => 0
  leBytes 64 (phase + e.typ * 2 ^ 8 + i % 2 ^ 48 * 2 ^ 16 + e.action * 2 ^ 192 + e.cause * 2 ^ 200 + e.pos.anchor * 2 ^ 219 +
    e.ukind * 2 ^ 236 + e.unit * 2 ^ 240 + q + g + e.detail % 2 ^ 64 * 2 ^ 384 + e.addr % 2 ^ 64 * 2 ^ 448)

/-- The lead die of a partition, whose port carries its events: the lowest. -/
def State.leadDie (s : State) (p : Nat) : Nat :=
  match s.part? p with
  | some x => x.dies.headD 0
  | none => 0

/-- Writes an event record, or counts it lost; then the interrupt message unless one is pending (R501). Offset 0x5038
holds the pending flag. -/
def State.event (s : State) (p : Nat) (e : EventInfo) : State :=
  let ctl := s.reg p 0x5008
  if !bit ctl 63 then s else
    let lg := bits ctl 4 0
    let w := s.reg p 0x5028
    let die := s.leadDie p
    if (w + 2 ^ 64 - s.reg p 0x5020) % 2 ^ 64 ≥ 2 ^ lg then s.setReg p 0x5030 (min (s.reg p 0x5030 + 1) (2 ^ 64 - 1))
    else
      let s1 := s.hostPost die (bits (s.reg p 0x5000) 63 12 * 4096 + 64 * (w % 2 ^ lg)) (e.bytes w lg)
      let s2 := s1.setReg p 0x5028 ((w + 1) % 2 ^ 64)
      if s2.reg p 0x5038 = 1 then s2
      else (s2.setReg p 0x5038 1).hostPost die (bits (s2.reg p 0x5010) 63 2 * 4) (leBytes 4 (s2.reg p 0x5018))

/-- The ACTION of an event for which Table 18-5 lists none that fits: a free value. -/
def State.openAction (s : State) : Nat := (Config.freeWord s.free).toNat % 256

/-- The fields of an event about a group. -/
def EventInfo.ofGroup (g : Group) (typ action cause detail addr : Nat) : EventInfo :=
  { typ := typ, action := action, cause := cause, pos := g.loc, queue := some (g.queue, g.ctx),
    launchId := some (g.launchId.toNat, g.gid.1, g.gid.2.1, g.gid.2.2), detail := detail, addr := addr }

end Sys2Proof.Machine
end

