-- ==== Sys2Proof/Machine/Operands.lean ====
section
/-! DEFINITION. Operands: reading and writing the registers that an instruction's fields name, in a crew and in the
access slice (R22 to R24, R91, R95, R130, R131). -/
namespace Sys2Proof.Machine
open Sys2Proof

/-- What a meaning knows of its issue: the unit, the lanes issued and active, the address and length, the fields. -/
structure Ctx where
  gid : Nat
  unit : Nat
  access : Bool
  issued : Word
  act : Word
  addr : Nat
  ilen : Nat
  fl : Fields
  row : Row
deriving DecidableEq, Repr

/-- Lane `l` of vector register `k`; `v255` reads zero (R22). -/
def Crew.vget (c : Crew) (k l : Nat) : Word := if k = 255 then 0 else wget c.v (32 * k + l)
/-- Uniform register `k`; `s63` reads zero. -/
def Crew.sget (c : Crew) (k : Nat) : Word := if k = 63 then 0 else wget c.s k
/-- Predicate `k` as a mask of lanes; `p15` reads true. -/
def Crew.pget (c : Crew) (k : Nat) : Word := if k = 15 then BitVec.allOnes 32 else wget c.p k
/-- Writes lane `l` of vector register `k`; discarded for `v255` (R23). -/
def Crew.vset (c : Crew) (k l : Nat) (x : Word) : Crew := if k = 255 then c else { c with v := wset c.v (32 * k + l) x }
/-- Writes uniform register `k`; discarded for `s63` (R23). -/
def Crew.sset (c : Crew) (k : Nat) (x : Word) : Crew := if k = 63 then c else { c with s := wset c.s k x }
/-- Writes predicate `k` whole; discarded for `p15` (R23). -/
def Crew.psetAll (c : Crew) (k : Nat) (x : Word) : Crew := if k = 15 then c else { c with p := wset c.p k x }
/-- Writes predicate `k` in lane `l`. -/
def Crew.pset (c : Crew) (k l : Nat) (b : Bool) : Crew := c.psetAll k (setLane (c.pget k) l b)

/-- The program counter of a lane. -/
def Crew.pcOf (c : Crew) (l : Nat) : Nat := nget (fun _ => 0) c.pc l
/-- Sets the program counter of a lane (R18). -/
def Crew.setPc (c : Crew) (l a : Nat) : Crew := { c with pc := nset (fun _ => 0) c.pc l (a % 2 ^ 57) }
/-- Sets the program counters of the lanes of a list. -/
def Crew.setPcs (c : Crew) (ls : List Nat) (a : Nat) : Crew := ls.foldl (fun d l => d.setPc l a) c
/-- What a lane waits for. -/
def Crew.waitOf (c : Crew) (l : Nat) : LaneWait := nget (fun _ => LaneWait.ready) c.wait l
/-- Sets what a lane waits for. -/
def Crew.setWait (c : Crew) (l : Nat) (w : LaneWait) : Crew := { c with wait := nset (fun _ => LaneWait.ready) c.wait l w }
/-- A lane has exited. -/
def Crew.out (c : Crew) (l : Nat) : Bool := c.exited.getLsbD l

/-- A 32-bit register of the class a field names: in the access slice, and with its U bit 1, a uniform register (R95). -/
def Ctx.reg1 (x : Ctx) (c : Crew) (k : Nat) (u : Bool) (l : Nat) : Word :=
  if x.access || u then c.sget k else c.vget k l

/-- An operand of `n` consecutive registers as a number (R24). -/
def Ctx.regN (x : Ctx) (c : Crew) (u : Bool) (l : Nat) : Nat → Nat → Nat
  | _, 0 => 0
  | k, n + 1 => (x.reg1 c k u l).toNat + 2 ^ 32 * x.regN c u l (k + 1) n

/-- Writes `n` consecutive registers of the destination class in lane `l`, lowest word first (R24, R131). -/
def Ctx.setN (x : Ctx) (l : Nat) : Crew → Nat → Nat → Nat → Crew
  | c, _, 0, _ => c
  | c, k, n + 1, v =>
    let w : Word := BitVec.ofNat 32 v
    x.setN l (if x.access then c.sset k w else c.vset k l w) (k + 1) n (v / 2 ^ 32)

/-- Registers that an operand of this role takes. -/
def Role.count : Role → Nat
  | .src n | .dst n | .vec n | .uni n | .uniS n | .duni n => n
  | _ => 1

/-- Operand A of lane `l` (R130). -/
def Ctx.a (x : Ctx) (c : Crew) (l : Nat) : Nat := x.regN c x.fl.f.au l x.fl.f.a.toNat x.row.a.count
/-- Operand B of lane `l`: a register, or word 2 (R90, R91, R130). -/
def Ctx.b (x : Ctx) (c : Crew) (l : Nat) : Nat :=
  if x.row.w2 = .immB then immOperand x.fl.h.typ x.fl.w else x.regN c x.fl.h.bu l x.fl.h.b.toNat x.row.b.count
/-- Operand C of lane `l`. -/
def Ctx.c (x : Ctx) (c : Crew) (l : Nat) : Nat := x.regN c x.fl.h.cu l x.fl.h.c.toNat x.row.c.count
/-- Writes destination D in lane `l` (R130). -/
def Ctx.setD (x : Ctx) (c : Crew) (l v : Nat) : Crew := x.setN l c x.fl.f.d.toNat x.row.d.count v

/-- The value of a negatable predicate field in lane `l` (Table 03-4). -/
def npredAt (c : Crew) (fld : BitVec 8) (l : Nat) : Bool :=
  (c.pget (fld.toNat % 16)).getLsbD l ^^ fld.getLsbD 7
/-- The value of a predicate in lane `l`. -/
def predAt (c : Crew) (k l : Nat) : Bool := (c.pget k).getLsbD l

/-- The active lanes, rising. -/
def Ctx.lanes (x : Ctx) : List Nat := lanesOf x.act

/-- Applies `f` in every active lane. The sources are read from the crew as it was before any write (R132). -/
def Ctx.each (x : Ctx) (c : Crew) (f : Crew → Nat → Crew) : Crew := x.lanes.foldl f c

/-- Writes D in every active lane with a value that the crew before the instruction gives. -/
def Ctx.eachD (x : Ctx) (c : Crew) (f : Nat → Nat) : Crew := x.each c (fun d l => x.setD d l (f l))

end Sys2Proof.Machine
end

