-- ==== Sys2Proof/Machine/Flags.lean ====
section
/-! DEFINITION. Predicate results: the machine has no flags register; compares, carries and votes write predicates
(Table 01-2, R94, R147, R155). -/
namespace Sys2Proof.Machine
open Sys2Proof

/-- The lanes of an issue group whose guard is true (R94): predicate GP, negated when GN is 1. -/
def guardMask (c : Crew) (f : Word0) (issued : Word) : Word :=
  issued &&& (if f.gn then ~~~ c.pget f.gp.toNat else c.pget f.gp.toNat)

/-- Writes predicate `k` in every active lane. -/
def Ctx.eachP (x : Ctx) (c : Crew) (k : Nat) (f : Nat → Bool) : Crew := x.each c (fun d l => d.pset k l (f l))

/-- Writes predicate `k` as `eachP`, or nothing when `k` is 15: no out predicate is named (R147). -/
def Ctx.eachCarry (x : Ctx) (c : Crew) (k : Nat) (f : Nat → Bool) : Crew := if k = 15 then c else x.eachP c k f

end Sys2Proof.Machine
end

