-- ==== Sys2Proof/Machine/Wire.lean ====
section
/-! DEFINITION. An Axsis packet on the wire: exponent compression, partial elements, payload, header and flits (R452, R453,
R457, R463, Tables 16-5 and 16-7). -/
namespace Sys2Proof.Machine
open Sys2Proof

/-- `n` bits of a number, lowest first. -/
def lowBits : Nat → Nat → List Bool
  | 0, _ => []
  | n + 1, x => x.testBit 0 :: lowBits n (x / 2)
/-- The number whose bits, lowest first, are given. -/
def ofLowBits : List Bool → Nat
  | [] => 0
  | b :: bs => (if b then 1 else 0) + 2 * ofLowBits bs

/-- The type code of a collective is a float. -/
def collFloat (t : Nat) : Bool := decide (t = 0x0A ∨ t = 0x0C)

/-! ### Exponent compression (R457) -/

/-- Fraction bits of fp32 and bf16. -/
def wireFrac (t : Nat) : Nat := if t = 0x0A then 23 else 7
/-- The exponent field of a code. -/
def expField (t x : Nat) : Nat := bits x (wireFrac t + 7) (wireFrac t)
/-- The least exponent field of a group. -/
def expBase (t : Nat) (xs : List Dword) : Nat := xs.foldl (fun m x => min m (expField t x.toNat)) 255
/-- A group may take the compressed form. -/
def groupFits (t : Nat) (xs : List Dword) : Bool := xs.all (fun x => decide (expField t x.toNat ≤ expBase t xs + 7))
/-- A group as it is written. -/
def packGroup (t : Nat) (xs : List Dword) : List Bool :=
  let f := wireFrac t
  if groupFits t xs then
    true :: lowBits 8 (expBase t xs) ++ xs.flatMap (fun x =>
      x.toNat.testBit (f + 8) :: lowBits 3 (expField t x.toNat - expBase t xs) ++ lowBits f x.toNat)
  else false :: xs.flatMap (fun x => lowBits (f + 9) x.toNat)
/-- Elements in groups of 16. -/
def groups16 : Nat → List Dword → List (List Dword)
  | 0, _ => []
  | fuel + 1, xs => if xs.isEmpty then [] else xs.take 16 :: groups16 fuel (xs.drop 16)
/-- The bit string of some elements. -/
def packElems (t : Nat) (xs : List Dword) : List Bool := (groups16 xs.length xs).flatMap (packGroup t)
/-- `n` elements of a group read back, and the bits after them. -/
def unpackGroup (t n : Nat) : List Bool → List Dword × List Bool
  | [] => ([], [])
  | true :: r =>
    let f := wireFrac t
    let b := ofLowBits (r.take 8)
    ((natsFrom 0 n).map (fun k =>
      let e := r.drop (8 + (f + 4) * k)
      BitVec.ofNat 64 ((if e.headD false then 2 ^ (f + 8) else 0) + (b + ofLowBits ((e.drop 1).take 3)) * 2 ^ f + ofLowBits ((e.drop 4).take f))),
     r.drop (8 + (f + 4) * n))
  | false :: r =>
    let w := wireFrac t + 9
    ((natsFrom 0 n).map (fun k => BitVec.ofNat 64 (ofLowBits ((r.drop (w * k)).take w))), r.drop (w * n))
/-- `n` elements read back from their bit string. -/
def unpackElems (t : Nat) : Nat → Nat → List Bool → List Dword
  | 0, _, _ => []
  | fuel + 1, n, bs =>
    if n = 0 then [] else
      let g := unpackGroup t (min n 16) bs
      g.1 ++ unpackElems t fuel (n - 16) g.2

/-! ### Partials (R463) -/

/-- The 40 bytes of an exact sum: two's complement from weight 2^-160, then +∞, −∞ and NaN seen. -/
def exactField (t : Nat) (codes : List Nat) : Nat :=
  let vs := codes.map (ffOfTyp (BitVec.ofNat 5 t)).read
  let sum : Int := vs.foldl (fun (n : Int) v => match v with
    | .fin neg m e => n + scaled neg m e (-160)
    | _ => n) 0
  (sum % 2 ^ 317).toNat + (if vs.contains (.inf false) then 2 ^ 317 else 0) + (if vs.contains (.inf true) then 2 ^ 318 else 0) +
    (if vs.contains .nan then 2 ^ 319 else 0)

/-! ### The packet (R453, Tables 16-5 and 16-7) -/

/-- Bits as bytes, padded with zero bits. -/
def bytesOfBits : Nat → List Bool → List Byte
  | 0, _ => []
  | fuel + 1, bs => if bs.isEmpty then [] else BitVec.ofNat 8 (ofLowBits (bs.take 8)) :: bytesOfBits fuel (bs.drop 8)
/-- The bitmap of some ranks. -/
def bitmapBytes (count : Nat) (ranks : List Nat) : List Byte :=
  leBytes ((count + 63) / 64 * 8) (ranks.foldl (fun n r => n ||| 2 ^ r) 0)
/-- Bytes of an element of a type code. -/
def elemWidth (t : Nat) : Nat := if t = 0x0C then 2 else if t = 7 ∨ t = 8 then 8 else 4

/-- CMP: some group of the payload of a contribution or a completion is compressed. -/
def axCompresses (p : AxPkt) : Bool :=
  decide (p.typ = 0x10 ∨ p.typ = 0x12) && collFloat p.fmt && (groups16 p.elems.length p.elems).any (groupFits p.fmt)
/-- The elements of a contribution or completion as bytes: those of a float in the groups of R457, each compressed or raw, else plainly. -/
def axElemBytes (p : AxPkt) : List Byte :=
  if collFloat p.fmt then (let bs := packElems p.fmt p.elems; bytesOfBits bs.length bs)
  else p.elems.flatMap (fun x => leBytes (elemWidth p.fmt) x.toNat)
/-- The elements of a partial as bytes. `fold` gives the running result of the codes of one element. -/
def axPartialBytes (p : AxPkt) (fold : List Nat → Nat) : List Byte :=
  let n := match p.parts with
    | [] => 0
    | r :: _ => r.elems.length
  (natsFrom 0 n).flatMap (fun i =>
    let codes := p.parts.map (fun r => (lget 0 r.elems i).toNat)
    if p.op = 0 then (if collFloat p.fmt then leBytes 40 (exactField p.fmt codes) else leBytes 8 (fold codes))
    else leBytes (elemWidth p.fmt) (fold codes))
/-- The payload before encryption. Of a drain it is the line's byte mask and the bytes that it marks valid (R456; the order of the two is the model's,
log entry 72). -/
def axPayload (p : AxPkt) (fold : List Nat → Nat) : List Byte :=
  match p.typ with
  | 0x03 => leBytes 24 p.mask ++ (p.data.zipIdx.filter (fun x => p.mask.testBit x.2)).map (fun x => x.1)
  | 0x10 => axElemBytes p
  | 0x11 => bitmapBytes p.count (p.parts.map (fun r => r.rank)) ++ axPartialBytes p fold
  | 0x12 => bitmapBytes p.count p.bitmap ++ axElemBytes p
  | 0x13 => bitmapBytes p.count p.bitmap ++ (if p.status = 1 then bitmapBytes p.count p.bitmap2 else [])
  | _ => p.data
/-- TSPEC (Table 16-7), as header bits [223:151]. -/
def axTspec (p : AxPkt) : Nat :=
  if p.typ < 0x10 ∨ 0x13 < p.typ then 0 else
    (if p.nanSeen then 2 ^ 72 else 0) + (if p.typ = 0x10 then p.timeout % 2 ^ 32 * 2 ^ 40 else 0) + p.count % 2 ^ 16 * 2 ^ 24 + p.fmt % 32 * 2 ^ 19 +
      p.op % 8 * 2 ^ 16 + (match p.typ with
        | 0x10 => p.rank % 2 ^ 16
        | 0x12 => p.status % 8
        | 0x13 => p.status % 4
        | _ => 0)
/-- The header (Table 16-5) of a packet with `len` bytes of payload. -/
def axHeader (p : AxPkt) (len : Nat) : Nat :=
  p.typ % 256 + p.cls % 4 * 2 ^ 8 + (if p.enc then 2 ^ 10 else 0) + (if axCompresses p then 2 ^ 11 else 0) + p.srcPeer % 4096 * 2 ^ 12 +
    p.srcGw % 8 * 2 ^ 24 + p.dstPeer % 4096 * 2 ^ 27 + p.dstGw % 8 * 2 ^ 39 + p.seq % 65536 * 2 ^ 42 + p.jobTag % 65536 * 2 ^ 58 +
    len % 2 ^ 20 * 2 ^ 74 + p.reserved * 2 ^ 224 + (if p.typ < 0x10 then p.addr % 2 ^ 57 else p.ident % 2 ^ 32) * 2 ^ 94 + axTspec p * 2 ^ 151
/-- The 96-bit nonce of a sealed payload: the holder's number, the epoch, the counter (R469). -/
def gcmNonce (holder epoch counter : Nat) : Nat := holder % 2 ^ 20 * 2 ^ 76 + epoch % 2 ^ 8 * 2 ^ 68 + counter % 2 ^ 64
/-- The packet's bytes before encryption: header and payload; of a sealed one the payload between its counter and its tag, LENGTH the payload's
alone (R468). `holder` seals. -/
def axWire (p : AxPkt) (holder : Nat) (fold : List Nat → Nat) : List Byte :=
  let body := axPayload p fold
  let head := leBytes 32 (axHeader p body.length)
  if p.enc then head ++ leBytes 8 p.counter ++ body ++ leBytes 16 (Config.gcmTag p.jobTag p.epoch (gcmNonce holder p.epoch p.counter) (ofLeBytes body))
  else head ++ body
/-- The flits it fills, of 116 bytes of packet data each (R452, R453). -/
def axFlits (p : AxPkt) (holder : Nat) (fold : List Nat → Nat) : Nat := ((axWire p holder fold).length + 115) / 116

end Sys2Proof.Machine
end

