-- ==== Sys2Proof/Machine/Mesh.lean ====
section
/-! DEFINITION. The base-die meshes and the links between dies: packets and their hops, delivery in order, the permit audit, and
link training, degradation and failure (R437 to R450). -/
namespace Sys2Proof.Machine
open Sys2Proof

/-! ### Places (R437) -/

/-- Port `i` of the 4 of a compute chiplet, by the cluster's number in the package (Table 16-1). -/
def clusterPort (k i : Nat) : Nat := k / 8 * 256 + 4 * (k % 8) + i % 4
/-- Port `i` of the 4 of cache chiplet `c` of a die, which serves its slices 40c to 40c + 39. -/
def cachePort (d c i : Nat) : Nat := d * 256 + 32 + 4 * (c % 4) + i % 4
/-- Port `i` of the 2 of HBM PHY `h` of a die. -/
def hbmPort (d h i : Nat) : Nat := d * 256 + 48 + 2 * (h % 2) + i % 2
/-- The port of the link to the trust die. -/
def trustPort (d : Nat) : Nat := d * 256 + 58
/-- Port `i` of the 2 of a die's PCI Express port. -/
def pciePort (d i : Nat) : Nat := d * 256 + 63 + i % 2
/-- The port of a die distributor. -/
def distributorPort (d : Nat) : Nat := d * 256 + 65
/-- The port of a die's second-level TLB slice and walkers. -/
def walkerPort (d : Nat) : Nat := d * 256 + 66
/-- The port of a die's audit engine. -/
def auditPort (d : Nat) : Nat := d * 256 + 67
/-- The router that a port of a die is on: the spec fixes none (log entry 13). -/
def routerOf (port : Nat) : Nat := port % 256 % 48
/-- The port of die `d` that its UCIe link to die `e` has. -/
def uciePort (d e : Nat) : Nat := d * 256 + 52 + 2 * (if e < d then e else e - 1)

/-- LINK_STATUS of link `k` (Table 16-3). -/
def State.linkStatus (s : State) (k : Nat) : Nat := s.reg pkgRegs (0x40000 + 0x40 * k)
def State.setLinkStatus (s : State) (k v : Nat) : State := s.setReg pkgRegs (0x40000 + 0x40 * k) v
/-- A link carries traffic: up or degraded. -/
def State.linkUp (s : State) (k : Nat) : Bool := decide (bits (s.linkStatus k) 2 0 = 2) || decide (bits (s.linkStatus k) 2 0 = 3)
/-- Both ends of the link between two dies are up. -/
def State.diesJoined (s : State) (d e : Nat) : Bool := s.linkUp (8 * d + e) && s.linkUp (8 * e + d)

/-- The die that a packet on die `d` crosses to on its way to die `e`: directly, or by the lowest third die of the partition whose
links to both are up (R449). -/
def State.nextDie (s : State) (d e : Nat) : Option Nat :=
  if s.diesJoined d e then some e
  else
    let ds := ((s.partOfDie d).map (fun (x : Part) => x.dies)).getD []
    ds.find? (fun t => decide (t ≠ d ∧ t ≠ e) && s.diesJoined d t && s.diesJoined t e)

/-- The router a packet heads for on the die where it stands, and the output it takes there: 4 its destination port, 5 the UCIe
link. -/
def State.goalOf (s : State) (p : MeshPkt) : Option (Nat × Nat × Nat) :=
  let e := p.dst / 256
  if p.die = e then some (routerOf p.dst, 4, e)
  else (s.nextDie p.die e).map (fun t => (routerOf (uciePort p.die t), 5, t))

/-- The outputs of a minimal path from one router to another, dimension order first: 0 and 1 along x, 2 and 3 along y. -/
def minimalOuts (r goal last : Nat) : List Nat :=
  let x := r % 8
  let y := r / 8
  let gx := goal % 8
  let gy := goal / 8
  let l := (if x < gx then [0] else if gx < x then [1] else []) ++ (if y < gy then [2] else if gy < y then [3] else [])
  if l.isEmpty then [last] else l

/-- The outputs a packet may take: any minimal one on an adaptive channel, the first in the gecko channel (R439). -/
def State.outsOf (s : State) (p : MeshPkt) : List Nat :=
  match s.goalOf p with
  | none => []
  | some (goal, last, _) =>
    let l := minimalOuts p.router goal last
    if p.level = 3 then l else l.take 1

/-! ### Channels (Table 16-2, R443) -/

/-- The number of the link at an output of a router; 0 names none. -/
def linkAt (die router out : Nat) : Nat := (die * 48 + router) * 8 + out + 1
/-- The number of the chiplet port from a unit into its router, and of that from the router out to it (R439). -/
def portIn (port : Nat) : Nat := 1537 + 2 * port
def portOut (port : Nat) : Nat := 1538 + 2 * port
/-- Slots of channel `ch` of a class: 0 to 2 adaptive, 3 to 5 the gecko levels. -/
def channelSlots (ch : Nat) : Nat := if ch % 6 < 3 then 16 else 8
/-- A channel never used. -/
def Channel.empty : Channel := { used := 0, occupied := 0, returning := 0, phase := 0, p := 0, o := 0, c := 0, stopped := false, nextAudit := 0 }
def State.channel (s : State) (link ch : Nat) : Channel := nget (fun _ => Channel.empty) s.net.channels (32 * link + ch)
def State.setChannel (s : State) (link ch : Nat) (c : Channel) : State :=
  { s with net := { s.net with channels := nset (fun _ => Channel.empty) s.net.channels (32 * link + ch) c } }

/-- Permits on their way back reach the sender, but those behind an audit's marker wait for it. -/
def Channel.collect (c : Channel) : Channel :=
  if c.phase = 2 then c
  else { c with used := c.used - c.returning, returning := 0, c := if c.phase = 1 then c.c + c.returning else c.c }

/-- A packet of `n` flits could be sent now. -/
def Channel.room (c : Channel) (ch n : Nat) : Bool := !c.stopped && decide (c.collect.used + n ≤ channelSlots ch)

/-- The channel that a packet takes at an output: an adaptive one with room while it is adaptive, else its gecko level's, which
rises at a crossing (R439). -/
def State.channelFor (s : State) (p : MeshPkt) (out : Nat) : Option Nat :=
  let link := linkAt p.die p.router out
  let lv := if p.level = 3 then p.crossings else p.level
  let gecko := 6 * p.cls + 3 + (if out = 5 then min 2 (lv + 1) else lv)
  let adaptive := if p.level = 3 then (natsFrom (6 * p.cls) 3).find? (fun ch => (s.channel link ch).room ch p.flits) else none
  match adaptive with
  | some ch => some ch
  | none => if (s.outsOf p).head? = some out ∧ (s.channel link gecko).room gecko p.flits then some gecko else none

/-- The channel by which a packet of a class of `n` flits enters the mesh over its chiplet port: an adaptive one with room, else the gecko channel
of level 0 (R439). -/
def State.entryChannel (s : State) (port cls n : Nat) : Option Nat :=
  ([6 * cls, 6 * cls + 1, 6 * cls + 2, 6 * cls + 3] : List Nat).find? (fun ch => (s.channel (portIn port) ch).room ch n)

/-- A marker that waits on the data path of a channel arrives ahead of what is sent after it: the receiver snapshots its slots (R443 step 2). -/
def Channel.mark (c : Channel) : Channel := if c.phase = 1 then { c.collect with phase := 2, o := c.occupied } else c

/-- A packet of `n` flits is sent over a channel: behind a marker that stands there (R443). -/
def State.takeSlots (s : State) (link ch n : Nat) : State :=
  let c0 := s.channel link ch
  let c := c0.mark.collect
  let s1 := s.setChannel link ch { c with used := c.used + n, occupied := c.occupied + n }
  if c0.phase = 1 then s1.post (.auditMarkerReturn link ch) else s1

/-! ### Moving (R438 to R442) -/

/-- Packets at the head of a channel of an input of a router: no class or channel waits behind another (R439). -/
def State.heads (s : State) (die router : Nat) : List MeshPkt :=
  let here := s.net.packets.filter (fun p => decide (p.die = die ∧ p.router = router) && !p.arrived)
  here.filter (fun p => (here.find? (fun q => decide (q.inPort = p.inPort ∧ q.cls = p.cls ∧ q.chan = p.chan ∧ q.link = p.link))).map (fun q => q.id) = some p.id)

/-- A packet is ready at an output: it wants it and there is room behind it (R441). -/
def State.readyFor (s : State) (p : MeshPkt) (out : Nat) : Bool :=
  (s.outsOf p).contains out && (decide (out = 4) || (s.channelFor p out).isSome)

/-- The order of R441: a saturated packet by lowest input, then priority, age, lowest input. -/
def MeshPkt.before (p q : MeshPkt) : Bool :=
  if p.age = 255 ∨ q.age = 255 then (if p.age = 255 ∧ q.age = 255 then decide (p.inPort < q.inPort) else decide (p.age = 255))
  else if p.prio ≠ q.prio then decide (q.prio < p.prio)
  else if p.age ≠ q.age then decide (q.age < p.age)
  else decide (p.inPort < q.inPort)

/-- A packet waits behind a saturated one of its input that is ready: no output grants the input a second packet before that one (R442). -/
def State.behindSaturated (s : State) (heads : List MeshPkt) (p : MeshPkt) : Bool :=
  decide (p.age ≠ 255) && heads.any (fun q => decide (q.inPort = p.inPort ∧ q.age = 255) && (s.outsOf q).any (fun o => s.readyFor q o))

/-- The packet that an output grants (R441, R442). -/
def State.granted (s : State) (die router out : Nat) : Option MeshPkt :=
  let hs := s.heads die router
  match hs.filter (fun p => s.readyFor p out && !s.behindSaturated hs p) with
  | [] => none
  | p :: r => some (r.foldl (fun (b : MeshPkt) q => if q.before b then q else b) p)

/-- Posts a step once. -/
def State.postOnce (s : State) (e : Ev) : State := if s.due.contains e then s else s.post e

/-- The hops that the packets at a router could make may come. -/
def State.offerHops (s : State) (die router : Nat) : State :=
  (s.heads die router).foldl (fun (t : State) p => (s.outsOf p).foldl (fun (u : State) o => u.postOnce (.meshPacketHop die router o)) t) s

/-- Puts a packet back. -/
def State.setPkt (s : State) (p : MeshPkt) : State :=
  { s with net := { s.net with packets := s.net.packets.map (fun q => if q.id = p.id then p else q) } }

/-- The receive slots of the link a packet came over are free: their permits go back, but for one that an upset loses on the way (R443, R444). -/
def State.freeSlotsOf (s : State) (p : MeshPkt) : State :=
  if p.link = 0 then s
  else
    let c := s.channel p.link p.chan
    let lost := if s.upsets.contains s.free then 1 else 0
    s.setChannel p.link p.chan { c with occupied := c.occupied - p.flits, returning := c.returning + p.flits - lost }

/-- A destination's chiplet port takes a packet, which leaves its slots at once: a port always accepts (R439). -/
def State.leaveMesh (s : State) (p : MeshPkt) : State :=
  let ch := p.cls * 6 + if p.level = 3 then 0 else 3 + p.level
  let s1 := s.takeSlots (portOut p.dst) ch p.flits
  s1.freeSlotsOf { p with link := portOut p.dst, chan := ch }

/-- Router and input port behind an output of a router on the same die. -/
def behind (router out : Nat) : Nat × Nat :=
  match out with
  | 0 => (router + 1, 0)
  | 1 => (router - 1, 1)
  | 2 => (router + 8, 2)
  | _ => (router - 8, 3)

/-- A packet moves as a whole over an output (R438). -/
def State.movePkt (s : State) (p : MeshPkt) (out : Nat) : State :=
  if out = 4 then
    ((((s.freeSlotsOf p).leaveMesh p).setPkt { p with arrived := true, link := 0, age := 0 }).postOnce
      (.permitAudit (portOut p.dst) (p.cls * 6 + if p.level = 3 then 0 else 3 + p.level))).post (.packetDelivery p.id)
  else
    match s.channelFor p out, s.goalOf p with
    | some ch, some (_, _, t) =>
      let link := linkAt p.die p.router out
      let s1 := (s.freeSlotsOf p).takeSlots link ch p.flits
      let level := if ch % 6 < 3 then 3 else ch % 6 - 3
      let q := if out = 5 then { p with die := t, router := routerOf (uciePort t p.die), inPort := 6, crossings := p.crossings + 1 }
        else { p with router := (behind p.router out).1, inPort := (behind p.router out).2 }
      -- a channel in use is audited once per period (R443)
      ((s1.setPkt { q with level := level, link := link, chan := ch, age := 0 }).postOnce (.permitAudit link ch)).offerHops q.die q.router
    | _, _ => s

/-- The outputs of a router that have granted in its mesh cycle. -/
def State.grants (s : State) (die router : Nat) : List Nat := nget (fun _ => []) s.net.grants (48 * die + router)
def State.setGrants (s : State) (die router : Nat) (l : List Nat) : State :=
  { s with net := { s.net with grants := nset (fun _ => []) s.net.grants (48 * die + router) l } }

/-- A router's next mesh cycle: the packets at its heads that were ready in the last and were not granted age (R441). -/
def State.nextCycle (s : State) (die router : Nat) : State :=
  (((s.heads die router).filter (fun q => (s.outsOf q).any (fun o => s.readyFor q o))).foldl (fun (t : State) q =>
    t.setPkt { q with age := min 255 (q.age + 1) }) s).setGrants die router []

/-! ### Flows (R440) -/

/-- A flow never used. -/
def Flow.empty (src dst cls : Nat) : Flow :=
  { src := src, dst := dst, cls := cls, next := 0, expect := 0, unconfirmed := 0, credits := 0, queue := [] }
def State.flow (s : State) (src dst cls : Nat) : Flow :=
  (s.net.flows.find? (fun f => decide (f.src = src ∧ f.dst = dst ∧ f.cls = cls))).getD (Flow.empty src dst cls)
def State.setFlow (s : State) (f : Flow) : State :=
  let here := fun (g : Flow) => decide (g.src = f.src ∧ g.dst = f.dst ∧ g.cls = f.cls)
  { s with net := { s.net with flows := if s.net.flows.any here then s.net.flows.map (fun g => if here g then f else g) else s.net.flows ++ [f] } }
def State.reorderPort (s : State) (dst cls : Nat) : ReorderPort := nget (fun _ => ⟨0, []⟩) s.net.reorder (3 * dst + cls)
def State.setReorderPort (s : State) (dst cls : Nat) (r : ReorderPort) : State :=
  { s with net := { s.net with reorder := nset (fun _ => ⟨0, []⟩) s.net.reorder (3 * dst + cls) r } }

/-- The flits of a message: one that carries the header, and data flits of 64 bytes for the elements it carries, four in all at most (R438; what a message
carries beside a line is the model's choice, log entry 13). -/
def meshFlits (payload : Ev) : Nat :=
  let n := match payload with
    | .contribution p => (axElemBytes p).length
    | .completion p => (axElemBytes p).length
    | _ => 0
  min 4 (1 + (n + 63) / 64)

/-- A source port sends a packet of a flow, as its head packet or on a credit, over channel `ch` of its chiplet port. -/
def State.injectPkt (s : State) (f : Flow) (prio : Nat) (payload : Ev) (credit : Bool) (ch : Nat) : State :=
  let p : MeshPkt := { id := s.nextId, src := f.src, dst := f.dst, cls := f.cls, seq := f.next, credit := credit, flits := meshFlits payload, prio := prio
                       die := f.src / 256, router := routerOf f.src, inPort := 8 + f.src % 256 / 48, level := if ch % 6 < 3 then 3 else 0, crossings := 0
                       link := portIn f.src, chan := ch, age := 0, arrived := false, payload := payload }
  let f1 := { f with next := (f.next + 1) % 256, unconfirmed := f.unconfirmed + 1, credits := if credit then f.credits - 1 else f.credits }
  (((({ s with nextId := s.nextId + 1, net := { s.net with packets := s.net.packets ++ [p] } }).setFlow f1).takeSlots (portIn f.src) ch p.flits).postOnce
    (.permitAudit (portIn f.src) ch)).offerHops p.die p.router

/-- A flow may send its next packet: as its head packet, or on a credit with fewer than 128 in flight (R440). -/
def Flow.maySend (f : Flow) : Bool := decide (f.unconfirmed = 0) || decide (0 < f.credits ∧ f.unconfirmed < 128)

/-- A flow sends the first of what waits, where it may and its chiplet port has slots for it. -/
def State.pumpFlow (s : State) (f : Flow) : State :=
  match f.queue with
  | [] => s.setFlow f
  | (prio, e) :: r =>
    match (if f.maySend then s.entryChannel f.src f.cls (meshFlits e) else none) with
    | some ch => s.injectPkt { f with queue := r } prio e (decide (f.unconfirmed ≠ 0)) ch
    | none => s.setFlow f

/-- SENDS a message over the mesh: its payload happens when it is delivered. A packet that is not the flow's head waits for a
reorder credit, no more than 128 are in flight, and each waits for slots of its chiplet port (R439, R440). -/
def State.sendMesh (s : State) (src dst cls prio : Nat) (payload : Ev) : State :=
  let f := s.flow src dst cls
  let g := { f with queue := f.queue ++ [(prio, payload)] }
  if f.queue.isEmpty && f.maySend then s.pumpFlow g
  else (s.setFlow g).post (.reorderCreditRequest src dst cls)

/-- The flows of a port send what waited for slots of it. -/
def State.pumpPort (s : State) (port : Nat) : State :=
  (s.net.flows.filter (fun f => decide (f.src = port) && !f.queue.isEmpty)).foldl (fun (t : State) f => t.pumpFlow (t.flow f.src f.dst f.cls)) s

/-- `MESH_PACKET_HOP`: an output of a router grants one ready packet, which moves on; an output's second grant begins the router's next mesh cycle
(R438 to R442). -/
def execMeshPacketHop (die router out : Nat) (s : State) : Out :=
  let s0 := if (s.grants die router).contains out then s.nextCycle die router else s
  match s0.granted die router out with
  | none => .next (if (s0.heads die router).any (fun p => (s0.outsOf p).contains out) then s0.post (.meshPacketHop die router out) else s0)
  | some p =>
    let s1 := ((s0.setGrants die router (s0.grants die router ++ [out])).movePkt p out).offerHops die router
    .next (if p.link = portIn p.src then s1.pumpPort p.src else s1)

/-- `PACKET_DELIVERY`: a packet at its destination is delivered in its turn, and then those held behind it; a credit goes back, and a
head packet is confirmed (R440). -/
def execPacketDelivery (pid : Nat) (s : State) : Out :=
  match s.net.packets.find? (fun p => decide (p.id = pid) && p.arrived) with
  | none => .next s
  | some p =>
    let f := s.flow p.src p.dst p.cls
    if p.seq ≠ f.expect then .next s
    else
      let next := (f.expect + 1) % 256
      let s1 := ({ s with net := { s.net with packets := s.net.packets.filter (fun q => decide (q.id ≠ pid)) } }).setFlow { f with expect := next }
      let r := s1.reorderPort p.dst p.cls
      let s2 := if p.credit then
          let t := s1.setReorderPort p.dst p.cls { r with granted := r.granted - 1 }
          if r.asking.isEmpty then t else t.postOnce (.reorderCreditGrant p.dst p.cls)
        else s1
      let s3 := s2.post (.deliveryConfirmation p.src p.dst p.cls)
      let s4 := match s3.net.packets.find? (fun q => q.arrived && decide (q.src = p.src ∧ q.dst = p.dst ∧ q.cls = p.cls ∧ q.seq = next)) with
        | some q => s3.post (.packetDelivery q.id)
        | none => s3
      .next (s4.post p.payload)

/-- `REORDER_CREDIT_REQUEST`: a source port asks for a credit (R440). -/
def execReorderCreditRequest (src dst cls : Nat) (s : State) : Out :=
  let r := s.reorderPort dst cls
  let s1 := s.setReorderPort dst cls { r with asking := if r.asking.contains src then r.asking else r.asking ++ [src] }
  .next (s1.postOnce (.reorderCreditGrant dst cls))

/-- `REORDER_CREDIT_GRANT`: the lowest source port that asks is given one of the 32 credits (R440). -/
def execReorderCreditGrant (dst cls : Nat) (s : State) : Out :=
  let r := s.reorderPort dst cls
  match r.asking with
  | [] => .next s
  | a :: rest =>
    if 32 ≤ r.granted then .next s
    else
      let src := rest.foldl min a
      let s1 := s.setReorderPort dst cls { granted := r.granted + 1, asking := r.asking.filter (fun x => decide (x ≠ src)) }
      let f := s1.flow src dst cls
      -- a source whose packets have all left meanwhile needs none
      if f.queue.isEmpty then .next (if r.asking.length ≤ 1 then s.setReorderPort dst cls { r with asking := [] }
        else (s.setReorderPort dst cls { r with asking := r.asking.filter (fun x => decide (x ≠ src)) }).postOnce (.reorderCreditGrant dst cls))
      else
      let s2 := s1.pumpFlow { f with credits := f.credits + 1 }
      let s3 := if (s2.flow src dst cls).queue.isEmpty then s2 else s2.post (.reorderCreditRequest src dst cls)
      .next (if (s3.reorderPort dst cls).asking.isEmpty then s3 else s3.postOnce (.reorderCreditGrant dst cls))

/-- `DELIVERY_CONFIRMATION`: the source knows what is delivered; its oldest packet in flight is the head, or the next to be sent is
(R440). -/
def execDeliveryConfirmation (src dst cls : Nat) (s : State) : Out :=
  let n := (s.net.packets.filter (fun p => decide (p.src = src ∧ p.dst = dst ∧ p.cls = cls))).length
  .next (s.pumpFlow { s.flow src dst cls with unconfirmed := n })

/-! ### The permit audit (R443, R444) -/

/-- The die that a link number of this model lies on. -/
def dieOfLink (link : Nat) : Nat := if link < 1537 then (link - 1) / 8 / 48 else (link - 1537) / 2 / 256
/-- The router at the sending end of a link, or, of a chiplet port, the port's. -/
def routerOfLink (link : Nat) : Nat := if link < 1537 then (link - 1) / 8 % 48 else routerOf ((link - 1537) / 2)

/-- The link number of R447 of a UCIe output, if it is one. -/
def ucieNumber (link : Nat) : Option Nat :=
  let d := dieOfLink link
  let r := (link - 1) / 8 % 48
  if link < 1537 ∧ (link - 1) % 8 = 5 then ((natsFrom 0 4).find? (fun e => decide (e ≠ d ∧ routerOf (uciePort d e) = r))).map (fun e => 8 * d + e) else none

/-- The audit period of a link in local cycles: LINK_CTL counts 1,024 mesh cycles of 2 GHz (R443, R520). -/
def State.auditPeriod (s : State) (link : Nat) : Nat :=
  match ucieNumber link with
  | some k => bits (s.reg pkgRegs (0x40008 + 0x40 * k)) 15 0 * 512
  | none => 0x40 * 512

/-- `PERMIT_AUDIT`: the sender snapshots its permits and sends a marker (R443 step 1). -/
def execPermitAudit (link ch : Nat) (s : State) : Out :=
  let c := (s.channel link ch).collect
  let period := s.auditPeriod link
  if c.phase ≠ 0 ∨ c.stopped then .next s
  else if period = 0 ∨ s.now (dieOfLink link) < c.nextAudit then .next (s.post (.permitAudit link ch))
  else
    let c1 := { c with phase := 1, p := channelSlots ch - c.used, c := 0, nextAudit := s.now (dieOfLink link) + period }
    .next ((s.setChannel link ch c1).post (.auditMarker link ch))

/-- `AUDIT_MARKER`: the receiver snapshots its slots and sends the marker back behind every permit it returned (R443 step 2). -/
def execAuditMarker (link ch : Nat) (s : State) : Out :=
  let c := s.channel link ch
  if c.phase ≠ 1 then .next s
  else .next ((s.setChannel link ch c.mark).post (.auditMarkerReturn link ch))

/-- Adds one to an 8-bit count of a link's status, saturating. -/
def bumpStatus (v lo : Nat) : Nat := setBits v (lo + 7) lo (min 255 (bits v (lo + 7) lo + 1))

/-- `AUDIT_MARKER_RETURN`: P + O + C is held against the slot count; where it differs `LOST_PERMIT` is reported and the sender
stopped (R443 step 3, R444). -/
def execAuditMarkerReturn (link ch : Nat) (s : State) : Out :=
  let c := s.channel link ch
  if c.phase ≠ 2 then .next s
  else
    let c1 := ({ c with phase := 0 } : Channel).collect
    let total := c.p + c.o + c.c
    if total = channelSlots ch then
      let s0 := (s.setChannel link ch c1).post (.permitAudit link ch)
      .next (if link < 1537 then s0 else s0.pumpPort ((link - 1537) / 2))
    else
      let d := dieOfLink link
      let lost := channelSlots ch - total
      let detail := ch / 6 + (min (ch % 6) 3) * 4 + (if 3 ≤ ch % 6 then (ch % 6 - 3) * 16 else 0) + lost * 256
      let part := ((s.partOfDie d).map (fun (x : Part) => x.id)).getD 0
      let s1 := (s.setChannel link ch { c1 with stopped := true }).event part
        { typ := 0x06, action := 5, ukind := 5, unit := (ucieNumber link).getD (routerOfLink link), pos := ⟨d, 0, 0⟩, detail := detail }
      let s2 := match ucieNumber link with
        | some k => s1.setLinkStatus k (bumpStatus (s1.linkStatus k) 40)
        | none => s1
      .next (s2.post (.channelRestart link ch))

/-- `CHANNEL_RESTART`: once the receiver's slots are empty the sender has its full permits again (R444). -/
def execChannelRestart (link ch : Nat) (s : State) : Out :=
  let c := s.channel link ch
  if !c.stopped then .next s
  else if c.occupied ≠ 0 then .next (s.post (.channelRestart link ch))
  else
    let s1 := ((s.setChannel link ch { Channel.empty with nextAudit := c.nextAudit }).post (.permitAudit link ch)).offerHops (dieOfLink link) (routerOfLink link)
    .next (if link < 1537 then s1 else s1.pumpPort ((link - 1537) / 2))

end Sys2Proof.Machine
end

