-- ==== Sys2Proof/Machine/Reduce.lean ====
section
/-! DEFINITION. What gateways send, and reductions at their root: packets given to Axsis, the combination of a set of
contributions, completion, retention and cancellation (R455, R460, R462 to R466, R469, R499). -/
namespace Sys2Proof.Machine
open Sys2Proof

/-- An Axsis packet with every field 0. -/
def AxPkt.blank : AxPkt :=
  { typ := 0, srcPeer := 0, srcGw := 0, dstPeer := 0, dstGw := 0, cls := 0, seq := 0, addr := 0, jobTag := 0, epoch := 0, cmp := false
    enc := false, ident := 0, rank := 0, count := 0, op := 0, fmt := 0, timeout := 0, status := 0, nanSeen := false, viaSwitch := false
    err := false, tag := 0, mask := 0, data := [], elems := [], parts := [], bitmap := [], bitmap2 := [] }

/-- The number of a flow: the gateway here, the package and gateway there, the class (R455). -/
def axFlow (gw peer gw2 cls : Nat) : Nat := gw * 2 ^ 17 + peer * 32 + gw2 * 4 + cls

/-- Packets of a flow not acknowledged. -/
def State.axUnacked (s : State) (k : Nat) : List SentPkt :=
  s.net.axSent.filter (fun x => axFlow x.pkt.srcGw x.pkt.dstPeer x.pkt.dstGw x.pkt.cls = k)

/-- The Axsis port of gateway `g` carries traffic: full service, and its link is up (R452, R516). -/
def State.portUp (s : State) (g : Nat) : Bool := decide (s.trust.service = 2) && s.linkUp (8 * (g / 2) + 4 + g % 2)

/-- Gives a packet to Axsis with the flow's next number; it leaves at once where no more than 1,024 are unacknowledged
(R455). CMP is set where its payload is compressed (R457). -/
def State.axSend (s : State) (p : AxPkt) : State :=
  let k := axFlow p.srcGw p.dstPeer p.dstGw p.cls
  let n := nget (fun _ => 0) s.net.axNext k
  let q := { p with srcPeer := s.peer, seq := n, cmp := axCompresses p }
  let leaves := decide ((s.axUnacked k).length < 1024) && s.portUp p.srcGw
  State.post { s with net := { s.net with
      axNext := nset (fun _ => 0) s.net.axNext k ((n + 1) % 65536)
      axSent := s.net.axSent ++ [{ pkt := q, left := leaves, since := s.now (p.srcGw / 2), resends := 0 }]
      axOut := if leaves then s.net.axOut ++ [q] else s.net.axOut } } (.axsisResendTimeout p.srcGw (p.dstPeer * 32 + p.dstGw * 4 + p.cls) n)

/-! ### Jobs (R460, R469, R471) -/

/-- The mesh port of gateway `g`. -/
def gatewayPort (g : Nat) : Nat := g / 2 * 256 + 59 + 2 * (g % 2)
/-- The job with a tag. -/
def State.jobOf (s : State) (tag : Nat) : Option JobEntry := s.net.jobs.find? (fun j => j.tag = tag)
/-- The job entry of a context (Table 16-8). -/
def State.jobOfCtx (s : State) (ctx : Nat) : Option JobEntry := s.net.jobs.find? (fun j => decide (j.ctx = ctx) && j.valid)
/-- The root of a reduction: the gateway at entry (identifier mod NGW) of the job's list (R460). -/
def JobEntry.root (j : JobEntry) (ident : Nat) : GwRef := lget ⟨0, 0⟩ j.gateways (ident % j.gateways.length)
/-- The holder number of a gateway (R469). -/
def JobEntry.holder (j : JobEntry) (r : GwRef) : Nat := (j.gateways.findIdx? (fun x => x = r)).getD 0
/-- The gateways of a job's list on this package, by index. -/
def State.ownGateways (s : State) (j : JobEntry) : List Nat := (j.gateways.filter (fun r => r.peer = s.peer)).map (fun r => r.gw)

/-- A holder's invocation counter in the job's current epoch. -/
def State.counterOf (s : State) (tag holder : Nat) : Nat := ((s.jobOf tag).map (fun j => nget (fun _ => 0) j.counters holder)).getD 0
/-- A holder seals nothing more under this epoch: its counter would pass 2^64 − 1 (R469). -/
def State.sealFull (s : State) (tag holder : Nat) : Bool := decide (0xFFFFFFFFFFFFFFFF ≤ s.counterOf tag holder)

/-- A holder seals a payload: its invocation counter rises, and at 2^63 it asks for a rekey (R469). -/
def State.seal (s : State) (tag holder : Nat) : State :=
  match s.jobOf tag with
  | none => s
  | some j =>
    let n := nget (fun _ => 0) j.counters holder + 1
    let s1 := { s with net := { s.net with jobs := s.net.jobs.map (fun k =>
      if k.tag = tag then { k with counters := ninsert k.counters holder n } else k) } }
    if n = 0x8000000000000000 then s1.postOnce (.rekeyRequest tag holder) else s1

/-- A collective packet at its destination. -/
def collEv (p : AxPkt) : Ev := match p.typ with
  | 0x10 => .contribution p
  | 0x11 => .partialArrival p
  | 0x12 => .completion p
  | _ => .notice p

/-- The priority of the queue whose `COLL` waits at a gateway for a reduction: its request's, which the answer carries (R441). -/
def State.collPrio (s : State) (job ident : Nat) : Nat :=
  ((s.net.colls.filter (fun w => decide (w.job = job ∧ w.cmd.ident = ident))).map (fun w => bits (s.queue w.queue).ctl 62 61)).foldl max 0

/-- A collective packet goes from gateway `gw` of this package to a gateway: through the mesh on this package, else over Axsis; its
payload is sealed under the job's epoch, or waits for the next one (R468, R469). Contributions and partials are requests, completions and notices
their responses (R438). -/
def State.collSend (s : State) (gw : Nat) (dst : GwRef) (p : AxPkt) : State :=
  match s.jobOf p.jobTag with
  | none => s
  | some j =>
    let h := j.holder ⟨s.peer, gw⟩
    if s.sealFull p.jobTag h then { s with net := { s.net with unsealed := s.net.unsealed ++ [(gw, dst, p)] } }
    else
      let s1 := s.seal p.jobTag h
      let q := { p with srcPeer := s.peer, srcGw := gw, dstPeer := dst.peer, dstGw := dst.gw, cls := 2, epoch := j.epoch, enc := true
                        counter := s1.counterOf p.jobTag h }
      if dst.peer = s.peer then
        (if dst.gw = gw then s1.post (collEv q)
         else s1.sendMesh (gatewayPort gw) (gatewayPort dst.gw) (if p.typ ≤ 0x11 then 0 else 1) (s.collPrio p.jobTag p.ident) (collEv q))
      else s1.axSend q

/-! ### The contract (R462) -/

/-- One element of the result over the codes contributed. -/
def collElem (op t : Nat) (xs : List Nat) : Nat :=
  let f := ffOfTyp (BitVec.ofNat 5 t)
  let canon := fun (x : Nat) => if f.read x = .nan then f.nanCode else x
  let w := 2 ^ tyBits (BitVec.ofNat 5 t)
  let fold := fun (g : Nat → Nat → Nat) => match xs with
    | [] => 0
    | x :: r => r.foldl g x
  match op with
  | 0 => if collFloat t then f.deliver 0 false (exactSum 0 (xs.map f.read)) else xs.foldl (· + ·) 0 % w
  | 1 => canon (fold (f.select true false))
  | 2 => canon (fold (f.select true true))
  | 3 => canon (fold (f.select false false))
  | 4 => canon (fold (f.select false true))
  | 5 => fold (fun a b => a &&& b)
  | _ => fold (fun a b => a ||| b)

/-- The bytes of a packet before encryption, the combination of a partial's elements as R462 gives it (R453, R457, R463). -/
def State.axOnWire (s : State) (p : AxPkt) : List Byte :=
  axWire p (((s.jobOf p.jobTag).map (fun j => j.holder ⟨p.srcPeer, p.srcGw⟩)).getD 0) (collElem p.op p.fmt)

/-- The codes of element `i`. -/
def codesAt (parts : List RankData) (i : Nat) : List Nat := parts.map (fun r => (lget 0 r.elems i).toNat)

/-- The result of a set of contributions of `n` elements. -/
def collResult (op t n : Nat) (parts : List RankData) : List Dword :=
  (natsFrom 0 n).map (fun i => BitVec.ofNat 64 (collElem op t (codesAt parts i)))

/-- Some element of some contribution is NaN (R462). -/
def collNan (t : Nat) (parts : List RankData) : Bool :=
  collFloat t && parts.any (fun r => r.elems.any (fun x => decide ((ffOfTyp (BitVec.ofNat 5 t)).read x.toNat = .nan)))

/-- Adds contributions in ascending rank order. -/
def addParts (old new : List RankData) : List RankData :=
  new.foldl (fun (l : List RankData) r => l.takeWhile (fun x => decide (x.rank < r.rank)) ++ [r] ++ l.dropWhile (fun x => decide (x.rank < r.rank))) old

/-! ### The end of a reduction at its root (R464 to R466, R499) -/

/-- The root of a reduction on this package. -/
def State.rootSlot? (s : State) (job ident : Nat) : Option RootSlot := s.net.roots.find? (fun r => decide (r.job = job ∧ r.ident = ident))
def State.retained? (s : State) (job ident : Nat) : Option Retained := s.net.retained.find? (fun r => decide (r.job = job ∧ r.ident = ident))
/-- Takes a reduction's retention entry out. -/
def State.dropRetained (s : State) (job ident : Nat) : State :=
  { s with net := { s.net with retained := s.net.retained.filter (fun r => !decide (r.job = job ∧ r.ident = ident)) } }

/-- Broadcasts a packet to every gateway of the job's list (R464). -/
def State.broadcast (s : State) (gw : Nat) (p : AxPkt) : State :=
  match s.jobOf p.jobTag with
  | none => s
  | some j => j.gateways.foldl (fun (t : State) r => t.collSend gw r p) s

/-- Keeps a completed reduction for its retention, the oldest of its engine's 1,024 entries giving way (R465). -/
def State.retain (s : State) (r : RootSlot) (status : Nat) : State :=
  let ranks := r.parts.map (fun x => x.rank)
  let answered := (ranks ++ r.refused).eraseDups
  if r.count ≤ answered.length then s
  else
    let e : Retained := { job := r.job, ident := r.ident, gw := r.gw, status := status, ranks := ranks, answered := answered, count := r.count,
                          timeout := r.timeout, since := s.now (r.gw / 2) }
    let here := s.net.retained.filter (fun x => decide (x.gw = r.gw))
    let kept := if 1024 ≤ here.length then (match here with
      | o :: _ => s.net.retained.erase o
      | [] => s.net.retained) else s.net.retained
    State.post { s with net := { s.net with retained := kept ++ [e] } } (.retentionExpiry r.job r.ident)

/-- COMPLETES a reduction at its root with a status: the result goes to every gateway of the list. A checker mismatch has the
combination done again; a second ends the reduction `CANCELLED` (R464, R466, R499). -/
def State.endReduction (s : State) (r : RootSlot) (status : Nat) : State :=
  let wrong := decide (status ≤ 1) && s.upsets.contains s.free && s.upsets.contains (s.free + 1)
  let st := if wrong then 5 else status
  let s0 := { s with net := { s.net with roots := s.net.roots.filter (fun x => !decide (x.job = r.job ∧ x.ident = r.ident)) } }
  let s1 := if wrong then
      s0.event (((s0.partOfDie (r.gw / 2)).map (fun (x : Part) => x.id)).getD 0)
        { typ := 0x0C, action := s0.openAction, pos := ⟨r.gw / 2, 0, 0⟩, ukind := 7, unit := r.gw % 2, detail := 1, addr := r.ident }
    else s0
  let w := tyBits (BitVec.ofNat 5 r.fmt) / 8
  let p : AxPkt := { AxPkt.blank with
    typ := 0x12, jobTag := r.job, ident := r.ident, count := r.count, op := r.op, fmt := r.fmt, status := st
    nanSeen := decide (st ≤ 1) && collNan r.fmt r.parts, viaSwitch := r.viaSwitch
    elems := if st ≤ 1 then collResult r.op r.fmt (r.len / w) r.parts else [], bitmap := if st ≤ 1 then r.parts.map (fun x => x.rank) else [] }
  let s2 := s1.broadcast r.gw p
  if st ≤ 1 then s2.retain r st else s2

/-- A reduction with nothing in it. -/
def RootSlot.blank (job ident gw : Nat) : RootSlot :=
  { job := job, ident := ident, gw := gw, op := 0, fmt := 5, count := 0, len := 0, timeout := 0, since := 0, parts := [], refused := [], viaSwitch := false }

/-- A cancel reaches the root of a reduction: unless it has completed it ends `CANCELLED`, its slot and retention entry free (R466). From a
root on another package the completion comes back to this one's gateways; the way there and back is no packet of the model (log entry 43). -/
def State.cancelReduction (s : State) (job ident : Nat) : State :=
  match s.jobOf job with
  | none => s
  | some j =>
    if j.gateways.isEmpty then s
    else if (j.root ident).peer ≠ s.peer then
      (s.ownGateways j).foldl (fun (t : State) g => t.post (.completion { AxPkt.blank with
        typ := 0x12, srcPeer := s.peer, srcGw := g, dstPeer := s.peer, dstGw := g, jobTag := j.tag, epoch := j.epoch, ident := ident, status := 5 })) s
    else if (s.retained? job ident).isSome then s
    else s.endReduction ((s.rootSlot? job ident).getD (RootSlot.blank job ident (j.root ident).gw)) 5

/-- A cancel reaches every unfinished reduction to which a group or node of the instances of a list has posted, and of the job of the context
where a job is among them (R466). -/
def State.cancelPosted (s : State) (ids : List Nat) : State :=
  let posted := (s.net.colls.filter (fun w => ids.contains w.inst)).map (fun w => (w.job, w.cmd.ident))
  let tags := (s.insts.filter (fun i => ids.contains i.id && decide (i.level = .job))).filterMap (fun i => (s.jobOfCtx i.ctx).map (fun j => j.tag))
  let rooted := (s.net.roots.filter (fun r => tags.contains r.job)).map (fun r => (r.job, r.ident))
  (posted ++ rooted).eraseDups.foldl (fun (t : State) y => t.cancelReduction y.1 y.2) s

end Sys2Proof.Machine
end

