-- ==== Sys2Proof/Machine/Cancel.lean ====
section
/-! DEFINITION. Cancellation and containment: cancelling an instance and everything below it, tearing a queue down,
rolling a group back and quarantining a core (R297 to R299, R398, R404, R494 to R498, R503). -/
namespace Sys2Proof.Machine
open Sys2Proof

/-- Instance `i` is `a` or lies below it. -/
def State.isUnder (s : State) (a : Nat) : Nat → Nat → Bool
  | 0, _ => false
  | fuel + 1, i =>
    if i = a then true
    else
      match s.inst? i with
      | some x =>
        match x.parent with
        | some p => s.isUnder a fuel p
        | none => false
      | none => false

/-- Groups of a launch. -/
def Launch.total (l : Launch) : Nat := l.ngroups.1 * l.ngroups.2.1 * l.ngroups.2.2
/-- Groups of a whole batch: 64, or whole gangs (R406). -/
def Launch.batchSize (l : Launch) : Nat := if l.gang = 0 then 64 else 64 / l.gang * l.gang
/-- The groups of batch `b` that exist. -/
def Launch.batch (l : Launch) (b : Nat) : List Nat :=
  natsFrom (b * l.batchSize) (min l.batchSize (l.total - b * l.batchSize))

/-- Groups of a die share that are not dispatched. -/
def Launch.undispatched (l : Launch) (x : Share) : Nat :=
  ((x.batches ++ x.coming).map (fun b => (l.batch b).length)).foldl (· + ·) 0 + x.cur.length + (x.back.map (fun q => q.1.length)).foldl (· + ·) 0

/-- A cancel of instance `a` as die `d` sees it: its groups there stop, those not dispatched are dropped (Table 10-3). -/
def State.cancelOnDie (s : State) (a d : Nat) : State :=
  let ls := s.launches.filter (fun l => s.isUnder a 8 l.id)
  let s1 := ls.foldl (fun t l =>
    (t.groups.filter (fun g => decide (g.launch = l.id ∧ g.pos.die = d))).foldl (fun u g => u.endGroup g.id 0x28) t) s
  ls.foldl (fun t l =>
    match t.launch? l.id with
    | none => t
    | some l1 =>
      match l1.shares.find? (fun x => x.die = d) with
      | none => t
      | some x =>
        let n := l1.undispatched x
        let x1 := { x with batches := [], cur := [], back := [], coming := [], canc := x.canc + n }
        let t1 := t.setLaunch { l1 with shares := l1.shares.map (fun y => if y.die = d then x1 else y) }
        (t1.countGroups l1.id 0 n).tryShare l1.id d) s1

/-- Marks an instance cancelled: closed to new children, its expected count the children it holds (R398). -/
def Inst.cancel (i : Inst) (torn : Bool) : Inst :=
  if i.finished then i else
    { i with cancelled := true, closed := true, torn := i.torn || torn
             expected := match i.level with
               | .phase | .job => i.expected.map (fun _ => i.children)
               | _ => i.expected }

/-- Drops the nodes of a graph that are not released: each counts cancelled (R404). -/
def State.dropNodes (s : State) (gi : Nat) : State :=
  match s.graphs.find? (fun g => g.inst = gi), s.inst? gi with
  | some g, some i =>
    if g.dropped then s else
      { s.setInst { i with canc := i.canc + (g.nodes - g.released.length) } with
        graphs := s.graphs.map (fun h => if h.inst = gi then { h with dropped := true, stopped := true } else h) }
  | _, _ => s

/-- A copy that is cancelled, or a collective node whose end waits, stops: it finishes cancelled, at once where nothing that it wrote is on its
way to a home, else by COPY_FINISH (R298, R400). -/
def State.stopCopy (s : State) (i : Nat) : State :=
  match s.inst? i with
  | none => s
  | some x =>
    let s1 := s.setInst { x with cancelled := true }
    if s.unaccepted i then s1
    else ({ s1 with copies := s1.copies.filter (fun y => y.inst ≠ i), replies := nerase s1.replies i }.setInst
      { x with canc := x.canc + 1, cancelled := true }).tryFinish 8 i

/-- CANCELS instance `a` (R298, R398), and with a job the phases below it: at once on die `d`, by message on the other dies of the partition;
the reductions posted from below end (R466). -/
def State.cancelInst (s : State) (a d : Nat) (torn : Bool) : State :=
  match s.inst? a with
  | none => s
  | some i =>
    if i.finished then s else
      let below := (s.insts.filter (fun (x : Inst) => s.isUnder a 8 x.id)).map (fun (x : Inst) => x.id)
      let s1 := { s with insts := s.insts.map (fun (x : Inst) => if x.id = a ∨ ((torn || decide (x.level = Level.phase)) ∧ below.contains x.id) then x.cancel torn else x) }
      let s2 := (s1.graphs.filter (fun (g : Graph) => below.contains g.inst)).foldl (fun (t : State) (g : Graph) => t.dropNodes g.inst) s1
      -- copies stop where they are, and end once what they wrote is accepted (R400)
      let s3 := (s2.copies.filter (fun (c : CopyOp) => below.contains c.inst)).foldl (fun (t : State) (c : CopyOp) => t.stopCopy c.inst) s2
      let others := (s3.view i.part).dies.filter (fun e => e ≠ d)
      let s4 := (s3.cancelOnDie a d).cancelPosted below
      let s5 := others.foldl (fun (t : State) e => t.sendMesh (distributorPort d) (distributorPort e) 0 (bits (t.queue i.queue).ctl 62 61) (.cancelMessage e a)) s4
      (below.filter (fun b => b ≠ a)).foldl (fun t b => t.tryFinish 8 b) s5 |>.tryFinish 8 a

/-- TEARS DOWN a hardware queue (R498): ERROR with reason 4, its unfinished commands cancelled with STATUS 4, an event. -/
def State.teardown (s : State) (q detail d : Nat) : State :=
  let qq := s.queue q
  let ctx := bits qq.ctl 53 48
  let s1 := s.event (s.partOfQueue q) { typ := 0x04, action := 2, queue := some (q, ctx), detail := detail }
  if qq.state = 4 then s1 else
    let s2 := s1.queueError q 4
    let s3 := s2.setQueue q { s2.queue q with head := none, waitSince := 0, cmds := (s2.queue q).cmds.filter (fun c => c.inst.isSome) }
    qq.cmds.foldl (fun t c =>
      match c.inst with
      | some a => t.cancelInst a d true
      | none =>
        match (if 6 ≤ c.opc then none else t.inst? c.under) with
        | some i => (t.setInst { i with canc := i.canc + 1 }).tryFinish 8 i.id
        | none => t) s3

/-- The group alone is restartable (R226, R494). -/
def Group.fresh (g : Group) : Bool := !g.committed || g.desc.idem

/-- The group is restartable for containment: with its whole gang, and never under die co-residency (R494). -/
def State.restartable (s : State) (g : Group) : Bool :=
  decide (g.desc.cores ≠ 2) &&
    (if g.gang = 0 then g.fresh
     else g.desc.idem || ((s.groups.filter (fun h => h.gang = g.gang)).all Group.fresh && !((s.gang? g.gang).any (fun x => x.spent))))

/-- Takes a group (or its whole gang, the members that have ended with it) off its core to be dispatched again next, keeping off a cluster when
`keepOff` names one: nothing it has done counts (R430, R431, R495). -/
def State.requeue (s : State) (g : Group) (keepOff : Option Nat) : State :=
  let members := if g.gang = 0 then [g] else s.groups.filter (fun h => decide (h.gang = g.gang) && !h.told)
  let gone : Option Gang := if g.gang = 0 then none else s.gang? g.gang
  let again := (gone.map (fun x => x.members)).getD (members.map (fun h => h.g))
  let s0 := match gone, s.inst? g.launch with
    | some x, some i => s.setInst { i with gdone := i.gdone - x.done, gcanc := i.gcanc - x.canc }
    | _, _ => s
  let s1 := members.foldl (fun (t : State) (h : Group) =>
    ((t.setGroup { h with phase := .ended 2, told := true, bsb := [], cmds := [], pend := [], slot := none, qreplays := [], wanted := none }).freeSlots
      h.id).post (.groupResourcesReturn h.id)) s0
  let s2 := { s1 with gangs := s1.gangs.filter (fun x => g.gang = 0 ∨ x.id ≠ g.gang) }
  match s2.launch? g.launch with
  | none => s2
  | some l => s2.setLaunch { l with shares := l.shares.map (fun x =>
      if x.die = g.pos.die then
        { x with live := x.live - members.length, back := (again, keepOff) :: x.back
                 since := if l.undispatched x = 0 then s2.now g.pos.die else x.since }
      else x) }

/-- A fourth charged error within 2^30 local cycles quarantines the core (R503). -/
def State.chargeCore (s : State) (g : Group) : State :=
  let c := g.loc.flat
  let now := s.now g.loc.die
  let errs := (now :: (s.core c).errors).filter (fun t => decide (now - t < 0x40000000))
  let k := { s.core c with errors := errs }
  if errs.length ≥ 4 ∧ !k.quarantined then
    (s.setCore c { k with quarantined := true }).event g.part { typ := 0x0B, action := 3, pos := g.loc }
  else s.setCore c k

/-- An error is charged to a group: it is rolled back and relaunched where it may be, its count raised and an event told, else its queue is
torn down (R495, R497). -/
def State.rollBack (s : State) (g : Group) (cause : Nat) (may : Bool) : State :=
  let s0 := s.chargeCore g
  let n := match s0.launch? g.launch with
    | some l => nget (fun _ => 0) l.relaunch g.g
    | none => 0
  if !may then s0.teardown g.queue 1 g.loc.die
  else if n ≥ 3 then s0.teardown g.queue 2 g.loc.die
  else
    let s1 := match s0.launch? g.launch with
      | some l => s0.setLaunch { l with relaunch := ninsert l.relaunch g.g (n + 1) }
      | none => s0
    (s1.event g.part (EventInfo.ofGroup g 0x03 1 cause (n + 1) 0)).requeue g (some g.loc.cluster)

/-- CONTAINS an error charged to a group that has not ended (R495, R497). -/
def State.contain (s : State) (gid cause : Nat) : State :=
  match s.group? gid with
  | none => s
  | some g => if g.phase.ends then s else s.rollBack g cause (s.restartable g)

end Sys2Proof.Machine
end

