-- ==== Sys2Proof/Machine/Remote.lean ====
section
/-! DEFINITION. Where an access goes: the places of Table 13-1, requests out of a partition's memory, the transaction table, the
write-combining buffer, and a run of a group's stored bytes at its destination (R220, R225, R230, R231, R383, R480, R484). -/
namespace Sys2Proof.Machine
open Sys2Proof

/-- Where the bytes of an access lie: in the partition's own memory, in another package, behind a port, in a range that
another partition exports. -/
inductive Place where
  | local | peer | host (d : Nat) | other (d : Nat)
deriving DecidableEq, Repr

/-- The place of a fabric physical address. -/
def State.placeOf (s : State) (v : View) (pa : Nat) : Place :=
  if pa / 2 ^ 45 ≠ s.peer then .peer
  else
    match regionOf v (pa % 2 ^ 45) with
    | .host d => .host d
    | .dieLocal d => if v.dies.contains d then .local else .other d
    | .vault k => if v.dies.contains (k / 8) then .local else .other (k / 8)
    | _ => .local

/-- First byte of the line of a fabric physical address. -/
def lineStart (pa : Nat) : Nat := pa - pa % 2 ^ 45 % 192
/-- First byte of the sector of an address. -/
def sectorOf (pa : Nat) : Nat := pa - pa % 2 ^ 45 % 48

/-! ### The transaction table (R230, R416) -/

/-- Entries of the transaction table that a flight holds: those its issue took. -/
def Flight.table (f : Flight) : Nat := f.entries

/-- Entries of a core's transaction table in use: accesses under way of its groups, requests of theirs sent to other memories that no access
under way counts (writes, prefetches, an engine's reads, reads whose group was saved), stores of its groups on their way to replicas, and
entries granted. -/
def State.ottUsed (s : State) (c : Nat) : Nat :=
  let here := s.groups.filter (fun g => g.loc.flat = c)
  (here.map (fun g => (g.flights.map Flight.table).sum)).sum
    + (s.remote.filter (fun r => decide (r.core = c) && (decide (r.gid ≠ 0) || s.groups.any (fun g => r.owners.contains g.id)) &&
        !here.any (fun g => g.flights.any (fun f => f.id = r.fid)))).length
    + (s.toStamp.filter (fun w => here.any (fun g => g.id = w.owner))).length
    + (s.net.stamped.filter (fun x => here.any (fun g => g.id = x.w.owner))).length
    + (((s.core c).ottWait.filter (fun w => w.granted)).map (fun w => w.n)).sum

/-- Entries that an access which needs `n` waits for, and the count that its kind leaves of the table: only synchronising accesses take the last
four. One that needs more than there are takes what there is, part by part (log entry 74). -/
def ottRoom (used n : Nat) (sync : Bool) : Bool :=
  let top := if sync then 512 else 508
  decide (used + min n top ≤ top)

/-! ### Requests out of the partition's memory (R220, R454, R480, R484) -/

/-- The bus address of a host-window address of die `d`: OUT_BASE of its port and the offset (R479). -/
def State.hostBus (s : State) (d a : Nat) : Nat := s.reg (16 + d) 0x3000 + (a - hostBase d)

/-- Sends a request out of the partition's memory: to the peer's gateway of the same index (R454), to the host, whose completion has
a time limit (R480), or to another partition's home (R484). -/
def State.sendRemote (s : State) (r : RemoteReq) : State :=
  let die := r.core / 96
  let part := ((s.partOfDie die).map (fun (x : Part) => x.id)).getD 0
  let r1 := { r with tag := s.nextId, part := part, since := s.now die }
  let s1 := { s with remote := s.remote ++ [r1], nextId := s.nextId + 1 }
  match s.placeOf (s.view part) r.pa with
  | .peer =>
    let gw := 2 * die + r.pa % 2 ^ 45 / 192 % 2
    let kind := if r.op = 0 then 1 else if r.op = 1 then 3 else 5
    s1.axSend { AxPkt.blank with
      typ := kind, srcGw := gw, dstPeer := r.pa / 2 ^ 45, dstGw := gw, addr := r.pa, count := r.len, op := r.op, tag := r1.tag
      mask := r.mask, data := r.data, bad := r.bad }
  | .host d => (s1.sendHost { port := d, addr := s.hostBus d (r.pa % 2 ^ 45), data := r.data, kind := if r.op = 0 then 1 else r.op, len := r.len
                              tag := r1.tag }).post (.hostCompletionTimeout r1.tag)
  | .other d =>
    let owner := ((s.partOfDie d).map (fun (x : Part) => x.id)).getD 0
    s1.post (.xpartRequest part owner
      { id := r1.tag, addr := r.pa % 2 ^ 45, op := r.op, len := r.len, data := r.data, core := none, coherent := true, part := owner, bad := r.bad })
  | .local => s1

/-- A write to another package or partition, of bytes that owners stored. -/
def State.remoteWrite (s : State) (pa : Nat) (bs : List Byte) (mask core queue : Nat) (owners : List Nat) (bad : Bool := false) : State :=
  s.sendRemote { tag := 0, gid := 0, fid := 0, lane := 0, op := 1, pa := pa, len := bs.length, data := bs, mask := mask,
                 queue := queue, core := core, part := 0, since := 0, owners := owners, bad := bad }

/-- Pieces of a run that each lie in one block of `n` bytes of a line (48: a sector; 192: the line), by fabric physical address. -/
def blockPieces (n pa : Nat) (bs : List Byte) : List (Nat × List Byte) :=
  let o := pa % 2 ^ 45 % n
  (natsFrom 0 ((o + bs.length + n - 1) / n)).map (fun k =>
    let lo := max o (n * k)
    (pa - o + lo, (bs.drop (lo - o)).take (n * k + n - lo)))

/-- Reads on their way that would fill a line of a core's L1 do not fill it any more. -/
def State.staleFills (s : State) (hit : RemoteReq → Bool) : State :=
  { s with remote := s.remote.map (fun (r : RemoteReq) => if r.fill && hit r then { r with stale := true } else r) }

/-- A core's own store to other memory takes its copy of the line out of its L1, and one on its way there (R220, R327). -/
def State.dropCopy (s : State) (c pa : Nat) : State :=
  (s.setCore c ((s.core c).dropLine (s.l1Key pa) false)).staleFills (fun r => decide (r.core = c ∧ lineStart r.pa = lineStart pa))

/-! ### The write-combining buffer (R231) -/

/-- Drains an entry of a core's write-combining buffer as one masked write. With no transaction-table entry free for it, it stays and drains by
WCB_DRAIN_TIMEOUT as soon as one is (R230, R231); `sync`: a release wants it drained. -/
def State.drainWcb (s : State) (c : Nat) (sync : Bool) (e : WcbEntry) : State :=
  let k := s.core c
  if ottRoom (s.ottUsed c) 1 sync then
    let bs := (natsFrom 0 192).map (fun o => nget (fun _ => 0) e.data o)
    let mask := e.data.foldl (fun n (x : Nat × Byte) => n ||| 2 ^ x.1) 0
    (s.setCore c { k with wcb := k.wcb.filter (fun y => y.line ≠ e.line) }).remoteWrite e.line bs mask c e.queue e.owners
  else s.setCore c { k with wcb := k.wcb.map (fun y => if y.line = e.line then { y with out := true } else y) }

/-- Drains every entry for a release (R227, R231). -/
def State.drainAllWcb (s : State) (c : Nat) : State := (s.core c).wcb.foldl (fun t e => t.drainWcb c true e) s

/-- The entry that holds the line of an address. -/
def State.wcbAt (s : State) (c pa : Nat) : Option WcbEntry := (s.core c).wcb.find? (fun e => e.line = lineStart pa)

/-- Drains the entry that holds the line of an address, before a load of it or another write to it (R220, R327). -/
def State.drainLine (s : State) (c pa : Nat) : State :=
  match s.wcbAt c pa with
  | some e => s.drainWcb c false e
  | none => s

/-- Drains the entries that hold bytes of an owner. -/
def State.drainOwned (s : State) (c owner : Nat) : State :=
  ((s.core c).wcb.filter (fun e => e.owners.contains owner)).foldl (fun t e => t.drainWcb c true e) s

/-- Bytes of one line of a committed peer store of an owner enter the write-combining buffer together; an entry whose 192 bytes are then valid
drains (R231, R308). The entry's `line` is the fabric physical address of its first byte. -/
def State.wcbPut (s : State) (c q owner pa die : Nat) (bs : List Byte) : State :=
  let line := lineStart pa
  let put := fun (d : NMap Byte) => bs.zipIdx.foldl (fun m (x : Byte × Nat) => ninsert m (pa % 2 ^ 45 % 192 + x.2) x.1) d
  let k := s.core c
  match k.wcb.find? (fun e => e.line = line) with
  | some e =>
    let e1 := { e with data := put e.data, owners := if e.owners.contains owner then e.owners else e.owners ++ [owner] }
    let s1 := s.setCore c { k with wcb := k.wcb.map (fun y => if y.line = e.line then e1 else y) }
    if e1.data.length = 192 then s1.drainWcb c false e1 else s1
  | none =>
    let s0 := if 16 ≤ k.wcb.length then (match k.wcb with | e :: _ => s.drainWcb c false e | [] => s) else s
    let k0 := s0.core c
    let e : WcbEntry := { line := line, data := put [], queue := q, since := s0.now die, id := s0.nextId, owners := [owner] }
    { s0.setCore c { k0 with wcb := k0.wcb ++ [e] } with nextId := s0.nextId + 1 }.post (.wcbDrainTimeout c line)

/-! ### Requests that a home cannot take yet (R369) -/

/-- The view in which a name was given. -/
def State.viewOfKey (s : State) (key : Nat) : View := s.viewOfDie (if key < 2 ^ 45 then dieOfStorage (key * 192) else key / 2 ^ 45 - 1)
/-- The slice of a name's line. -/
def State.sliceOfKey (s : State) (key : Nat) : Nat := (s.sliceOf (s.viewOfKey key) (keyLine key)).1
/-- Miss-status registers of a slice in use: fills on their way (R369). -/
def State.missesOf (s : State) (slice : Nat) : Nat := (s.due.filter (fun e => match e with
  | .l2Fill key => decide (s.sliceOfKey key = slice)
  | _ => false)).length
/-- A way is to be had for a line in its set of a slice: not each of the 12 holds another line with listed requests (R371). -/
def State.l2Room (s : State) (v : View) (line : Nat) : Bool :=
  decide (((s.l2Set v line).filter (fun y => decide (y.1 ≠ homeKey v line) && !(s.listedAt y.1).isEmpty)).length < 12)

/-- The home of a line takes no request now: the line's list is full, or it misses and no miss-status register or way is free, or requests to it
wait (R369, R371). -/
def State.homeBusy (s : State) (v : View) (line : Nat) : Bool :=
  let here := (s.listedAt (homeKey v line)).length
  decide (32 ≤ here) || !(s.waitingAt v line).isEmpty ||
    (!isVaultLine line && decide (here = 0) && !s.l2Has v line && (decide (64 ≤ s.missesOf (s.sliceOf v line).1) || !s.l2Room v line))

/-! ### Stored bytes at their destination -/

/-- A run of bytes that a group stored reaches its destination, each part of it that a destination takes as one action as one: the
write-combining buffer of a peer line, posted writes within sectors, another partition's home, the sequencer of a replicated page, the L1
of a private page, else the home (R220, R225, R308, R383, R480, Table 08-3). -/
def State.putRun (s : State) (g : Group) (p : Policy) (share repl pa : Nat) (bs : List Byte) : State :=
  let v := s.viewOf g
  let c := g.loc.flat
  match s.placeOf v pa with
  | .peer => (blockPieces 192 pa bs).foldl (fun (t : State) y => (t.dropCopy c y.1).wcbPut c g.queue g.id y.1 g.loc.die y.2) s
  | .host d => (blockPieces 48 pa bs).foldl (fun (t : State) y => (t.dropCopy c y.1).hostPost d (t.hostBus d (y.1 % 2 ^ 45)) y.2) s
  | .other _ => (blockPieces 192 pa bs).foldl (fun (t : State) y => t.remoteWrite y.1 y.2 (2 ^ y.2.length - 1) c g.queue [g.id]) s
  | .local =>
    if repl ≠ 0 then s.storeReplica g.queue g.id repl (pa % 2 ^ 45) bs
    else (blockPieces 192 pa bs).foldl (fun (t : State) y => t.coreWrite v c p share (y.1 % 2 ^ 45) y.2) s

end Sys2Proof.Machine
end

