-- ==== Sys2Proof/Machine/Rows.lean ====
section
/-! DEFINITION. Canonical rows of the matrix and tile copy engines: the planes of a row, element codes and values, the
quantiser, and the matrix sums (R60 to R63, R75 to R81, Tables 02-7 and 09-4). -/
namespace Sys2Proof.Machine
open Sys2Proof

/-- A row is an integer row. -/
def intRow (fmt : Nat) : Bool := decide (fmt = 0x01 ∨ fmt = 0x02)
/-- A row has a floating-point or MX format. -/
def floatRow (fmt : Nat) : Bool := decide (fmt = 0x12 ∨ fmt = 0x13 ∨ (0x18 ≤ fmt ∧ fmt ≤ 0x1C) ∨ (0x20 ≤ fmt ∧ fmt ≤ 0x24))
/-- The element's floating-point format. -/
def rowF (fmt : Nat) : FFmt := ffOfTyp (fmtInfo fmt).typ
/-- Words of a row (Table 02-7); 3 for `b8`, 0 for a format that has no rows (R258). -/
def rowWords (fmt : Nat) : Nat :=
  if fmt = 0 then 3 else if intRow fmt then 8 else if floatRow fmt then (rowF fmt).ebits + (rowF fmt).mbits + 3 else 0
/-- Significand planes of a row (Table 02-7). -/
def sigPlanes (fmt : Nat) : Nat := if intRow fmt then 8 else if floatRow fmt then (rowF fmt).mbits + 1 else 0
/-- The row's scale byte has the layout of Table 02-5. -/
def scale4 (fmt : Nat) : Bool := decide (fmt = 0x1C ∨ fmt = 0x24)
/-- The scale byte of a plain row (R61). -/
def plainScale (fmt : Nat) : Nat := if scale4 fmt then 0x7C else 0x7F
/-- The format code of a tile operand's TYP (Table 09-1). -/
def tileFmt (t : BitVec 5) : Nat :=
  match t.toNat with
  | 0x01 => 0x01 | 0x02 => 0x02 | 0x0B => 0x12 | 0x0C => 0x13 | 0x0D => 0x18 | 0x0E => 0x19 | 0x0F => 0x1A | 0x10 => 0x1B
  | 0x11 => 0x1C | 0x12 => 0x20 | 0x13 => 0x21 | 0x14 => 0x22 | 0x15 => 0x23 | 0x16 => 0x24 | _ => 0
/-- Tiles of a tile group of a format (R262). -/
def groupTiles (fmt : Nat) : Nat := (32 * rowWords fmt + 255) / 256

/-- Bits of element `l` in `n` planes from plane `k`, the first the most significant. -/
def planeBits (row : List Word) (l k n : Nat) : Nat :=
  (natsFrom k n).foldl (fun v j => 2 * v + if (lget 0 row j).getLsbD l then 1 else 0) 0

/-- The code of element `l`: sign, exponent and fraction planes, or the integer planes (R62, R267). -/
def rowCode (fmt : Nat) (row : List Word) (l : Nat) : Nat :=
  if intRow fmt then planeBits row l 0 8
  else
    let f := rowF fmt
    planeBits row l 0 (1 + f.ebits) * 2 ^ f.mbits + planeBits row l (2 + f.ebits) f.mbits

/-- The top `n` of `w` bits of `g`, the rest zero (R81); all for `n` 0. -/
def keepTop (g w n : Nat) : Nat := if n = 0 ∨ w ≤ n then g else g / 2 ^ (w - n) * 2 ^ (w - n)

/-- The scale byte of a row (R61). -/
def rowScale (row : List Word) : Nat := (row.getLastD 0).toNat % 256

/-- The value of element `l` of a row as the matrix engine reads it, with the first `prec` significand planes (R62,
R81). -/
def rowVal (fmt : Nat) (row : List Word) (prec l : Nat) : Val :=
  if intRow fmt then intVal (readInt (decide (fmt = 0x02)) 8 (keepTop (planeBits row l 0 8) 8 prec))
  else
    let f := rowF fmt
    let b := rowScale row
    match scaleExp (if scale4 fmt then 0x24 else 0x20) b with
    | none => .nan
    | some k =>
      let code := rowCode fmt row l
      let v : Val := match f.read code with
        | .nan => Val.nan
        | .inf neg => Val.inf neg
        | .fin neg _ _ =>
          if scale4 fmt ∧ code = 8 then eftVal (b % 4) code
          else
            let g := keepTop (planeBits row l (1 + f.ebits) (f.mbits + 1)) (f.mbits + 1) prec
            .fin neg g (max (planeBits row l 1 f.ebits : Int) 1 - f.bias - f.mbits)
      v.scale k

/-- Every value of a row. -/
def rowVals (fmt : Nat) (row : List Word) (prec : Nat) : List Val := allLanes.map (rowVal fmt row prec)

/-- Bit `i` of each code, as a plane. -/
def planeOf (codes : List Nat) (i : Nat) : Word :=
  codes.zipIdx.foldl (fun (w : Word) (x : Nat × Nat) => setLane w x.2 (bit x.1 i)) 0

/-- The canonical row of element codes under a scale byte, the implicit plane derived from the codes (R60, R61). -/
def rowOfCodes (fmt : Nat) (codes : List Nat) (scale : Nat) : List Word :=
  if intRow fmt then (natsFrom 0 8).map (fun k => planeOf codes (7 - k))
  else
    let f := rowF fmt
    let top := (natsFrom 0 (1 + f.ebits)).map (fun k => planeOf codes (f.ebits + f.mbits - k))
    let imp := codes.map (fun c => if bits c (f.ebits + f.mbits - 1) f.mbits = 0 then 0 else 1)
    let frac := (natsFrom 0 f.mbits).map (fun k => planeOf codes (f.mbits - 1 - k))
    top ++ [planeOf imp 0] ++ frac ++ [BitVec.ofNat 32 (scale % 256)]

/-! ### The quantiser (R75 to R77) -/

/-- The magnitude of a value. -/
def Val.mag : Val → Val
  | .fin _ m e => .fin false m e
  | .inf _ => .inf false
  | .nan => .nan
/-- The value's sign is negative. -/
def Val.isNeg : Val → Bool
  | .fin n _ _ => n
  | .inf n => n
  | .nan => false
/-- A finite value is zero. -/
def Val.isZero : Val → Bool
  | .fin _ m _ => decide (m = 0)
  | _ => false
/-- `floor(log2)` of a finite non-zero value's magnitude. -/
def Val.log2 : Val → Int
  | .fin _ m e => (Nat.log2 m : Int) + e
  | _ => 0
/-- The distance of two magnitudes, in units that the list's least exponent gives. -/
def Val.dist (lo : Int) (a b : Val) : Nat :=
  match a, b with
  | .fin _ m e, .fin _ m' e' => ((m * 2 ^ (e - lo).toNat : Nat) - (m' * 2 ^ (e' - lo).toNat : Nat) : Int).natAbs
  | _, _ => 0

/-- The nearest of candidate magnitudes with codes; a tie goes to the code with bit 0 clear, then to the smaller
magnitude (R77). -/
def nearest (lo : Int) (v : Val) : List (Nat × Val) → Nat × Val → Nat
  | [], best => best.1
  | c :: cs, best =>
    let d := c.2.dist lo v
    let e := best.2.dist lo v
    let better := decide (d < e) || (decide (d = e) &&
      ((decide (c.1 % 2 = 0) && decide (best.1 % 2 = 1)) ||
        (decide (c.1 % 2 = 0) && decide (best.1 % 2 = 0) && decide (c.2.order best.2 = -1))))
    nearest lo v cs (if better then c else best)

/-- A scaled value's `mx4` code under an eft selector (R77). -/
def mx4Code (eft : Nat) (v : Val) : Nat :=
  match v with
  | .fin neg m e =>
    if m = 0 then (if neg ∧ eft = 0 then 8 else 0)
    else
      let plain := (natsFrom 1 7).map (fun k => ((if neg then 8 + k else k), (e2m1F.read k)))
      let zero : Nat × Val := (if neg ∧ eft = 0 then 8 else 0, .fin false 0 (-1))
      let extra : List (Nat × Val) :=
        if (eft = 1 ∧ !neg) ∨ (eft = 2 ∧ neg) then [(8, .fin false 8 0)]
        else if eft = 3 ∧ !neg then [(8, .fin false 1 (-2))] else []
      nearest (min e (-2)) (.fin false m e) (plain ++ extra) zero
  | _ => 0

/-- The eft selector of the scaled values of a row (R77). -/
def eftOf (vs : List Val) : Nat :=
  let best := vs.foldl (fun (b : Val) v => if b.mag.order v.mag = -1 then v else b) (.fin false 0 0)
  if best.mag.order (.fin false 7 0) ≠ -1 then (if best.isNeg then 2 else 1)
  else if vs.any (fun v => decide (v.mag.order (.fin false 1 (-3)) ≠ -1) && decide (v.mag.order (.fin false 3 (-3)) = -1)) then 3
  else 0

/-- A row contracted to an MX format: its scale byte and element codes (R76). -/
def quantMx (fmt : Nat) (vs : List Val) : Nat × List Nat :=
  let f := rowF fmt
  let four := decide (fmt = 0x24)
  if vs.any (fun v => match v with | .fin _ _ _ => false | _ => true) then (if four then 0xFC else 0xFF, vs.map (fun _ => 0))
  else if vs.all Val.isZero then (if four then 0x7C else 0x7F, vs.map (fun v => f.signed v.isNeg 0))
  else
    let top := (vs.filter (fun v => !v.isZero)).foldl (fun (n : Int) v => max n v.log2) (-5000)
    let lim : Int := if four then 31 else 127
    let x := max (-lim) (min lim (top - f.emax))
    let sc := vs.map (Val.scale (-x))
    if four then
      let eft := eftOf sc
      ((x + 31).toNat * 4 + eft, sc.map (mx4Code eft))
    else ((x + 127).toNat, sc.map (f.convert 0 true))

/-! ### Table 09-4 -/

/-- What a tile copy does to a row. -/
inductive Conv where
  | raw | same | convert | quantise
deriving DecidableEq, Repr

/-- The conversion between memory format `f` and handle format `h`; none where Table 09-4 lists none. -/
def copyConv (f h : Nat) (out : Bool) : Option Conv :=
  if h = 0 ∨ f = 0 then (if h = f then some .raw else none)
  else if f = h then some .same
  else if !floatRow h then none
  else if !out then
    (if (f = 0x11 ∨ f = 0x12 ∨ f = 0x13) ∧ h < 0x20 then some .quantise else none)
  else
    let k := (fmtInfo f).kind
    if k ≠ 2 ∧ k ≠ 3 then none
    else if k = 2 ∧ (f = 0x11 ∨ (fmtInfo h).width < (fmtInfo f).width) then some .convert
    else some .quantise

/-- The codes and scale byte that a tile copy out of a handle row writes in memory format `f` (R271). -/
def copyOut (f h : Nat) (k : Conv) (row : List Word) : Nat × List Nat :=
  match k with
  | .raw => (0, [])
  | .same => (rowScale row, allLanes.map (rowCode h row))
  | .convert => (0, (rowVals h row 0).map ((rowF f).convert 0 false))
  | .quantise => if (fmtInfo f).kind = 3 then quantMx f (rowVals h row 0) else (0, (rowVals h row 0).map ((rowF f).convert 0 true))

/-- The handle row that a tile copy in writes from the units of its elements: the unit's value and the element's bit
offset, for each element (R270). -/
def copyIn (f h : Nat) (k : Conv) (us : List (Nat × Nat)) : List Word :=
  match k with
  | .raw => (natsFrom 0 3).map (fun w => BitVec.ofNat 32 (ofLeBytes ((natsFrom 0 4).map (fun j => BitVec.ofNat 8 ((lget (0, 0) us (4 * w + j)).1)))))
  | .same => rowOfCodes h (us.map (fun u => bits u.1 (u.2 + (fmtInfo f).width - 1) u.2))
      (if (fmtInfo f).kind = 3 then (lget (0, 0) us 0).1 % 256 else plainScale h)
  | _ => rowOfCodes h (us.map (fun u => (rowF h).convert 0 true (unitVal f u.1 u.2))) (plainScale h)

/-! ### The matrix sums (R263, R266, R79) -/

/-- One element of D: the exact sum of `c` and the products, rounded once. -/
def mmaElem (fzo : Bool) (c : Word) (ps : List Val) : Word :=
  BitVec.ofNat 32 (fp32F.flush fzo (fp32F.deliver 0 false (exactSum 0 (fp32F.read c.toNat :: ps))))

/-- Products along k of a row of A and a column of B. -/
def products (a b : List Val) : List Val := (a.zip b).map (fun x => x.1.mul x.2)

/-- The position that stored element `l` of a row stands for (R266): `n` elements of each group of 8, metadata words `m`. -/
def sparsePos (n : Nat) (m : List Word) (l : Nat) : Nat :=
  8 * (l / n) + (natsFrom 0 3).foldl (fun k b => k + if (lget 0 m b).getLsbD l then 2 ^ b else 0) 0

/-- D from C, the rows of A, and the rows of the transposed B (R263). -/
def mmaDense (fzo : Bool) (c : Nat → Nat → Word) (a b : List (List Val)) : List (Nat × Word) :=
  allLanes.flatMap (fun i => allLanes.map (fun n => (32 * i + n, mmaElem fzo (c i n) (products (lget [] a i) (lget [] b n)))))

/-- D from D, the rows of compressed A, the blocks of B and the metadata words of each row (R266). -/
def mmaSparse (fzo : Bool) (n : Nat) (c : Nat → Nat → Word) (a : List (List Val)) (bs : List (List (List Val)))
    (m : Nat → List Word) : List (Nat × Word) :=
  allLanes.flatMap (fun i =>
    let pos := allLanes.map (sparsePos n (m i))
    allLanes.map (fun k =>
      let b := pos.map (fun p => lget .nan (lget [] (lget [] bs (p / 32)) k) (p % 32))
      (32 * i + k, mmaElem fzo (c i k) (products (lget [] a i) b))))

end Sys2Proof.Machine
end

