-- ==== Sys2Proof/Machine/Ops.lean ====
section
/-! DEFINITION. The operations shared by the meanings: a crew in its group, the virtual accesses of the hardware to a
context's memory, the checks of steps 3 and 7 of Table 03-10, the interlock, taking a trap and leaving a handler's
frame, and issuing one instruction (R108, R109, R134, R418 to R425). -/
namespace Sys2Proof.Machine
open Sys2Proof

/-- The crew of a unit; 32 is the access slice. -/
def Group.unit (g : Group) (u : Nat) : Crew := if u = 32 then g.slice else lget g.slice g.crews u
/-- Puts the crew of a unit back. -/
def Group.setUnit (g : Group) (u : Nat) (c : Crew) : Group :=
  if u = 32 then { g with slice := c } else { g with crews := lset g.crews u c }
/-- The unit exists. -/
def Group.hasUnit (g : Group) (u : Nat) : Bool := decide (u = 32) || decide (u < g.crews.length)
/-- Puts a unit's crew into the state. -/
def State.setUnit (s : State) (g : Group) (u : Nat) (c : Crew) : State := s.setGroup (g.setUnit u c)
/-- Changes a group, if it exists. -/
def State.onGroup (s : State) (gid : Nat) (f : Group → Group) : State :=
  match s.group? gid with
  | some g => s.setGroup (f g)
  | none => s

/-! ### Accesses of the hardware on a group's behalf -/

/-- Translates `n` consecutive bytes for a core's access through a private pointer of global space. -/
def State.vaBytes (s : State) (v : View) (core ctx : Nat) (need : Need) : Nat → Nat → Except XFault (List XByte)
  | _, 0 => .ok []
  | va, n + 1 =>
    match s.xbyte v core ctx va need 0 0 with
    | .error f => .error f
    | .ok (b, _) =>
      match s.vaBytes v core ctx need (va + 1) n with
      | .error f => .error f
      | .ok bs => .ok (b :: bs)

/-- Stores bytes as a group's core does through a private pointer, at their destinations (R424). -/
def State.storeAll (s : State) (g : Group) (xs : List (XByte × Byte)) : State :=
  (byteLines xs).foldl (fun (t : State) y => t.putRun g (policyOf 0 y.1.share y.1.edge) y.1.share y.1.repl y.1.pa y.2) s

/-- Writes bytes at a virtual address as the core of a group does; a write may meet an uncorrectable error (R424). -/
def State.putVirtual (s : State) (g : Group) (va : Nat) (bs : List Byte) : Except XFault State :=
  match s.vaBytes (s.viewOf g) g.loc.flat g.ctx 1 va bs.length with
  | .error f => .error f
  | .ok xs => if s.upsets.contains s.free then .error { cause := 0x21, detail := 0 } else .ok (s.storeAll g (xs.zip bs))

/-- Reads one translated byte as a group's core does through a private pointer; of a replicated page from its die's replica, behind its own
stores. -/
def State.loadByte (s : State) (g : Group) (b : XByte) : Option (State × Byte) :=
  let v := s.viewOf g
  let a := b.pa % 2 ^ 45
  let own := if b.repl = 0 then none else s.ownReplByte g.id g.loc.die a
  match own with
  | some x => some (s, x)
  | none =>
    (s.coreReadUnit v g.loc.flat (policyOf 0 b.share b.edge) (if b.repl = 0 then a else replAddr s v g.loc.die b.repl false a) 1).map
      (fun y => (y.1, y.2.headD 0))

/-- Reads translated bytes as a group's core does. -/
def State.loadAll (s : State) (g : Group) : List XByte → Option (State × List Byte)
  | [] => some (s, [])
  | b :: r =>
    match s.loadByte g b with
    | none => none
    | some (s1, x) =>
      match s1.loadAll g r with
      | none => none
      | some (s2, xs) => some (s2, x :: xs)

/-- Reads bytes at a virtual address as the core of a group does. -/
def State.getVirtual (s : State) (g : Group) (va n : Nat) : Except XFault (State × List Byte) :=
  match s.vaBytes (s.viewOf g) g.loc.flat g.ctx 0 va n with
  | .error f => .error f
  | .ok xs =>
    match s.loadAll g xs with
    | none => .error { cause := 0x21, detail := 0 }
    | some r => .ok r

/-! ### The checks of steps 3, 5 to 7 that read the issuing unit (R95, R108, R109) -/

/-- A register list is out of the declared count, misaligned, or holds a parked register (R22, R24, R25). -/
def vectorBad (g : Group) (c : Crew) (k n : Nat) : Bool :=
  decide (k % n ≠ 0) ||
    (natsFrom k n).any (fun j => (decide (j ≠ 255) && decide (g.desc.nv ≤ j)) || c.parks.any (fun p => p.2.reg = j))

/-- The same for uniform registers, of the crew or of the access slice. -/
def uniformBad (g : Group) (access : Bool) (k n : Nat) : Bool :=
  decide (k % n ≠ 0) ||
    (natsFrom k n).any (fun j => decide (j ≠ 63) && decide ((if access then g.desc.nsa else g.desc.ns) ≤ j))

/-- The declared depth of queue `k`; back queues count from 8 (R29). -/
def Group.queueDepth (g : Group) (k : Nat) : Nat :=
  if k < 8 then (lget ⟨0, 0⟩ g.desc.fq k).depth else (lget ⟨0, 0⟩ g.desc.bq (k - 8)).depth

/-- Step 7 for one operand field. -/
def Role.bad7 (r : Role) (g : Group) (c : Crew) (access : Bool) (v : Nat) (u : Bool) : Bool :=
  match r with
  | .src n => if access || u then uniformBad g access v n else vectorBad g c v n
  | .dst n => if access then uniformBad g access v n else vectorBad g c v n
  | .vec n => if access then uniformBad g access v n else vectorBad g c v n
  | .uni n | .uniS n | .duni n => uniformBad g access v n
  | .tile => decide (g.desc.nt ≤ v)
  | .acc => decide (g.desc.na ≤ v)
  | .foreQueue | .backQueue => decide (g.queueDepth v = 0)
  | .barrier level => decide (level ≠ 0 ∧ g.desc.cores ≠ level)
  | .mmaA => decide (v < 0x10 ∧ g.desc.nt ≤ v)
  | _ => false

/-- Step 7 for a fill register of a cross-lane entry (R189). -/
def fillBad7 (r : Row) (w : Word) (g : Group) (c : Crew) : Bool :=
  match r.w2 with
  | .fill _ => decide (bits w.toNat 30 29 = 1) &&
      (if bit w.toNat 8 then uniformBad g false (bits w.toNat 7 0) 1 else vectorBad g c (bits w.toNat 7 0) 1)
  | _ => false

/-- Step 7 for the special registers (R36). -/
def specialBad7 (i : Instr) (c : Crew) (access : Bool) : Bool :=
  match i with
  | .mfsr f h =>
    let n := f.a.toNat
    (decide (n = 0) && decide (h.sub = 1)) || (access && [0x00, 0x01, 0x10, 0x13].contains n)
      || (decide (0x20 ≤ n ∧ n ≤ 0x24) && !c.hmode)
  | .mtsr f _ => !decide (0x20 ≤ f.d.toNat ∧ f.d.toNat ≤ 0x24) || !c.hmode
  | _ => false

/-- The destination of a slot or the sources of a slot break R22 or R25. -/
def slotBad7 (g : Group) (c : Crew) (p : PairSlot) : Bool :=
  vectorBad g c p.d.toNat 1 ||
    (match pairForm p.psub.toNat with
     | some (_, 1) => if p.f then uniformBad g false p.a.toNat 1 else vectorBad g c p.a.toNat 1
     | _ => vectorBad g c p.a.toNat 1 || (if p.f then uniformBad g false p.b.toNat 1 else vectorBad g c p.b.toNat 1))

/-- A tile or accumulator holds a parked row. -/
def Crew.parkedIn (c : Crew) (acc : Bool) (k : Nat) : Bool := c.parks.any (fun p => decide (p.2.acc = acc ∧ p.2.idx = k))

/-- A group of `n` tiles from `k` reaches beyond the declared count or holds a parked row (R262, R268). -/
def tilesBad (g : Group) (c : Crew) (k n : Nat) : Bool :=
  decide (g.desc.nt < k + n) || (natsFrom k n).any (c.parkedIn false)

/-- Step 7 for tile groups, parked rows and the slot table (R257, R262, R267, R268). -/
def matrixBad7 (i : Instr) (g : Group) (c : Crew) : Bool :=
  match i with
  | .mma f h => (decide (f.a.toNat < 16) && tilesBad g c f.a.toNat (groupTiles (tileFmt h.typ))) || c.parkedIn true f.d.toNat
      || c.parkedIn true h.c.toNat
  | .mmas f h => (decide (f.a.toNat < 16) && tilesBad g c f.a.toNat (groupTiles (tileFmt h.typ))) || c.parkedIn true f.d.toNat
  | .azero f => c.parkedIn true f.d.toNat
  | .amov f h => c.parkedIn true (if h.sub = 2 then f.d.toNat else f.a.toNat)
  | .tldv f h => tilesBad g c f.d.toNat (if h.typ = 0 then 1 else groupTiles (tileFmt h.typ))
  | .tstv f h => tilesBad g c f.a.toNat (if h.typ = 0 then 1 else groupTiles (tileFmt h.typ))
  | .park f h => (nfind? c.parks f.d.toNat).isSome ||
      c.parks.any (fun p => decide (p.2.acc = decide (h.sub = 1) ∧ p.2.idx = h.b.toNat ∧ p.2.row = h.c.toNat))
  | .unpark f _ => (nfind? c.parks f.d.toNat).isNone
  | _ => false

/-- The detail bits of the first failing check of Table 03-10 that reads the issuing unit: the step, and the slot. -/
def illegalDetail (i : Instr) (x : Ctx) (g : Group) (c : Crew) : Option Nat :=
  let r := x.row
  match i with
  | .pairWord s0 s1 =>
    if x.access then some 3
    else if slotBad7 g c s0 then some 7
    else if slotBad7 g c s1 then some (7 + 16)
    else if !pairLegal s0 s1 then some 8
    else none
  | _ =>
    if (x.access && (!r.acc || accessBad r x.fl)) || (!x.access && !r.crew) || (r.hand && !c.hmode) then some 3
    else if x.access && dotU r then some 5
    else if x.access && (match r.d with | .dst _ => decide (64 ≤ x.fl.f.d.toNat) | _ => false) then some 6
    else if r.d.bad7 g c x.access x.fl.f.d.toNat false || r.a.bad7 g c x.access x.fl.f.a.toNat x.fl.f.au
        || (decide (r.w2 ≠ .immB) && r.b.bad7 g c x.access x.fl.h.b.toNat x.fl.h.bu)
        || r.c.bad7 g c x.access x.fl.h.c.toNat x.fl.h.cu
        || fillBad7 r x.fl.w g c || specialBad7 i c x.access || matrixBad7 i g c then some 7
    else none

/-! ### The interlock (R421, R545) -/

/-- Registers: a class (0 vector, 1 uniform, 2 predicate) and a number. -/
abbrev RegName := Nat × Nat

/-- The registers that one operand names. -/
def Role.regs (r : Role) (access : Bool) (v : Nat) (u : Bool) : List RegName :=
  match r with
  | .src n | .vec n => (natsFrom v n).map (fun k => (if access || u then 1 else 0, k))
  | .dst n => (natsFrom v n).map (fun k => (if access then 1 else 0, k))
  | .uni n | .uniS n | .duni n => (natsFrom v n).map (fun k => (1, k))
  | .pred => [(2, v % 16)]
  | .npred => [(2, v % 16)]
  | _ => []

/-- Every register an instruction reads or writes, its guard with them. -/
def touched (i : Instr) (x : Ctx) : List RegName :=
  let r := x.row
  let guard : List RegName := [(2, x.fl.f.gp.toNat)]
  match i with
  | .pairWord s0 s1 =>
    [s0, s1].flatMap (fun p => [((0 : Nat), p.d.toNat), (0, p.a.toNat), (1, p.a.toNat), (0, p.b.toNat), (1, p.b.toNat)])
  | .p2v _ | .p2v8 _ _ | .v2p _ _ =>
    guard ++ (natsFrom 0 15).map (fun k => (2, k)) ++ r.d.regs x.access x.fl.f.d.toNat false
      ++ r.a.regs x.access x.fl.f.a.toNat x.fl.f.au ++ r.b.regs x.access x.fl.h.b.toNat x.fl.h.bu
  | .iaddc _ h | .iaddc12 _ h _ | .isubc _ h | .isubc12 _ h _ | .imadw _ h | .imadw12 _ h _ =>
    guard ++ [(2, h.sub.toNat)] ++ r.d.regs x.access x.fl.f.d.toNat false ++ r.a.regs x.access x.fl.f.a.toNat x.fl.f.au
      ++ r.b.regs x.access x.fl.h.b.toNat x.fl.h.bu ++ r.c.regs x.access x.fl.h.c.toNat x.fl.h.cu
  | _ =>
    guard ++ r.d.regs x.access x.fl.f.d.toNat false ++ r.a.regs x.access x.fl.f.a.toNat x.fl.f.au
      ++ r.b.regs x.access x.fl.h.b.toNat x.fl.h.bu ++ r.c.regs x.access x.fl.h.c.toNat x.fl.h.cu
      ++ (match r.w2 with
          | .fill _ => if bits x.fl.w.toNat 30 29 = 1 then [(if bit x.fl.w.toNat 8 then 1 else 0, bits x.fl.w.toNat 7 0)] else []
          | _ => [])

/-- Registers that a result of type code `t` takes: two for 64 bits. -/
def destCount (t : BitVec 5) : Nat := if t = 7 ∨ t = 8 ∨ t = 9 then 2 else 1

/-- The registers that accesses under way of a unit will write. -/
def Group.pending (g : Group) (u : Nat) : List RegName :=
  (g.flights.filter (fun f => decide (f.unit = u) && (decide (f.kind = .load) || decide (f.kind = .atomic)))).flatMap (fun f =>
    (natsFrom f.d (destCount f.typ)).map (fun k => (if u = 32 then 1 else 0, k)) ++
      (if f.kind = .atomic && decide (f.aux < 15) then [(2, f.aux)] else []))

/-- The instruction touches a register that an access under way will write: it waits. -/
def interlocked (i : Instr) (x : Ctx) (g : Group) : Bool :=
  match g.pending x.unit with
  | [] => false
  | p => (touched i x).any (fun r => p.contains r && !(decide (r = (0, 255))) && !(decide (r = (1, 63))) && !(decide (r = (2, 15))))

/-! ### Taking a trap (R418 to R424) -/

/-- A crew stops at its instruction boundary: arrivals and waits that do not count yet are withdrawn; pass records and
counted barrier waits stay (R418 step 1). -/
def Crew.stop (c : Crew) : Crew :=
  let lanes := c.wait.foldl (fun (d : Crew) (x : Nat × LaneWait) =>
    match x.2 with
    | .asleep _ a => (d.setPc x.1 a).setWait x.1 .ready
    | .arrived _ => d.setWait x.1 .ready
    | .held a => (d.setPc x.1 a).setWait x.1 .ready
    | .ready => d
    | .counted _ _ _ _ => d) c
  -- an operation that does not count yet is met again by the lanes that had passed it (R197)
  let kept := match c.pendBar with
    | none => lanes.pass
    | some p => (allLanes.filter (fun l => !p.lanes.getLsbD l && !c.out l && (nfind? c.pass l).isNone)).foldl (fun m l => ninsert m l (p.addr + 2 ^ 57)) lanes.pass
  { lanes with pendBar := none, stall := none, hungry := [], waitCp := 0, pass := kept }

/-- Accesses that a stop awaits (R418 step 2). -/
def Flight.awaited (f : Flight) : Bool :=
  match f.kind with
  | .load | .atomic | .qload | .icinv => true
  | _ => false

/-- The record of Table 15-3 as bytes. -/
def LogRec.bytes (r : LogRec) (crew : Nat) : List Byte :=
  leBytes 64 (r.addr + r.typ.toNat * 2 ^ 71 + r.d * 2 ^ 76 + crew * 2 ^ 84 + (if r.replay then 2 ^ 89 else 0) +
      (if r.valid then 2 ^ 90 else 0) + r.fcode * 2 ^ 91 + (if r.sat then 2 ^ 99 else 0) +
      ((r.accs.map (fun a => a.fmt)).headD 0) * 2 ^ 100 + r.mask.toNat * 2 ^ 192) ++
    allLanes.flatMap (fun l => leBytes 8 (match r.accs.find? (fun a => a.lane = l) with
      | some a => a.va
      | none => 0))

/-- The record of Table 12-3 as bytes. -/
def QRec.bytes (r : QRec) : List Byte :=
  leBytes 64 (r.addr + r.ptr.toNat * 2 ^ 64 + r.index.toNat * 2 ^ 192 + r.cstride.toNat * 2 ^ 224 + r.lstride.toNat * 2 ^ 256 +
    r.crews.toNat * 2 ^ 288 + r.fcode * 2 ^ 330 + (if r.clip then 2 ^ 339 else 0) + r.queue * 2 ^ 340 +
    (if r.replay then 2 ^ 343 else 0))

/-- The header of Table 15-7: KIND, size, offsets, and the trap's unit and cause. -/
def headerBytes (g : Group) (kind size cause unit : Nat) (pend gang : Bool) (offs : List Nat) : List Byte :=
  leBytes 192 (Config.revision + kind * 2 ^ 16 + size * 2 ^ 32 + g.desc.addr * 2 ^ 128 + g.crews.length * 2 ^ 256 +
    g.launchId.toNat * 2 ^ 352 + (g.gid.1 + g.gid.2.1 * 2 ^ 32 + g.gid.2.2 * 2 ^ 48) * 2 ^ 448 + g.pos.anchor * 2 ^ 531 +
    cause * 2 ^ 560 + unit * 2 ^ 568 + (if gang then 2 ^ 576 else 0) + (if g.committed then 2 ^ 577 else 0) +
    (if pend then 2 ^ 578 else 0) + g.retired % 2 ^ 64 * 2 ^ 640 +
    (offs.zipIdx.foldl (fun n (o : Nat × Nat) => n + o.1 * 2 ^ (800 + 32 * o.2)) 0))

/-- The log record that answers for a poisoned entry of queue `k` in crew `u`: the first that names the crew (R251). -/
def Group.qlogFor (g : Group) (k u : Nat) : Option QRec := g.slice.qlog.find? (fun r => decide (r.queue = k) && r.crews.getLsbD u)

/-- The trap frame of Table 15-5. -/
def frameBytes (g : Group) (u : Nat) (t : Trap) (pend : Bool) : List Byte :=
  let c := g.unit u
  -- a crew that popped a poisoned entry finds log record k behind its own records (R251; DESIGN CHOICE, log entry 76)
  let popped := if t.cause = 0x11 ∧ t.detail < 2 ^ 11 then ((g.qlogFor (t.detail % 8) u).map QRec.bytes).getD [] else []
  let logs := if u = 32 then c.qlog.flatMap QRec.bytes else c.log.flatMap (fun r => r.bytes u) ++ popped
  let count := if u = 32 then c.qlog.length else c.log.length
  let vecs := if u = 32 then List.replicate 1024 0
    else (natsFrom 0 8).flatMap (fun k => allLanes.flatMap (fun l => leBytes 4 (c.vget k l).toNat))
  let unis := (natsFrom 0 8).flatMap (fun k => leBytes 4 (c.sget k).toNat)
  let pad := List.replicate 32 (0 : Byte)
  let preds := if u = 32 then
      leBytes 4 ((natsFrom 0 16).foldl (fun n k => n + (if predAt c k 0 then 2 ^ k else 0)) 0) ++ List.replicate 60 0
    else (natsFrom 0 16).flatMap (fun k => leBytes 4 (c.pget k).toNat)
  let pcs := if u = 32 then leBytes 8 (c.pcOf 0) ++ List.replicate 248 0 else allLanes.flatMap (fun l => leBytes 8 (c.pcOf l))
  headerBytes g 1 (0x680 + logs.length) t.cause u pend false [] ++ vecs ++ unis ++ pad ++ preds ++ pcs ++
    leBytes 64 count ++ logs

/-- Slot geometry of a context (Table 15-4): base, size in bytes, number. -/
def State.slotBase (s : State) (ctx : Nat) : Nat := bits (s.ctxReg ctx 0x30) 56 12 * 4096
def State.slotSize (s : State) (ctx : Nat) : Nat := bits (s.ctxReg ctx 0x38) 23 12 * 4096
def State.slotCount (s : State) (ctx : Nat) : Nat := bits (s.ctxReg ctx 0x38) 11 0
/-- The lowest free slot of a context (R433). -/
def State.freeSlot (s : State) (ctx : Nat) : Option Nat :=
  (natsFrom 0 (s.slotCount ctx)).find? (fun k => !s.slots.any (fun x => x.ctx = ctx ∧ x.slot = k))

/-- The pointer to a slot that a handler receives (R424): global, private, package scope, `b8`. -/
def slotPointer (base len : Nat) (pos : Pos) : Nat :=
  2 ^ 127 + pos.core * 2 ^ 121 + pos.cluster * 2 ^ 117 + pos.die * 2 ^ 114 + 3 * 2 ^ 108 + len * 2 ^ 57 + base

/-- The group ends as stopped by a trap, and system software is told (R420, Table 18-6 type 0x05). -/
def State.endByTrap (s : State) (g : Group) (t : Trap) (second : Nat) : State :=
  (s.event g.part (EventInfo.ofGroup g 0x05 4 t.cause second t.addr)).endGroup g.id 1

/-- A unit's trap registers describe a trap (R417). -/
def Crew.reports (c : Crew) (t : Trap) : Crew :=
  { c with tcause := BitVec.ofNat 32 (t.cause + t.lane * 256 + t.detail * 8192), tfirst := t.first, tfaddr := t.addr }

/-- The crew as its handler finds it (R424 steps 2 to 5). -/
def enterCrew (g : Group) (u : Nat) (t : Trap) (entry slot base len : Nat) : Crew :=
  let c := g.unit u
  let p := slotPointer base len g.pos
  let c1 := c.setPcs ((if u = 32 then [0] else allLanes).filter (fun l => !c.out l)) entry
  let c2 := ((((c1.sset 4 (BitVec.ofNat 32 p)).sset 5 (BitVec.ofNat 32 (p / 2 ^ 32))).sset 6 (BitVec.ofNat 32 (p / 2 ^ 64))).sset 7
    (BitVec.ofNat 32 (p / 2 ^ 96))).sset 0 (BitVec.ofNat 32 slot)
  { c2.reports t with hmode := true, aside := c2.wait, wait := [] }

/-- The address of a unit's handler, 0 for none (Table 15-4). -/
def State.handlerAt (s : State) (ctx u : Nat) : Nat := bits (s.ctxReg ctx (if u = 32 then 0x20 else 0x18)) 56 2 * 4

/-- The handler of a stopped group is entered: slot, frame, handler address, handler mode (R424); or the group ends
(R420). -/
def State.enterHandler (s : State) (g : Group) (u : Nat) (t : Trap) : State :=
  let entry := t.entry.getD (s.handlerAt g.ctx u)
  if entry = 0 then s.endByTrap g t 0
  else
    match (match g.slot with | some k => some k | none => s.freeSlot g.ctx) with
    | none => s.endByTrap g t 0
    | some k =>
      let base := s.slotBase g.ctx + k * s.slotSize g.ctx
      let bs := frameBytes g u t (!g.pend.isEmpty)
      if s.slotSize g.ctx < bs.length then s.endByTrap g t 0
      else
        match s.putVirtual g base bs with
        | .error f => s.endByTrap g t f.cause
        | .ok s1 =>
          let g1 := { g.setUnit u (enterCrew g u t entry k base (s.slotSize g.ctx)) with phase := .handler u t, slot := some k }
          let s2 := s1.setGroup g1
          if s2.slots.any (fun x => x.ctx = g.ctx ∧ x.slot = k) then s2
          else { s2 with slots := s2.slots ++ [{ ctx := g.ctx, slot := k, gid := g.id }] }

/-- Of a unit's traps, its oldest fault record's, else the first (R419). -/
def oldestOf (u : Nat) (l : List (Nat × Trap)) : Option (Nat × Trap) :=
  let mine := l.filter (fun x => x.1 = u)
  match mine.find? (fun x => x.2.seq = 0) with
  | some x => some x
  | none => mine.foldl (fun (m : Option (Nat × Trap)) x => match m with
    | none => some x
    | some y => if x.2.seq < y.2.seq then some x else m) none

/-- A stopping group whose awaited accesses have all returned enters the handler (R418). -/
def State.settleStop (s : State) (gid : Nat) : State :=
  match s.group? gid with
  | none => s
  | some g =>
    match g.phase with
    | .stopping u t =>
      if g.flights.any Flight.awaited then s
      else
        -- of several fault records of the trapping crew, the oldest is reported first
        match (if t.seq = 0 then none else oldestOf u ((u, t) :: g.pend.filter (fun x => x.2.seq ≠ 0))) with
        | some x =>
          if x.2.seq < t.seq then
            s.enterHandler ({ g with pend := (u, t) :: g.pend.erase x }.setUnit u ((g.unit u).reports x.2)) u x.2
          else s.enterHandler g u t
        | none => s.enterHandler g u t
    | _ => s

/-- TAKING A TRAP (R301, R418 to R424). The cause stops the whole group, whose units are left at their instruction
boundaries; once every access sent has returned, a slot is taken, the trap frame written and the handler of the
trapping unit entered. A trap in a handler ends the group; one found while another is handled is held pending. Detected
errors go to containment (R420). -/
def State.raise (s : State) (gid u : Nat) (t : Trap) : State :=
  match s.group? gid with
  | none => s
  | some g =>
    if t.cause = 0x20 ∨ t.cause = 0x21 then (s.setUnit g u ((g.unit u).reports t)).contain gid t.cause else
    let t := { t with entry := some (s.handlerAt g.ctx u) }
    match g.phase with
    | .handler w t0 => if w = u then s.endByTrap g t0 t.cause
        else s.setGroup { g with pend := g.pend ++ [(u, t)] }
    | .stopping _ _ => s.setGroup { g with pend := g.pend ++ [(u, t)] }
    | .saving _ | .saved _ | .ended _ => s
    | .live | .drain _ =>
      let limit := match g.phase with
        | .drain n => some n
        | _ => none
      let g0 := g.setUnit u ((g.unit u).reports t)
      let g1 := { g0 with crews := g0.crews.map Crew.stop, slice := g0.slice.stop, phase := .stopping u t, drainTo := limit }
      (s.setGroup g1).settleStop gid

/-! ### Issuing one instruction -/

/-- What an instruction does: it takes effect, raises a trap with no effect, traps after its effect (`TRAP`, `BKPT`), or
is left not begun. -/
inductive Res where
  | done (s : State)
  | trap (t : Trap)
  | trapAfter (s : State) (t : Trap)
  | stall (w : Stall)
  /-- It is left not begun while misses of its core's TLB are sent (R380). -/
  | miss (es : List Ev)
  /-- An error charged to the group: it goes to containment, not to a handler (R163, R495). -/
  | error (cause : Nat)

/-- The lowest lane of a mask; 0 of an empty one. -/
def lowest (m : Word) : Nat := (lanesOf m).headD 0

/-- The context of an issue. -/
def mkCtx (i : Instr) (u : Issue) (c : Crew) : Ctx :=
  { gid := u.gid, unit := u.unit, access := decide (u.unit = 32), issued := u.lanes
    act := guardMask c (fieldsOf i).f u.lanes, addr := u.addr, ilen := u.ilen, fl := fieldsOf i, row := rowOf i }

/-- The trap of an instruction at its own address, with a lane, detail and faulting address (R42, R109). -/
def Ctx.trapOf (x : Ctx) (cause lane detail addr : Nat) : Trap :=
  { cause := cause, lane := lane, detail := detail, addr := addr % 2 ^ 57, first := x.addr }

/-- The exemption from a watch after an instruction issues: used by this execution when it is its own (bit 57 of the address
is then set), spent by the next (R425). -/
def Ctx.exempt (x : Ctx) (e : Option (Nat × Word)) : Option (Nat × Word) :=
  match e with
  | none => none
  | some (a, m) =>
    if a = x.addr ∧ m &&& x.issued ≠ 0 then some (a + 2 ^ 57, m) else if 2 ^ 57 ≤ a then none else some (a, m)

/-- The crew with the lanes issued moved past the instruction and nothing noted against it. -/
def Ctx.advance (x : Ctx) (c : Crew) : Crew :=
  { c.setPcs (lanesOf x.issued) (x.addr + x.ilen) with
    stall := none, hungry := c.hungry.filter (fun y => !x.issued.getLsbD y.1), waitCp := c.waitCp &&& ~~~ x.issued, age := 0, unwatched := x.exempt c.unwatched, yielded := false
    readySince := nerase c.readySince x.addr }

/-- A unit's instruction is left not begun; one that waits for transaction-table entries joins its core's waiters
(R416). -/
def State.noteStall (s : State) (x : Ctx) (w : Stall) : State :=
  match s.group? x.gid with
  | none => s
  | some g =>
    let c := g.unit x.unit
    let h := match w with
      | .popEmpty q => (lanesOf x.issued).foldl (fun m l => ninsert m l q) c.hungry
      | _ => c.hungry.filter (fun y => !x.issued.getLsbD y.1)
    let cp := match w with
      | .waitCp => c.waitCp ||| x.issued
      | _ => c.waitCp &&& ~~~ x.issued
    let s1 := s.setGroup (g.setUnit x.unit { c with stall := some w, hungry := h, waitCp := cp })
    match w with
    | .ott sync n =>
      let k := s1.core g.loc.flat
      if k.ottWait.any (fun y => y.gid = x.gid ∧ y.unit = x.unit) then s1
      else (s1.setCore g.loc.flat { k with
        ottWait := k.ottWait ++ [{ gid := x.gid, unit := x.unit, sync := sync, granted := false, n := n }] }).post
          (.ottEntryGrant g.loc.flat)
    | _ => s1

/-- The state after an instruction has taken effect in its group; containment and traps are settled elsewhere. -/
def State.finish (s : State) (x : Ctx) (r : Res) : Out :=
  match r with
  | .done t => .next t
  | .trap t => .next (s.raise x.gid x.unit t)
  | .trapAfter t w => .next (t.raise x.gid x.unit w)
  | .error c => .next (s.contain x.gid c)
  | .stall w => .next (s.noteStall x w)
  | .miss es => .next (es.foldl State.post (s.noteStall x .other))

/-- ISSUES one instruction: the checks of Table 03-10 that read the unit, the interlock, and then its effect `k`, which
is given the group and crew with the program counters of the lanes issued advanced and the instruction counted
(R108, R109, R134, R428). -/
def issue (i : Instr) (s : State) (k : Ctx → Group → Crew → State → Res) : Out :=
  match s.cur with
  | none => .fault .noIssueGroup
  | some u =>
    match s.group? u.gid with
    | none => .fault .noIssueGroup
    | some g =>
      let c := g.unit u.unit
      let x := mkCtx i u c
      match illegalDetail i x g c with
      | some d => s.finish x (.trap (x.trapOf 0x01 (lowest x.issued) d x.addr))
      | none =>
        if interlocked i x g then s.finish x (.stall .other)
        else if s.upsets.contains s.free then s.finish x (.error 0x20)
        else
          let c1 := x.advance c
          let g1 := { g.setUnit u.unit c1 with retired := g.retired + 1 }
          s.finish x (k x g1 c1 (s.setGroup g1))

/-- An instruction whose whole effect is on the registers and program counters of its unit. -/
def issueCrew (i : Instr) (s : State) (f : Ctx → Crew → Crew) : Out :=
  issue i s (fun x g c t => .done (t.setUnit g x.unit (f x c)))

/-- An instruction that writes D in each active lane. -/
def issueD (i : Instr) (s : State) (f : Ctx → Crew → Nat → Nat) : Out :=
  issueCrew i s (fun x c => x.eachD c (f x c))

end Sys2Proof.Machine
end

