-- ==== Sys2Proof/Machine/Access.lean ====
section
/-! DEFINITION. What every memory access shares: typed pointers and their checks, instruction fetch and pointer
literals, the scratchpad's cells, the block store buffer and its commit, the write-combining buffer, and the
transaction table (R39 to R45, R104, R210, R214 to R231, R373, R416). -/
namespace Sys2Proof.Machine
open Sys2Proof

/-- A typed pointer read as its fields (Table 01-7). -/
structure Ptr where
  valid : Bool
  resv : Nat
  anchor : Pos
  swz : Nat
  scope : Nat
  cls : Nat
  space : Nat
  fmt : Nat
  len : Nat
  base : Nat
deriving DecidableEq, Repr

/-- The fields of a 128-bit pointer. -/
def ptrOf (q : Nat) : Ptr :=
  { valid := bit q 127, resv := bits q 126 125, anchor := ⟨bits q 116 114, bits q 120 117, bits q 124 121⟩
    swz := bits q 113 111, scope := bits q 110 108, cls := bits q 107 106, space := bits q 105 103, fmt := bits q 102 97
    len := bits q 96 57, base := bits q 56 0 }

/-- The 128 bits of a pointer. -/
def Ptr.pack (p : Ptr) : Nat :=
  (if p.valid then 2 ^ 127 else 0) + p.resv * 2 ^ 125 + p.anchor.core * 2 ^ 121 + p.anchor.cluster * 2 ^ 117 +
    p.anchor.die * 2 ^ 114 + p.swz * 2 ^ 111 + p.scope * 2 ^ 108 + p.cls * 2 ^ 106 + p.space * 2 ^ 103 + p.fmt * 2 ^ 97 +
    p.len % 2 ^ 40 * 2 ^ 57 + p.base % 2 ^ 57

/-- Table 01-8. -/
def spaceAllows (space scope cls : Nat) : Bool :=
  match space with
  | 0 | 1 => decide (scope ≤ 4)
  | 2 => decide (scope = 0) && decide (cls ≤ 1)
  | 3 => decide (scope = 3) || decide (scope = 4)
  | 4 => decide (scope = 4)
  | 5 => decide (scope ≤ 4) && decide (cls = 1)
  | 6 => decide (scope = 0) && decide (cls = 0)
  | _ => false

/-- The form check of R42 fails. -/
def Ptr.formBad (p : Ptr) : Bool :=
  !p.valid || decide (p.resv ≠ 0) || decide (p.space = 7) || decide (p.cls = 3) || decide (5 ≤ p.scope)
    || (decide (p.swz ≠ 0) && decide (p.space ≠ 2)) || !fmtListed p.fmt || !spaceAllows p.space p.scope p.cls

/-- The issuer lies outside the pointer's ANCHOR at a scope (R42). -/
def Ptr.outside (p : Ptr) (pos : Pos) (scope : Nat) : Bool :=
  (decide (scope ≤ 2) && decide (pos.die ≠ p.anchor.die)) || (decide (scope ≤ 1) && decide (pos.cluster ≠ p.anchor.cluster))
    || (decide (scope = 0) && decide (pos.core ≠ p.anchor.core))

/-- What an access is to the checks of R42. -/
inductive Kind where
  | load | store | atomic | prefetch
deriving DecidableEq, Repr

/-- check_ptr (R42): the byte address of element `i`, or the cause and the faulting address. The scratchpad's and the
parameter block's own bounds are part of the bounds check (R129, R221). -/
def checkPtr (g : Group) (p : Ptr) (i n : Nat) (k : Kind) : Except (Nat × Nat) Nat :=
  let off := elemOffset p.fmt i
  let a := p.base + off
  let f := fmtInfo p.fmt
  if p.formBad then .error (0x08, p.base)
  else if p.outside g.pos p.scope then .error (0x0C, p.base)
  else if (decide (k = .store) || decide (k = .atomic)) && (decide (p.cls = 1) || decide (p.space = 5)) then .error (0x0B, a)
  else if p.len = 0 ∨ p.len < off + n ∨ 2 ^ 57 < a + n then .error (0x09, a)
  else if p.space = 2 ∧ g.desc.scr256 * 256 < a + n then .error (0x09, a)
  else if p.space = 5 ∧ g.paramLen < a + n then .error (0x09, a)
  else if (f.width = 6 ∧ f.kind = 2 ∧ p.base % 3 ≠ 0) ∨ (f.kind = 3 ∧ p.base % 192 ≠ 0) then .error (0x0A, p.base)
  else if 1 < f.bytes ∧ a % f.bytes ≠ 0 then .error (0x0A, a)
  else .ok a

/-! ### Instruction fetch (R104, R105, R210) -/

/-- Translates one byte for a fetch and reads it: from the core's instruction cache when it still holds the line, else
from the home; of a replicated page from the replica that the group's die reads (R383). -/
def State.fetchByte (s : State) (g : Group) (va : Nat) : Except XFault (Byte × Nat × Leaf) :=
  let v := s.viewOf g
  let c := g.loc.flat
  match s.xbyte v c g.ctx va 2 0 7 with
  | .error f => .error f
  | .ok (b, l) =>
    let a := if b.repl = 0 then b.pa % 2 ^ 45 else replAddr s v g.loc.die b.repl false (b.pa % 2 ^ 45)
    let here := match nfind? (s.core c).icache (a / 192) with
      | some bs => if Config.kept (s.free + a / 192) then some (lget 0 bs (a % 192)) else none
      | none => none
    match here with
    | some x => .ok (x, a / 192, l)
    | none =>
      match s.homeGet v a 1 with
      | none => .error { cause := 0x21, detail := 0 }
      | some bs => .ok (bs.headD 0, a / 192, l)

/-- The lowest address, of code from `start`, in the page or, for an uncorrectable error, the line that fails at `va` (R104). -/
def failAddr (start va : Nat) (f : XFault) : Nat :=
  if f.cause = 0x21 then (if start ≤ va then max start (va - va % 192) else va - va % 192) else va

/-- Fetches `n` bytes of the code that begins at `start`. -/
def State.fetchFrom (s : State) (g : Group) (start : Nat) : Nat → Nat → Except (XFault × Nat) (List (Byte × Nat × Leaf))
  | _, 0 => .ok []
  | va, n + 1 =>
    match s.fetchByte g va with
    | .error f => .error (f, failAddr start va f)
    | .ok x =>
      match s.fetchFrom g start ((va + 1) % 2 ^ 57) n with
      | .error e => .error e
      | .ok xs => .ok (x :: xs)

/-- Fetches `n` bytes of code: the bytes, lines and leaves, or the fault and the lowest failing address (R104). -/
def State.fetchCode (s : State) (g : Group) (va n : Nat) : Except (XFault × Nat) (List (Byte × Nat × Leaf)) := s.fetchFrom g va va n

/-- Lines of the 64 KiB instruction cache (Table 00-1). -/
def icacheLines : Nat := 341

/-- Puts a line into a core's instruction cache, by a read at its home, unless data of it is uncorrectable (R371). Of a full cache a line goes that a
free value names. -/
def State.icachePut (s : State) (v : View) (c line : Nat) : State :=
  let k := s.core c
  match nfind? k.icache line, (s.catchUp v line).homeRead v (line * 192) 192 with
  | none, some bs =>
    let room := if k.icache.length < icacheLines then k.icache else k.icache.eraseIdx ((Config.freeWord s.free).toNat % icacheLines)
    (s.setCore c { k with icache := ninsert room line bs }).l2Touch v line 0
  | _, _ => s

/-- Puts the lines that a fetch read into the instruction cache, and its leaves into the TLBs. -/
def State.noteFetch (s : State) (g : Group) (xs : List (Byte × Nat × Leaf)) : State :=
  xs.foldl (fun t x => (t.fillTlb g.loc.flat g.ctx x.2.2).icachePut (s.viewOf g) g.loc.flat x.2.1) s

/-! ### The scratchpad (R221, R373) -/

/-- Reverses six bits. -/
def bitrev6 (x : Nat) : Nat := (natsFrom 0 6).foldl (fun n i => n + (if bit x i then 2 ^ (5 - i) else 0)) 0

/-- The bank of word `w` under SWZ mode `m` (R373). -/
def swzBank (m w : Nat) : Nat :=
  if m = 0 then w % 64
  else if m = 7 then bitrev6 (w % 64) ^^^ (w / 64 % 64)
  else (w ^^^ (w >>> (5 + m))) % 64

/-- The cell byte of a scratchpad byte offset: its place in mode-0 order of the allocation. -/
def cellOf (m o : Nat) : Nat := (o / 4 / 64 * 64 + swzBank m (o / 4)) * 4 + o % 4

/-- Reads a cell byte; one never written by this group is a free value (R226). -/
def Group.cell (g : Group) (k : Nat) : Byte :=
  match nfind? g.scratch k with
  | some x => x
  | none => Config.scratchByte g.id k
/-- Writes a cell byte. -/
def Group.setCell (g : Group) (k : Nat) (x : Byte) : Group := { g with scratch := ninsert g.scratch k x }

/-- One write into every bound handle's region that the cells touch raises its GEN by one (R31). -/
def Group.bumpGen (g : Group) (cells : List Nat) : Group :=
  { g with handles := g.handles.map (fun (k, h) =>
      if h.bound && cells.any (fun c => decide (h.base ≤ c / 4 ∧ c / 4 < h.base + h.words)) then (k, { h with gen := h.gen + 1 })
      else (k, h)) }

/-! ### The block store buffer (R222 to R226) -/

/-- Sends the valid bytes of sectors that commit together to their destinations, in runs that no sector border cuts (R55, R220, R225, R308). -/
def State.commitSectors (s : State) (g : Group) (xs : List Sector) : State :=
  let all := xs.foldl (fun (m : NMap Byte) x => x.data.foldl (fun n (y : Nat × Byte) => ninsert n (x.addr + y.1) y.2) m) []
  (byteRuns all).foldl (fun (t : State) (y : Nat × List Byte) =>
    match xs.find? (fun x => x.addr = sectorOf y.1) with
    | some x => t.putRun g (policyOf 0 x.share x.edge) x.share x.repl y.1 y.2
    | none => t) s

/-- The sectors of a buffer that commit with those of a list: the rest of the same access units (R271). -/
def tiedTo : Nat → List Sector → List Sector → List Sector
  | 0, xs, _ => xs
  | n + 1, xs, r =>
    match r.find? (fun y => xs.any (fun x => x.tie.contains y.addr)) with
    | none => xs
    | some y => tiedTo n (xs ++ [y]) (r.filter (fun z => z.addr ≠ y.addr))

/-- Commits the oldest `n` sectors of a group's buffer, in the order they were taken, each with the sectors tied to it. -/
def State.commitOldest (s : State) : Nat → Nat → State
  | 0, _ => s
  | n + 1, gid =>
    match s.group? gid with
    | none => s
    | some g =>
      match g.bsb with
      | [] => s
      | x :: r =>
        let xs := tiedTo r.length [x] r
        let s1 := s.setGroup { g with bsb := r.filter (fun y => !xs.any (fun z => z.addr = y.addr)), committed := true }
        (s1.commitSectors g xs).commitOldest n gid

/-- COMMITS the whole buffer of a group (R225). -/
def State.commitAll (s : State) (gid : Nat) : State :=
  match s.group? gid with
  | none => s
  | some g => s.commitOldest g.bsb.length gid

/-- The sectors that `n` bytes from an address lie in. -/
def sectorsOf (pa n : Nat) : List Nat := (natsFrom 0 ((pa + n - 1 - sectorOf pa) / 48 + 1)).map (fun k => sectorOf pa + 48 * k)

/-- Commits the oldest sectors of a group's buffer until those of a list fit its allocation with the rest (R35, R222). -/
def State.bsbRoom (s : State) (gid : Nat) (bs : List Nat) : Nat → State
  | 0 => s
  | n + 1 =>
    match s.group? gid with
    | none => s
    | some g =>
      if g.bsb.length + (bs.filter (fun b => !g.bsb.any (fun y => y.addr = b))).length ≤ 32 * g.desc.bsbg then s
      else (s.commitOldest 1 gid).bsbRoom gid bs n

/-- Bytes from `pa` enter one sector of a buffer, as a new sector where it is not there. -/
def bsbMerge (share repl : Nat) (edge : Bool) (pa : Nat) (xs : List Byte) (all : List Nat) (l : List Sector) (b : Nat) : List Sector :=
  let mine := (xs.zipIdx.map (fun x => (pa + x.2, x.1))).filter (fun y => sectorOf y.1 = b)
  let put := fun (y : Sector) => { y with
    data := mine.foldl (fun m z => ninsert m (z.1 - b) z.2) y.data, tie := y.tie ++ all.filter (fun c => decide (c ≠ b) && !y.tie.contains c) }
  if l.any (fun y => y.addr = b) then l.map (fun y => if y.addr = b then put y else y)
  else l ++ [put { addr := b, data := [], share := share, repl := repl, edge := edge, tie := [] }]

/-- The bytes of one access unit enter a group's buffer as one action; the sectors of a unit commit together (R35, R222, R271). -/
def State.bsbStore (s : State) (gid share : Nat) (repl : Nat) (edge : Bool) (pa : Nat) (xs : List Byte) : State :=
  if xs.isEmpty then s
  else
    let bs := sectorsOf pa xs.length
    (s.bsbRoom gid bs 4096).onGroup gid (fun g => { g with bsb := bs.foldl (bsbMerge share repl edge pa xs bs) g.bsb })

/-- The byte that the buffer holds valid for an address, if any (R224). -/
def Group.forward (g : Group) (pa : Nat) : Option Byte :=
  match g.bsb.find? (fun y => y.addr = sectorOf pa) with
  | some y => nfind? y.data (pa - sectorOf pa)
  | none => none

/-- Some sector of the buffer lies in a line whose write-back is pending, or has no place in an L1 all of whose ways hold such: its commit waits
(R245). -/
def State.commitHeld (s : State) (g : Group) : Bool :=
  g.bsb.any (fun x => s.isHeld g.loc.flat (s.l1Key x.addr) ||
    (decide (policyOf 0 x.share x.edge = .untracked ∧ x.repl = 0) && s.l1Full g.loc.flat (s.l1Key x.addr)))

/-! ### The transaction table (R230, R416) -/

/-- A unit's access may take its `n` entries now: they are granted to it, or they are free for it and no other instruction that
could take them began to wait earlier (R230, R416). -/
def State.ottFree (s : State) (c gid u : Nat) (sync : Bool) (n : Nat) : Bool :=
  let ws := (s.core c).ottWait
  if ws.any (fun w => w.granted ∧ w.gid = gid ∧ w.unit = u) then true
  else
    let before := ws.takeWhile (fun w => !(decide (w.gid = gid ∧ w.unit = u)))
    ottRoom (s.ottUsed c) n sync && !(before.any (fun w => !w.granted && (w.sync || !sync)))

/-- Takes a unit's waiting entry out once its access issues. -/
def State.ottTake (s : State) (c gid u : Nat) : State :=
  if (s.core c).ottWait.isEmpty then s else
    s.setCore c { s.core c with ottWait := (s.core c).ottWait.filter (fun w => !(decide (w.gid = gid ∧ w.unit = u))) }

/-! ### Accesses under way -/

/-- Changes a counter of a unit: 0 ld, 1 st, 2 cp, 3 tl (R33). -/
def Crew.count (c : Crew) (which : Nat) (up : Bool) : Crew :=
  let f := fun n : Nat => if up then n + 1 else n - 1
  match which with
  | 0 => { c with ld := f c.ld }
  | 1 => { c with st := f c.st }
  | 2 => { c with cp := f c.cp }
  | _ => { c with tl := f c.tl }

/-- Adds a flight to its group, raising counter `which` of its unit, and posts the step that will end it. -/
def State.launchFlight (s : State) (gid : Nat) (f : Flight) (which : Nat) (ev : Ev) : State :=
  let s1 := s.onGroup gid (fun g =>
    let c := (g.unit f.unit).count which true
    { g.setUnit f.unit c with flights := g.flights ++ [f] })
  { s1 with nextId := s1.nextId + 1 }.post ev

/-- Takes a flight out of its group and lowers its counter. -/
def State.landFlight (s : State) (gid : Nat) (f : Flight) (which : Nat) : State :=
  s.onGroup gid (fun g =>
    let c := (g.unit f.unit).count which false
    { g.setUnit f.unit c with flights := g.flights.filter (fun h => h.id ≠ f.id) })

/-- A flight that its unit waits for before it issues again: an access slice's load (R276), a scratchpad store, an
`ICINV` (R305), a `QLD` of which a crew's entry is not expanded yet (R337). -/
def Flight.holds (f : Flight) : Bool :=
  match f.kind with
  | .icinv => true
  | .load => decide (f.unit = 32)
  | .store => f.lanes.any (fun a => decide (a.space = 2))
  | .qload => f.lanes.any (fun a => decide (f.done ≤ a.lane / 32))
  | _ => false

/-- The flight of a group, if it is still under way. -/
def State.flight? (s : State) (gid fid : Nat) : Option (Group × Flight) :=
  match s.group? gid with
  | none => none
  | some g =>
    match g.flights.find? (fun f => f.id = fid) with
    | some f => some (g, f)
    | none => none

/-- A group that has ended or is saved takes no result. -/
def Group.dead (g : Group) : Bool :=
  match g.phase with
  | .ended _ | .saved _ => true
  | _ => false

/-- What a release, an atomic that synchronises or an arrival of a group waits for (R227): each byte that its group has committed accepted
at its home, those for other packages once they are in the write-combining buffer; at package or pod scope also the core's writes to other
packages that went out before number `before`. -/
def State.drained (s : State) (g : Group) (scope before : Nat) : Bool :=
  !(s.toStamp.any (fun w => w.owner = g.id)) && !(s.net.stamped.any (fun x => x.w.owner = g.id)) &&
    !(s.remote.any (fun r => r.writes && r.owners.contains g.id && decide (r.pa / 2 ^ 45 = s.peer))) &&
    (decide (scope < 3) || !(s.remote.any (fun r => decide (r.core = g.loc.flat) && r.writes && decide (r.tag < before)) ||
      (s.core g.loc.flat).wcb.any (fun e => e.out && decide (e.id < before))))

/-- Writes a value into the destination of a unit: `n` registers from `d` in lane `l`. -/
def Crew.writeDest (c : Crew) (access : Bool) (l : Nat) : Nat → Nat → Nat → Crew
  | _, 0, _ => c
  | d, n + 1, v =>
    (if access then c.sset d (BitVec.ofNat 32 v) else c.vset d l (BitVec.ofNat 32 v)).writeDest access l (d + 1) n (v / 2 ^ 32)

end Sys2Proof.Machine
end

