-- ==== Sys2Proof/Machine/Foot.lean ====
section
/-! DEFINITION. Footprints of engine commands and accesses, and the order between them (R277 to R281). -/
namespace Sys2Proof.Machine
open Sys2Proof

/-- What a command or an access reads and writes: accumulators (those of crew `u` from 64u), tiles, scratchpad words as runs (first, count), and lines
of memory by their first byte. -/
structure Foot where
  rAcc : List Nat := []
  wAcc : List Nat := []
  rTile : List Nat := []
  rWords : List (Nat × Nat) := []
  wWords : List (Nat × Nat) := []
  rLines : List Nat := []
  wLines : List Nat := []
deriving DecidableEq, Repr

/-- Two lists of runs share a word. -/
def runsMeet (a b : List (Nat × Nat)) : Bool :=
  a.any (fun x => b.any (fun y => decide (x.1 < y.1 + y.2 ∧ y.1 < x.1 + x.2)))
/-- Two lists share an item. -/
def listsMeet (a b : List Nat) : Bool := a.any (fun x => b.contains x)

/-- The footprints overlap and at least one of them writes the overlap (R278). -/
def Foot.conflicts (x y : Foot) : Bool :=
  listsMeet x.wAcc y.wAcc || listsMeet x.wAcc y.rAcc || listsMeet x.rAcc y.wAcc
    || runsMeet x.wWords y.wWords || runsMeet x.wWords y.rWords || runsMeet x.rWords y.wWords
    || listsMeet x.wLines y.wLines || listsMeet x.wLines y.rLines || listsMeet x.rLines y.wLines

/-- Scratchpad words of a list of element accesses, as runs. -/
def accWords (as : List LaneAcc) : List (Nat × Nat) :=
  (as.filter (fun a => a.space = 2)).flatMap (fun a => a.pa.map (fun k => (k / 4, 1)))
/-- Memory lines of a list of element accesses. -/
def accLines (as : List LaneAcc) : List Nat :=
  ((as.filter (fun a => a.space ≠ 2)).flatMap (fun a => a.pa.map (fun q => q - q % 2 ^ 45 % 192))).eraseDups

/-- The footprint of an access that writes or only reads. -/
def accFoot (as : List LaneAcc) (write : Bool) : Foot :=
  if write then { wWords := accWords as, wLines := accLines as } else { rWords := accWords as, rLines := accLines as }

/-- Words of block `j` of a handle, and of `n` blocks from it (R260). -/
def Handle.blocks (h : Handle) (j n : Nat) : Nat × Nat := (h.base + 32 * j * h.planes, 32 * n * h.planes)

/-- The lines of physical byte addresses. -/
def linesOfBytes (ps : List Nat) : List Nat := (ps.map (fun q => q - q % 2 ^ 45 % 192)).eraseDups

/-- A command's footprint: for a tile copy, of the rows that are left; a collective that has read its source keeps none of it (R278, R279). -/
def Cmd.foot (c : Cmd) : Foot :=
  match c.kind with
  | .mma m =>
    let a : Foot := match m.a with
      | .tile k t => { rTile := natsFrom k (groupTiles (tileFmt t)) }
      | .block h j => { rWords := [h.blocks j 1] }
    match m.sparse with
    | none => { a with rAcc := [64 * c.unit + m.c], wAcc := [64 * c.unit + m.d], rWords := a.rWords ++ [m.b.blocks m.bj 1] }
    | some (n, h, j) => { a with rAcc := [64 * c.unit + m.d], wAcc := [64 * c.unit + m.d], rWords := a.rWords ++ [m.b.blocks m.bj (8 / n), (h.base + 96 * j, 96)] }
  | .tcopy t =>
    let rows := [(t.h.base + (t.row0 + t.row) * t.h.planes, t.remaining * t.h.planes)]
    let as := t.rows.flatMap (fun r => r)
    if t.out then { accFoot as true with rWords := rows } else
      { accFoot as false with wWords := rows }
  | .coll k => { rLines := linesOfBytes k.src, wLines := linesOfBytes ((k.dst ++ k.recd).map (fun y => y.1)) }

/-- An access of a unit overlaps a command that its unit issued earlier and that has not done the overlapping part
(R279). -/
def cmdsHold (g : Group) (u : Nat) (f : Foot) : Bool := g.cmds.any (fun c => decide (c.unit = u) && c.foot.conflicts f)

/-- An accumulator or tile of a unit is read or written by an `MMA` or `MMAS` that is not complete (R263). -/
def matrixHolds (g : Group) (u : Nat) (accs tiles : List Nat) : Bool :=
  g.cmds.any (fun c => decide (c.unit = u) && (match c.kind with
    | .mma _ => listsMeet (c.foot.rAcc ++ c.foot.wAcc) (accs.map (fun k => 64 * u + k)) || listsMeet c.foot.rTile tiles
    | _ => false))

/-- A flight writes memory or the scratchpad. -/
def Flight.writes (f : Flight) : Bool :=
  match f.kind with
  | .store | .release | .atomic => true
  | _ => false

/-- A load that has not been translated reads, by virtual address, a line that a tile copy writes. -/
def bareReads (as : List LaneAcc) (c : Cmd) : Bool :=
  match c.kind with
  | .tcopy t => t.out && as.any (fun a => a.pa.isEmpty && decide (a.space ≠ 2) && t.rows.any (fun r =>
      r.any (fun b => decide (b.space ≠ 2 ∧ a.va / 192 ≤ (b.va + b.n - 1) / 192 ∧ b.va / 192 ≤ (a.va + a.n - 1) / 192))))
  | _ => false

/-- An earlier access conflicts with a command: one under way, or a load that waits in the operand log for its replay. -/
def accBefore (as : List LaneAcc) (write : Bool) (c : Cmd) : Bool := (accFoot as write).conflicts c.foot || bareReads as c

/-- A command may do its next part: no earlier command that it conflicts with is left, and no earlier access of its issuer
(R278, R279). -/
def cmdReady (g : Group) (c : Cmd) : Bool :=
  !(g.cmds.any (fun d => decide (d.id < c.id) && d.foot.conflicts c.foot)) &&
    !(g.flights.any (fun f => decide (f.unit = c.unit) && decide (f.id < c.id) && accBefore f.lanes f.writes c)) &&
    !((g.unit c.unit).log.any (fun r => decide (r.seq < c.id) && accBefore r.accs false c))

end Sys2Proof.Machine
end

