-- ==== Sys2Proof/Machine/Settle.lean ====
section
/-! DEFINITION. Convergence and barriers: arrivals, pass records, completed member sets, the `CONV_*` traps, barrier
arrivals and releases, the end of a group, and the settling that follows every step of a group (R16, R188 to R208,
R287 to R296). -/
namespace Sys2Proof.Machine
open Sys2Proof

/-! ### Arrivals and pass records (R192) -/

/-- The address of a lane's pass record. -/
def Crew.passAt (c : Crew) (l : Nat) : Option Nat := (nfind? c.pass l).map (fun v => v % 2 ^ 57)

/-- An issue group reaches a cross-lane or barrier instruction: its active lanes arrive with their masks and inputs and
wait, the others pass and leave a record. A lane's record of another address goes. -/
def Crew.reach (x : Ctx) (c : Crew) (i : Instr) (whole exits : Bool) (mask : Nat → Word) (inp : Nat → LaneIn) : Crew :=
  let c1 := (lanesOf x.issued).foldl (fun (d : Crew) l =>
    if d.passAt l = some x.addr then d else { d with pass := nerase d.pass l }) c
  let c2 := x.lanes.foldl (fun (d : Crew) l => (d.setPc l x.addr).setWait l
    (.arrived { addr := x.addr, mask := mask l, input := inp l, exitsCount := exits, ins := i })) c1
  (lanesOf (x.issued &&& ~~~ x.act)).foldl (fun (d : Crew) l =>
    { d with pass := ninsert d.pass l (x.addr + if whole then 2 ^ 57 else 0) }) c2

/-- The arrivals of a crew, by rising lane. -/
def Crew.arrivals (c : Crew) : List (Nat × Arrival) :=
  c.wait.filterMap (fun x => match x.2 with
    | .arrived a => some (x.1, a)
    | _ => none)

/-- Lane `y` has arrived active in the member set of `a`. -/
def Crew.joined (c : Crew) (a : Arrival) (y : Nat) : Option Arrival :=
  match c.waitOf y with
  | .arrived b => if b.addr = a.addr ∧ b.mask = a.mask then some b else none
  | _ => none

/-- Every lane of the member set of `a` has arrived, passed or, where that counts, exited (R193). -/
def Crew.setDone (c : Crew) (a : Arrival) : Bool :=
  (lanesOf a.mask).all (fun y => (c.joined a y).isSome || decide (c.passAt y = some a.addr) || (a.exitsCount && c.out y))

/-- The fill of a cross-lane instruction in lane `y` (R189, R198): identity, register or immediate. -/
def fillOf (i : Instr) (c : Crew) (idn y : Nat) : Nat :=
  let w := (fieldsOf i).w.toNat
  match (rowOf i).w2 with
  | .fill _ =>
    match bits w 30 29 with
    | 0 => idn
    | 1 => if bit w 8 then (c.sget (bits w 7 0)).toNat else (c.vget (bits w 7 0) y).toNat
    | 2 => (BitVec.ofNat 16 w).signExtend 32 |>.toNat
    | _ => bits w 15 0 * 65536
  | _ => idn

/-- The identity that a cross-lane instruction takes as fill (Table 07-4). -/
def crossIdentity (i : Instr) : Nat :=
  let h := (fieldsOf i).h
  let s := h.sub.toNat
  match i with
  | .redux _ _ | .redux12 _ _ _ => reduceIdentity (if s < 6 then s else 1 + s % 2) h.typ
  | .scan _ _ | .scan12 _ _ _ => reduceIdentity (s % 8) h.typ
  | _ => 0

/-- The member set of `a` as it stands when it completes. -/
def Crew.memberSet (c : Crew) (a : Arrival) : MemberSet :=
  let base := lowest a.mask / c.partw * c.partw
  { mask := a.mask, base := base, width := c.partw
    arrived := (lanesOf a.mask).filterMap (fun y => (c.joined a y).map (fun b => (y, b.input)))
    fills := (natsFrom base c.partw).map (fun y => (y, fillOf a.ins c (crossIdentity a.ins) y)) }

/-- Writes `n` registers from `D` in every lane that arrived active. -/
def Crew.putLanes (c : Crew) (m : MemberSet) (d n : Nat) (v : Nat → LaneIn → Nat) : Crew :=
  m.arrived.foldl (fun e p => e.writeDest false p.1 d n (v p.1 p.2)) c

/-- What a lane that contributes fill votes (R199). -/
def fillVote (i : Instr) : Option Bool :=
  let fl := fieldsOf i
  if bits fl.w.toNat 30 29 = 2 then some (bit fl.w.toNat 0)
  else match fl.h.sub.toNat with
    | 0 => some true
    | 2 => none
    | _ => some false

/-- The results of a completed member set, written in the lanes that arrived active (R199 to R206). -/
def crossWrite (i : Instr) (m : MemberSet) (c : Crew) : Crew :=
  let fl := fieldsOf i
  let k := fctl fl.h
  let t := fl.h.typ
  let sub := fl.h.sub.toNat
  let d := fl.f.d.toNat
  match i with
  | .vote _ _ | .vote12 _ _ _ =>
    let v := voteV sub (votes m (fillVote i))
    if sub < 3 then m.arrived.foldl (fun e p => e.pset d p.1 (decide (v = 1))) c else c.putLanes m d 1 (fun _ _ => v)
  | .lpick _ _ | .lpick12 _ _ _ => c.putLanes m d 1 (fun l a => lpickV m sub l a)
  | .redux _ _ | .redux12 _ _ _ =>
    if sub < 6 then c.putLanes m d 1 (fun _ _ => reduxV m sub t k)
    else
      let p := reduxIdxV m (decide (sub % 2 = 0)) (decide (8 ≤ sub)) t k
      c.putLanes m d 2 (fun _ _ => p.x + 2 ^ 32 * p.i)
  | .scan _ _ | .scan12 _ _ _ => c.putLanes m d 1 (fun l a => scanV m sub t k l a)
  | .matchLanes _ _ | .matchLanes12 _ _ _ => c.putLanes m d 1 (fun _ a => matchV m (decide (sub = 1)) a.x)
  | .elect _ _ | .elect12 _ _ _ => m.arrived.foldl (fun e p => e.pset d p.1 (decide (p.1 = lowestLane m.arrived))) c
  | .part _ | .part8 _ _ => { c with partw := d }
  | _ => c

/-- A barrier instruction: 0 arrives and waits, 1 arrives, 2 waits. -/
def barKind : Instr → Option Nat
  | .bar _ _ | .bar12 _ _ _ => some 0
  | .bara _ _ | .bara12 _ _ _ => some 1
  | .barw _ _ | .barw12 _ _ _ => some 2
  | _ => none

/-- The member set of `a` completes: it executes once (R193); a barrier's arrival is performed when it may count. A `BARW` whose lanes came
with different tokens takes that of the lowest (DESIGN CHOICE, log entry 75). -/
def Crew.runSet (c : Crew) (a : Arrival) : Crew :=
  let m := c.memberSet a
  let c1 := { c with pass := c.pass.filter (fun x => !(a.mask.getLsbD x.1 && decide (x.2 % 2 ^ 57 = a.addr))) }
  match barKind a.ins with
  | some _ =>
    { m.arrived.foldl (fun (e : Crew) p => e.setWait p.1 (.held a.addr)) c1 with
      pendBar := some { ins := a.ins, addr := a.addr, lanes := m.arrived.foldl (fun w p => setLane w p.1 true) 0
                        token := (lget (0, ⟨0, 0, 0⟩) m.arrived 0).2.b } }
  | none =>
    crossWrite a.ins m (m.arrived.foldl (fun (e : Crew) p =>
      (e.setPc p.1 (a.addr + (rowOf a.ins).len)).setWait p.1 .ready) c1)

/-- The records of an instruction of the whole crew that no lane reached active go when every lane has passed it or
exited (R290, R206). -/
def Crew.dropPassed (c : Crew) : Crew :=
  match c.pass.find? (fun x => decide (2 ^ 57 ≤ x.2)) with
  | none => c
  | some x =>
    if allLanes.all (fun l => c.out l || decide (nfind? c.pass l = some x.2)) &&
        !(c.arrivals.any (fun p => decide (p.2.addr = x.2 % 2 ^ 57))) then
      { c with pass := c.pass.filter (fun y => decide (y.2 ≠ x.2)) }
    else c

/-! ### The `CONV_*` traps (R194 to R196) -/

/-- A trap at the instruction of an arrival: the lowest lane there, and a second lane. -/
def convTrap (arr : List (Nat × Arrival)) (cause addr second : Nat) : Trap :=
  { cause := cause, lane := ((arr.find? (fun p => p.2.addr = addr)).map (fun p => p.1)).getD 0, detail := second, addr := addr,
    first := addr }

/-- `CONV_EXITED`, else `CONV_MISMATCH`, of the waiting lanes (R194). Of two instructions that one exit spoils the one with the lowest waiting
lane is reported, and a lane that holds a record of an instruction and reaches it again with another mask has arrived with that mask (DESIGN
CHOICE, log entry 75). -/
def convBad (c : Crew) (arr : List (Nat × Arrival)) : Option Trap :=
  match arr.find? (fun p => !p.2.exitsCount && decide (p.2.mask &&& c.exited ≠ 0)) with
  | some p => some (convTrap arr 0x04 p.2.addr (lowest (p.2.mask &&& c.exited)))
  | none =>
    let clash := fun (p q : Nat × Arrival) => decide (p.2.addr = q.2.addr ∧ p.2.mask ≠ q.2.mask) && (p.2.mask.getLsbD q.1 || q.2.mask.getLsbD p.1)
    let other := fun (p : Nat × Arrival) => (arr.find? (clash p)).map (fun q => q.1)
    match arr.find? (fun p => (other p).isSome) with
    | some p =>
      -- the lane whose mask differs from that of the lane reported, where the two clash
      let t := convTrap arr 0x06 p.2.addr 0
      let mine := (arr.find? (fun q => q.1 = t.lane)).bind other
      some { t with detail := mine.getD ((other p).getD 0) }
    | none => none

/-- The lane waits at a barrier that its crew has reached (R194). -/
def Crew.atBarrier (c : Crew) (y : Nat) : Bool :=
  match c.waitOf y with
  | .held _ | .counted _ _ _ _ => true
  | _ => false

/-- The greatest set of waiting lanes each of whose missing lanes waits within the set or at a barrier (R195, R290). -/
def deadSet (c : Crew) : Nat → List (Nat × Arrival) → List (Nat × Arrival)
  | 0, w => w
  | n + 1, w =>
    let w1 := w.filter (fun p => (lanesOf p.2.mask).all (fun y =>
      (match c.waitOf y with
        | .arrived b => decide (b.addr = p.2.addr)
        | _ => false)
      || decide (c.passAt y = some p.2.addr) || (p.2.exitsCount && c.out y) || c.atBarrier y || w.any (fun q => q.1 = y)))
    if w1.length = w.length then w else deadSet c n w1

/-- `CONV_DEADLOCK`, reported at the instruction just reached where it is part of the set. -/
def convDead (c : Crew) (arr : List (Nat × Arrival)) (reached : Nat) : Option Trap :=
  match deadSet c 33 arr with
  | [] => none
  | p :: w =>
    let r := ((p :: w).find? (fun q => decide (q.2.addr = reached))).getD p
    let named := fun (y : Nat) => (p :: w).any (fun q => decide (q.1 = y ∧ q.2.addr ≠ r.2.addr)) || (c.atBarrier y && (p :: w).any (fun q => q.2.mask.getLsbD y))
    some (convTrap arr 0x05 r.2.addr ((allLanes.find? named).getD r.1))

/-- Completes every member set of a unit that is complete, and raises the first `CONV_*` trap that holds. DESIGN CHOICE: of two sets that one pass
record completes at once, the one of the lowest waiting lane uses the record, and the other waits on (R192, log entry 75). -/
def State.settleSets (s : State) (gid u reached : Nat) : Nat → State
  | 0 => s
  | n + 1 =>
    match s.group? gid with
    | none => s
    | some g =>
      let c := g.unit u
      match c.arrivals with
      | [] => if c.pass.isEmpty then s else s.setUnit g u c.dropPassed
      | arr =>
        match convBad c arr with
        | some t => s.raise gid u t
        | none =>
          match arr.find? (fun p => c.setDone p.2) with
          | some p => (s.setUnit g u (c.runSet p.2)).settleSets gid u reached n
          | none =>
            match convDead c arr reached with
            | some t => s.raise gid u t
            | none => s.setUnit g u c.dropPassed

/-! ### Barriers (R287 to R296) -/

/-- A barrier never used. -/
def Barrier.empty : Barrier := { expected := 0, dflt := false, arrivals := 0, gen := 0, arrived := [] }

/-- The set that holds a group's barriers of a level: its own, its gang's, its die share's. -/
def State.barSet (s : State) (g : Group) (level : Nat) : NMap Barrier :=
  match level with
  | 0 => g.bars
  | 1 => match s.gang? g.gang with
    | some x => x.bars
    | none => []
  | _ => match s.launch? g.launch with
    | some l => match l.shares.find? (fun x => x.die = g.pos.die) with
      | some x => x.bars
      | none => []
    | none => []

/-- Barrier `k` of a level for a group. -/
def State.barOf (s : State) (g : Group) (level k : Nat) : Barrier := nget (fun _ => Barrier.empty) (s.barSet g level) k

/-- Puts a barrier back. -/
def State.setBar (s : State) (g : Group) (level k : Nat) (b : Barrier) : State :=
  match level with
  | 0 => s.onGroup g.id (fun h => { h with bars := nset (fun _ => Barrier.empty) h.bars k b })
  | 1 => match s.gang? g.gang with
    | some x => s.setGang { x with bars := nset (fun _ => Barrier.empty) x.bars k b }
    | none => s
  | _ => match s.launch? g.launch with
    | some l => s.setLaunch { l with shares := l.shares.map (fun x =>
        if x.die = g.pos.die then { x with bars := nset (fun _ => Barrier.empty) x.bars k b } else x) }
    | none => s

/-- The group has ended. -/
def Group.over (g : Group) : Bool :=
  match g.phase with
  | .ended _ => true
  | _ => false

/-- The groups that share a group's barriers of a level. -/
def State.barGroups (s : State) (g : Group) (level : Nat) : List Group :=
  s.groups.filter (fun h => !h.over && (match level with
    | 0 => decide (h.id = g.id)
    | 1 => decide (h.gang = g.gang)
    | _ => decide (h.launch = g.launch ∧ h.pos.die = g.pos.die)))

/-- A participant's number: its unit, and at the outer levels its group. -/
def barId (level gid u : Nat) : Nat := if level = 0 then u else gid * 64 + u

/-- All lanes of a crew have exited. -/
def Crew.ended (c : Crew) : Bool := decide (c.exited = BitVec.allOnes 32)
/-- The access slice has ended, or the kernel has none. -/
def Group.sliceEnded (g : Group) : Bool := g.slice.ended || decide (g.desc.access = 0)

/-- The participants of a group's barriers that have not ended (R287). -/
def Group.alive (level : Nat) (g : Group) : List Nat :=
  ((natsFrom 0 g.crews.length).filter (fun u => !(g.unit u).ended)).map (barId level g.id) ++
    (if level = 0 && !g.sliceEnded then [32] else [])

/-- Units of a group: its crews and the access slice. -/
def Group.units (g : Group) : List Nat := natsFrom 0 g.crews.length ++ [32]

/-- Frees the lanes that wait for a release of a barrier that has come. -/
def Group.wakeBar (level k gen : Nat) (g : Group) : Group :=
  g.units.foldl (fun h u =>
    let c := h.unit u
    let keep := fun (x : Nat × LaneWait) => match x.2 with
      | .counted lv b tok _ => !(decide (lv = level ∧ b = k ∧ tok ≠ gen))
      | _ => true
    h.setUnit u { c with wait := c.wait.filter keep, aside := c.aside.filter keep }) g

/-- Puts a group back where it is changed by `f`, for each group of a list. -/
def State.mapGroups (s : State) (gs : List Group) (f : Group → Group) : State := gs.foldl (fun t h => t.onGroup h.id f) s

/-- The lanes of a list of waits that wait at a generation of a barrier, with their instruction. -/
def barWaiters (ws : NMap LaneWait) (level k gen : Nat) : List (Nat × Nat) :=
  ws.filterMap (fun x => match x.2 with
    | .counted lv b tok a => if lv = level ∧ b = k ∧ tok = gen then some (x.1, a) else none
    | _ => none)

/-- The `BARRIER_STATE` trap of reason `r` (R295). -/
def barTrap (r level k lane addr : Nat) : Trap :=
  { cause := 0x12, lane := lane, detail := r + 8 * k + 128 * level, addr := addr, first := addr }

/-- Waits of a crew in its handler at a generation that has failed: level 4 and more, for which the crew traps once it is back (R288, R419). -/
def failAside (ws : NMap LaneWait) (level k gen : Nat) : NMap LaneWait :=
  ws.map (fun x => (x.1, match x.2 with
    | .counted lv b tok a => .counted (if lv = level ∧ b = k ∧ tok = gen then lv + 4 else lv) b tok a
    | w => w))

/-- A generation that can no longer be met ends without a release: every waiting participant traps (R288). -/
def State.failBar (s : State) (gs : List Group) (level k gen : Nat) : State :=
  gs.foldl (fun t h => h.units.foldl (fun v u =>
    match v.group? h.id with
    | none => v
    | some g =>
      let c := { g.unit u with aside := failAside (g.unit u).aside level k gen }
      match barWaiters c.wait level k gen with
      | [] => v.setUnit g u c
      | (l, a) :: r =>
        let c1 := ((l, a) :: r).foldl (fun (d : Crew) y => (d.setPc y.1 y.2).setWait y.1 .ready) c
        (v.setUnit g u c1).raise h.id u (barTrap 2 level k l a)) t) s

/-- The gang of a group has passed one of its barriers: it is no more as its start found it (R494). -/
def State.passGang (s : State) (g : Group) (level : Nat) : State :=
  match level, s.gang? g.gang with
  | 1, some x => s.setGang { x with spent := true }
  | _, _ => s

/-- Holds a barrier against its participants as they now are: ends are taken out of a default count, a generation that is
met releases, and one that cannot be met fails (R288, R291). -/
def State.settleBar (s : State) (gid level k : Nat) : State :=
  match s.group? gid with
  | none => s
  | some g =>
    let gs := s.barGroups g level
    let alive := gs.flatMap (Group.alive level)
    let b0 := s.barOf g level k
    let here := b0.arrived.filter (fun p => alive.contains p)
    let b := if b0.dflt then { b0 with arrived := here, arrivals := here.length } else b0
    if b.arrivals = 0 then (if b = b0 then s else s.setBar g level k b)
    else if (if b.dflt then alive.length else b.expected) ≤ b.arrivals then
      let gen := (b.gen + 1) % 256
      ((s.setBar g level k { b with gen := gen, arrivals := 0, arrived := [] }).passGang g level).mapGroups gs (Group.wakeBar level k gen)
    else if !b.dflt && decide (b.arrivals + (alive.filter (fun p => !b.arrived.contains p)).length < b.expected) then
      (s.setBar g level k { Barrier.empty with gen := b.gen }).failBar gs level k b.gen
    else if b = b0 then s else s.setBar g level k b

/-- The lanes of a barrier operation move past it: they run on, or wait for a release with token `tok`. -/
def Crew.passBar (c : Crew) (p : PendBar) (wait : Option (Nat × Nat × Nat)) : Crew :=
  { (lanesOf p.lanes).foldl (fun (d : Crew) l =>
      (d.setPc l (p.addr + (rowOf p.ins).len)).setWait l (match wait with
        | some (lv, k, tok) => .counted lv k tok p.addr
        | none => .ready)) c with pendBar := none }

/-- Performs the barrier operation of a unit once its arrival may count (R290 to R294, R313): every access of the unit complete, the access slice's
`QLD`s with them, and at the outer levels the release of its group's stores done. -/
def State.tryBar (s : State) (gid u : Nat) : State :=
  match s.group? gid with
  | none => s
  | some g =>
    let c := g.unit u
    match c.pendBar with
    | none => s
    | some p =>
      let fl := fieldsOf p.ins
      let level := fl.h.sub.toNat
      let k := fl.f.a.toNat
      let b := s.barOf g level k
      match barKind p.ins with
      | some 2 =>
        if b.gen = p.token % 256 then s.setUnit g u (c.passBar p (some (level, k, b.gen))) else s.setUnit g u (c.passBar p none)
      | some kind =>
        if c.ld ≠ 0 ∨ c.st ≠ 0 ∨ (u = 32 ∧ g.flights.any (fun f => f.kind = .qload)) then s
        else
          let me := barId level gid u
          let dflt := decide ((rowOf p.ins).len = 8)
          let n := if dflt then 0 else fl.w.toNat
          if b.arrived.contains me then s
          else if b.arrivals ≠ 0 ∧ (b.dflt ≠ dflt ∨ (!dflt ∧ b.expected ≠ n)) then
            s.raise gid u (barTrap 1 level k (lowest p.lanes) p.addr)
          else if decide (level ≠ 0) && s.commitHeld g then s
          else
            let s1 := if level = 0 then s else s.commitAll gid
            if decide (level ≠ 0) && !s1.drained g 2 0 then s1
            else
              let b1 := { b with expected := n, dflt := dflt, arrivals := b.arrivals + 1, arrived := b.arrived ++ [me] }
              let s2 := s1.onGroup gid (fun h =>
                let d := h.unit u
                h.setUnit u (if kind = 1 then (d.sset fl.f.d.toNat (BitVec.ofNat 32 b.gen)).passBar p none
                  else d.passBar p (some (level, k, b.gen))))
              (s2.setBar g level k b1).settleBar gid level k
      | none => s

/-! ### Settling a group -/

/-- Every crew and the access slice have ended and every access and command is complete (R16, R140). -/
def Group.finished (g : Group) : Bool :=
  g.crews.all Crew.ended && g.sliceEnded && g.flights.isEmpty && g.cmds.isEmpty &&
    (g.slice :: g.crews).all (fun c => decide (c.ld = 0 ∧ c.st = 0 ∧ c.cp = 0 ∧ c.tl = 0))

/-- The units of a group that may act now: all while it runs, only the handler's while it is stopped. -/
def Group.acting (g : Group) : List Nat :=
  match g.phase with
  | .live | .drain _ => g.units
  | .handler u _ => [u]
  | _ => []

/-- Barriers of a group that are in use, by level and number. -/
def State.barKeys (s : State) (g : Group) : List (Nat × Nat) :=
  (natsFrom 0 3).flatMap (fun lv => (s.barSet g lv).map (fun x => (lv, x.1)))

/-- A free address: `sr.tfaddr` where the spec gives none. -/
def State.freeAddr (s : State) : Nat :=
  ((Config.freeWord s.free).toNat + 2 ^ 32 * (Config.freeWord (s.free + 1)).toNat) % 2 ^ 57

/-- A crew waits at `QPOP`s of empty sub-FIFOs and at nothing else. DESIGN CHOICE: a diverged crew counts as waiting there when every lane of it that
has not arrived at a cross-lane or barrier instruction does (R254, R348, log entry 76). -/
def Group.starved (g : Group) (u : Nat) : Bool :=
  let c := g.unit u
  !c.hungry.isEmpty && (allLanes.filter (fun l => !c.out l)).all (fun l =>
    match c.waitOf l, nfind? c.hungry l with
    | .ready, some q => decide (nget (fun _ => []) g.fq (32 * q + u) = [])
    | .arrived _, _ => true
    | _, _ => false)

/-- `QUEUE_POISON` with bit [25]: the access slice waits on an empty back queue while every crew not ended waits on an empty
sub-FIFO (R254, R348). -/
def State.starve (s : State) (gid : Nat) : State :=
  match s.group? gid with
  | none => s
  | some g =>
    match g.phase, g.slice.stall with
    | .live, some (.backEmpty q) | .drain _, some (.backEmpty q) =>
      let crews := (natsFrom 0 g.crews.length).filter (fun u => !(g.unit u).ended)
      if decide (nget (fun _ => []) g.bq q = []) && !crews.isEmpty && crews.all g.starved then
        s.raise gid 32 { cause := 0x11, lane := 0, detail := 2 ^ 12, addr := s.freeAddr, first := g.slice.pcOf 0 }
      else s
    | _, _ => s

/-- The barriers of a group's gang and die share are held against who is left, after an end (R288). -/
def State.settleOuter (s : State) (gid : Nat) : State :=
  match s.group? gid with
  | none => s
  | some g => ((s.barKeys g).filter (fun x => x.1 ≠ 0)).foldl (fun t x => t.settleBar gid x.1 x.2) s

/-- What follows every step of a group: member sets complete, barriers release, a stopped group enters its handler, and a
group whose units have all ended ends (R16). `reached` is the address of a cross-lane or barrier instruction just
reached. -/
def State.settleAt (s : State) (gid reached : Nat) : State :=
  match s.group? gid with
  | none => s
  | some g0 =>
    let s1 := g0.acting.foldl (fun t u => t.settleSets gid u reached 40) s
    let s2 := g0.acting.foldl (fun t u => t.tryBar gid u) s1
    let s3 := (s2.barKeys g0).foldl (fun t x => t.settleBar gid x.1 x.2) s2
    let s4 := (s3.starve gid).settleStop gid
    match s4.group? gid with
    | none => s4
    | some g =>
      match g.phase with
      | .live | .drain _ => if g.finished && !s4.commitHeld g then (s4.commitAll gid).endGroup gid 0 else s4
      | _ => s4

/-- Settling after a step that reached no such instruction. -/
def State.settle (s : State) (gid : Nat) : State := s.settleAt gid (2 ^ 57)

/-- Settles the issuing group after its instruction. -/
def settled (s : State) (o : Out) : Out :=
  match o, s.cur with
  | .next t, some u => .next (t.settleAt u.gid u.addr)
  | _, _ => o

end Sys2Proof.Machine
end

