-- ==== Sys2Proof/Machine/Memory.lean ====
section
/-! DEFINITION. Loads, stores, atomics, prefetches and the completions of their accesses (R209 to R234, Tables 08-1 to
08-5). -/
namespace Sys2Proof.Machine
open Sys2Proof

/-! ### Forming the accesses -/

/-- The pointer of each lane: a register quad, or the literal that word 2 locates (R210). -/
def lanePtr (x : Ctx) (g : Group) (c : Crew) (s : State) : Except Trap (State × (Nat → Ptr)) :=
  if x.row.w2 ≠ .offset then .ok (s, fun l => ptrOf (x.a c l))
  else
    let a := (((x.addr : Int) + x.fl.w.toInt) % (2 : Int) ^ 57).toNat
    if a % 16 ≠ 0 then .error (x.trapOf 0x0A (lowest x.act) 0 a)
    else
      match s.fetchCode g a 16 with
      | .error (f, fa) => .error (x.trapOf f.cause (lowest x.act) f.detail fa)
      | .ok bs => .ok (s.noteFetch g bs, fun _ => ptrOf (ofLeBytes (bs.map (fun b => b.1))))

/-- The access of one lane, checked: its virtual address, or the trap (R42). DESIGN CHOICE: an address of the parameter block that its start and
the offset put at 2^57 or beyond is translated as it stands; it neither wraps nor raises `BOUNDS` (log entry 81). -/
def laneCheck (x : Ctx) (g : Group) (p : Ptr) (l i : Nat) (k : Kind) : Except Trap Nat :=
  match checkPtr g p i (fmtInfo p.fmt).unit k with
  | .error (cause, a) => .error (x.trapOf cause l 0 a)
  | .ok a => .ok (if p.space = 5 then g.param + a else a)

/-- The first trap of a list of lanes, or every result. -/
def allLanesOk {α : Type} (f : Nat → Except Trap α) : List Nat → Except Trap (List (Nat × α))
  | [] => .ok []
  | l :: ls =>
    match f l with
    | .error t => .error t
    | .ok a =>
      match allLanesOk f ls with
      | .error t => .error t
      | .ok r => .ok ((l, a) :: r)

/-- One lane's access with its physical bytes: cells for the scratchpad, else what translation gives (R217, R221). -/
def laneXlate (x : Ctx) (g : Group) (s : State) (p : Ptr) (l i va : Nat) (need : Need) : Except Trap (LaneAcc × List Leaf) :=
  let n := (fmtInfo p.fmt).unit
  let b := unitBit p.fmt i
  if p.space = 2 then
    .ok ({ lane := l, va := va, n := n, bitOff := b, pa := (natsFrom va n).map (cellOf p.swz), share := 0, repl := 0,
           edge := false, value := 0, space := p.space, cls := p.cls, scope := p.scope, fmt := p.fmt, swz := p.swz }, [])
  else
    match s.xunit (s.viewOf g) g.loc.flat g.ctx va n need p.cls p.space with
    | .error f => .error (x.trapOf f.cause l f.detail va)
    | .ok u =>
      .ok ({ lane := l, va := va, n := n, bitOff := b, pa := natsFrom u.pa n, share := u.share, repl := u.repl,
             edge := u.edge, value := 0, space := p.space, cls := p.cls, scope := p.scope, fmt := p.fmt, swz := p.swz }, u.leaves)

/-- The lowest lane whose bytes the watched block holds (R426): `store` selects the enable bit. -/
def watchHit (s : State) (g : Group) (c : Crew) (x : Ctx) (store : Bool) (as : List LaneAcc) : Option LaneAcc :=
  let w := s.ctxReg g.ctx 0x28
  let blk := bits w 56 6 * 64
  if bit w 63 && bit w (if store then 61 else 62) then
    as.find? (fun a => decide (a.space ≠ 2) && decide (a.va < blk + 64 ∧ blk < a.va + a.n) &&
      !(match c.unwatched with
        | some (ad, m) => decide (ad = x.addr + 2 ^ 57) && m.getLsbD a.lane
        | none => false))
  else none

/-- A flight with nothing in it. -/
def newFlight (i : Instr) (x : Ctx) (id : Nat) (k : FlightKind) (as : List LaneAcc) : Flight :=
  { id := id, unit := x.unit, kind := k, addr := x.addr, lanes := as, typ := x.fl.h.typ, sat := x.fl.h.sat, d := x.fl.f.d.toNat, aux := 15, fault := none,
    replay := false, ins := i, qrec := none, ranges := [], away := false }

/-- Lanes of a flight as a mask. -/
def Flight.mask (f : Flight) : Word := f.lanes.foldl (fun m a => setLane m a.lane true) 0

/-- The lane's element takes part of a unit: a sub-byte or MX format (R55). -/
def LaneAcc.sub (a : LaneAcc) : Bool := decide ((fmtInfo a.fmt).bytes = 0)
/-- The lane's store does not enter the buffer (R223). -/
def LaneAcc.bypass (a : LaneAcc) : Bool :=
  decide (a.space = 2) || decide (a.space = 6) || decide (a.cls = 2) || a.sub
/-- Some lane's access synchronises. -/
def anySync (as : List LaneAcc) : Bool := as.any (fun a => decide (a.cls = 2))
/-- Some lane's access may leave the core. -/
def offCore (as : List LaneAcc) : Bool := as.any (fun a => decide (a.space ≠ 2))
/-- The widest scope of the synchronising lanes; 0 of none. -/
def syncScope (as : List LaneAcc) : Nat := as.foldl (fun n a => if a.cls = 2 then max n a.scope else n) 0
/-- Scratchpad cells of an access. -/
def cellsOf (as : List LaneAcc) : List Nat := (as.filter (fun a => a.space = 2)).flatMap (fun a => a.pa)

/-- The unit has an access of these lanes under way that a later one waits for: an acquire (R228), or for a write any
read (R315), or a store to the same bytes that has not been performed (R216). -/
def mustWait (g : Group) (x : Ctx) (write : Bool) (pas : List Nat) : Bool :=
  g.flights.any (fun f => decide (f.unit = x.unit) && decide (f.mask &&& x.act ≠ 0) &&
    (match f.kind with
     | .load => f.lanes.any (fun a => decide (a.cls = 2)) || write
     | .atomic => true
     | .store | .release => write || f.lanes.any (fun a => a.pa.any (fun q => pas.contains q))
     | _ => false))

/-- Two accesses of one thread have a byte in common; the access slice is one thread in whatever lanes its accesses stand. -/
def sameBytes (slice : Bool) (xs ys : List LaneAcc) : Bool :=
  xs.any (fun a => ys.any (fun b => (slice || decide (a.lane = b.lane)) && decide ((a.space = 2) = (b.space = 2)) && a.pa.any (fun q => b.pa.contains q)))

/-- A read of the same thread and a common byte was issued before `id` and is under way: a later one takes its turn behind it (R216, R316). -/
def Group.olderLoad (g : Group) (u id : Nat) (as : List LaneAcc) : Bool :=
  g.flights.any (fun f => decide (f.unit = u) && decide (f.id < id) && (decide (f.kind = .load) || decide (f.kind = .qload)) &&
    sameBytes (decide (u = 32)) f.lanes as)

/-- An access of another kind holds a line that this one touches until its write-back is accepted (R245). -/
def lineHeld (s : State) (g : Group) (pas : List Nat) : Bool :=
  s.groups.any (fun h => decide (h.loc.flat = g.loc.flat) && h.flights.any (fun f =>
    decide (f.kind = .writeback) && f.ranges.any (fun r => pas.any (fun q => decide (r.1 ≤ q ∧ q < r.1 + r.2)))))

/-- Fills the TLBs with the leaves of several lanes. -/
def State.noteAll (s : State) (g : Group) (xs : List (LaneAcc × List Leaf)) : State :=
  xs.foldl (fun t x => t.noteLeaves g.loc.flat g.ctx x.2) s

/-- The lanes of an access and how they stand after the checks at issue and translation. -/
inductive Formed where
  | trap (t : Trap)
  /-- A translation fault, with the checked virtual addresses (R218). -/
  | fault (t : Trap) (s : State) (as : List LaneAcc)
  /-- More misses of the core's TLB would be outstanding than may be: those given are sent, and the instruction waits (R380). -/
  | wait (es : List Ev)
  | ok (s : State) (as : List LaneAcc)

/-- Checks and translates every active lane of an access (R42, R217, R380, R426). -/
def formLanes (x : Ctx) (g : Group) (c : Crew) (s : State) (ps : Nat → Ptr) (idx : Nat → Nat) (k : Kind) (need : Need) : Formed :=
  match allLanesOk (fun l => laneCheck x g (ps l) l (idx l) k) x.lanes with
  | .error t => .trap t
  | .ok vas =>
    match s.missesWait (s.viewOf g) g.loc.flat g.ctx ((vas.filter (fun y => decide ((ps y.1).space ≠ 2))).flatMap
        (fun y => [y.2, y.2 + (fmtInfo (ps y.1).fmt).unit - 1])) with
    | some es => .wait es
    | none =>
    let bare := vas.map (fun (l, va) =>
      ({ lane := l, va := va, n := (fmtInfo (ps l).fmt).unit, bitOff := unitBit (ps l).fmt (idx l), pa := [], share := 0,
         repl := 0, edge := false, value := 0, space := (ps l).space, cls := (ps l).cls, scope := (ps l).scope,
         fmt := (ps l).fmt, swz := (ps l).swz } : LaneAcc))
    match allLanesOk (fun l => laneXlate x g s (ps l) l (idx l) (nget (fun _ => 0) vas l) need) x.lanes with
    | .error t => .fault t s bare
    | .ok r =>
      let s1 := s.noteAll g (r.map (fun y => y.2))
      let as := r.map (fun y => y.2.1)
      match watchHit s1 g c x (decide (need = 1)) as with
      | some a => .trap (x.trapOf 0x1A a.lane (if need = 1 then 1 else 0) a.va)
      | none => .ok s1 as

/-! ### Reading and writing one lane's unit -/

/-- Where a lane's bytes are: remote bytes need a request. -/
def LaneAcc.remote (a : LaneAcc) (s : State) (v : View) : Bool :=
  decide (a.space ≠ 2) && (match s.placeOf v (a.pa.headD 0) with
    | .local => false
    | _ => true)

/-- Bytes of other memories stay in the L1 only through a read-shared pointer (R220, Table 13-2). -/
def LaneAcc.cached (a : LaneAcc) : Bool := decide (a.cls = 1) && !a.edge

/-- The bytes of a lane's unit, where its line in the L1 holds every one of them as one fill left them (R55, R364). -/
def State.l1Bytes (s : State) (c : Nat) (pas : List Nat) : Option (List Byte) :=
  let q := pas.headD 0
  let o := q % 2 ^ 45 % 192
  match nfind? (s.core c).l1 (s.l1Key q) with
  | some l =>
    if o + pas.length ≤ 192 ∧ l.holds o pas.length ∧ !l.hasBad o pas.length then some ((natsFrom o pas.length).map (fun i => nget (fun _ => (0 : Byte)) l.data i))
    else none
  | none => none

/-- The address at which the group's core finds a byte: of a replicated page at its die's replica, or at the sequencer for an access that
synchronises (R383). -/
def State.findAt (s : State) (g : Group) (a : LaneAcc) (sync : Bool) (pa : Nat) : Nat :=
  if a.repl = 0 then pa % 2 ^ 45 else replAddr s (s.viewOf g) g.loc.die a.repl sync (pa % 2 ^ 45)

/-- The core's L1 answers a lane: it leaves the core for nothing (R230). -/
def State.inL1 (s : State) (g : Group) (a : LaneAcc) : Bool :=
  if a.remote s (s.viewOf g) then a.cached && (s.l1Bytes g.loc.flat a.pa).isSome
  else decide (policyOf a.cls a.share a.edge ≠ .home) &&
    (s.l1Bytes g.loc.flat (a.pa.map (fun q => s.peer * 2 ^ 45 + s.findAt g a false q))).isSome

/-- Entries of the transaction table that reads or atomics hold: one for each line that they leave the core for (R230). -/
def State.ottHold (s : State) (g : Group) (as : List LaneAcc) : Nat :=
  (accLines (as.filter (fun a => decide (a.space ≠ 2) && !s.inL1 g a))).length

/-- Entries of the write-combining buffer that drain before an access to their lines: each takes a transaction-table entry (R220, R230). -/
def State.drainNeed (s : State) (g : Group) (as : List LaneAcc) : Nat := ((accLines as).filter (fun q => (s.wcbAt g.loc.flat q).isSome)).length

/-- Entries of the transaction table that must be free for reads or atomics. -/
def State.ottNeed (s : State) (g : Group) (as : List LaneAcc) : Nat := s.ottHold g as + s.drainNeed g as

/-- A lane whose bytes stand in other memory takes at issue what its group's buffer or its L1 holds of them (R220, R224). -/
def State.awayLane (s : State) (g : Group) (a : LaneAcc) : LaneAcc :=
  if !a.remote s (s.viewOf g) then a
  else
    let buf := a.pa.zipIdx.filterMap (fun (y : Nat × Nat) => (g.forward y.1).map (fun x => (y.2, x)))
    let l1 := if a.cached then ((s.l1Bytes g.loc.flat a.pa).getD []).zipIdx.map (fun (y : Byte × Nat) => (y.2, y.1)) else []
    { a with away := true, fwd := buf ++ l1 }

/-- The lane needs an answer: some byte of it was not at hand. -/
def LaneAcc.asks (a : LaneAcc) : Bool := a.away && (natsFrom 0 a.n).any (fun o => (nfind? a.fwd o).isNone)

/-- The unit of a lane whose bytes stand in other memory: what was at hand at issue over what the answer brought. -/
def LaneAcc.awayBytes (a : LaneAcc) : List Byte :=
  (leBytes a.n a.value).zipIdx.map (fun (y : Byte × Nat) => (nfind? a.fwd y.2).getD y.1)

/-- The bytes that a lane's read asks for: its unit; to fill the L1 the line of a host address, of a peer's the sectors that the unit
lies in (R480). -/
def LaneAcc.wanted (a : LaneAcc) (host : Bool) : Nat × Nat × Bool :=
  let q := a.pa.headD 0
  let o := q % 2 ^ 45 % 192
  if !a.cached || decide (192 < o + a.n) then (q, a.n, false)
  else if host then (q - o, 192, true)
  else (q - o % 48, ((o + a.n - 1) / 48 + 1 - o / 48) * 48, true)

/-- Sends the reads of the lanes that need an answer, behind the write-combining entries of the lines of all (R220, R327). A read that brings
another lane's bytes with it is sent once where it fills the L1 or `share` says so. A prefetch, `fid` 0, asks for the line (R234). -/
def State.askLoads (s : State) (g : Group) (fid : Nat) (share : Bool) (as : List LaneAcc) : State :=
  let c := g.loc.flat
  let asking := as.filter LaneAcc.asks
  let s1 := (as.filter (fun a => a.away)).foldl (fun (t : State) a => t.drainLine c (a.pa.headD 0)) s
  let host := fun (a : LaneAcc) => match s.placeOf (s.viewOf g) (a.pa.headD 0) with
    | .host _ => true
    | _ => false
  (asking.foldl (fun (acc : State × List (Nat × Nat)) a =>
    let w := a.wanted (host a || decide (fid = 0))
    if (share || w.2.2) && acc.2.any (fun y => decide (y.1 ≤ w.1 ∧ w.1 + w.2.1 ≤ y.1 + y.2)) then acc
    else
      (acc.1.sendRemote { tag := 0, gid := g.id, fid := fid, lane := a.lane, op := 0, pa := w.1, len := w.2.1, data := [], mask := 0
                          queue := g.queue, core := c, part := 0, since := 0, fill := w.2.2 }, acc.2 ++ [(w.1, w.2.1)])) (s1, [])).1

/-- Reads a lane's unit as the group's core does: the cells, what was at hand or answered of other memory, else the buffer's bytes and the
rest as one read of the memory, a plain one behind the group's own stores to a replicated page (R219 to R224, R328). -/
def State.readAcc (s : State) (g : Group) (a : LaneAcc) : Option (State × List Byte) :=
  if a.away then some (s, a.awayBytes)
  else if a.space = 2 then some (s, a.pa.map g.cell)
  else
    let sync := decide (a.cls = 2)
    let need := a.pa.filter (fun q => (g.forward q).isNone)
    match s.coreRead (s.viewOf g) g.loc.flat (policyOf a.cls a.share a.edge) (need.map (s.findAt g a sync)) with
    | none => none
    | some (s1, bs) =>
      let own := fun (q : Nat) => if a.repl = 0 ∨ sync then none else s.ownReplByte g.id g.loc.die (q % 2 ^ 45)
      some (s1, a.pa.map (fun q => (g.forward q).getD ((own q).getD (nget (fun _ => 0) (need.zip bs) q))))

/-- Reads a lane's unit at its destination, past the buffer: the cells, the L1 of a private page, else the home; of a replicated page at its
sequencer (R215, R233, R328). -/
def State.destRead (s : State) (g : Group) (a : LaneAcc) : Option (State × List Byte) :=
  if a.space = 2 then some (s, a.pa.map g.cell)
  else
    let p := if policyOf a.cls a.share a.edge = .untracked ∧ a.repl = 0 then Policy.untracked else .home
    s.coreRead (s.viewOf g) g.loc.flat p (a.pa.map (s.findAt g a true))

/-- Writes a lane's unit at its destination, past the buffer (R219 to R221, R383). A write that its flight `fid` waits for goes to other
packages and partitions as a request of its own; else `fid` is 0. -/
def State.writeAcc (s : State) (gid fid : Nat) (a : LaneAcc) (bs : List Byte) : State :=
  match s.group? gid with
  | none => s
  | some g =>
    if a.space = 2 then s.setGroup ((a.pa.zip bs).foldl (fun h (k, x) => h.setCell k x) g)
    else
      let c := g.loc.flat
      let q := a.pa.headD 0
      let far := match s.placeOf (s.viewOf g) q with
        | .peer | .other _ => true
        | _ => false
      if decide (fid ≠ 0) && far then ((s.drainLine c q).dropCopy c q).sendRemote
        { tag := 0, gid := gid, fid := fid, lane := a.lane, op := 1, pa := q, len := bs.length, data := bs
          mask := 2 ^ bs.length - 1, queue := g.queue, core := c, part := 0, since := 0, owners := [gid] }
      else s.putRun g (policyOf a.cls a.share a.edge) a.share a.repl q bs

/-- Writes a lane's unit behind what was read of it in the same step: on a replicated page the sequencer stamps it at once, so that no write comes
between (R317, R328). -/
def State.putUnit (s : State) (gid fid : Nat) (a : LaneAcc) (bs : List Byte) : State :=
  match s.group? gid with
  | none => s
  | some g =>
    if a.space = 2 ∨ a.repl = 0 then s.writeAcc gid fid a bs
    else
      let q := a.pa.headD 0 % 2 ^ 45
      s.stamp (s.viewOf g) { frame := q / a.repl * a.repl, size := a.repl, off := q % a.repl, bytes := bs, queue := g.queue, owner := gid, id := s.nextId }

/-- A read or write of these lanes cannot be performed now: a home takes no request (R369), a set of the L1 has no way free of pending write-backs
(R245), or stores of the group to a replicated page that a synchronising access or a read-modify-write finds at its sequencer have not reached
it, or the page is held (R216, R328, R502). -/
def State.homeWaits (s : State) (g : Group) (rmw : Bool) (as : List LaneAcc) : Bool :=
  let v := s.viewOf g
  as.any (fun a => decide (a.space ≠ 2) && !a.away && !a.remote s v &&
    (let frame := a.pa.headD 0 % 2 ^ 45 / a.repl * a.repl
     let sync := decide (a.cls = 2) || rmw
     let line := s.findAt g a sync (a.pa.headD 0) / 192
     (if policyOf a.cls a.share a.edge ≠ .home ∧ !sync ∧ s.inL1 g a then false else s.homeBusy v line) ||
       (decide (policyOf a.cls a.share a.edge ≠ .home) && s.l1Full g.loc.flat line) ||
       (sync && decide (a.repl ≠ 0) && ((rmw && s.pageHeld v frame) || s.toStamp.any (fun w => decide (w.owner = g.id ∧ w.frame = frame))))))

/-! ### `LD` (R212, R213, R218) -/

/-- A load of an 8-byte format with T 0 (R213): the lowest active lane with such a pointer. -/
def rawWide (x : Ctx) (ps : Nat → Ptr) : Option Nat :=
  if x.fl.h.typ = 0 then x.lanes.find? (fun l => decide ((fmtInfo (ps l).fmt).bytes = 8)) else none

/-- Why a load formed of these lanes does not issue now: the order of its thread's accesses (R216, R228, R279), a line that is held (R245),
or the transaction table (R230). -/
def loadWaits (s : State) (g : Group) (x : Ctx) (as : List LaneAcc) : Option Stall :=
  let pas := as.flatMap (fun a => a.pa)
  let n := s.ottNeed g as
  if cmdsHold g x.unit (accFoot as false) || mustWait g x false pas || lineHeld s g pas ||
      (as.any (fun a => a.remote s (s.viewOf g)) && g.olderLoad x.unit s.nextId as) then some .other
  else if decide (n ≠ 0) && !s.ottFree g.loc.flat x.gid x.unit (anySync as) n then some (.ott (anySync as) n)
  else none

/-- A load of these lanes begins: its flight, the entries that it takes, and its reads of other memory. -/
def State.startLoad (s : State) (i : Instr) (x : Ctx) (g : Group) (as : List LaneAcc) : State :=
  let las := as.map (s.awayLane g)
  let f := { newFlight i x s.nextId .load las with away := las.any LaneAcc.asks, entries := s.ottHold g as }
  ((s.ottTake g.loc.flat x.gid x.unit).launchFlight x.gid f 0 (.loadComplete x.gid f.id)).askLoads g f.id false las

/-- Sends a load: its flight, and for the access slice the hold until its data is written. -/
def sendLoad (i : Instr) (x : Ctx) (g : Group) (c : Crew) (s0 : State) : Res :=
  match lanePtr x g c s0 with
  | .error t => .trap t
  | .ok (s, ps) =>
    match rawWide x ps with
    | some l => .trap (x.trapOf 0x08 l 0 (ps l).base)
    | none =>
      match formLanes x g c s ps (fun l => x.b c l % 2 ^ 32) .load 0 with
      | .trap t => .trap t
      | .wait es => .miss es
      | .fault t s1 as =>
        if x.access then .trap t
        else
          let f := { newFlight i x s1.nextId .load as with fault := some t }
          .done (s1.launchFlight x.gid f 0 (.loadTranslationFault x.gid f.id))
      | .ok s1 as =>
        match loadWaits s1 g x as with
        | some w => .stall w
        | none => .done (s1.startLoad i x g as)

/-- Loads and atomics of a unit that can still become records of its operand log, with those there (R34). -/
def logUse (g : Group) (c : Crew) (u : Nat) : Nat :=
  c.log.length + (g.flights.filter (fun f => decide (f.unit = u) && (decide (f.kind = .load) || decide (f.kind = .atomic)))).length

/-- `LD` in either form: the limits of R33 and R34, then the load. With no active lane its `ld` rises all the same (R94). -/
def ldOp (i : Instr) (s : State) : Out :=
  issue i s (fun x g c t =>
    if 63 ≤ c.ld then .stall .other
    else if 16 ≤ logUse g c x.unit then .stall .other
    else if x.act = 0 then .done (t.startLoad i x g [])
    else sendLoad i x g c t)

/-- `LD` (R212). -/
def execLd (f : Word0) (h : Word1) (s : State) : Out := ldOp (.ld f h) s
/-- `LD` through a pointer literal (R210). -/
def execLd12 (f : Word0) (h : Word1) (w : Word) (s : State) : Out := ldOp (.ld12 f h w) s

/-! ### `ST` (R212 to R216, R223, R227) -/

/-- The bytes of element value `v` of a lane written over the unit's old bytes (R215). -/
def storeBytes (fmt : Nat) (a : LaneAcc) (t : BitVec 5) (sat : Bool) (v : Nat) (old : List Byte) : List Byte := elemBytes fmt a.n a.bitOff t sat v old

/-- A lane's bytes lie within the save slots of the group's context (R424). -/
def inSlots (s : State) (g : Group) (a : LaneAcc) : Bool :=
  decide (s.slotBase g.ctx ≤ a.va ∧ a.va + a.n ≤ s.slotBase g.ctx + s.slotCount g.ctx * s.slotSize g.ctx)

/-- Every lane writes the scratchpad, the thread's stack or a save slot: no commit (R226). -/
def noCommit (s : State) (g : Group) (as : List LaneAcc) : Bool := as.all (fun a => decide (a.space = 2 ∨ a.space = 6) || inSlots s g a)

/-- A group's memory is no more as its start found it (R226). -/
def State.markCommitted (s : State) (gid : Nat) (no : Bool) : State := if no then s else s.onGroup gid (fun h => { h with committed := true })

/-- Sectors that the buffered lanes of a store would commit, for it to fit the group's buffer (R222). -/
def overflow (g : Group) (as : List LaneAcc) : Nat :=
  let fresh := ((as.flatMap (fun a => sectorsOf (a.pa.headD 0) a.n)).eraseDups.filter (fun b => !g.bsb.any (fun y => y.addr = b))).length
  g.bsb.length + fresh - 32 * g.desc.bsbg

/-- Lanes of a store that do not enter the buffer: those that bypass it, and those that write a byte of one of these, so that the highest lane's
byte remains (R216, R223). -/
def passing (as : List LaneAcc) : List LaneAcc :=
  let b := as.filter (fun a => a.bypass && decide (a.space ≠ 2))
  as.filter (fun a => a.bypass || b.any (fun c => a.pa.any (fun q => c.pa.contains q)))

/-- The buffer holds a byte that lanes outside it access: the group's older store is performed first (R216). -/
def Group.buffers (g : Group) (as : List LaneAcc) : Bool := as.any (fun a => decide (a.space ≠ 2) && a.pa.any (fun q => (g.forward q).isSome))

/-- A store commits the buffer before it is performed (R223): for a synchronising, sub-byte or MX lane, or a byte that it finds in the buffer; one
to a save slot never does (R424). -/
def storeCommits (s : State) (g : Group) (as : List LaneAcc) : Bool :=
  let past := (passing as).filter (fun a => !inSlots s g a)
  anySync past || past.any LaneAcc.sub || g.buffers past

/-- Why a store formed of these lanes does not issue now. The sectors that it commits take entries with it (R230, R416), and none of them
may lie in a line that is held (R245). -/
def storeWaits (s : State) (g : Group) (x : Ctx) (as : List LaneAcc) : Option Stall :=
  let past := passing as
  let commits := storeCommits s g as
  let extra := overflow g (as.filter (fun a => !(passing as).contains a))
  let n := (accLines past).length + s.drainNeed g past + (if commits then g.bsb.length else extra)
  if cmdsHold g x.unit (accFoot as true) || mustWait g x true [] || lineHeld s g (as.flatMap (fun a => a.pa)) ||
      ((commits || decide (extra ≠ 0)) && s.commitHeld g) then some .other
  else if decide (n ≠ 0) && !s.ottFree g.loc.flat x.gid x.unit (anySync past) n then some (.ott (anySync past) n)
  else none

/-- Writes the lanes of a store at their destinations, in ascending order (R215, R216); `fid` as `writeAcc` takes it. A unit that is written
in part is read there first, in the same action; in other packages and the host's memory it was read by a request of its own, for which the
packets of Tables 16-5 and 17-5 give no other way (log entry 82). `seen`: units of these that lanes before have written. -/
def State.storeLanes (s : State) (gid fid : Nat) (f : Flight) (seen : List (Nat × List Byte)) : List LaneAcc → Option State
  | [] => some s
  | a :: r =>
    match s.group? gid with
    | none => none
    | some g =>
      let bytes := storeBytes a.fmt a f.typ f.sat a.value
      if !a.sub then (s.writeAcc gid fid a (bytes (List.replicate a.n 0))).storeLanes gid fid f seen r
      else
        let q := a.pa.headD 0
        match (if a.space = 2 then Place.local else s.placeOf (s.viewOf g) q) with
        | .local =>
          match s.destRead g a with
          | none => none
          | some (s1, old) => (s1.putUnit gid fid a (bytes old)).storeLanes gid fid f seen r
        | .other _ =>
          (s.sendRemote { tag := 0, gid := gid, fid := fid, lane := a.lane, op := 5, pa := q, len := a.n, data := elemData a.fmt a.bitOff f.typ f.sat a.value
                          mask := 0, queue := g.queue, core := g.loc.flat, part := 0, since := 0, owners := [gid] }).storeLanes gid fid f seen r
        | _ =>
          let bs := bytes (((seen.find? (fun y => decide (y.1 = q))).map (fun y => y.2)).getD (leBytes a.n a.old))
          (s.writeAcc gid fid a bs).storeLanes gid fid f ((q, bs) :: seen) r

/-- A store of these lanes begins: those that pass the buffer become a flight, the others enter it (R222, R223). Scratchpad lanes of a
store that synchronises are written now (R221). DESIGN CHOICE: a store enters the buffer in the step in which it issues, so that a `QLD` that
follows it by way of a back queue alone reads its bytes, which R347 does not ask for (log entry 81). -/
def State.startStore (s : State) (i : Instr) (x : Ctx) (g : Group) (vals : List LaneAcc) : State :=
  let past := passing vals
  let commits := storeCommits s g vals
  let n := (accLines past).length + (if commits then g.bsb.length else 0)
  let s2 := if commits then s.commitAll x.gid else s
  let s3 := if 3 ≤ syncScope past then s2.drainAllWcb g.loc.flat else s2
  let s4 := (vals.filter (fun a => !past.contains a)).foldl (fun (t : State) a =>
    let bs := storeBytes a.fmt a x.fl.h.typ x.fl.h.sat a.value (List.replicate a.n 0)
    if inSlots s g a then t.writeAcc x.gid 0 a bs
    else t.bsbStore x.gid a.share a.repl a.edge (a.pa.headD 0) bs) (s3.ottTake g.loc.flat x.gid x.unit)
  if past.isEmpty then s4
  else
    let sync := anySync past
    let now := if sync then past.filter (fun a => a.space = 2) else []
    let f := { newFlight i x s4.nextId (if sync then .release else .store) (past.filter (fun a => !now.contains a)) with entries := n }
    let s5 := if now.isEmpty then s4 else ((s4.storeLanes x.gid 0 f [] now).getD s4).onGroup x.gid (fun h => h.bumpGen (cellsOf now))
    let ev : Ev := if sync then .releasePerformed x.gid f.id else .storePerformed x.gid f.id
    (s5.markCommitted x.gid (noCommit s g past)).launchFlight x.gid f 1 ev

/-- Sends a store. -/
def sendStore (i : Instr) (x : Ctx) (g : Group) (c : Crew) (s0 : State) : Res :=
  match lanePtr x g c s0 with
  | .error t => .trap t
  | .ok (s, ps) =>
    match rawWide x ps with
    | some l => .trap (x.trapOf 0x08 l 0 (ps l).base)
    | none =>
      match formLanes x g c s ps (fun l => x.b c l % 2 ^ 32) .store 1 with
      | .trap t => .trap t
      | .wait es => .miss es
      | .fault t _ _ => .trap t
      | .ok s1 as =>
        match storeWaits s1 g x as with
        | some w => .stall w
        | none => .done (s1.startStore i x g (as.map (fun a => { a with value := x.c c a.lane })))

/-- `ST` in either form. -/
def stOp (i : Instr) (s : State) : Out :=
  issue i s (fun x g c t =>
    if 63 ≤ c.st then .stall .other
    else if x.act = 0 then .done t
    else sendStore i x g c t)

/-- `ST` (R212). -/
def execSt (f : Word0) (h : Word1) (s : State) : Out := stOp (.st f h) s
/-- `ST` through a pointer literal (R210). -/
def execSt12 (f : Word0) (h : Word1) (w : Word) (s : State) : Out := stOp (.st12 f h w) s

/-! ### `ATOM` and `CAS` (R232, R233, Table 08-5) -/

/-- `ATOM_FORMAT` (R233) for a pointer, an operation (16 for `CAS`) and a type. -/
def atomBad (p : Ptr) (sub : Nat) (t : BitVec 5) : Bool :=
  let f := fmtInfo p.fmt
  let isF := decide (t = 9 ∨ t = 0x0A)
  decide (f.bytes * 8 ≠ tyBits t) || (isF && !(decide (f.kind = 2) && decide (f.typ = t))) || (decide (f.kind = 2) && !isF)
    || ((decide (p.space = 3) || decide (p.space = 4)) && (!(decide (sub = 0) || decide (sub = 8) || decide (sub = 16)) ||
        (decide (p.space = 3) && isF)))

/-- Earlier accesses of a flight's unit that a release waits for (R227). -/
def Group.earlierWrites (g : Group) (f : Flight) : Bool :=
  g.flights.any (fun h => decide (h.unit = f.unit) && decide (h.id < f.id) &&
    (match h.kind with
     | .store | .release | .writeback | .atomic => true
     | _ => false))

/-- A write of this flight may perform now: what R227 lists is complete where it synchronises, and the homes take it, with what the group has
stored to the replicated pages it names at their sequencers and no such page held (R216, R227, R229, R369, R502). -/
def State.mayPerform (s : State) (g : Group) (f : Flight) : Bool :=
  (!anySync f.lanes || (s.drained g (syncScope f.lanes) f.id && !g.earlierWrites f)) && !s.homeWaits g true f.lanes

/-- One lane's read-modify-write: the old value, and for `CAS` whether it succeeded (R232). -/
def State.atomLane (s : State) (gid : Nat) (f : Flight) (sub : Nat) (a : LaneAcc) (oper : Nat) : Option (State × Nat) :=
  match s.group? gid with
  | none => none
  | some g =>
    match s.destRead g a with
    | none => none
    | some (s1, bs) =>
      let old := ofLeBytes bs
      let n := tyBits f.typ
      if sub = 16 then
        if old = oper % 2 ^ n then some (s1.putUnit gid 0 a (leBytes a.n (oper / 2 ^ n % 2 ^ n)), old + 2 ^ 64)
        else some (s1, old)
      else some (s1.putUnit gid 0 a (leBytes a.n (atomNew sub f.typ old oper)), old)

/-- Performs the lanes of an atomic in ascending order, up to one in other memory: its request goes out and the lanes behind it wait for the
answer (R232). The values found replace the operands. Gives the lanes and how many are performed; none where data is uncorrectable. -/
def State.atomLanes (s : State) (g : Group) (f : Flight) (sub : Nat) : List LaneAcc → Option (State × List LaneAcc × Nat)
  | [] => some (s, [], 0)
  | a :: r =>
    let far := a.remote s (s.viewOf g)
    if far && !a.away then
      let op := if sub = 0 then 2 else if sub = 16 then 4 else if sub = 8 then 3 else 64 + 32 * sub + f.typ.toNat
      some (((s.drainLine g.loc.flat (a.pa.headD 0)).dropCopy g.loc.flat (a.pa.headD 0)).sendRemote
        { tag := 0, gid := g.id, fid := f.id, lane := a.lane, op := op, pa := a.pa.headD 0, len := a.n
          data := leBytes (if sub = 16 then 2 * a.n else a.n) a.value, mask := 0, queue := g.queue, core := g.loc.flat, part := 0, since := 0 },
        { a with away := true } :: r, 0)
    else
      match (if far then some (s, a.value) else s.atomLane g.id f sub a a.value) with
      | none => none
      | some (s1, old) =>
        match s1.atomLanes g f sub r with
        | none => none
        | some (s2, as, k) => some (s2, { a with value := old } :: as, k + 1)

/-- The `SUB` of an atomic; 16 for `CAS`. -/
def atomSub : Instr → Nat
  | .atom _ h | .atom12 _ h _ => h.sub.toNat
  | _ => 16

/-- The lane's operation, performed, wrote: every one but a `CAS` that failed. -/
def LaneAcc.wrote (sub : Nat) (a : LaneAcc) : Bool := decide (sub ≠ 16 ∨ 2 ^ 64 ≤ a.value)

/-- PERFORMS the lanes of an atomic flight that are not performed, as far as they go without an answer; with the last, what it has written of the
scratchpad is one write (R31, R232, R233). -/
def State.performAtomic (s : State) (g : Group) (f : Flight) : Option State :=
  match s.atomLanes g f (atomSub f.ins) (f.lanes.drop f.done) with
  | none => none
  | some (s1, as, k) =>
    let f1 := { f with lanes := f.lanes.take f.done ++ as, done := f.done + k, away := as.any (fun a => a.away) }
    let cells := if f1.done = f1.lanes.length then cellsOf (f1.lanes.filter (LaneAcc.wrote (atomSub f.ins))) else []
    some (s1.onGroup g.id (fun h => { h.bumpGen cells with flights := h.flights.map (fun (y : Flight) => if y.id = f.id then f1 else y) }))

/-- Sectors that an atomic of these lanes commits first: all, but none where every lane lies in a save slot (R223, R424). -/
def atomCommits (s : State) (g : Group) (as : List LaneAcc) : Nat := if as.all (inSlots s g) then 0 else g.bsb.length

/-- Why an atomic formed of these lanes does not issue now. -/
def atomWaits (s : State) (g : Group) (x : Ctx) (as : List LaneAcc) : Option Stall :=
  let n := s.ottNeed g as + atomCommits s g as
  if cmdsHold g x.unit (accFoot as true) || mustWait g x true [] || lineHeld s g (as.flatMap (fun a => a.pa)) ||
      (decide (atomCommits s g as ≠ 0) && s.commitHeld g) then some .other
  else if decide (n ≠ 0) && !s.ottFree g.loc.flat x.gid x.unit (anySync as) n then some (.ott (anySync as) n)
  else none

/-- The flight of an atomic of these lanes, begun at a state. -/
def State.atomFlight (s : State) (i : Instr) (sub : Nat) (x : Ctx) (vals : List LaneAcc) (n : Nat) : Flight :=
  { newFlight i x s.nextId .atomic vals with aux := if sub = 16 then x.fl.h.sub.toNat else 15, entries := n }

/-- An atomic of these lanes begins: the buffer commits and its flight is under way (R225, R232). -/
def State.startAtomic (s : State) (i : Instr) (sub : Nat) (x : Ctx) (g : Group) (vals : List LaneAcc) : State × Flight :=
  let s2 := if atomCommits s g vals = 0 then s else s.commitAll x.gid
  let s3 := if 3 ≤ syncScope vals then s2.drainAllWcb g.loc.flat else s2
  let s4 := (s3.markCommitted x.gid (noCommit s g vals)).ottTake g.loc.flat x.gid x.unit
  let f := s4.atomFlight i sub x vals (s.ottHold g vals + atomCommits s g vals)
  (s4.launchFlight x.gid f 0 (.atomicComplete x.gid f.id), f)

/-- Sends an atomic or `CAS` (`sub` 16): performed at once where nothing must come first, else in the step that completes it. -/
def sendAtomic (i : Instr) (sub : Nat) (x : Ctx) (g : Group) (c : Crew) (s0 : State) : Res :=
  match lanePtr x g c s0 with
  | .error t => .trap t
  | .ok (s, ps) =>
    match allLanesOk (fun l => laneCheck x g (ps l) l (x.b c l % 2 ^ 32) .atomic) x.lanes,
        x.lanes.find? (fun l => atomBad (ps l) sub x.fl.h.typ) with
    | .error t, _ => .trap t
    | _, some l => .trap (x.trapOf 0x0E l 0 (ps l).base)
    | .ok _, none =>
      match formLanes x g c s ps (fun l => x.b c l % 2 ^ 32) .atomic 1 with
      | .trap t => .trap t
      | .wait es => .miss es
      | .fault t _ _ => .trap t
      | .ok s1 as =>
        match atomWaits s1 g x as with
        | some w => .stall w
        | none =>
          let y := s1.startAtomic i sub x g (as.map (fun a => { a with value := x.c c a.lane }))
          if y.1.mayPerform g y.2 then
            match y.1.performAtomic g y.2 with
            | none => .error 0x21
            | some s6 => .done s6
          else .done y.1

/-- `ATOM` or `CAS` in either form. With no active lane its `ld` rises all the same (R94). -/
def atomOp (i : Instr) (cas : Bool) (s : State) : Out :=
  issue i s (fun x g c t =>
    if 63 ≤ c.ld then .stall .other
    else if 16 ≤ logUse g c x.unit then .stall .other
    else if x.act = 0 then
      let f := t.atomFlight i (if cas then 16 else x.fl.h.sub.toNat) x [] 0
      .done (t.launchFlight x.gid f 0 (.atomicComplete x.gid f.id))
    else sendAtomic i (if cas then 16 else x.fl.h.sub.toNat) x g c t)

/-- `ATOM` (R232). -/
def execAtom (f : Word0) (h : Word1) (s : State) : Out := atomOp (.atom f h) false s
/-- `ATOM` through a pointer literal. -/
def execAtom12 (f : Word0) (h : Word1) (w : Word) (s : State) : Out := atomOp (.atom12 f h w) false s
/-- `CAS` (R232). -/
def execCas (f : Word0) (h : Word1) (s : State) : Out := atomOp (.cas f h) true s
/-- `CAS` through a pointer literal. -/
def execCas12 (f : Word0) (h : Word1) (w : Word) (s : State) : Out := atomOp (.cas12 f h w) true s

/-! ### `PREF` (R234) -/

/-- Brings the line of one lane's element into the L1 where its class and page allow; a line of other memory by a read that fills the L1, which its
group's end awaits (R16). -/
def prefLane (x : Ctx) (g : Group) (s : State) (p : Ptr) (l i : Nat) : State :=
  match laneCheck x g p l i .prefetch with
  | .error _ => s
  | .ok va =>
    if p.space = 2 then s else
      match laneXlate x g s p l i va 0 with
      | .error _ => s
      | .ok (a, ls) =>
        if policyOf p.cls a.share a.edge = .home then s
        else if a.remote s (s.viewOf g) then
          if a.cached && (s.l1Bytes g.loc.flat (natsFrom (lineStart (a.pa.headD 0)) 192)).isNone then
            (s.noteLeaves g.loc.flat g.ctx ls).askLoads g 0 true [{ a with away := true }]
          else s
        else
          match s.coreReadUnit (s.viewOf g) g.loc.flat (policyOf p.cls a.share a.edge) (s.findAt g a false (a.pa.headD 0) / 192 * 192) 192 with
          | none => s
          | some (s1, _) => s1.noteLeaves g.loc.flat g.ctx ls

/-- The lanes of a prefetch whose checks pass, with their addresses. -/
def prefVas (x : Ctx) (g : Group) (c : Crew) (ps : Nat → Ptr) : List (Nat × Nat) :=
  x.lanes.filterMap (fun l => match laneCheck x g (ps l) l (x.b c l % 2 ^ 32) .prefetch with
    | .ok va => if (ps l).space = 2 then none else some (l, va)
    | .error _ => none)

/-- A lane of a prefetch touches a line whose write-back is pending, or has no place in the L1: it waits at issue (R245). -/
def prefHeld (x : Ctx) (g : Group) (c : Crew) (s : State) (ps : Nat → Ptr) : Bool :=
  (prefVas x g c ps).any (fun y => match laneXlate x g s (ps y.1) y.1 (x.b c y.1 % 2 ^ 32) y.2 0 with
    | .ok (a, _) => lineHeld s g a.pa || (decide (policyOf (ps y.1).cls a.share a.edge ≠ .home) && s.l1Full g.loc.flat (s.l1Key (a.pa.headD 0)))
    | .error _ => false)

/-- `PREF` in either form: no trap of its own, no counter; dropped when few transaction entries are free. It waits at issue as any access does for
a held line and for misses of the core's TLB (R245, R380). A fault in fetching its pointer literal is a fetch fault, which traps (DESIGN CHOICE,
log entry 74). -/
def prefOp (i : Instr) (s : State) : Out :=
  issue i s (fun x g c t =>
    if x.act = 0 ∨ 448 < t.ottUsed g.loc.flat then .done t
    else
      match lanePtr x g c t with
      | .error tr => if x.row.w2 = .offset then .trap tr else .done t
      | .ok (t1, ps) =>
        match t1.missesWait (t1.viewOf g) g.loc.flat g.ctx ((prefVas x g c ps).map (fun y => y.2)) with
        | some es => .miss es
        | none =>
          if prefHeld x g c t1 ps then .stall .other
          else .done (x.lanes.foldl (fun u l => prefLane x g u (ps l) l (x.b c l % 2 ^ 32)) t1))

/-- `PREF` (R234). -/
def execPref (f : Word0) (h : Word1) (s : State) : Out := prefOp (.pref f h) s
/-- `PREF` through a pointer literal. -/
def execPref12 (f : Word0) (h : Word1) (w : Word) (s : State) : Out := prefOp (.pref12 f h w) s

/-! ### Completions -/

/-- Reads every lane of a load; the element values as the destination receives them. -/
def State.readLanes (s : State) (gid : Nat) (f : Flight) : List LaneAcc → Option (State × List (Nat × Nat))
  | [] => some (s, [])
  | a :: r =>
    match s.group? gid with
    | none => none
    | some g =>
      match s.readAcc g a with
      | none => none
      | some (s1, bs) =>
        match s1.readLanes gid f r with
        | none => none
        | some (s2, xs) => some (s2, (a.lane, loadConvert a.fmt (ofLeBytes bs) a.bitOff f.typ f.sat) :: xs)

/-- A flight still waits for a remote answer. -/
def State.awaits (s : State) (gid fid : Nat) : Bool := s.remote.any (fun r => r.gid = gid ∧ r.fid = fid)

/-- `LOAD_COMPLETE`: the read is performed, the destination written and `ld` lowered (R212). An access slice's load that was refused traps at its
own address, where it runs again (Table 15-1). -/
def execLoadComplete (gid fid : Nat) (s : State) : Out :=
  match s.flight? gid fid with
  | none => .next s
  | some (g, f) =>
    if f.away ∧ s.awaits gid fid then .next (s.post (.loadComplete gid fid))
    else if g.dead then .next (s.landFlight gid f 0)
    else
      match f.fault with
      | some t => .next ((((s.landFlight gid f 0).onGroup gid (fun h => h.setUnit f.unit ((h.unit f.unit).setPc 0 f.addr))).raise gid f.unit t).settle gid)
      | none =>
        if g.olderLoad f.unit f.id f.lanes || s.homeWaits g false f.lanes then .next (s.post (.loadComplete gid fid))
        else
        match s.readLanes gid f f.lanes with
        | none => .next ((s.landFlight gid f 0).contain gid 0x21)
        | some (s1, vals) =>
          let s2 := s1.onGroup gid (fun h => h.setUnit f.unit
            (vals.foldl (fun c (l, v) => c.writeDest (decide (f.unit = 32)) l f.d (destCount f.typ) v) (h.unit f.unit)))
          .next ((s2.landFlight gid f 0).settle gid)

/-- The operand-log record of a load (R422). -/
def Flight.logRec (f : Flight) (cause : Nat) : LogRec :=
  { seq := f.id, addr := f.addr, typ := f.typ, d := f.d, sat := f.sat, replay := false, fcode := cause, valid := true, mask := f.mask
    accs := f.lanes }

/-- A record takes its place by age in the operand log (R419, R425). -/
def addLog (l : List LogRec) (r : LogRec) : List LogRec :=
  l.takeWhile (fun y => decide (y.seq ≤ r.seq)) ++ [r] ++ l.dropWhile (fun y => decide (y.seq ≤ r.seq))

/-- `LOAD_TRANSLATION_FAULT`: the load's record enters the operand log and its trap is taken at the crew's boundary; `ld`
still counts it (R218, R421). -/
def execLoadTranslationFault (gid fid : Nat) (s : State) : Out :=
  match s.flight? gid fid with
  | none => .next s
  | some (g, f) =>
    let s1 := s.onGroup gid (fun h => { h with flights := h.flights.filter (fun y => y.id ≠ fid) })
    if g.dead then .next s1
    else
      match f.fault with
      | none => .next s1
      | some t =>
        let s2 := s1.onGroup gid (fun h => h.setUnit f.unit { h.unit f.unit with log := addLog (h.unit f.unit).log (f.logRec t.cause) })
        .next ((s2.raise gid f.unit { t with seq := fid + 1 }).settle gid)

/-- Sets how far a flight has come. -/
def State.setDone (s : State) (gid fid n : Nat) : State :=
  s.onGroup gid (fun h => { h with flights := h.flights.map (fun (y : Flight) => if y.id = fid then { y with done := n } else y) })

/-- Lanes of a store that write part of a unit of another package or the host, which is asked for first (R55, R215). -/
def State.oldUnits (s : State) (g : Group) (f : Flight) : List LaneAcc :=
  if f.done = 0 then f.lanes.filter (fun a => a.sub && decide (a.space ≠ 2) && (match s.placeOf (s.viewOf g) (a.pa.headD 0) with
    | .peer | .host _ => true
    | _ => false)) else []

/-- Asks for what the units that a store writes in part hold, once each. -/
def State.askOld (s : State) (g : Group) (fid : Nat) (as : List LaneAcc) : State :=
  (s.setDone g.id fid 1).askLoads g fid true (as.map (fun a => { a with away := true, cls := 2, fwd := [] }))

/-- Some lane of a store is not performed when it is written: it is accepted elsewhere (R212, R227, R328). -/
def Flight.farWrite (f : Flight) (s : State) (g : Group) : Bool :=
  f.lanes.any (fun a => decide (a.repl ≠ 0) || a.remote s (s.viewOf g))

/-- PERFORMS a store that bypasses the buffer: once what it waits for is complete, it is written at its destination; where that is elsewhere `st`
falls when the write is accepted there (R212, R223, R227). `ev` is its step, for which it waits else. -/
def State.performWrite (s : State) (gid fid : Nat) (ev : Ev) : State :=
  match s.flight? gid fid with
  | none => s
  | some (g, f) =>
    let land := fun (t : State) => if g.dead then t.landFlight gid f 1 else (t.landFlight gid f 1).settle gid
    if f.done = 2 then
      if s.awaits gid fid || s.toStamp.any (fun w => decide (w.owner = gid)) || s.net.stamped.any (fun x => decide (x.w.owner = gid)) then s.post ev
      else land s
    else if !s.mayPerform g f then s.post ev
    else
      match s.oldUnits g f with
      | a :: as => (s.askOld g fid (a :: as)).post ev
      | [] =>
        if s.awaits gid fid then s.post ev
        else
          match s.storeLanes gid fid f [] f.lanes with
          | none => (s.landFlight gid f 1).contain gid 0x21
          | some s1 =>
            let s2 := s1.onGroup gid (fun h => h.bumpGen (cellsOf f.lanes))
            if f.farWrite s g then (s2.setDone gid fid 2).post ev else land s2

/-- `STORE_PERFORMED`: a store that bypasses the buffer is written at its destination and `st` lowered (R212, R223). -/
def execStorePerformed (gid fid : Nat) (s : State) : Out := .next (s.performWrite gid fid (.storePerformed gid fid))

/-- `RELEASE_PERFORMED`: a synchronising store is performed at the home once what it waits for is complete, and `st` lowered (R227). -/
def execReleasePerformed (gid fid : Nat) (s : State) : Out := .next (s.performWrite gid fid (.releasePerformed gid fid))

/-- `ATOMIC_COMPLETE`: the replies are written and `ld` lowered; lanes that had to wait are performed first (R232). -/
def execAtomicComplete (gid fid : Nat) (s : State) : Out :=
  match s.flight? gid fid with
  | none => .next s
  | some (g, f) =>
    if s.awaits gid fid then .next (s.post (.atomicComplete gid fid))
    else
      match f.fault with
      | some t => .next (((s.landFlight gid f 0).raise gid f.unit t).settle gid)
      | none =>
        if f.done < f.lanes.length then
          if decide (f.done ≠ 0) || s.mayPerform g f then
            match s.performAtomic g f with
            | none => .next ((s.landFlight gid f 0).contain gid 0x21)
            | some s1 => .next (s1.post (.atomicComplete gid fid))
          else .next (s.post (.atomicComplete gid fid))
        else if g.dead then .next (s.landFlight gid f 0)
        else
          let write := fun (c : Crew) (a : LaneAcc) =>
            let c1 := c.writeDest (decide (f.unit = 32)) a.lane f.d (destCount f.typ) (a.value % 2 ^ 64)
            if atomSub f.ins = 16 ∧ f.aux ≠ 15 then c1.pset f.aux a.lane (decide (2 ^ 64 ≤ a.value)) else c1
          let s2 := s.onGroup gid (fun h => h.setUnit f.unit (f.lanes.foldl write (h.unit f.unit)))
          .next ((s2.landFlight gid f 0).settle gid)

/-- `WCB_DRAIN_TIMEOUT`: an entry drains 4,096 local cycles after it was taken, or as soon as a transaction-table entry is free for one that is to
drain (R230, R231). -/
def execWcbDrainTimeout (core line : Nat) (s : State) : Out :=
  match (s.core core).wcb.find? (fun e => e.line = line) with
  | none => .next s
  | some e =>
    if (!e.out && decide (s.now (core / 96) < e.since + 4096)) || !ottRoom (s.ottUsed core) 1 e.out then .next (s.post (.wcbDrainTimeout core line))
    else .next (s.drainWcb core e.out e)

/-- The waiter whose turn it is for transaction-table entries: the oldest, or behind one that may not take the last four the oldest that
synchronises (R416). -/
def nextWaiter (used : Nat) (ws : List OttWait) : Option OttWait :=
  let waiting := ws.filter (fun w => !w.granted)
  match waiting with
  | [] => none
  | w :: _ =>
    if ottRoom used w.n w.sync then some w
    else if w.sync then none
    else (waiting.find? (fun y => y.sync)).filter (fun y => ottRoom used y.n true)

/-- `OTT_ENTRY_GRANT`: the waiter whose turn it is is given the free entries it needs (R416). -/
def execOttEntryGrant (core : Nat) (s : State) : Out :=
  let k := s.core core
  match nextWaiter (s.ottUsed core) k.ottWait with
  | none => .next (if k.ottWait.any (fun w => !w.granted) then s.post (.ottEntryGrant core) else s)
  | some w =>
    let k1 := { k with ottWait := k.ottWait.map (fun y => if y = w then { y with granted := true } else y) }
    .next (s.setCore core k1)

end Sys2Proof.Machine
end

