-- ==== Sys2Proof/Machine/Engine.lean ====
section
/-! DEFINITION. The matrix engine, the accumulator and tile instructions, operand handles and the tile copy engine
(R256 to R271, R277 to R284). -/
namespace Sys2Proof.Machine
open Sys2Proof

/-! ### Operand handles (R258, R259) -/

/-- A handle never bound. -/
def Handle.empty : Handle := { bound := false, base := 0, words := 0, fmt := 0, planes := 0, gen := 0 }
/-- Handle `k` of a group. -/
def Group.handle (g : Group) (k : Nat) : Handle := nget (fun _ => Handle.empty) g.handles k
/-- Puts a handle back. -/
def Group.setHandle (g : Group) (k : Nat) (h : Handle) : Group := { g with handles := nset (fun _ => Handle.empty) g.handles k h }

/-- `HANDLE_STATE` of reason `r` for handle `k` (R259). -/
def handleTrap (x : Ctx) (r k addr : Nat) : Trap := x.trapOf 0x0F (lowest x.act) (r + 16 * k) addr
/-- The same with the handle's BASE as the address. -/
def handleTrapOf (x : Ctx) (g : Group) (r k : Nat) : Trap := handleTrap x r k ((g.handle k).base * 4)

/-- The format code that an `OPH` binds, and whether reason 1 holds of sC (R258). -/
def ophFormat (x : Ctx) (c : Crew) : Nat × Bool :=
  if x.row.w2 = .format then (x.fl.w.toNat % 64, false) else (x.c c 0 % 64, decide (x.c c 0 / 64 ≠ 0))

/-- `OPH` in either form. -/
def ophOp (i : Instr) (s : State) : Out :=
  issue i s (fun x g c t =>
    if x.act = 0 then .done t
    else
      let k := x.fl.f.d.toNat
      let h := g.handle k
      if x.fl.h.sub = 1 then .done (t.setGroup (g.setHandle k { h with bound := false, gen := h.gen + 1 }))
      else
        let o := x.a c 0
        let l := x.b c 0
        let f := ophFormat x c
        if f.2 ∨ rowWords f.1 = 0 then .trap (handleTrap x 1 k o)
        else if o % 4 ≠ 0 ∨ l % 4 ≠ 0 ∨ l = 0 ∨ g.desc.scr256 * 256 < o + l then .trap (handleTrap x 2 k o)
        else .done (t.setGroup (g.setHandle k
          { bound := true, base := o / 4, words := l / 4, fmt := f.1, planes := rowWords f.1, gen := h.gen + 1 })))

/-- `OPH` (R258). -/
def execOph (f : Word0) (h : Word1) (s : State) : Out := ophOp (.oph f h) s
/-- `OPH` with the format in word 2. -/
def execOph12 (f : Word0) (h : Word1) (w : Word) (s : State) : Out := ophOp (.oph12 f h w) s

/-! ### `MMA` and `MMAS` (R262 to R266) -/

/-- N of an `MMAS`'s NS field. -/
def sparseN (c : BitVec 8) : Nat :=
  match c.toNat / 64 with
  | 0 => 4
  | 1 => 2
  | _ => 1

/-- The handles that an `MMA` or `MMAS` names: A's when A is a block, B's, the metadata's, each with its block and the
number of blocks, in the order of R547. -/
structure MmaHandles where
  a : Option (Nat × Nat)
  b : Nat
  bj : Nat
  nb : Nat
  m : Option (Nat × Nat)

/-- The handles of the fields. -/
def mmaHandles (x : Ctx) (sparse : Bool) : MmaHandles :=
  let v := x.fl.f.a.toNat
  let a := if v < 16 then none else some (v % 16, v / 16 % 8)
  { a := a, b := x.fl.h.b.toNat % 16, bj := x.fl.h.b.toNat / 16, nb := if sparse then 8 / sparseN x.fl.h.c else 1
    m := if sparse then some (x.fl.h.c.toNat % 16, (a.map (fun y => y.2)).getD 0) else none }

/-- The first handle of a list for which a reason holds. -/
def firstBad (l : List (Nat × Bool)) : Option Nat := (l.find? (fun y => y.2)).map (fun y => y.1)

/-- Blocks `j` to `j + n - 1` lie inside a handle's region (R260). -/
def Handle.fits (h : Handle) (j n : Nat) : Bool := decide (32 * (j + n) * h.planes ≤ h.words)

/-- The lowest `HANDLE_STATE` reason of an `MMA` or `MMAS`, with its handle (R259, R264, R265, R547). -/
def mmaReason (x : Ctx) (g : Group) (sparse : Bool) : Option (Nat × Nat) :=
  let k := mmaHandles x sparse
  let hb := g.handle k.b
  let named := (k.a.map (fun y => y.1)).toList ++ [k.b] ++ (k.m.map (fun y => y.1)).toList
  let fa := match k.a with
    | some y => (g.handle y.1).fmt
    | none => tileFmt x.fl.h.typ
  let r3 := firstBad (named.map (fun y => (y, !(g.handle y).bound)))
  let r4 := firstBad ((k.a.map (fun y => (y.1, !(g.handle y.1).fits y.2 1))).toList ++ [(k.b, !hb.fits k.bj k.nb)] ++
    (k.m.map (fun y => (y.1, decide ((g.handle y.1).words < 96 * (y.2 + 1))))).toList)
  let r5 := decide (fa ≠ 0 ∧ hb.fmt ≠ 0) && (intRow fa != intRow hb.fmt)
  let r6 := decide (hb.fmt ≠ 0) && decide (sigPlanes hb.fmt < x.fl.h.sub.toNat)
  let r7 := firstBad ((k.a.map (fun y => (y.1, decide ((g.handle y.1).fmt = 0)))).toList ++ [(k.b, decide (hb.fmt = 0))] ++
    (k.m.map (fun y => (y.1, decide ((g.handle y.1).fmt ≠ 0)))).toList)
  match r3, r4, r7 with
  | some y, _, _ => some (3, y)
  | none, some y, _ => some (4, y)
  | none, none, r =>
    if r5 then some (5, k.b) else if r6 then some (6, k.b) else r.map (fun y => (7, y))

/-- The command of an `MMA` or `MMAS`, with the bindings as they are now (R281). -/
def mmaCmd (x : Ctx) (g : Group) (sparse : Bool) : MmaCmd :=
  let k := mmaHandles x sparse
  { a := match k.a with
      | some y => .block (g.handle y.1) y.2
      | none => .tile x.fl.f.a.toNat x.fl.h.typ
    b := g.handle k.b, bj := k.bj, c := if sparse then x.fl.f.d.toNat else x.fl.h.c.toNat, d := x.fl.f.d.toNat
    prec := x.fl.h.sub.toNat, fzo := x.fl.h.fzo
    sparse := k.m.map (fun y => (sparseN x.fl.h.c, g.handle y.1, y.2)) }

/-- Accepts a command (R277): the unit's counter rises (2 cp, 3 tl) and its first step is posted. -/
def State.accept (s : State) (x : Ctx) (which : Nat) (k : CmdKind) (ev : Nat → Ev) : State :=
  let id := s.nextId
  let s1 := s.onGroup x.gid (fun g =>
    { g.setUnit x.unit ((g.unit x.unit).count which true) with cmds := g.cmds ++ [{ id := id, unit := x.unit, addr := x.addr, kind := k }] })
  { s1 with nextId := id + 1 }.post (ev id)

/-- A command is done: it goes and its unit's counter falls. -/
def State.retireCmd (s : State) (gid : Nat) (c : Cmd) (which : Nat) : State :=
  s.onGroup gid (fun g =>
    { g.setUnit c.unit ((g.unit c.unit).count which false) with cmds := g.cmds.filter (fun d => d.id ≠ c.id) })

/-- The accumulators and tiles that an `MMA` or `MMAS` names (R263). -/
def mmaNames (m : MmaCmd) : List Nat × List Nat :=
  ([m.c, m.d], match m.a with
    | .tile k t => natsFrom k (groupTiles (tileFmt t))
    | .block _ _ => [])

/-- `MMA` and `MMAS`: the whole crew or `ILLEGAL_CONV`, the handle reasons, then a command (R257, R263, R266). -/
def mmaOp (i : Instr) (sparse : Bool) (s : State) : Out :=
  settled s (issue i s (fun x g c t =>
    if 63 ≤ c.tl then .stall .other
    else if x.act = 0 then .done t
    else if x.act ≠ BitVec.allOnes 32 then .trap (x.trapOf 0x02 (lowest (~~~ x.act)) 0 x.addr)
    else
      match mmaReason x g sparse with
      | some (r, k) => .trap (handleTrapOf x g r k)
      | none =>
        let m := mmaCmd x g sparse
        if matrixHolds g x.unit (mmaNames m).1 (mmaNames m).2 then .stall .other
        else .done (t.accept x 3 (.mma m) (fun id => .mmaComplete x.gid id))))

/-- `MMA` (R263). -/
def execMma (f : Word0) (h : Word1) (s : State) : Out := mmaOp (.mma f h) false s
/-- `MMAS` (R266). -/
def execMmas (f : Word0) (h : Word1) (s : State) : Out := mmaOp (.mmas f h) true s

/-- Word `w` of a group's scratchpad allocation in mode 0 (R221). -/
def Group.scrWord (g : Group) (w : Nat) : Word :=
  BitVec.ofNat 32 (ofLeBytes ((natsFrom (4 * w) 4).map g.cell))
/-- `n` words from `w`. -/
def Group.scrWords (g : Group) (w n : Nat) : List Word := (natsFrom w n).map g.scrWord

/-- Word `w` of the tile group that starts at tile `k` (R262). -/
def Crew.tileWord (c : Crew) (k w : Nat) : Word := wget c.t (256 * k + w)
/-- Row `i` of the tile group at `k` in a format. -/
def Crew.tileRow (c : Crew) (k fmt i : Nat) : List Word := (natsFrom (i * rowWords fmt) (rowWords fmt)).map (c.tileWord k)

/-- The values of block `j` of a handle, 32 rows (R260, R62, R81). -/
def Group.blockVals (g : Group) (h : Handle) (j prec : Nat) : List (List Val) :=
  allLanes.map (fun r => rowVals h.fmt (g.scrWords (h.base + (32 * j + r) * h.planes) h.planes) prec)

/-- The values of A's rows. -/
def Group.matA (g : Group) (c : Crew) : MatA → List (List Val)
  | .tile k t => allLanes.map (fun i => rowVals (tileFmt t) (c.tileRow k (tileFmt t) i) 0)
  | .block h j => g.blockVals h j 0

/-- The elements of D that a command computes. -/
def Group.mmaResult (g : Group) (c : Crew) (m : MmaCmd) : List (Nat × Word) :=
  let src := fun i n => wget c.acc (1024 * m.c + 32 * i + n)
  match m.sparse with
  | none => mmaDense m.fzo src (g.matA c m.a) (g.blockVals m.b m.bj m.prec)
  | some (n, h, j) =>
    mmaSparse m.fzo n src (g.matA c m.a) ((natsFrom m.bj (8 / n)).map (fun q => g.blockVals m.b q m.prec))
      (fun i => g.scrWords (h.base + 96 * j + 3 * i) 3)

/-- The command of a group. -/
def State.cmd? (s : State) (gid cid : Nat) : Option (Group × Cmd) :=
  match s.group? gid with
  | none => none
  | some g =>
    match g.cmds.find? (fun c => c.id = cid) with
    | some c => some (g, c)
    | none => none

/-- The cells that a command reads whose reading began when they stood as `snap`: of a word that another crew has written since, its value
before or after, which is left open (R280). -/
def Group.readCells (g : Group) (snap : NMap Byte) (n : Nat) : Group :=
  { g with scratch := g.scratch.map (fun y =>
      let old := (nfind? snap y.1).getD (Config.scratchByte g.id y.1)
      (y.1, if old = y.2 then y.2 else if Config.chance (n + y.1 / 4) then old else y.2)) }

/-- The commands of a quadrant share its part of the matrix engine in acceptance order: an earlier one of a crew on it is left (R282). -/
def State.quadrantBusy (s : State) (g : Group) (c : Cmd) : Bool :=
  s.groups.any (fun h => decide (h.loc.flat = g.loc.flat) && h.cmds.any (fun d => decide (d.id < c.id) && (match d.kind with
    | .mma _ => decide ((h.unit d.unit).quadrant = (g.unit c.unit).quadrant)
    | _ => false)))

/-- Changes the kind of a command of a group. -/
def State.setCmd (s : State) (gid cid : Nat) (k : CmdKind) : State :=
  s.onGroup gid (fun h => { h with cmds := h.cmds.map (fun d => if d.id = cid then { d with kind := k } else d) })

/-- A checker finds the result of a command faulty: its destination is not written, the trap registers of its crew, which stands between
two instructions, tell it, and it goes to containment (R283, R491). -/
def State.upsetCmd (s : State) (gid : Nat) (c : Cmd) (counter : Nat) : State :=
  let t : Trap := { cause := 0x20, lane := 0, detail := 0, addr := c.addr, first := c.addr }
  ((s.onGroup gid (fun h => h.setUnit c.unit ((h.unit c.unit).reports t))).retireCmd gid c counter).contain gid 0x20

/-- `MMA_COMPLETE`: once its order and its quadrant allow, the command begins to read its operands, and in a later step it has read them,
writes D and lowers `tl`; a residue mismatch leaves D unwritten, is told by the trap registers of the crew, which stands between two
instructions, and goes to containment (R263, R278, R280, R282, R283). -/
def execMmaComplete (gid cid : Nat) (s : State) : Out :=
  match s.cmd? gid cid with
  | none => .next s
  | some (g, c) =>
    match c.kind with
    | .mma m =>
      if !cmdReady g c || s.quadrantBusy g c then .next (s.post (.mmaComplete gid cid))
      else match m.snap with
      | none => .next ((s.setCmd gid cid (.mma { m with snap := some g.scratch })).post (.mmaComplete gid cid))
      | some snap =>
      if s.upsets.contains s.free then .next (s.upsetCmd gid c 3)
      else
        let u := g.unit c.unit
        let d := ((g.readCells snap (s.free + 1)).mmaResult u m).foldl (fun (a : NMap Word) y => wset a (1024 * m.d + y.1) y.2) u.acc
        .next (((s.setUnit g c.unit { u with acc := d }).retireCmd gid c 3).settle gid)
    | _ => .next s

/-! ### Accumulators, tiles and parking (R267, R268) -/

/-- An instruction of R267 or R268: it waits for matrix commands on its accumulators and tiles, and does nothing for an
empty mask (R257). -/
def tileOp (i : Instr) (s : State) (accs tiles : Ctx → List Nat) (f : Ctx → Crew → Crew) : Out :=
  issue i s (fun x g c t =>
    if x.act = 0 then .done t
    else if matrixHolds g x.unit (accs x) (tiles x) then .stall .other
    else .done (t.setUnit g x.unit (f x c)))

/-- `AZERO` (R267). -/
def execAzero (f : Word0) (s : State) : Out :=
  tileOp (.azero f) s (fun _ => [f.d.toNat]) (fun _ => []) (fun _ c =>
    { c with acc := c.acc.filter (fun y => decide (y.1 / 1024 ≠ f.d.toNat)) })

/-- `AMOV` (R267). -/
def execAmov (f : Word0) (h : Word1) (s : State) : Out :=
  tileOp (.amov f h) s (fun _ => [if h.sub = 2 then f.d.toNat else f.a.toNat]) (fun _ => []) (fun x c =>
    let i := h.b.toNat
    match h.sub.toNat with
    | 0 => x.each c (fun d l => d.vset f.d.toNat l (wget c.acc (1024 * f.a.toNat + 32 * i + l)))
    | 1 => x.each c (fun d l => d.vset f.d.toNat l (wget c.acc (1024 * f.a.toNat + 32 * l + i)))
    | _ => { c with acc := allLanes.foldl (fun a l => wset a (1024 * f.d.toNat + 32 * i + l) (c.vget f.a.toNat l)) c.acc })

/-- The tiles that `TLDV` and `TSTV` name. -/
def tileNames (h : Word1) (k : Nat) : List Nat := natsFrom k (if h.typ = 0 then 1 else groupTiles (tileFmt h.typ))

/-- `TLDV` (R267). -/
def execTldv (f : Word0) (h : Word1) (s : State) : Out :=
  tileOp (.tldv f h) s (fun _ => []) (fun _ => tileNames h f.d.toNat) (fun _ c =>
    let k := f.d.toNat
    let i := h.b.toNat
    if h.typ = 0 then { c with t := allLanes.foldl (fun a l => wset a (256 * k + 32 * i + l) (c.vget f.a.toNat l)) c.t }
    else
      let fmt := tileFmt h.typ
      let codes := allLanes.map (fun l => (c.vget f.a.toNat l).toNat % 2 ^ (fmtInfo fmt).width)
      let row := rowOfCodes fmt codes (plainScale fmt)
      { c with t := row.zipIdx.foldl (fun a (y : Word × Nat) => wset a (256 * k + i * rowWords fmt + y.2) y.1) c.t })

/-- `TSTV` (R267). -/
def execTstv (f : Word0) (h : Word1) (s : State) : Out :=
  tileOp (.tstv f h) s (fun _ => []) (fun _ => tileNames h f.a.toNat) (fun x c =>
    let k := f.a.toNat
    let i := h.b.toNat
    if h.typ = 0 then x.each c (fun d l => d.vset f.d.toNat l (c.tileWord k (32 * i + l)))
    else
      let fmt := tileFmt h.typ
      x.each c (fun d l => d.vset f.d.toNat l (BitVec.ofNat 32 (rowCode fmt (c.tileRow k fmt i) l))))

/-- The key of lane `l` of a parking place: in the accumulators or the tiles. -/
def Park.key (p : Park) (l : Nat) : Nat := if p.acc then 1024 * p.idx + 32 * p.row + l else 256 * p.idx + 32 * p.row + l

/-- `PARK` (R268). -/
def execPark (f : Word0) (h : Word1) (s : State) : Out :=
  let p : Park := { acc := decide (h.sub = 1), idx := h.b.toNat, row := h.c.toNat, reg := f.a.toNat }
  tileOp (.park f h) s (fun _ => if p.acc then [p.idx] else []) (fun _ => if p.acc then [] else [p.idx]) (fun _ c =>
    let put := fun (m : NMap Word) => allLanes.foldl (fun a l => wset a (p.key l) (c.vget p.reg l)) m
    let c1 := if p.acc then { c with acc := put c.acc } else { c with t := put c.t }
    { c1 with parks := ninsert c1.parks f.d.toNat p })

/-- `UNPARK` (R268). -/
def execUnpark (f : Word0) (h : Word1) (s : State) : Out :=
  issue (.unpark f h) s (fun x g c t =>
    if x.act = 0 then .done t
    else
      match nfind? c.parks f.d.toNat with
      | none => .done t
      | some p =>
        if matrixHolds g x.unit (if p.acc then [p.idx] else []) (if p.acc then [] else [p.idx]) then .stall .other
        else
          let c1 := allLanes.foldl (fun (d : Crew) l => d.vset p.reg l (wget (if p.acc then c.acc else c.t) (p.key l))) c
          .done (t.setUnit g x.unit { c1 with parks := nerase c1.parks f.d.toNat }))

/-! ### `TCOPY` (R269 to R271, R548) -/

/-- The last element of a row: 12 bytes for a `b8` handle (R269). -/
def lastElem (h : Handle) : Nat := if h.bound ∧ h.fmt = 0 then 11 else 31

/-- Elements that a row's first index and pitch must be a multiple of (R269). -/
def rowStep (fmt : Nat) : Nat :=
  let f := fmtInfo fmt
  if f.kind = 3 then 32 else if f.width = 6 then 4 else if f.width = 4 then 2 else 1

/-- check_ptr of the first and the last element of every row (R269, R548 step 3). -/
def rowsCheck (g : Group) (p : Ptr) (k : Kind) (e0 pitch last : Nat) : List Nat → Option (Nat × Nat)
  | [] => none
  | r :: rs =>
    match checkPtr g p (e0 + r * pitch) (fmtInfo p.fmt).unit k, checkPtr g p (e0 + r * pitch + last) (fmtInfo p.fmt).unit k with
    | .error e, _ => some e
    | .ok _, .error e => some e
    | .ok _, .ok _ => rowsCheck g p k e0 pitch last rs

/-- A pointer instruction of the engines refuses synchronising pointers and peer and private-stack space (R269, R272). -/
def Ptr.engineBad (p : Ptr) : Bool := p.formBad || decide (p.cls = 2) || decide (p.space = 4) || decide (p.space = 6)

/-- The virtual byte address of element `i` behind a checked pointer. -/
def elemVa (g : Group) (p : Ptr) (i : Nat) : Nat := p.base + elemOffset p.fmt i + if p.space = 5 then g.param else 0

/-- Translates every element of a list of rows in order (R548 step 6). -/
def rowsXlate (x : Ctx) (g : Group) (s : State) (p : Ptr) (need : Need) (e0 pitch last : Nat) :
    List Nat → Except Trap (List (List (LaneAcc × List Leaf)))
  | [] => .ok []
  | r :: rs =>
    match allLanesOk (fun l => laneXlate x g s p l (e0 + r * pitch + l) (elemVa g p (e0 + r * pitch + l)) need) (natsFrom 0 (last + 1)) with
    | .error t => .error { t with lane := lowest x.act }
    | .ok as =>
      match rowsXlate x g s p need e0 pitch last rs with
      | .error t => .error t
      | .ok more => .ok (as.map (fun y => y.2) :: more)

/-- The rows that a `TCOPY` names: first and count. -/
def copyRows (x : Ctx) : Nat × Nat :=
  if x.row.w2 = .rows then (bits x.fl.w.toNat 11 0, bits x.fl.w.toNat 23 12 + 1) else (0, 32)

/-- The `HANDLE_STATE` reason of a `TCOPY` other than 8 (R548 step 5). -/
def copyReason (h : Handle) (fmt row0 n : Nat) (out : Bool) : Option Nat :=
  if !h.bound then some 3
  else if h.words < (row0 + n) * h.planes then some 4
  else if (copyConv fmt h.fmt out).isNone then some 5
  else none

/-- `TCOPY` in either form: the checks of R548 in order, then a command. -/
def tcopyOp (i : Instr) (s : State) : Out :=
  settled s (issue i s (fun x g c t =>
    if 63 ≤ c.cp then .stall .other
    else if x.act = 0 then .done t
    else
      let out := decide (x.fl.h.sub = 1)
      let q := x.a c 0
      let p := ptrOf q
      let k := x.fl.f.d.toNat
      let h := g.handle k
      let e0 := x.b c 0
      let pitch := x.c c 0
      let rows := copyRows x
      let last := lastElem h
      let lane := lowest x.act
      if p.engineBad then .trap (x.trapOf 0x08 lane 0 p.base)
      else
        match rowsCheck g p (if out then .store else .load) e0 pitch last (natsFrom 0 rows.2) with
        | some (cause, a) => .trap (x.trapOf cause lane 0 a)
        | none =>
          if e0 % rowStep p.fmt ≠ 0 ∨ pitch % rowStep p.fmt ≠ 0 then
            .trap (x.trapOf 0x0A lane 0 (p.base + elemOffset p.fmt e0))
          else
            match copyReason h p.fmt rows.1 rows.2 out with
            | some r => .trap (handleTrapOf x g r k)
            | none =>
              match (if p.space = 2 then none else t.missesWait (t.viewOf g) g.loc.flat g.ctx
                  ((natsFrom 0 rows.2).flatMap (fun r => [elemVa g p (e0 + r * pitch), elemVa g p (e0 + r * pitch + last) + (fmtInfo p.fmt).unit - 1]))) with
              | some es => .miss es
              | none =>
              match rowsXlate x g t p (if out then 1 else 0) e0 pitch last (natsFrom 0 rows.2) with
              | .error tr =>
                -- the scratchpad is not translated, so reason 8 and a translation fault exclude each other
                .trap tr
              | .ok xs =>
                let as := xs.map (fun r => r.map (fun y => y.1))
                let own := [(h.base + rows.1 * h.planes, rows.2 * h.planes)]
                if runsMeet (as.flatMap accWords) own then .trap (handleTrapOf x g 8 k)
                else
                match watchHit t g c x out (as.flatMap (fun r => r.map (fun a => { a with lane := lane }))) with
                | some a => .trap (x.trapOf 0x1A lane (if out then 1 else 0) a.va)
                | none =>
                  let t1 := xs.foldl (fun (v : State) r => v.noteAll g r) t
                  .done (t1.accept x 2 (.tcopy
                    { out := out, hnum := k, h := h, ptr := BitVec.ofNat 128 q, e0 := e0, pitch := pitch, row0 := rows.1
                      row := 0, remaining := rows.2, rows := as, asked := false }) (fun id => .tcopyRowWritten x.gid id))))

/-- `TCOPY` (R269). -/
def execTcopy (f : Word0) (h : Word1) (s : State) : Out := tcopyOp (.tcopy f h) s
/-- `TCOPY` of named rows. -/
def execTcopy12 (f : Word0) (h : Word1) (w : Word) (s : State) : Out := tcopyOp (.tcopy12 f h w) s

/-- Reads the units of a row's elements: those of host memory from what was at hand and the replies, the rest as the core does (R270). -/
def State.readRow (s : State) (gid : Nat) : List LaneAcc → Option (State × List (Nat × Nat))
  | [] => some (s, [])
  | a :: r =>
    match s.group? gid with
    | none => none
    | some g =>
      match s.readAcc g a with
      | none => none
      | some (s1, bs) =>
        match s1.readRow gid r with
        | none => none
        | some (s2, xs) => some (s2, (ofLeBytes bs, a.bitOff) :: xs)

/-- Writes words of the scratchpad in mode 0 as one write (R63, R261). -/
def Group.putScrWords (g : Group) (w : Nat) (ws : List Word) : Group :=
  let bytes := ws.flatMap (fun y => leBytes 4 y.toNat)
  let g1 := bytes.zipIdx.foldl (fun (h : Group) (y : Byte × Nat) => h.setCell (4 * w + y.2) y.1) g
  g1.bumpGen ((natsFrom 0 bytes.length).map (fun o => 4 * w + o))

/-- The access units of a row that is copied out: for each unit its first element's access and its bytes (R271). -/
def rowUnits (fmt : Nat) (k : Conv) (h : Nat) (row : List Word) (as : List LaneAcc) : List (LaneAcc × List Byte) :=
  match k with
  | .raw => as.map (fun a => (a, [BitVec.ofNat 8 ((lget 0 row (a.lane / 4)).toNat / 2 ^ (8 * (a.lane % 4)))]))
  | _ =>
    let r := copyOut fmt h k row
    let firsts := as.filter (fun a => !(as.any (fun b => decide (b.lane < a.lane ∧ b.va = a.va))))
    firsts.map (fun a =>
      let here := as.filter (fun b => b.va = a.va)
      let u := here.foldl (fun n b => putElem fmt n b.bitOff (lget 0 r.2 b.lane)) (if (fmtInfo fmt).kind = 3 then r.1 else 0)
      (a, leBytes a.n u))

/-- Writes a row that is copied out: to its banks, or into the group's buffer as whole units (R271). -/
def State.putRow (s : State) (gid : Nat) (us : List (LaneAcc × List Byte)) : State :=
  let scr := us.filter (fun y => y.1.space = 2)
  if scr.isEmpty then us.foldl (fun (t : State) y => t.bsbStore gid y.1.share y.1.repl y.1.edge (y.1.pa.headD 0) y.2) s
  else s.onGroup gid (fun g =>
    (scr.foldl (fun (h : Group) y => (y.1.pa.zip y.2).foldl (fun (k : Group) z => k.setCell z.1 z.2) h) g).bumpGen
      (scr.flatMap (fun y => y.1.pa)))

/-- The command with its next row done. -/
def TcopyCmd.stepped (t : TcopyCmd) : TcopyCmd :=
  { t with row := t.row + 1, remaining := t.remaining - 1, rows := t.rows.drop 1, asked := false, snap := none }

/-- A row of a tile copy is done: the next comes, or the command ends and `cp` falls. -/
def State.nextRow (s : State) (gid : Nat) (c : Cmd) (t : TcopyCmd) : State :=
  if t.remaining ≤ 1 then (s.retireCmd gid c 2).settle gid
  else
    (s.onGroup gid (fun g => { g with cmds := g.cmds.map (fun d => if d.id = c.id then { d with kind := .tcopy t.stepped } else d) })).post
      (.tcopyRowWritten gid c.id)

/-- A row that the tile copy engine writes is read whole by a command whose reading has begun: new (R63, R280). -/
def Group.rowSeen (g : Group) (cells : List Nat) : Group :=
  { g with cmds := g.cmds.map (fun d => match d.kind with
      | .mma m => { d with kind := .mma { m with snap := m.snap.map (fun p => cells.foldl (fun q k => ninsert q k (g.cell k)) p) } }
      | _ => d) }

/-- The elements of a row that are read as its reading begins; which of them is left open (R280). -/
def State.readEarly (s : State) (g : Group) : List LaneAcc → Option (State × List LaneAcc)
  | [] => some (s, [])
  | a :: r =>
    match (if a.away || !Config.chance (s.free + 1 + a.lane) then some (s, a)
        else (s.readAcc g a).map (fun x => (x.1, { a with away := true, fwd := [], value := ofLeBytes x.2 }))) with
    | none => none
    | some (s1, b) => (s1.readEarly g r).map (fun x => (x.1, b :: x.2))

/-- `TCOPY_ROW_WRITTEN`: once its order allows, the next row of the copy begins to be read, and in a later step it has been read and is converted
and written whole (R63, R270, R271, R280), unless the converter's checker finds it faulty (R491). -/
def execTcopyRowWritten (gid cid : Nat) (s : State) : Out :=
  match s.cmd? gid cid with
  | none => .next s
  | some (g, c) =>
    match c.kind with
    | .tcopy t =>
      let p := ptrOf t.ptr.toNat
      let as := t.rows.headD []
      let w := t.h.base + (t.row0 + t.row) * t.h.planes
      if (match g.phase with | .saved _ => true | _ => false) then .next s
      else if t.stuck || !cmdReady g c || (t.out && s.commitHeld g) || (!t.out && s.homeWaits g false as) then .next (s.post (.tcopyRowWritten gid cid))
      else
        match copyConv p.fmt t.h.fmt t.out with
        | none => .next (s.retireCmd gid c 2)
        | some k =>
          if s.upsets.contains s.free then .next (s.upsetCmd gid c 2)
          else if t.out then
            match t.snap with
            | none => .next ((s.setCmd gid cid (.tcopy { t with snap := some g.scratch })).post (.tcopyRowWritten gid cid))
            | some snap => .next ((s.putRow gid (rowUnits p.fmt k t.h.fmt ((g.readCells snap (s.free + 1)).scrWords w t.h.planes) as)).nextRow gid c t)
          else
            if !t.asked then
              let las := as.map (s.awayLane g)
              match (s.askLoads g cid true las).readEarly g las with
              | none => .next ((s.retireCmd gid c 2).contain gid 0x21)
              | some (s1, rs) => .next ((s1.setCmd gid cid (.tcopy { t with asked := true, rows := rs :: t.rows.drop 1 })).post (.tcopyRowWritten gid cid))
            else if s.awaits gid cid then .next (s.post (.tcopyRowWritten gid cid))
            else
              match s.readRow gid as with
              | none => .next ((s.retireCmd gid c 2).contain gid 0x21)
              | some (s1, us) => .next ((s1.onGroup gid (fun h => (h.putScrWords w (copyIn p.fmt t.h.fmt k us)).rowSeen (natsFrom (4 * w) (4 * t.h.planes)))).nextRow gid c t)
    | _ => .next s

end Sys2Proof.Machine
end

