-- ==== Sys2Proof/Machine/Collective.lean ====
section
/-! DEFINITION. Collectives: `COLL` and collective nodes, the arrival of packets over Axsis in flow order, contributions and
partials at switches and at the root, completions, notices, time-outs and retention (R272 to R274, R455, R458 to R471, R549). -/
namespace Sys2Proof.Machine
open Sys2Proof

/-! ### Arrival in flow order (R455) -/

/-- The number of a flow as its receiver names it: the gateway here, then the source. -/
def axFlowIn (p : AxPkt) : Nat := axFlow p.dstGw p.srcPeer p.srcGw p.cls
/-- A gateway discards a packet and counts it (R453, R468). -/
def State.axDiscard (s : State) (gw : Nat) : State :=
  { s with net := { s.net with axErrors := nset (fun _ => 0) s.net.axErrors gw (nget (fun _ => 0) s.net.axErrors gw + 1) } }
/-- Acknowledges a flow cumulatively: the number is the next one expected (type 0x14). -/
def State.axAck (s : State) (p : AxPkt) : State :=
  { s with net := { s.net with axOut := s.net.axOut ++ [{ AxPkt.blank with
      typ := 0x14, srcPeer := s.peer, srcGw := p.dstGw, dstPeer := p.srcPeer, dstGw := p.srcGw, cls := p.cls
      seq := nget (fun _ => 0) s.net.axExpect (axFlowIn p) }] } }

/-- A packet is one that a gateway discards: of a reserved type or class, or with a reserved bit set (R453). -/
def axReserved (p : AxPkt) : Bool :=
  decide (3 ≤ p.cls) || decide (p.reserved ≠ 0) || !([1, 2, 3, 4, 5, 6, 0x10, 0x11, 0x12, 0x13, 0x14] : List Nat).contains p.typ

/-- The Axsis packet whose arrival a step is. -/
def axOfEv : Ev → Option AxPkt
  | .axsisRead p | .axsisWrite p | .axsisAtomic p | .readReply p | .writeAcknowledgement p | .atomicReply p | .contribution p | .partialArrival p
  | .completion p | .notice p => some p
  | _ => none

/-- Packets of other packages that a gateway holds. -/
def State.axHeld (s : State) (gw : Nat) : Nat := (s.due.filter (fun e => match axOfEv e with
  | some p => decide (p.dstGw = gw ∧ p.srcPeer ≠ s.peer)
  | none => false)).length

/-- A packet from another package at its gateway: in its turn it is passed on by `k`, ahead of it it is held, behind it it is
discarded, as one of a reserved type or class or with reserved bits set is (R453); a packet of this package or from a modelled switch has no flow
here. A gateway holds 4,096 packets that came ahead of their turn; one more is discarded, and its sender resends it (R455). -/
def State.axArrive (s : State) (p : AxPkt) (ev : Ev) (k : State → Out) : Out :=
  if axReserved p then .next (s.axDiscard p.dstGw)
  else if p.srcPeer = s.peer ∨ 2 ^ 32 ≤ p.tag ∧ p.cls = 2 then k s
  else
    let e := nget (fun _ => 0) s.net.axExpect (axFlowIn p)
    if p.seq = e then
      k ({ s with net := { s.net with axExpect := nset (fun _ => 0) s.net.axExpect (axFlowIn p) ((e + 1) % 65536) } }.axAck p)
    else if (p.seq + 65536 - e) % 65536 < 32768 then .next (if s.axHeld p.dstGw < 4096 then s.post ev else s)
    else .next (s.axAck p)

/-- A collective packet arrives, authentic and under the job's current epoch or the one before; any other is discarded and not acknowledged, so
that its sender resends it (R455, R468). -/
def State.collArrive (s : State) (p : AxPkt) (ev : Ev) (k : State → JobEntry → Out) : Out :=
  match s.jobOf p.jobTag with
  | none => .next (s.axDiscard p.dstGw)
  | some j =>
    if (p.enc && p.tagOk || decide (p.srcPeer = s.peer)) && (decide (p.epoch = j.epoch) || decide ((p.epoch + 1) % 256 = j.epoch)) then s.axArrive p ev (fun t => k t j)
    else .next (s.axDiscard p.dstGw)

/-! ### What a `COLL` names (R272, R459 to R461) -/

/-- A `COLL`'s three pointers and descriptor quad. -/
structure CollReq where
  recd : Ptr
  src : Ptr
  dst : Ptr
  desc : Nat
  op : Nat
deriving DecidableEq, Repr

def CollReq.ident (q : CollReq) : Nat := bits q.desc 31 0
def CollReq.count (q : CollReq) : Nat := bits q.desc 47 32
def CollReq.rank (q : CollReq) : Nat := bits q.desc 63 48
def CollReq.timeout (q : CollReq) : Nat := bits q.desc 95 64

/-- Where scratchpad cells stand among physical addresses in a collective's lists. -/
def cellMark : Nat := 2 ^ 60

/-- Translates consecutive bytes of a range behind a pointer; on a fault the lowest failing address. -/
def collBytes (s : State) (v : View) (core ctx : Nat) (need : Need) (p : Ptr) : Nat → Nat → Except (XFault × Nat) (List (XByte × Leaf))
  | _, 0 => .ok []
  | va, n + 1 =>
    match s.xbyte v core ctx va need p.cls p.space with
    | .error f => .error (f, va)
    | .ok b =>
      -- an imported byte is admitted at its home, or refused, as it is translated (R484)
      if !v.admits (b.1.pa % 2 ^ 45) (decide (need = 1)) then .error (xfault 8 0, va) else
      match collBytes s v core ctx need p (va + 1) n with
      | .error f => .error f
      | .ok bs => .ok (b :: bs)

/-- The physical bytes of a pointer's whole range, each with the size of its replicated page, and the leaves used. -/
def collRange (s : State) (v : View) (core ctx param : Nat) (need : Need) (p : Ptr) : Except (XFault × Nat) (List (Nat × Nat) × List Leaf) :=
  if p.space = 2 then .ok ((natsFrom p.base p.len).map (fun o => (cellMark + cellOf p.swz o, 0)), [])
  else
    match collBytes s v core ctx need p (p.base + if p.space = 5 then param else 0) p.len with
    | .error f => .error f
    | .ok bs => .ok (bs.map (fun b => (b.1.pa, b.1.repl)), (bs.map (fun b => b.2)).eraseDups)

/-- The formats of an operation, by code of Table 01-8 (R272). -/
def collFormatOk (op fmt : Nat) : Bool :=
  match op with
  | 0 => [0x11, 0x13, 5, 6, 7, 8].contains fmt
  | 1 | 2 | 3 | 4 => [0x11, 0x13].contains fmt
  | _ => [5, 6, 7, 8].contains fmt

/-- The gateway that a partition posts a job's contributions through: its lowest in the job's list (R461). -/
def State.postGateway (s : State) (part : Nat) (j : JobEntry) : Option Nat :=
  match (s.ownGateways j).filter (fun g => (s.view part).dies.contains (g / 2)) with
  | [] => none
  | g :: r => some (r.foldl min g)

/-- The descriptor, a format or a range breaks the limits of R272 or R459. -/
def CollReq.bad (q : CollReq) : Bool :=
  let e := (fmtInfo q.src.fmt).bytes
  decide (q.desc / 2 ^ 96 ≠ 0) || decide (q.count ≤ q.rank) || !collFormatOk q.op q.src.fmt || decide (q.dst.fmt ≠ q.src.fmt)
    || decide (1 < q.src.space) || decide (1 < q.dst.space) || decide (q.src.len = 0) || decide (q.src.len % e ≠ 0)
    || decide (8192 < q.src.len) || decide (q.dst.len < q.src.len) || decide (q.recd.len < 64 + 8 * ((q.count + 63) / 64))

/-! ### Completion (R273, R274, R549) -/

/-- The bytes of a completion record (Table 09-5) and its bitmap. -/
def collRecord (c : CollCmd) (status : Nat) (ranks : List Nat) (nan sw : Bool) : List Byte :=
  let b := ranks.foldl (fun n r => n ||| 2 ^ r) 0
  leBytes 64 (status + (if nan then 2 ^ 32 else 0) + (if sw then 2 ^ 33 else 0) + ranks.length * 2 ^ 64 + c.ident * 2 ^ 96 +
    c.count * 2 ^ 128 + c.rank * 2 ^ 144) ++ leBytes (8 * ((c.count + 63) / 64)) b

/-- Whose bytes a collective writes: its group's, or its node's. -/
def WaitColl.owner (w : WaitColl) : Nat := if w.gid = 0 then w.inst else w.gid

/-- Writes bytes of one line at their home, or, above `cellMark`, into the scratchpad. -/
def State.putPhys (s : State) (w : WaitColl) (x : XByte × List Byte) : State :=
  let v := s.view w.part
  let a := x.1.pa % 2 ^ 45
  if cellMark ≤ x.1.pa then
    let cells := natsFrom (x.1.pa - cellMark) x.2.length
    s.onGroup w.gid (fun g => (cells.zip x.2).foldl (fun (h : Group) y => h.setCell y.1 y.2) g)
  else
    match s.placeOf v x.1.pa with
    | .host d => s.hostPost d (s.hostBus d a) x.2
    | .local => if x.1.repl ≠ 0 then s.storeReplica w.queue w.owner x.1.repl a x.2 else s.homePut v a x.2 none true
    | _ => s.remoteWrite x.1.pa x.2 (2 ^ x.2.length - 1) (w.cmd.core.getD (w.die * 96)) w.queue [w.owner]

/-- Writes bytes at the homes of a list of physical addresses, as far as it goes, each line's as one write. -/
def State.putRange (s : State) (w : WaitColl) (as : List (Nat × Nat)) (bs : List Byte) : State :=
  (byteLines ((as.zip bs).map (fun x => ({ pa := x.1.1, share := 2, repl := x.1.2, edge := false }, x.2)))).foldl (fun (t : State) x => t.putPhys w x) s

/-- Takes the lines of a range out of the issuing core's L1, dirty bytes written back as `RINV` does (R273 step 4). -/
def State.collInvalidate (s : State) (w : WaitColl) (as : List (Nat × Nat)) : State :=
  match w.cmd.core with
  | none => s
  | some c =>
    let v := s.view w.part
    let place := fun (y : Nat × Nat) => if y.2 = 0 then y.1 % 2 ^ 45 else replAddr s v w.die y.2 false (y.1 % 2 ^ 45)
    ((as.filter (fun y => decide (y.1 < cellMark ∧ y.1 / 2 ^ 45 = s.peer))).map (fun y => place y / 192)).eraseDups.foldl
      (fun (t : State) line => t.evictLine v c line) s

/-- A waiting `COLL` or node is no longer waited for. -/
def State.dropColl (s : State) (w : WaitColl) : State := { s with net := { s.net with colls := s.net.colls.filter (fun x => x ≠ w) } }

/-- COMPLETES a waiting `COLL` or collective node: result, record, `cp`, and the trap of `.ts` (R273, R274, R549). A cancelled group's
is dropped (R284). -/
def State.finishColl (s : State) (w : WaitColl) (status : Nat) (ranks : List Nat) (nan sw : Bool) (elems : List Dword) : State :=
  let s0 := s.dropColl w
  let e := tyBits (BitVec.ofNat 5 w.cmd.fmt) / 8
  let write := fun (t : State) =>
    let t1 := (t.collInvalidate w w.cmd.dst).collInvalidate w w.cmd.recd
    let t2 := if status ≤ 1 then t1.putRange w w.cmd.dst (elems.flatMap (fun x => leBytes e x.toNat)) else t1
    t2.putRange w w.cmd.recd (collRecord w.cmd status (if status ≤ 2 then ranks else []) (nan && decide (status ≤ 1)) (sw && decide (status ≤ 1)))
  if w.gid = 0 then
    match s0.inst? w.inst with
    | none => s0
    | some i =>
      let t := write s0
      if status = 5 then (t.setInst { i with canc := i.canc + 1 }).tryFinish 8 i.id
      else if t.unaccepted i.id then
        -- as of a copy, its end waits until what it wrote is accepted (R313, R402)
        State.post { t with copies := t.copies ++ [{ inst := i.id, ctx := i.ctx, queue := w.queue, dst := 0, src := 0, len := 0, pos := 0, asked := false }] }
          (.copyFinish i.id)
      else (t.setInst { i with done := i.done + 1 }).tryFinish 8 i.id
  else
    match s0.cmd? w.gid w.cid with
    | none => s0
    | some (_, c) =>
      let s1 := (write s0).retireCmd w.gid c 2
      let s2 := if w.cmd.ts ∧ status ≠ 0 then s1.onGroup w.gid (fun g =>
          let u := g.unit c.unit
          g.setUnit c.unit { u with collTraps := u.collTraps ++ [(w.addr, w.cmd.recVa, status, u.waitCp)] }) else s1
      s2.settle w.gid

/-! ### Posting (R272, R273, R461, R467) -/

/-- The byte that the last write of an owner on its way to another partition leaves at an address (R332). -/
def State.ownRemoteByte (s : State) (owner pa : Nat) : Option Byte :=
  let here := fun (r : RemoteReq) => decide (r.op = 1) && r.owners.contains owner && decide (r.pa ≤ pa ∧ pa < r.pa + r.len) && r.mask.testBit (pa - r.pa)
  ((s.remote.filter here).getLast?).map (fun r => lget 0 r.data (pa - r.pa))

/-- Reads one byte of a source at its home, that of a replicated page at the reader's die, behind what its owner has stored there (R332);
none where it is poisoned. -/
def State.collByte (s : State) (v : View) (owner die : Nat) (y : Nat × Nat) : Option Byte :=
  let a := y.1 % 2 ^ 45
  match (if y.2 = 0 then s.ownRemoteByte owner y.1 else s.ownReplByte owner die a) with
  | some x => some x
  | none => (s.homeGet v (if y.2 = 0 then a else replAddr s v die y.2 false a) 1).map (fun bs => bs.headD 0)

/-- Reads a source. -/
def State.collRead (s : State) (v : View) (owner die : Nat) : List (Nat × Nat) → Option (List Byte)
  | [] => some []
  | y :: r =>
    match s.collByte v owner die y, s.collRead v owner die r with
    | some b, some bs => some (b :: bs)
    | _, _ => none

/-- The elements of `n` bytes each. -/
def elemsOf (e : Nat) : Nat → List Byte → List Dword
  | 0, _ => []
  | n + 1, bs => BitVec.ofNat 64 (ofLeBytes (bs.take e)) :: elemsOf e n (bs.drop e)

/-- Counts a contribution in JOB_STAT (Table 16-8). -/
def State.countPath (s : State) (ctx : Nat) (innet : Bool) : State :=
  let off := 0x50010 + 0x40 * ctx
  let v := s.reg pkgRegs off
  let lo := if innet then 0 else 32
  s.setReg pkgRegs off (setBits v (lo + 31) lo (min (bits v (lo + 31) lo + 1) 0xFFFFFFFF))

/-- The mesh port of a core, or of the front-end. -/
def collPort (w : WaitColl) : Nat := match w.cmd.core with
  | some c => clusterPort (clusterOf c) (c % 4)
  | none => distributorPort w.die

/-- The mark of a contribution on its way from its unit to the gateway that posts it. -/
def atPoster : Nat := 2 ^ 40

/-- POSTS a contribution: it crosses the package's network to gateway `gw`, which holds the waiting `COLL` (R461). -/
def State.postColl (s : State) (w : WaitColl) (j : JobEntry) (gw : Nat) (elems : List Dword) : State :=
  let root := j.root w.cmd.ident
  let p : AxPkt := { AxPkt.blank with
    typ := 0x10, srcPeer := s.peer, srcGw := gw, dstPeer := root.peer, dstGw := root.gw, cls := 2, jobTag := j.tag, epoch := j.epoch, enc := true, tag := atPoster
    ident := w.cmd.ident, rank := w.cmd.rank, count := w.cmd.count, op := w.cmd.op, fmt := w.cmd.fmt, timeout := w.cmd.timeout, elems := elems
    nanSeen := collNan w.cmd.fmt [{ rank := w.cmd.rank, elems := elems }] }
  { s with net := { s.net with colls := s.net.colls ++ [w] } }.sendMesh (collPort w) (gatewayPort gw) 0 (bits (s.queue w.queue).ctl 62 61) (.contribution p)

/-- The waiting `COLL` or node of a contribution that stands at its gateway. -/
def State.posted? (s : State) (p : AxPkt) : Option WaitColl :=
  s.net.colls.find? (fun w => decide (w.job = p.jobTag ∧ w.cmd.ident = p.ident ∧ w.cmd.rank = p.rank))

/-- Words of a source as its two readings give them: each, by a free value, as the first or as the second found it (R280). -/
def State.eitherWord (s : State) : Nat → List Byte → List Byte → List Byte
  | i, a :: b :: c :: d :: r, a1 :: b1 :: c1 :: d1 :: r1 => (if Config.chance (s.free + i) then [a, b, c, d] else [a1, b1, c1, d1]) ++ s.eitherWord (i + 1) r r1
  | i, r, r1 => if Config.chance (s.free + i) then r else r1

/-- The source of a `COLL` has been read: its issuer's later accesses wait for it no more (R279). -/
def State.sourceRead (s : State) (w : WaitColl) : State := match s.cmd? w.gid w.cid with
  | some (_, c) => (match c.kind with
    | .coll k => s.setCmd w.gid w.cid (.coll { k with src := [] })
    | _ => s)
  | none => s

/-- A contribution at the gateway that posts it, which reads its source a second time, each word as either reading found it (R280, log entry 39), and
chooses its path: to the root on this package, by a switch of an attested path, or encrypted end to end (R461, R467). Which switches stand on a
route is a free value. Towards a switch it leaves as a packet of its flow does, and waits where its holder seals no more (R455, R469). -/
def State.choosePath (s : State) (p0 : AxPkt) (j : JobEntry) : State :=
  let e := tyBits (BitVec.ofNat 5 p0.fmt) / 8
  let two : Option AxPkt := match s.posted? p0 with
    | none => some p0
    | some w => (s.collRead (s.view w.part) w.owner w.die w.src).map (fun bs =>
      let xs := elemsOf e p0.elems.length (s.eitherWord 0 (p0.elems.flatMap (fun (x : Dword) => leBytes e x.toNat)) bs)
      if w.src.isEmpty then p0 else { p0 with elems := xs, nanSeen := collNan p0.fmt [{ rank := p0.rank, elems := xs }] })
  match two with
  | none => ((s.posted? p0).map (fun (w : WaitColl) => s.teardown w.queue 7 w.die)).getD s
  | some p =>
    let s0 := ((s.posted? p).map s.sourceRead).getD s
    let root := j.root p.ident
    let here := decide (root.peer = s.peer)
    let attested := here || (!j.switches.isEmpty && Config.chance s.free)
    let s1 := s0.countPath j.ctx attested
    let q := { p with tag := 0, epoch := j.epoch }
    let h := j.holder ⟨s.peer, p.srcGw⟩
    if here || !attested then s1.collSend p.srcGw root q
    else if s1.sealFull j.tag h then s0.post (.contribution p0)
    else
      let s2 := s1.seal j.tag h
      let out := { q with counter := s2.counterOf j.tag h }
      let s3 := s2.axSend out
      s3.post (.contribution { out with seq := nget (fun _ => 0) s2.net.axNext (axFlow p.srcGw p.dstPeer p.dstGw 2), tag := j.switches.headD 0 + 1 })

/-- A `COLL` or node whose checks have passed (`ok`) posts its contribution, or completes at once with DESCRIPTOR; a poisoned source
tears its queue down (R272, R461, R471, Table 18-3). -/
def State.beginColl (s : State) (w : WaitColl) (q : CollReq) (ctx : Nat) (src : List (Nat × Nat)) (ok : Bool) : State :=
  let refuse := { s with net := { s.net with colls := s.net.colls ++ [w] } }.finishColl w 3 [] false false []
  if !ok || q.bad then refuse
  else
    match s.jobOfCtx ctx with
    | none => refuse
    | some j =>
      match s.postGateway w.part j with
      | none => refuse
      | some gw =>
        match s.collRead (s.view w.part) w.owner w.die src with
        | none => s.teardown w.queue 7 w.die
        | some bs =>
          let e := (fmtInfo q.src.fmt).bytes
          s.postColl { w with job := j.tag, src := src } j gw (elemsOf e (q.src.len / e) bs)

/-- The type code of a format. -/
def fmtTyp (fmt : Nat) : Nat := (fmtInfo fmt).typ.toNat

/-- The command of a request with its physical bytes. -/
def CollReq.cmd (q : CollReq) (ts : Bool) (src dst recd : List (Nat × Nat)) (core : Option Nat) : CollCmd :=
  { op := q.op, ts := ts, ident := q.ident, count := q.count, rank := q.rank, timeout := q.timeout, fmt := fmtTyp q.src.fmt
    src := src.map (fun y => y.1), dst := dst, recd := recd, recVa := q.recd.base, core := core }

/-- A quad of uniform registers. -/
def Crew.squad (c : Crew) (k : Nat) : Nat := (natsFrom 0 4).foldl (fun n i => n + (c.sget (k + i)).toNat * 2 ^ (32 * i)) 0

/-- check_ptr over a pointer's whole range; synchronising pointers fail the form check (R272). -/
def collCheck (g : Group) (p : Ptr) (k : Kind) : Option (Nat × Nat) :=
  if p.formBad ∨ p.cls = 2 then some (0x08, p.base)
  else match checkPtr g p 0 p.len k with
    | .error e => some e
    | .ok _ => none

/-- The first failing check of a `COLL`'s pointers: source, result, record. -/
def collChecks (g : Group) (q : CollReq) : Option (Nat × Nat) :=
  match collCheck g q.src .load with
  | some e => some e
  | none => match collCheck g q.dst .store with
    | some e => some e
    | none => collCheck g q.recd .store

/-- `COLL` (R272, R273). -/
def execColl (f : Word0) (h : Word1) (w : Word) (s : State) : Out :=
  settled s (issue (.coll f h w) s (fun x g c t =>
    if 63 ≤ c.cp then .stall .other
    else if x.act = 0 then .done t
    else
      let q : CollReq := { recd := ptrOf (c.squad f.d.toNat), src := ptrOf (x.a c 0), dst := ptrOf (x.b c 0), desc := x.c c 0, op := h.sub.toNat }
      let lane := lowest x.act
      let v := t.viewOf g
      let core := g.loc.flat
      match collChecks g q with
      | some (cause, a) => .trap (x.trapOf cause lane 0 a)
      | none =>
        match collRange t v core g.ctx g.param 0 q.src, collRange t v core g.ctx g.param 1 q.dst, collRange t v core g.ctx g.param 1 q.recd with
        | .error (e, a), _, _ => .trap (x.trapOf e.cause lane e.detail a)
        | _, .error (e, a), _ => .trap (x.trapOf e.cause lane e.detail a)
        | _, _, .error (e, a) => .trap (x.trapOf e.cause lane e.detail a)
        | .ok src, .ok dst, .ok recd =>
          let k := q.cmd (decide (w.toNat % 2 = 1)) src.1 dst.1 recd.1 (some core)
          let id := t.nextId
          let cmd : Cmd := { id := id, unit := x.unit, addr := x.addr, kind := .coll k }
          if !cmdReady g cmd || t.commitHeld g then .stall .other
          else
            let t1 := (src.2 ++ dst.2 ++ recd.2).foldl (fun (u : State) l => u.fillTlb core g.ctx l) t
            let t2 := t1.commitAll g.id
            let t3 := ((src.1.filter (fun y => decide (y.1 < cellMark))).map (fun y => y.1 % 2 ^ 45 / 192)).eraseDups.foldl
              (fun (u : State) line => u.writeBackLine v core line) t2
            let t4 := { t3.onGroup g.id (fun g1 =>
              { g1.setUnit x.unit ((g1.unit x.unit).count 2 true) with cmds := g1.cmds ++ [cmd] }) with nextId := id + 1 }
            .done (t4.beginColl
              { gid := g.id, cid := id, graph := 0, node := 0, unit := x.unit, addr := x.addr, queue := g.queue, part := g.part, die := g.loc.die
                job := 0, inst := g.launch, cmd := k } q g.ctx src.1 true)))

/-- check_ptr for a collective node: as for a `COLL`, but no ANCHOR, scratchpad or parameter block (Table 14-9). -/
def nodePtrOk (p : Ptr) (store : Bool) : Bool :=
  !p.formBad && decide (p.cls ≠ 2) && !(store && decide (p.cls = 1)) && decide (p.space ≠ 2) && decide (p.space ≠ 5) && decide (p.len ≠ 0)
    && decide (p.base + p.len ≤ 2 ^ 57) && !(decide (1 < (fmtInfo p.fmt).bytes) && decide (p.base % (fmtInfo p.fmt).bytes ≠ 0))
    && !(decide ((fmtInfo p.fmt).kind = 3) && decide (p.base % 192 ≠ 0))
    && !(decide ((fmtInfo p.fmt).kind = 2 ∧ (fmtInfo p.fmt).width = 6) && decide (p.base % 3 ≠ 0))

/-- A collective node posts (R402, R461): 80 bytes of record, source and result pointers, descriptor and operation. A failing check
completes it with DESCRIPTOR. -/
def State.postNode (s : State) (queue part ctx graph node inst : Nat) (bs : List Byte) : State :=
  let at' := fun (o n : Nat) => ofLeBytes ((bs.drop o).take n)
  let q : CollReq := { recd := ptrOf (at' 0 16), src := ptrOf (at' 16 16), dst := ptrOf (at' 32 16), desc := at' 48 16, op := at' 64 4 % 8 }
  let v := s.view part
  let die := s.leadDie part
  let get := fun (need : Need) (p : Ptr) => if nodePtrOk p (decide (need = 1)) then
      (match collRange s v hwCore ctx 0 need p with
       | .ok r => some r.1
       | .error _ => none) else none
  let src := get 0 q.src
  let dst := get 1 q.dst
  let recd := get 1 q.recd
  let ok := src.isSome && dst.isSome && recd.isSome && decide (q.op < 7) && decide (at' 64 4 / 8 = 0) && decide (at' 68 12 = 0)
  s.beginColl { gid := 0, cid := 0, graph := graph, node := node, unit := 0, addr := 0, queue := queue, part := part, die := die, job := 0
                inst := inst, cmd := q.cmd false (src.getD []) (dst.getD []) (recd.getD []) none } q ctx (src.getD []) ok

/-! ### At the root (R464, R465) -/

/-- The ranks and contributions of a contribution or a partial. -/
def heldBy (p : AxPkt) : List RankData := if p.typ = 0x10 then [{ rank := p.rank, elems := p.elems }] else p.parts

/-- A notice for the ranks of an arrival: to its gateway, for a partial to every gateway of the list (R464, R465). -/
def State.sendNotice (s : State) (gw kind : Nat) (p : AxPkt) (late : List Nat) : State :=
  let n : AxPkt := { AxPkt.blank with
    typ := 0x13, jobTag := p.jobTag, ident := p.ident, count := p.count, op := p.op, fmt := p.fmt, status := kind
    bitmap := (heldBy p).map (fun x => x.rank), bitmap2 := late }
  if p.typ = 0x10 then s.collSend gw ⟨p.srcPeer, p.srcGw⟩ n else s.broadcast gw n

/-- LENGTH of an arrival: its elements' bytes. -/
def elemBytesOf (p : AxPkt) : Nat := (((heldBy p).map (fun x => x.elems.length)).headD 0) * (tyBits (BitVec.ofNat 5 p.fmt) / 8)

/-- The reduction's retention is over: its time has passed (R465). -/
def Retained.over (r : Retained) (now : Nat) : Bool := decide (r.since + (if r.timeout = 0 then 0x100000 else r.timeout) ≤ now)
/-- The reduction's timer has expired: arrivals from this cycle on are late (R464). -/
def RootSlot.expired (r : RootSlot) (now : Nat) : Bool := decide (r.timeout ≠ 0) && decide (r.since + r.timeout ≤ now)

/-- An arrival at a reduction in its retention is answered `LATE`, with the completed reduction's bitmap (R465). -/
def State.answerLate (s : State) (gw : Nat) (p : AxPkt) (r : Retained) : State :=
  let answered := (r.answered ++ (heldBy p).map (fun x => x.rank)).eraseDups
  let s1 := s.sendNotice gw 1 p r.ranks
  if r.count ≤ answered.length then s1.dropRetained r.job r.ident
  else { s1 with net := { s1.net with retained := s1.net.retained.map (fun x =>
    if x.job = r.job ∧ x.ident = r.ident then { x with answered := answered } else x) } }

/-- An arrival joins the reduction's slot, or is answered `MISMATCH`; with every rank there the reduction completes (R464). -/
def State.joinSlot (s : State) (gw : Nat) (p : AxPkt) (r : RootSlot) : State :=
  let ranks := (heldBy p).map (fun x => x.rank)
  let put := fun (t : State) (x : RootSlot) => { t with net := { t.net with roots := t.net.roots.map (fun y =>
    if y.job = x.job ∧ y.ident = x.ident then x else y) } }
  if r.op ≠ p.op ∨ r.fmt ≠ p.fmt ∨ r.count ≠ p.count ∨ r.len ≠ elemBytesOf p ∨ r.parts.any (fun x => ranks.contains x.rank) then
    (put s { r with refused := (r.refused ++ ranks).eraseDups }).sendNotice gw 2 p []
  else
    let r1 := { r with parts := addParts r.parts (heldBy p), viaSwitch := r.viaSwitch || p.viaSwitch }
    if r1.count ≤ r1.parts.length then s.endReduction r1 0 else put s r1

/-- A contribution or partial at its root (R464, R465). -/
def State.atRoot (s : State) (p : AxPkt) (ev : AxPkt → Ev) : State :=
  let gw := p.dstGw
  let now := s.now (gw / 2)
  let s1 := match s.retained? p.jobTag p.ident with
    | some r => if r.over now then s.dropRetained p.jobTag p.ident else s
    | none => s
  let s2 := match s1.rootSlot? p.jobTag p.ident with
    | some r => if r.expired now then s1.endReduction r 1 else s1
    | none => s1
  match s2.rootSlot? p.jobTag p.ident, s2.retained? p.jobTag p.ident with
  | some r, _ => s2.joinSlot gw p r
  | none, some r => s2.answerLate gw p r
  | none, none =>
    -- it waits in the engine's ingress, behind its flow's window
    if 128 ≤ (s2.net.roots.filter (fun r => r.gw = gw)).length then s2.post (ev { p with tag := 2 ^ 32 })
    else
      let r : RootSlot := { RootSlot.blank p.jobTag p.ident gw with
        op := p.op, fmt := p.fmt, count := p.count, len := elemBytesOf p, timeout := p.timeout, since := now }
      let s3 := { s2 with net := { s2.net with roots := s2.net.roots ++ [r] } }
      let s4 := if p.timeout = 0 then s3 else s3.post (.reductionTimeout p.jobTag p.ident)
      s4.joinSlot gw p r

/-! ### In a switch (R470) -/

/-- The slot of a switch for a reduction. -/
def State.switchSlot? (s : State) (sw job ident : Nat) : Option SwitchSlot :=
  s.net.switchSlots.find? (fun x => decide (x.sw = sw ∧ x.job = job ∧ x.ident = ident))
def State.dropSwitchSlot (s : State) (x : SwitchSlot) : State :=
  { s with net := { s.net with switchSlots := s.net.switchSlots.filter (fun y => !decide (y.sw = x.sw ∧ y.job = x.job ∧ y.ident = x.ident)) } }

/-- A switch sends a packet on towards the root: to this package's gateway, or out. -/
def State.forward (s : State) (sw : Nat) (p : AxPkt) : State :=
  let q := { p with tag := 2 ^ 32 + sw + 1 }
  if p.dstPeer = s.peer then s.post (if p.typ = 0x10 then .contribution q else .partialArrival q)
  else { s with net := { s.net with axOut := s.net.axOut ++ [q] } }

/-- The holder number of a switch: 32,768 and its place in the job's switch list (R469). -/
def State.switchHolder (s : State) (job sw : Nat) : Nat :=
  32768 + ((s.jobOf job).bind (fun j => j.switches.findIdx? (fun x => x = sw))).getD 0

/-- A switch sends the partial of a slot on, or, when its checker finds a second mismatch, what it held unreduced (R470, R499); where it seals no
more in this epoch the slot waits for the next (R469). -/
def State.flushSwitch (s : State) (x : SwitchSlot) : State :=
  let s1 := s.dropSwitchSlot x
  let h := s.switchHolder x.job x.sw
  let put := { s1 with net := { s1.net with switchSlots := s1.net.switchSlots ++ [x] } }
  if s.sealFull x.job h then put.postOnce (.switchSlotTimeout x.sw x.job x.ident)
  else if s.upsets.contains s.free ∧ s.upsets.contains (s.free + 1) then
    x.parts.foldl (fun (t : State) (r : RankData) => t.forward x.sw { x.pkt with
      typ := 0x10, rank := r.rank, elems := r.elems, parts := [], viaSwitch := false, nanSeen := collNan x.pkt.fmt [r] }) s1
  else
    (s1.seal x.job h).forward x.sw
      { x.pkt with counter := (s1.seal x.job h).counterOf x.job h, typ := 0x11, elems := [], parts := x.parts, viaSwitch := x.pkt.viaSwitch || decide (1 < x.parts.length), nanSeen := collNan x.pkt.fmt x.parts }

/-- A contribution or partial at a switch: it joins the slot of its reduction, or is sent on unchanged (R470). Whether a slot is free is
a free value. -/
def State.atSwitch (s : State) (sw : Nat) (p : AxPkt) : State :=
  match s.switchSlot? sw p.jobTag p.ident with
  | none =>
    if Config.chance (s.free + 1) then
      let x : SwitchSlot := { sw := sw, job := p.jobTag, ident := p.ident, pkt := p, parts := (heldBy p), since := s.now 0 }
      if p.count ≤ x.parts.length then s.flushSwitch x
      else State.post { s with net := { s.net with switchSlots := s.net.switchSlots ++ [x] } } (.switchSlotTimeout sw p.jobTag p.ident)
    else s.forward sw p
  | some x =>
    let ranks := (heldBy p).map (fun y => y.rank)
    if x.pkt.op ≠ p.op ∨ x.pkt.fmt ≠ p.fmt ∨ x.pkt.count ≠ p.count ∨ elemBytesOf x.pkt ≠ elemBytesOf p ∨ x.parts.any (fun y => ranks.contains y.rank)
    then s.forward sw p
    else
      let x1 := { x with parts := addParts x.parts (heldBy p), pkt := { x.pkt with viaSwitch := true } }
      if p.count ≤ x1.parts.length then s.flushSwitch x1
      else { s with net := { s.net with switchSlots := s.net.switchSlots.map (fun y => if y.sw = sw ∧ y.job = x.job ∧ y.ident = x.ident then x1 else y) } }

/-! ### The steps -/

/-- A contribution of this package reaches a switch, which acknowledges it: it waits until its packet has left its gateway, and is lost where that has
found no path (R455, R466, R470). -/
def State.reachSwitch (s : State) (p : AxPkt) (ev : AxPkt → Ev) : State :=
  let mine := fun (x : SentPkt) => decide (x.pkt.srcGw = p.srcGw ∧ x.pkt.dstPeer = p.dstPeer ∧ x.pkt.dstGw = p.dstGw ∧ x.pkt.cls = p.cls ∧ x.pkt.seq = p.seq)
  match s.net.axSent.find? mine with
  | none => s
  | some x =>
    if x.left then { s with net := { s.net with axSent := s.net.axSent.filter (fun y => !mine y) } }.atSwitch (p.tag - 1) p
    else s.post (ev p)

/-- A contribution or partial arrives at the gateway that posts it, at a switch or at the root (R461, R464, R470). -/
def reductionArrival (p : AxPkt) (ev : AxPkt → Ev) (s : State) : Out :=
  if 0 < p.tag ∧ p.tag < 2 ^ 32 then .next (s.reachSwitch p ev)
  else s.collArrive p (ev p) (fun t j => .next (if p.tag = atPoster then t.choosePath p j else t.atRoot p ev))

/-- `CONTRIBUTION` (R464). -/
def execContribution (p : AxPkt) (s : State) : Out := reductionArrival p .contribution s
/-- `PARTIAL` (R463, R464). -/
def execPartialArrival (p : AxPkt) (s : State) : Out := reductionArrival p .partialArrival s

/-- The waiting `COLL`s of a reduction that a gateway holds (R461). -/
def State.waitersAt (s : State) (gw job ident : Nat) : List WaitColl :=
  match s.jobOf job with
  | none => []
  | some j => s.net.colls.filter (fun w => decide (w.job = job ∧ w.cmd.ident = ident) && decide (s.postGateway w.part j = some gw))

/-- `COMPLETION`: the gateway completes the waiting `COLL`s of the reduction whose ranks took part; a cancelled reduction's all
(R273, R464, R466). -/
def execCompletion (p : AxPkt) (s : State) : Out :=
  s.collArrive p (.completion p) (fun t _ =>
    .next ((t.waitersAt p.dstGw p.jobTag p.ident).foldl (fun (u : State) w =>
      if p.status = 5 ∨ p.bitmap.contains w.cmd.rank then u.finishColl w p.status p.bitmap p.nanSeen p.viaSwitch p.elems else u) t))

/-- The status that a notice brings: 1 `LATE`, 2 `MISMATCH`, 3 `LINK` (Table 16-7, Table 09-5). -/
def noticeStatus (k : Nat) : Nat := match k with
  | 1 => 2
  | 2 => 4
  | _ => 6

/-- `NOTICE`: the waiting `COLL`s of the ranks it names get their records (R464 to R466). -/
def execNotice (p : AxPkt) (s : State) : Out :=
  s.collArrive p (.notice p) (fun t _ =>
    .next ((t.waitersAt p.dstGw p.jobTag p.ident).foldl (fun (u : State) w =>
      if p.bitmap.contains w.cmd.rank then u.finishColl w (noticeStatus p.status) p.bitmap2 false false [] else u) t))

/-- `REDUCTION_TIMEOUT`: with its TIMEOUT counted the reduction completes PARTIAL (R464). -/
def execReductionTimeout (job ident : Nat) (s : State) : Out :=
  match s.rootSlot? job ident with
  | none => .next s
  | some r =>
    if r.expired (s.now (r.gw / 2)) then .next (s.endReduction r 1)
    else .next (if r.timeout = 0 then s else s.postOnce (.reductionTimeout job ident))

/-- `RETENTION_EXPIRY`: a retention ends (R465). -/
def execRetentionExpiry (job ident : Nat) (s : State) : Out :=
  match s.retained? job ident with
  | none => .next s
  | some r => if r.over (s.now (r.gw / 2)) then .next (s.dropRetained job ident) else .next (s.postOnce (.retentionExpiry job ident))

/-- `SWITCH_SLOT_TIMEOUT`: 2,048 ns after a slot was taken its partial is sent on (R470). -/
def execSwitchSlotTimeout (sw job ident : Nat) (s : State) : Out :=
  match s.switchSlot? sw job ident with
  | none => .next s
  | some x => if s.now 0 < x.since + 2048 then .next (s.postOnce (.switchSlotTimeout sw job ident)) else .next (s.flushSwitch x)

/-- A REKEY: the trust die draws a key, every holder installs it and starts its counter at 0, and EPOCH rises (R512). -/
def State.rekey (s : State) (tag : Nat) : State :=
  let mine := fun (x : Nat × GwRef × AxPkt) => decide (x.2.2.jobTag = tag)
  let s1 := { s with
    trust := { s.trust with draws := s.trust.draws + 1 }
    net := { s.net with
      unsealed := s.net.unsealed.filter (fun x => !mine x)
      jobs := s.net.jobs.map (fun (k : JobEntry) =>
        if k.tag = tag then { k with epoch := (k.epoch + 1) % 256, counters := [] } else k) } }
  -- what waited for the epoch is sealed under it (R469)
  (s.net.unsealed.filter mine).foldl (fun (t : State) x => t.collSend x.1 x.2.1 x.2.2) s1

/-- `REKEY_REQUEST`: a holder whose counter has reached 2^63 has the trust die rekey the job (R469, R512). -/
def execRekeyRequest (job _holder : Nat) (s : State) : Out :=
  match s.jobOf job with
  | none => .next s
  | some j => .next (s.rekey j.tag)

/-- A gateway finds no path to a reduction's root: its own waiting `COLL`s end `LINK`, and the gateways of this package hear of it
(R466). -/
def State.noPath (s : State) (p : AxPkt) : State :=
  match s.jobOf p.jobTag with
  | none => s
  | some j =>
    let mine := s.waitersAt p.srcGw p.jobTag p.ident
    let s1 := mine.foldl (fun (t : State) w => t.finishColl w 6 [] false false []) s
    let n : AxPkt := { AxPkt.blank with
      typ := 0x13, jobTag := p.jobTag, ident := p.ident, count := p.count, op := p.op, fmt := p.fmt, status := 3, bitmap := mine.map (fun w => w.cmd.rank) }
    ((s.ownGateways j).filter (fun g => decide (g ≠ p.srcGw))).foldl (fun (t : State) g => t.collSend p.srcGw ⟨s.peer, g⟩ n) s1

end Sys2Proof.Machine
end

