-- ==== Sys2Proof/Machine/Control.lean ====
section
/-! DEFINITION. Control flow: branches, jumps, no-operations and sleeps (R135 to R138, R141, R142, Table 05-1). -/
namespace Sys2Proof.Machine
open Sys2Proof

/-- A signed byte offset from an address, modulo 2^57 (R90, R136). -/
def target (addr : Nat) (off : Int) : Nat := (((addr : Int) + off) % (2 : Int) ^ 57).toNat

/-- The offset of a 12-byte branch. -/
def Ctx.off (x : Ctx) : Int := x.fl.w.toInt

/-- `NOP` (R141). -/
def execNop (f : Word0) (s : State) : Out := issueCrew (.nop f) s (fun _ c => c)
def execNop8 (f : Word0) (h : Word1) (s : State) : Out := issueCrew (.nop8 f h) s (fun _ c => c)
def execNop12 (f : Word0) (h : Word1) (w : Word) (s : State) : Out := issueCrew (.nop12 f h w) s (fun _ c => c)

/-- `BRA`: active lanes take the target (R136). -/
def execBra (gp : BitVec 4) (gn : Bool) (off17 : BitVec 17) (s : State) : Out :=
  issueCrew (.bra gp gn off17) s (fun x c => c.setPcs x.lanes (target x.addr (4 * off17.toInt)))
def execBra12 (f : Word0) (h : Word1) (w : Word) (s : State) : Out :=
  issueCrew (.bra12 f h w) s (fun x c => c.setPcs x.lanes (target x.addr x.off))

/-- `BRAL`: the link is written once for the crew (R136). -/
def execBral (f : Word0) (h : Word1) (w : Word) (s : State) : Out :=
  issueCrew (.bral f h w) s (fun x c =>
    if x.act = 0 then c else
      let link := (x.addr + 12) % 2 ^ 57
      (((c.sset f.d.toNat (BitVec.ofNat 32 link)).sset (f.d.toNat + 1) (BitVec.ofNat 32 (link / 2 ^ 32))).setPcs x.lanes
        (target x.addr x.off)))

/-- `DBNZ`: one decrement per issue group (R136, R137). -/
def execDbnz (f : Word0) (h : Word1) (w : Word) (s : State) : Out :=
  issueCrew (.dbnz f h w) s (fun x c =>
    if x.act = 0 then c else
      let n := c.sget f.d.toNat - 1
      let c1 := c.sset f.d.toNat n
      if n = 0 then c1 else c1.setPcs x.lanes (target x.addr x.off))

/-- The jump of `JMPI` and `RET`: the lowest lane with a misaligned target traps (R138). -/
def jumpLanes (x : Ctx) (g : Group) (c : Crew) (s : State) : Res :=
  match x.lanes.find? (fun l => decide (x.a c l % 4 ≠ 0)) with
  | some l => .trap (x.trapOf 0x0A l 0 (x.a c l))
  | none => .done (s.setUnit g x.unit (x.lanes.foldl (fun d l => d.setPc l (x.a c l % 2 ^ 57)) c))

/-- `JMPI` (R138). -/
def execJmpi (f : Word0) (s : State) : Out := issue (.jmpi f) s jumpLanes
/-- `RET` acts as `JMPI` (R138). -/
def execRet (f : Word0) (s : State) : Out := issue (.ret f) s jumpLanes

/-- `YIELD`: the unit is the lowest candidate next; with an empty active mask it does nothing (R134, R141). -/
def execYield (f : Word0) (s : State) : Out := issueCrew (.yield f) s (fun x c => if x.act = 0 then c else { c with yielded := true })

/-- Puts each active lane to sleep for the count `n` gives it; a count of 0 does nothing (R142). -/
def sleepLanes (n : Crew → Nat → Nat) (x : Ctx) (g : Group) (c : Crew) (s : State) : Res :=
  let ls := x.lanes.filter (fun l => decide (n c l ≠ 0))
  let now := s.now g.loc.die
  let c1 := ls.foldl (fun d l => d.setWait l (.asleep (now + n c l) x.addr)) c
  .done { s.setUnit g x.unit c1 with due := s.due ++ ls.map (fun l => Ev.sleepcExpiry x.gid x.unit l) }

/-- `SLEEPC` with a register count (R142). -/
def execSleepc (f : Word0) (s : State) : Out :=
  issue (.sleepc f) s (fun x g c t => sleepLanes (fun d l => x.a d l) x g c t)
/-- `SLEEPC` with an immediate count (R142). -/
def execSleepc12 (f : Word0) (h : Word1) (w : Word) (s : State) : Out :=
  issue (.sleepc12 f h w) s (fun x g c t => sleepLanes (fun _ _ => w.toNat) x g c t)

end Sys2Proof.Machine
end

