-- ==== Sys2Proof/Machine/CrossLane.lean ====
section
/-! DEFINITION. The cross-lane instructions: the check of the member masks and the arrival (R188 to R206). What a member
set computes when it completes stands in Settle. -/
namespace Sys2Proof.Machine
open Sys2Proof

/-- The lanes of the tile of lane `l` (R19). -/
def tileMask (w l : Nat) : Word := BitVec.ofNat 32 ((2 ^ w - 1) * 2 ^ (l / w * w))

/-- `CONV_MASK` of one lane's mask: the lane to report second (R191, R196). -/
def maskBad (w l : Nat) (m : Word) : Option Nat :=
  if m = 0 ∨ !m.getLsbD l then some l
  else if m &&& ~~~ tileMask w l ≠ 0 then some (lowest (m &&& ~~~ tileMask w l))
  else none

/-- What an active lane gives at its arrival: operand A, operand B, the fill it may receive (R192). -/
def crossInput (i : Instr) (x : Ctx) (c : Crew) (a : Nat → Nat) (l : Nat) : LaneIn :=
  { x := a l, b := x.b c l, fill := fillOf i c (crossIdentity i) l }

/-- A cross-lane instruction with member mask C reaches its arrival (R191, R192). -/
def crossOp (i : Instr) (s : State) (a : Ctx → Crew → Nat → Nat) : Out :=
  settled s (issue i s (fun x g c t =>
    let mask := fun l => BitVec.ofNat 32 (x.c c l)
    match x.lanes.find? (fun l => (maskBad c.partw l (mask l)).isSome) with
    | some l => .trap (x.trapOf 0x03 l ((maskBad c.partw l (mask l)).getD 0) x.addr)
    | none => .done (t.setUnit g x.unit (c.reach x i false (bit x.fl.w.toNat 31) mask (crossInput i x c (a x c))))))

/-- The value of a vote (R199). -/
def voteIn (x : Ctx) (c : Crew) (l : Nat) : Nat := if npredAt c x.fl.f.a l then 1 else 0

/-- `VOTE` (R199). -/
def execVote (f : Word0) (h : Word1) (s : State) : Out := crossOp (.vote f h) s voteIn
def execVote12 (f : Word0) (h : Word1) (w : Word) (s : State) : Out := crossOp (.vote12 f h w) s voteIn
/-- `LPICK` (R200). -/
def execLpick (f : Word0) (h : Word1) (s : State) : Out := crossOp (.lpick f h) s (fun x c l => x.a c l)
def execLpick12 (f : Word0) (h : Word1) (w : Word) (s : State) : Out := crossOp (.lpick12 f h w) s (fun x c l => x.a c l)
/-- `REDUX` (R201, R202). -/
def execRedux (f : Word0) (h : Word1) (s : State) : Out := crossOp (.redux f h) s (fun x c l => x.a c l)
def execRedux12 (f : Word0) (h : Word1) (w : Word) (s : State) : Out := crossOp (.redux12 f h w) s (fun x c l => x.a c l)
/-- `SCAN` (R203). -/
def execScan (f : Word0) (h : Word1) (s : State) : Out := crossOp (.scan f h) s (fun x c l => x.a c l)
def execScan12 (f : Word0) (h : Word1) (w : Word) (s : State) : Out := crossOp (.scan12 f h w) s (fun x c l => x.a c l)
/-- `MATCH` (R204). -/
def execMatchLanes (f : Word0) (h : Word1) (s : State) : Out := crossOp (.matchLanes f h) s (fun x c l => x.a c l)
def execMatchLanes12 (f : Word0) (h : Word1) (w : Word) (s : State) : Out :=
  crossOp (.matchLanes12 f h w) s (fun x c l => x.a c l)
/-- `ELECT` (R205). -/
def execElect (f : Word0) (h : Word1) (s : State) : Out := crossOp (.elect f h) s (fun _ _ _ => 0)
def execElect12 (f : Word0) (h : Word1) (w : Word) (s : State) : Out := crossOp (.elect12 f h w) s (fun _ _ _ => 0)

/-- An instruction whose member set is the whole crew, exited lanes counting as arrived, or the access slice (R206, R290). -/
def wholeOp (i : Instr) (s : State) (b : Ctx → Crew → Nat) : Out :=
  settled s (issue i s (fun x g c t =>
    .done (t.setUnit g x.unit (c.reach x i true true (fun _ => if x.access then 1 else BitVec.allOnes 32) (fun _ => { x := 0, b := b x c, fill := 0 })))))

/-- `PART` (R206). -/
def execPart (f : Word0) (s : State) : Out := wholeOp (.part f) s (fun _ _ => 0)
def execPart8 (f : Word0) (h : Word1) (s : State) : Out := wholeOp (.part8 f h) s (fun _ _ => 0)

/-! ### Barriers (R287 to R291): the crew converges, then the operation of R291 is performed (Settle) -/

/-- `BAR` (R291). -/
def execBar (f : Word0) (h : Word1) (s : State) : Out := wholeOp (.bar f h) s (fun _ _ => 0)
def execBar12 (f : Word0) (h : Word1) (w : Word) (s : State) : Out := wholeOp (.bar12 f h w) s (fun _ _ => 0)
/-- `BARA` (R291). -/
def execBara (f : Word0) (h : Word1) (s : State) : Out := wholeOp (.bara f h) s (fun _ _ => 0)
def execBara12 (f : Word0) (h : Word1) (w : Word) (s : State) : Out := wholeOp (.bara12 f h w) s (fun _ _ => 0)
/-- `BARW` with a register token (R291). -/
def execBarw (f : Word0) (h : Word1) (s : State) : Out := wholeOp (.barw f h) s (fun x c => x.b c 0)
/-- `BARW` with an immediate token (R291). -/
def execBarw12 (f : Word0) (h : Word1) (w : Word) (s : State) : Out := wholeOp (.barw12 f h w) s (fun _ _ => w.toNat)

end Sys2Proof.Machine
end

