-- ==== Sys2Proof/Machine/Queue.lean ====
section
/-! DEFINITION. The queue instructions between a group's access slice and its crews, and the steps that fill and expose
their entries (R247 to R255, R335 to R356). Forward queue q of crew c stands at key 32q + c; back queues keep their field
values 8 to 11 as keys. -/
namespace Sys2Proof.Machine
open Sys2Proof

/-! ### Sub-FIFOs -/

/-- The sub-FIFO of a crew. -/
def Group.sub (g : Group) (q c : Nat) : List QEntry := nget (fun _ => []) g.fq (32 * q + c)
/-- Puts a sub-FIFO back. -/
def Group.setSub (g : Group) (q c : Nat) (l : List QEntry) : Group := { g with fq := nset (fun _ => []) g.fq (32 * q + c) l }
/-- A back queue. -/
def Group.back (g : Group) (q : Nat) : List BEntry := nget (fun _ => []) g.bq q
/-- Puts a back queue back. -/
def Group.setBack (g : Group) (q : Nat) (l : List BEntry) : Group := { g with bq := nset (fun _ => []) g.bq q l }

/-- The crews that have not ended. -/
def Group.running (g : Group) : List Nat := (natsFrom 0 g.crews.length).filter (fun u => !(g.unit u).ended)

/-- Log record `k` of the access slice. -/
def Group.qlogRec (g : Group) (k : Nat) : Option QRec := g.slice.qlog.find? (fun r => r.queue = k)

/-- A push into queue `k` must wait: a crew's sub-FIFO is full, an earlier `QLD` to it is still being translated, or a
replay of it is pending (R247, R248, R249, Table 12-2). DESIGN CHOICE: log record k goes on holding pushes back when the crews that it names have
all ended (log entry 76). -/
def pushWaits (s : State) (g : Group) (k : Nat) : Bool :=
  g.running.any (fun c => decide (g.queueDepth k ≤ (g.sub k c).length)) || (g.qlogRec k).isSome
    || g.qreplays.any (fun r => decide (r.queue = k))
    || g.flights.any (fun f => decide (f.kind = .qload ∧ f.aux = k) && f.replay)
    || s.due.any (fun e => match e with
      | .qldPoison gid fid => decide (gid = g.id) && g.flights.any (fun f => decide (f.id = fid ∧ f.aux = k))
      | _ => false)

/-- Appends an entry to the sub-FIFO of every crew of a list. -/
def Group.pushAll (g : Group) (k : Nat) (cs : List Nat) (e : Nat → QEntry) : Group :=
  cs.foldl (fun h c => h.setSub k c (h.sub k c ++ [e c])) g

/-! ### `QLD` (R247, R248, R349) -/

/-- The element index of lane `l` of crew `c` (R247), exact. -/
def QRec.elem (r : QRec) (c l : Nat) : Int :=
  (r.index.toNat : Int) + r.lstride.toInt * l + r.cstride.toInt * c

/-- One lane of a `QLD`, checked: clipped, its address, or the trap, whose detail names the crew (R247). -/
def qldLane (x : Ctx) (g : Group) (r : QRec) (c l : Nat) : Except Trap (Option Nat) :=
  let p := ptrOf r.ptr.toNat
  let i := r.elem c l
  if i < 0 then (if r.clip then .ok none else .error (x.trapOf 0x09 0 c p.base))
  else
    match checkPtr g p i.toNat (fmtInfo p.fmt).unit .load with
    | .error (0x09, a) => if r.clip then .ok none else .error (x.trapOf 0x09 0 c a)
    | .error (cause, a) => .error (x.trapOf cause 0 c a)
    | .ok a => .ok (some (if p.space = 5 then g.param + a else a))

/-- The lanes of one crew's entry that are not clipped, with their addresses. -/
def qldCrew (x : Ctx) (g : Group) (r : QRec) (c : Nat) : Except Trap (List (Nat × Nat)) :=
  match allLanesOk (fun l => qldLane x g r c l) allLanes with
  | .error t => .error t
  | .ok as => .ok (as.filterMap (fun y => y.2.map (fun a => (y.1, a))))

/-- The lanes of a crew's entry as a replay forms them: the checks are not repeated, and what failed them then was a
clipped lane (R350). -/
def qldAgain (x : Ctx) (g : Group) (r : QRec) (c : Nat) : List (Nat × Nat) :=
  allLanes.filterMap (fun l => match qldLane x g { r with clip := true } c l with
    | .ok (some a) => some (l, a)
    | _ => none)

/-- What translating the lanes of some crews' entries gives: the accesses (lane 32c + l), the leaves, and per faulting crew
the cause and address of its lowest faulting lane. -/
structure QldXlate where
  accs : List LaneAcc
  leaves : List (LaneAcc × List Leaf)
  faults : List (Nat × Nat × Nat)

/-- Translates the lanes of crew `c` (R248): one faulting lane faults the whole entry. -/
def qldXlate (x : Ctx) (g : Group) (s : State) (r : QRec) (c : Nat) (ls : List (Nat × Nat)) : QldXlate :=
  let p := ptrOf r.ptr.toNat
  match allLanesOk (fun l => laneXlate x g s p l (r.elem c l).toNat (nget (fun _ => 0) ls l) 0) (ls.map (fun y => y.1)) with
  | .error t => { accs := [], leaves := [], faults := [(c, t.cause, t.addr)] }
  | .ok as =>
    { accs := as.map (fun y => { y.2.1 with lane := 32 * c + y.1 }), leaves := as.map (fun y => y.2), faults := [] }

/-- The pieces of several crews together. -/
def QldXlate.join (a b : QldXlate) : QldXlate :=
  { accs := a.accs ++ b.accs, leaves := a.leaves ++ b.leaves, faults := a.faults ++ b.faults }

/-- The type that a queue's elements are read as; `b8` is never converted (R51). -/
def Group.queueType (g : Group) (k : Nat) : BitVec 5 :=
  let t := (lget ⟨0, 0⟩ g.desc.fq k).typ
  if t = 0x17 then 0 else BitVec.ofNat 5 t

/-- Entries of the transaction table that the expanded entries of a `QLD` hold: for each crew's one for each distinct line (R337). -/
def State.qldHold (s : State) (g : Group) (as : List LaneAcc) : Nat :=
  ((natsFrom 0 g.crews.length).map (fun c => s.ottHold g (as.filter (fun a => decide (a.lane / 32 = c))))).sum

/-- Entries that must be free for the first crew's entry of a `QLD`: it is what issues, the others are expanded behind it (R337). -/
def State.qldFirst (s : State) (g : Group) (as : List LaneAcc) : Nat :=
  match as with
  | [] => 0
  | a :: _ => s.ottNeed g (as.filter (fun b => decide (b.lane / 32 = a.lane / 32)))

/-- Expands the entry of crew `c` of a `QLD` in flight: its lanes' requests leave and take their transaction-table entries, once every crew before
it is expanded and the table has room; else the address generator stands still (R230, R337). -/
def State.expandCrew (s : State) (gid fid c : Nat) : State :=
  match s.flight? gid fid with
  | none => s
  | some (g, f) =>
    let mine := f.lanes.filter (fun a => decide (a.lane / 32 = c))
    if decide (c < f.done) || f.lanes.any (fun a => decide (f.done ≤ a.lane / 32 ∧ a.lane / 32 < c)) ||
        !(mine.isEmpty || ottRoom (s.ottUsed g.loc.flat) (s.ottNeed g mine) false) then s
    else
      let las := mine.map (s.awayLane g)
      let f1 := { f with done := c + 1, away := f.away || las.any LaneAcc.asks, entries := f.entries + s.ottHold g mine
                         lanes := f.lanes.map (fun a => if a.lane / 32 = c then s.awayLane g a else a) }
      (s.onGroup gid (fun h => { h with flights := h.flights.map (fun (y : Flight) => if y.id = fid then f1 else y) })).askLoads g fid false las

/-- Sends the loads of crews' entries, `again` for a replay: one flight, whose crews' entries are expanded in their order as far as the table has
room and whose fills come later, and its poisoning where lanes faulted. With no crew to fill nothing is sent (R254). Where crews fault with
different causes FCODE is that of the lowest (DESIGN CHOICE, log entry 76). -/
def State.sendQld (s : State) (i : Instr) (x : Ctx) (g : Group) (r : QRec) (q : QldXlate) (crews : List Nat) (again : Bool) : State :=
  if crews.isEmpty then s
  else
    let id := s.nextId
    let bad := q.faults.foldl (fun (m : Word) y => setLane m y.1 true) 0
    let rec1 := { r with crews := bad, fcode := ((q.faults.map (fun y => y.2.1)).headD 0), replay := again && r.replay, seq := if again then r.seq else id
                         faddr := q.faults.map (fun y => (y.1, y.2.2)) }
    let f := { newFlight i x id .qload q.accs with aux := r.queue, typ := g.queueType r.queue, sat := false, replay := again, qrec := some rec1 }
    let s1 := { s.noteAll g q.leaves with nextId := id + 1 }.onGroup g.id (fun h => { h with flights := h.flights ++ [f] })
    let s2 := crews.foldl (fun (t : State) c => t.expandCrew g.id id c) s1
    let s3 := if q.faults.isEmpty then s2 else s2.post (.qldPoison g.id id)
    let fills := crews.filter (fun c => !bad.getLsbD c)
    { s3 with due := s3.due ++ fills.map (fun c => Ev.queueLaneFill g.id id c (BitVec.allOnes 32)) }

/-- `QLD` with lane stride `ls` (R247). -/
def qldOp (i : Instr) (ls : Word) (s : State) : Out :=
  settled s (issue i s (fun x g c t =>
    if x.act = 0 then .done t
    else
      let k := x.fl.f.d.toNat
      if pushWaits t g k then .stall .other
      else
        let r : QRec := { addr := x.addr, ptr := BitVec.ofNat 128 (x.a c 0), index := BitVec.ofNat 32 (x.b c 0)
                          cstride := BitVec.ofNat 32 (x.c c 0), lstride := ls, crews := 0, fcode := 0
                          clip := decide (x.fl.h.sub = 1), queue := k, replay := true, faddr := [] }
        match allLanesOk (fun u => qldCrew x g r u) g.running with
        | .error tr => .trap tr
        | .ok plan =>
          match (if (ptrOf r.ptr.toNat).space = 2 then none else t.missesWait (t.viewOf g) g.loc.flat g.ctx (plan.flatMap (fun y => y.2.map (fun z => z.2)))) with
          | some es => .miss es
          | none =>
          let q := (plan.map (fun y => qldXlate x g t r y.1 y.2)).foldl QldXlate.join ⟨[], [], []⟩
          let n := t.qldFirst g q.accs
          if cmdsHold g 32 (accFoot q.accs false) || lineHeld t g (q.accs.flatMap (fun a => a.pa)) ||
              (q.accs.any (fun a => a.remote t (t.viewOf g)) && g.olderLoad 32 t.nextId q.accs) then .stall .other
          else if decide (n ≠ 0) && !t.ottFree g.loc.flat x.gid 32 false n then .stall (.ott false n)
          else
          match watchHit t g c x false (q.accs.map (fun a => { a with lane := 0 })) with
          | some a => .trap (x.trapOf 0x1A 0 0 a.va)
          | none =>
            let fresh : QEntry := { vmask := 0, data := [], state := .filling, token := 0, fid := t.nextId }
            let t1 := (t.ottTake g.loc.flat x.gid 32).onGroup x.gid (fun h => h.pushAll k h.running (fun _ => fresh))
            .done (t1.sendQld i x g r q g.running false)))

/-- `QLD` (R247). -/
def execQld (f : Word0) (h : Word1) (s : State) : Out := qldOp (.qld f h) 1 s
/-- `QLD` with a lane stride. -/
def execQld12 (f : Word0) (h : Word1) (w : Word) (s : State) : Out := qldOp (.qld12 f h w) w s

/-- Takes a flight out when none of its lanes is left and no crew of it still waits for its fill or poisoning. -/
def State.dropQld (s : State) (gid fid : Nat) : State :=
  let open' := s.due.any (fun e => match e with
    | .qldPoison a b => decide (a = gid ∧ b = fid)
    | .queueLaneFill a b _ _ => decide (a = gid ∧ b = fid)
    | _ => false)
  if open' then s else s.onGroup gid (fun h => { h with flights := h.flights.filter (fun y => y.id ≠ fid) })

/-- Changes the entry that flight `fid` fills in a crew's sub-FIFO. -/
def Group.onEntry (g : Group) (k c fid : Nat) (f : QEntry → QEntry) : Group :=
  g.setSub k c ((g.sub k c).map (fun e => if e.fid = fid ∧ e.state = .filling then f e else e))

/-- A lane of a flight waits for the answer to a request: its own, or one that brings its bytes with it. -/
def State.laneAwaits (s : State) (gid fid : Nat) (a : LaneAcc) : Bool :=
  a.away && s.remote.any (fun r => decide (r.gid = gid ∧ r.fid = fid) && (decide (r.lane = a.lane) ||
    (r.fill && decide (r.pa ≤ a.pa.headD 0 ∧ a.pa.headD 0 + a.n ≤ r.pa + r.len))))

/-- The lanes of a `QLD` in flight that are left. -/
def State.qldLeft (s : State) (gid fid : Nat) (g : Group) (take : LaneAcc → Bool) : State :=
  s.onGroup gid (fun h => { h with flights := h.flights.map (fun (y : Flight) => if y.id = fid then
    let left := y.lanes.filter (fun a => !take a)
    { y with lanes := left, entries := min y.entries (s.qldHold g (left.filter (fun a => decide (a.lane / 32 < y.done)))) } else y) })

/-- `QUEUE_LANE_FILL`: data of some lanes of a crew's entry arrives; the entry is poppable when every lane has its data or is
clipped (R247, R342). Which of the lanes named arrive in this step is left open. An entry not expanded yet is first expanded, or given up where the
group has ended (R299, R337); a read takes its turn behind older ones of the same bytes (R316). -/
def execQueueLaneFill (gid fid crew : Nat) (lanes : Word) (s0 : State) : Out :=
  let s := s0.expandCrew gid fid crew
  match s.flight? gid fid with
  | none => .next s
  | some (g, f) =>
    if f.done ≤ crew then
      .next (if g.dead then (s.qldLeft gid fid g (fun a => decide (a.lane / 32 = crew))).dropQld gid fid else s.post (.queueLaneFill gid fid crew lanes))
    else
    let mine := f.lanes.filter (fun a => decide (a.lane / 32 = crew))
    let part := lanes &&& Config.freeWord s.free
    let now := if (mine.any (fun a => part.getLsbD (a.lane % 32))) then part else lanes
    let take := mine.filter (fun a => now.getLsbD (a.lane % 32))
    let rest := mine.filter (fun a => !now.getLsbD (a.lane % 32))
    if take.any (s.laneAwaits gid fid) || g.olderLoad 32 fid take || s.homeWaits g false take then
      .next (s.post (.queueLaneFill gid fid crew lanes))
    else
      match s.readLanes gid f take with
      | none => .next ((s.dropQld gid fid).contain gid 0x21)
      | some (s1, vals) =>
        let put := fun (e : QEntry) =>
          let e1 := vals.foldl (fun (d : QEntry) v =>
            { d with data := ninsert d.data (v.1 % 32) (BitVec.ofNat 32 v.2), vmask := setLane d.vmask (v.1 % 32) true }) e
          { e1 with state := if rest.isEmpty then .ready else .filling }
        let s2 := (s1.qldLeft gid fid g (fun a => take.contains a)).onGroup gid (fun h => h.onEntry f.aux crew fid put)
        let s3 := if rest.isEmpty then s2.dropQld gid fid
          else s2.post (.queueLaneFill gid fid crew (rest.foldl (fun m a => setLane m (a.lane % 32) true) 0))
        .next (if g.dead then s3 else s3.settle gid)

/-- `QLD_POISON`: the entries of the crews whose lanes faulted are poisoned, and log record k written (R248, R349). DESIGN CHOICE: where a replay
faults anew while its queue has a record, both are kept, in the order of their `QLD`s, and each crew's entry is answered for by the first that
names the crew (log entry 76). -/
def execQldPoison (gid fid : Nat) (s : State) : Out :=
  match s.flight? gid fid with
  | none => .next s
  | some (g, f) =>
    match f.qrec with
    | none => .next s
    | some r =>
      let poison := fun (e : QEntry) => { e with vmask := 0, data := [], state := .poisoned, token := r.queue }
      let s1 := s.onGroup gid (fun h =>
        let h1 := (lanesOf r.crews).foldl (fun (k : Group) c => k.onEntry r.queue c fid poison) h
        -- records stand by queue and, of one queue, in the order of the `QLD`s (R352, R354)
        let before := fun (y : QRec) => decide (y.queue < r.queue ∨ (y.queue = r.queue ∧ y.seq ≤ r.seq))
        let l := h1.slice.qlog
        { h1 with slice := { h1.slice with qlog := l.filter before ++ [{ r with replay := false }] ++ l.filter (fun y => !before y) } })
      .next (if g.dead then s1.dropQld gid fid else (s1.dropQld gid fid).settle gid)

/-! ### `QPUSH`, `QPOP` (R249 to R251) -/

/-- `QPUSH` (R249). -/
def execQpush (f : Word0) (h : Word1) (s : State) : Out :=
  settled s (issue (.qpush f h) s (fun x g c t =>
    if x.act = 0 then .done t
    else if pushWaits t g f.d.toNat then .stall .other
    else
      let v : Word := BitVec.ofNat 32 (x.a c 0)
      let e : QEntry := { vmask := BitVec.allOnes 32, data := if v = 0 then [] else allLanes.map (fun l => (l, v))
                          state := .ready, token := 0, fid := 0 }
      .done (t.onGroup x.gid (fun k => k.pushAll f.d.toNat k.running (fun _ => e)))))

/-- `QPOP` (R250, R251, R254): pops the head entry once for the issue group. -/
def qpopOp (i : Instr) (sub : Nat) (s : State) : Out :=
  settled s (issue i s (fun x g c t =>
    if x.act = 0 then .done t
    else
      let k := x.fl.f.a.toNat
      match g.sub k x.unit with
      | [] =>
        if g.sliceEnded then .trap (x.trapOf 0x11 (lowest x.act) (2 ^ 11) t.freeAddr) else .stall (.popEmpty k)
      | e :: rest =>
        match e.state with
        | .filling => .stall .other
        | .poisoned =>
          let r := g.qlogFor k x.unit
          let fc := match r with
            | some y => y.fcode
            | none => 0
          let fa := match r with
            | some y => nget (fun _ => 0) y.faddr x.unit
            | none => 0
          .trap (x.trapOf 0x11 (lowest x.act) (k + 8 * fc) fa)
        | .ready =>
          let c1 := x.eachD c (fun l => (nget zeroW e.data l).toNat)
          let c2 := if sub = 0 then c1 else x.eachP c1 (sub - 1) (fun l => e.vmask.getLsbD l)
          .done (t.setGroup ((g.setSub k x.unit rest).setUnit x.unit c2))))

/-- `QPOP` (R250). -/
def execQpop (f : Word0) (s : State) : Out := qpopOp (.qpop f) 0 s
def execQpop8 (f : Word0) (h : Word1) (s : State) : Out := qpopOp (.qpop8 f h) h.sub.toNat s

/-! ### Back queues (R252, R253, R139) -/

/-- `QBPUSH` (R252). -/
def qbpushOp (i : Instr) (s : State) : Out :=
  settled s (issue i s (fun x g c t =>
    if x.act = 0 then .done t
    else
      let k := x.fl.f.d.toNat
      if g.queueDepth k ≤ (g.back k).length then .stall (.backFull k x.issued)
      else
        let e : BEntry := { value := BitVec.ofNat 32 (x.a c (lowest x.act)), crew := x.unit, seen := false }
        .done ((t.onGroup x.gid (fun h => h.setBack k (h.back k ++ [e]))).post (.backQueueVisible x.gid k))))

def execQbpush (f : Word0) (s : State) : Out := qbpushOp (.qbpush f) s
def execQbpush8 (f : Word0) (h : Word1) (s : State) : Out := qbpushOp (.qbpush8 f h) s

/-- `BACK_QUEUE_VISIBLE`: the oldest entry not yet visible becomes visible to the access slice (R346). -/
def execBackQueueVisible (gid q : Nat) (s : State) : Out :=
  let rec see : List BEntry → List BEntry
    | [] => []
    | e :: l => if e.seen then e :: see l else { e with seen := true } :: l
  .next (s.onGroup gid (fun g => g.setBack q (see (g.back q))))

/-- Pops the head of a back queue for `QBPOP` and `BRQ`, or says why not. -/
def backPop (x : Ctx) (g : Group) (t : State) (k : Nat) : Except Res (Word × Group) :=
  match g.back k with
  | e :: rest => if e.seen then .ok (e.value, g.setBack k rest) else .error (.stall (.backEmpty k))
  | [] => if g.running.isEmpty then .error (.trap (x.trapOf 0x11 0 (2 ^ 11) t.freeAddr)) else .error (.stall (.backEmpty k))

/-- `QBPOP` (R253). -/
def qbpopOp (i : Instr) (s : State) : Out :=
  settled s (issue i s (fun x g c t =>
    if x.act = 0 then .done t
    else
      match backPop x g t x.fl.f.a.toNat with
      | .error r => r
      | .ok (v, g1) => .done (t.setGroup (g1.setUnit x.unit (c.sset x.fl.f.d.toNat v)))))

def execQbpop (f : Word0) (s : State) : Out := qbpopOp (.qbpop f) s
def execQbpop8 (f : Word0) (h : Word1) (s : State) : Out := qbpopOp (.qbpop8 f h) s

/-- `BRQ`: waits, pops, writes and branches as one instruction (R139). -/
def execBrq (f : Word0) (h : Word1) (w : Word) (s : State) : Out :=
  settled s (issue (.brq f h w) s (fun x g c t =>
    if x.act = 0 then .done t
    else
      match backPop x g t f.a.toNat with
      | .error r => r
      | .ok (v, g1) =>
        let c1 := c.sset f.d.toNat v
        let taken := if h.sub = 0 then decide (v ≠ 0) else decide (v = 0)
        .done (t.setGroup (g1.setUnit x.unit (if taken then c1.setPcs x.lanes (target x.addr x.off) else c1)))))

end Sys2Proof.Machine
end

