-- ==== Sys2Proof/Machine/Trap.lean ====
section
/-! DEFINITION. Returning from a trap: the reload of the frame, the replays of the operand log and of queue records, and the
traps left pending (R251, R304, R351, R419, R425). -/
namespace Sys2Proof.Machine
open Sys2Proof

/-- `n` bytes of a frame from offset `o`, as a number. -/
def frameNat (f : List Byte) (o n : Nat) : Nat := ofLeBytes ((f.drop o).take n)

/-- The resume program counters of a frame. -/
def framePcs (f : List Byte) (u : Nat) : List Nat :=
  if u = 32 then [frameNat f 0x540 8 % 2 ^ 57] else allLanes.map (fun l => frameNat f (0x540 + 8 * l) 8 % 2 ^ 57)

/-- A unit with the registers of its frame (R425 step 1). -/
def Crew.reload (c : Crew) (f : List Byte) (u : Nat) : Crew :=
  let c1 := (natsFrom 0 8).foldl (fun (d : Crew) k => d.sset k (BitVec.ofNat 32 (frameNat f (0x4C0 + 4 * k) 4))) c
  let c2 := if u = 32 then
      let w := frameNat f 0x500 4
      (natsFrom 0 15).foldl (fun (d : Crew) k => d.psetAll k (setLane (d.pget k) 0 (bit w k))) c1
    else
      let c3 := (natsFrom 0 8).foldl (fun (d : Crew) k =>
        allLanes.foldl (fun (e : Crew) l => e.vset k l (BitVec.ofNat 32 (frameNat f (0xC0 + 128 * k + 4 * l) 4))) d) c1
      (natsFrom 0 15).foldl (fun (d : Crew) k => d.psetAll k (BitVec.ofNat 32 (frameNat f (0x500 + 4 * k) 4))) c3
  (framePcs f u).zipIdx.foldl (fun (d : Crew) (x : Nat × Nat) => d.setPc x.2 x.1) c2

/-- The waits that a handler's crew had before it: counted barrier waits go on, lanes of a generation that has failed stand at their barrier
again (R288). -/
def Crew.resumeWaits (c : Crew) : Crew :=
  c.aside.foldl (fun (d : Crew) x => match x.2 with
    | .counted lv _ _ a => if 4 ≤ lv then (d.setPc x.1 a).setWait x.1 .ready else d
    | _ => d) { c with wait := c.aside, aside := [], hmode := false }

/-- The trap of a crew whose barrier wait failed while its handler ran (R288). -/
def Crew.failedWait (c : Crew) : Option Trap :=
  c.aside.findSome? (fun x => match x.2 with
    | .counted lv k _ a => if 4 ≤ lv then some (barTrap 2 (lv - 4) k x.1 a) else none
    | _ => none)

/-- A lane's access of a log record, translated again (R422, R425 step 2). -/
def State.xlateAgain (s : State) (g : Group) (a : LaneAcc) : Except XFault (LaneAcc × List Leaf) :=
  if a.space = 2 then .ok ({ a with pa := (natsFrom a.va a.n).map (cellOf a.swz) }, [])
  else
    match s.xunit (s.viewOf g) g.loc.flat g.ctx a.va a.n 0 a.cls a.space with
    | .error f => .error f
    | .ok u => .ok ({ a with pa := natsFrom u.pa a.n, share := u.share, repl := u.repl, edge := u.edge }, u.leaves)

/-- A record's accesses as the frame leaves them: the lanes of MASK at the addresses of LADDR. -/
def LogRec.edited (r : LogRec) (mask : Word) (addr : Nat → Nat) : LogRec :=
  match r.accs with
  | [] => { r with mask := mask }
  | a0 :: _ =>
    { r with mask := mask
             accs := (lanesOf mask).map (fun l =>
               let a := (r.accs.find? (fun a => a.lane = l)).getD { a0 with lane := l }
               { a with va := addr l }) }

/-- Replays a record: its load is sent again with `ld` as it stands; a fault is found after issue, as the first time
(R218, R425). -/
def State.replayLoad (s : State) (gid u : Nat) (i : Instr) (r : LogRec) : State :=
  match s.group? gid with
  | none => s
  | some g =>
    let id := s.nextId
    let step := fun (st : Except Trap (List LaneAcc × State)) (a : LaneAcc) =>
      match st with
      | .error t => .error t
      | .ok (as, v) =>
        match s.xlateAgain g a with
        | .error f => .error { cause := f.cause, lane := a.lane, detail := f.detail, addr := a.va % 2 ^ 57, first := r.addr }
        | .ok (b, ls) => .ok (as ++ [b], v.noteAll g [(b, ls)])
    let f0 : Flight := { id := id, unit := u, kind := .load, addr := r.addr, lanes := r.accs, typ := r.typ, d := r.d, sat := r.sat
                         aux := 15, fault := none, replay := true, ins := i, qrec := none, ranges := [], away := false }
    match r.accs.foldl step (Except.ok ([], s)) with
    | .error t =>
      ({ s with nextId := id + 1 }.onGroup gid (fun h => { h with flights := h.flights ++ [{ f0 with fault := some t }] })).post
        (.loadTranslationFault gid id)
    | .ok (as, v) =>
      let las := as.map (v.awayLane g)
      let f1 := { f0 with lanes := las, away := las.any LaneAcc.asks, entries := v.ottHold g as }
      (({ v with nextId := id + 1 }.onGroup gid (fun h => { h with flights := h.flights ++ [f1] })).post (.loadComplete gid id)).askLoads g id false las

/-- Replays of a unit that faulted become fresh fault records, and their traps wait to be entered in turn (R419, R425, R436). -/
def State.landReplays (s : State) (gid u : Nat) : State :=
  s.onGroup gid (fun g =>
    let bad := g.flights.filter (fun f => f.replay && decide (f.unit = u) && f.fault.isSome)
    let c := g.unit u
    { g.setUnit u { c with log := bad.foldl (fun l f => addLog l (f.logRec ((f.fault.map (fun t => t.cause)).getD 0))) c.log } with
      flights := g.flights.filter (fun f => !bad.contains f)
      pend := g.pend ++ bad.filterMap (fun f => f.fault.map (fun t => (u, { t with seq := f.id + 1 }))) })

/-- Replays the crew's log records as the frame leaves them, in order; a record whose VALID bit the handler cleared is
dropped with its place in `ld`. -/
def State.replayLog (s : State) (gid u : Nat) (i : Instr) (f : List Byte) : State :=
  match s.group? gid with
  | none => s
  | some g =>
    let log := (g.unit u).log
    let s1 := s.onGroup gid (fun h => h.setUnit u { h.unit u with log := [] })
    log.zipIdx.foldl (fun (t : State) (x : LogRec × Nat) =>
      let o := 0x680 + 320 * x.2
      let w := frameNat f o 64
      if bit w 90 then
        t.replayLoad gid u i (x.1.edited (BitVec.ofNat 32 (bits w 223 192)) (fun l => frameNat f (o + 64 + 8 * l) 8 % 2 ^ 57))
      else t.onGroup gid (fun h => h.setUnit u ((h.unit u).count 0 false))) s1

/-- The place of the element number `n` that `f` picks of a list. -/
def nthIdx {α : Type} (f : α → Bool) (n : Nat) (l : List α) : Option Nat :=
  ((l.zipIdx.filter (fun x => f x.1)).map (fun x => x.2))[n]?

/-- Replays a queue record for the crews it names that have not ended (R251, R351): the entries fill again, and lanes that
fault again poison theirs. A restored record reloads only the lanes that had no data (R353). -/
def State.replayQueue (s : State) (gid : Nat) (i : Instr) (x : Ctx) (r : QRec) : State :=
  match s.group? gid with
  | none => s
  | some g =>
    let y := { x with addr := r.addr, unit := 32 }
    let crews := g.running.filter (fun c => r.crews.getLsbD c)
    let id := s.nextId
    let isIt := fun (e : QEntry) => if r.replay then decide (e.state = .filling ∧ e.fid = 0) else decide (e.state = .poisoned)
    -- the poisoned entries of a crew stand in the order of the records that name it
    let turn := fun (c : Nat) => if r.replay then 0
      else (g.slice.qlog.filter (fun y => decide (y.queue = r.queue ∧ y.seq < r.seq) && y.crews.getLsbD c)).length
    let mineOf := fun (c : Nat) => (nthIdx isIt (turn c) (g.sub r.queue c)).bind (fun k => (g.sub r.queue c)[k]?)
    let reopen := fun (h : Group) (c : Nat) =>
      let l := h.sub r.queue c
      match nthIdx isIt (turn c) l with
      | none => h
      | some k => h.setSub r.queue c (l.zipIdx.map (fun (e : QEntry × Nat) =>
          if e.2 = k then { e.1 with state := .filling, token := 0, fid := id } else e.1))
    let q := (crews.map (fun c =>
      let have' := ((mineOf c).map (fun e => e.vmask)).getD 0
      qldXlate y g s r c ((qldAgain y g r c).filter (fun p => !have'.getLsbD p.1)))).foldl QldXlate.join ⟨[], [], []⟩
    let s1 := s.onGroup gid (fun h =>
      let h1 := crews.foldl reopen h
      { h1 with slice := { h1.slice with qlog := h1.slice.qlog.erase r } })
    s1.sendQld i y g r q crews true

/-- The next pending trap: the access slice's, else of the lowest crew, oldest first (R419). -/
def nextPending (l : List (Nat × Trap)) : Option (Nat × Trap) :=
  match l.find? (fun x => x.1 = 32) with
  | some x => some x
  | none =>
    match l with
    | [] => none
    | x :: r =>
      let m := r.foldl (fun (k : Nat) y => min k y.1) x.1
      oldestOf m (x :: r)

/-- Takes one pending trap out of a list. -/
def dropPending (l : List (Nat × Trap)) (x : Nat × Trap) : List (Nat × Trap) := l.erase x

/-- A placeholder for the instruction of an access that is replayed from its record. -/
def replayIns : Instr := .nop { gp := 15, gn := false, d := 0, a := 0, au := false }

/-- The context of a replay in a unit, of an instruction at an address. -/
def replayCtx (g : Group) (u addr : Nat) : Ctx :=
  { gid := g.id, unit := u, access := decide (u = 32), issued := 1, act := 1, addr := addr, ilen := 0, fl := fieldsOf replayIns, row := rowOf replayIns }

/-- A tile copy goes on with the rows that are left, translated again; one that does not translate stands still, and its trap is taken in its
unit (R284, R436, Table 15-1, log entry 79). -/
def State.resumeCopy (s : State) (gid : Nat) (c : Cmd) : State :=
  match c.kind, s.group? gid with
  | .tcopy t, some g =>
    let p := ptrOf t.ptr.toNat
    match rowsXlate (replayCtx g c.unit c.addr) g s p (if t.out then 1 else 0) t.e0 t.pitch (lastElem t.h) (natsFrom t.row t.remaining) with
    | .error tr => (s.setCmd gid c.id (.tcopy { t with stuck := true })).raise gid c.unit tr
    | .ok xs => (xs.foldl (fun (v : State) r => v.noteAll g r) s).setCmd gid c.id
        (.tcopy { t with rows := xs.map (fun r => r.map (fun y => y.1)), asked := false, snap := none, stuck := false })
  | _, _ => s

/-- The tile copies of a group that `which` names go on. -/
def State.resumeCopies (s : State) (gid : Nat) (which : TcopyCmd → Bool) : State :=
  match s.group? gid with
  | none => s
  | some g => (g.cmds.filter (fun c => match c.kind with
      | .tcopy t => which t
      | _ => false)).foldl (fun (v : State) c => v.resumeCopy gid c) s

/-- The group leaves its handler: the next pending trap is entered in the same slot once the reads that the return has replayed are complete, or
the slot frees and the group resumes; a pre-emption that waited comes again (R418, R419, R425, R427). -/
def State.leaveHandler (s : State) (gid : Nat) : State :=
  match s.group? gid with
  | none => s
  | some g =>
    match nextPending g.pend with
    | some x => (s.setGroup { g with pend := dropPending g.pend x, phase := .stopping x.1 x.2 }).settleStop gid
    | none =>
      let on := match g.drainTo with
        | some n => Phase.drain n
        | none => .live
      let s1 := ((s.setGroup { g with phase := on, slot := none, wanted := none, drainTo := none }).freeSlots gid).resumeCopies gid TcopyCmd.stuck
      match g.wanted with
      | some r => s1.post (.preemptRequest gid r)
      | none => s1

/-- A unit whose frame is `f` returns from trap `t`: the reload, the replays, then leaving the handler (R425). -/
def State.trapReturn (s : State) (gid : Nat) (i : Instr) (x : Ctx) (t : Trap) (f : List Byte) : State :=
  let u := x.unit
  let lanes := fun (c : Crew) => (if u = 32 then [0] else allLanes).filter (fun l => !c.out l && decide (c.pcOf l = t.first))
  let s1 := s.onGroup gid (fun h =>
    let late := ((h.unit u).failedWait.map (fun y => (u, y))).toList
    let c := ((h.unit u).reload f u).resumeWaits
    let c1 := if t.cause = 0x1A then
        { c with unwatched := some (t.first, (lanes c).foldl (fun (m : Word) l => setLane m l true) 0) } else c
    { h.setUnit u c1 with pend := (if u = 32 then h.pend else h.pend.filter (fun p => decide (p.1 ≠ u ∨ p.2.seq = 0))) ++ late })
  let s2 := if u = 32 then (match s1.group? gid with
      | some g => g.slice.qlog.foldl (fun (v : State) r => v.replayQueue gid i x r) s1
      | none => s1)
    else
      let v := (s1.replayLog gid u i f).landReplays gid u
      if t.cause = 0x11 ∧ t.detail < 2 ^ 11 then
        match (v.group? gid).bind (fun g => g.qlogFor (t.detail % 8) u) with
        | some r => v.replayQueue gid i x r
        | none => v
      else v
  s2.leaveHandler gid

/-- `TRET` (R304, R425). A frame that cannot be read, or a resume address that is not a multiple of 4, is a trap within the
handler. -/
def execTret (f : Word0) (s : State) : Out :=
  settled s (issue (.tret f) s (fun x g c t =>
    if x.act = 0 then .done t
    else
      match g.phase, g.slot with
      | .handler _ w, some k =>
        let n := 0x680 + if x.access then 64 * c.qlog.length else 320 * c.log.length
        match t.getVirtual g (t.slotBase g.ctx + k * t.slotSize g.ctx) n with
        | .error e => .trap (x.trapOf e.cause (lowest x.act) e.detail (t.slotBase g.ctx + k * t.slotSize g.ctx))
        | .ok (t1, bs) =>
          match (framePcs bs x.unit).zipIdx.find? (fun p => decide (p.1 % 4 ≠ 0) && !c.out p.2) with
          | some p => .trap (x.trapOf 0x0A (lowest x.act) 0 p.1)
          | none => .done (t1.trapReturn x.gid (.tret f) x w bs)
      | _, _ => .done t))

end Sys2Proof.Machine
end

