-- ==== Sys2Proof/Machine/Distribute.lean ====
section
/-! DEFINITION. The die distributors: what a core has free, admitting groups, gangs and die shares, back-fill and its age
limit, making room, stealing, and the return of a group's resources (R13, R15, R21, R289, R406 to R413, R435, R436). -/
namespace Sys2Proof.Machine
open Sys2Proof

/-- Changes a launch, if it exists. -/
def State.onLaunch (s : State) (id : Nat) (f : Launch → Launch) : State :=
  match s.launch? id with
  | some l => s.setLaunch (f l)
  | none => s

/-- A crew or access slice with nothing in it, at an address (R15). -/
def Crew.fresh (pcs : NMap Nat) (exited : Word) (quadrant : Nat) : Crew :=
  { v := [], s := [], p := [], t := [], acc := [], pc := pcs, exited := exited, wait := [], pass := [], aside := [], ld := 0, st := 0,
    cp := 0, tl := 0, partw := 32, parks := [], hmode := false, tcause := 0, tfirst := 0, tfaddr := 0, latch := [], log := [],
    qlog := [], stall := none, age := 0, yielded := false, quadrant := quadrant, collTraps := [],
    unwatched := none, pendBar := none }

/-! ### Free counts of a core (Table 14-11) -/

/-- What groups take of a core: group slots, crew slots, vector, uniform, tile and accumulator registers, queue rows, block
store buffer granules. -/
structure Use where
  groups : Nat
  crews : Nat
  vector : Nat
  uniform : Nat
  tiles : Nat
  accs : Nat
  rows : Nat
  bsb : Nat
deriving DecidableEq, Repr

/-- What one group of a descriptor takes with `n` crews (Table 14-11). -/
def Desc.use (d : Desc) (n : Nat) : Use :=
  { groups := 1, crews := n, vector := d.nv * n, uniform := d.ns * n + d.nsa, tiles := d.nt * n, accs := d.na * n
    rows := ((d.fq.map (fun q => q.depth)).foldl (· + ·) 0) * n, bsb := d.bsbg }

/-- Two uses together. -/
def Use.add (a b : Use) : Use :=
  { groups := a.groups + b.groups, crews := a.crews + b.crews, vector := a.vector + b.vector, uniform := a.uniform + b.uniform
    tiles := a.tiles + b.tiles, accs := a.accs + b.accs, rows := a.rows + b.rows, bsb := a.bsb + b.bsb }

/-- Nothing in use. -/
def Use.zero : Use := ⟨0, 0, 0, 0, 0, 0, 0, 0⟩

/-- A use stays within the full counts of a core (R13, Table 14-11). -/
def Use.fits (u : Use) : Bool :=
  decide (u.groups ≤ 16) && decide (u.crews ≤ 48) && decide (u.vector ≤ 3072) && decide (u.uniform ≤ 4096) && decide (u.tiles ≤ 128)
    && decide (u.accs ≤ 64) && decide (u.rows ≤ 1024) && decide (u.bsb ≤ 64)

/-- A group holds resources of its core: it is not saved (R432 step 7). -/
def Group.resident (g : Group) : Bool :=
  match g.phase with
  | .saved _ => false
  | _ => true

/-- Transactions of a group are under way. -/
def State.transacting (s : State) (gid : Nat) : Bool := s.remote.any (fun r => decide (r.gid = gid))

/-- Groups that hold resources of core `c`, apart from those of a list: a saved one until its transactions are complete (R432). -/
def State.holders (s : State) (c : Nat) (out : List Nat) : List Group :=
  s.groups.filter (fun g => (g.resident || s.transacting g.id) && decide (g.loc.flat = c) && !out.contains g.id)

/-- What some groups take together. -/
def usedBy (gs : List Group) : Use := gs.foldl (fun u g => u.add (g.desc.use g.crews.length)) Use.zero

/-- The scratchpad runs that some groups hold: first row and rows. -/
def runsHeld (gs : List Group) : List (Nat × Nat) :=
  (gs.filter (fun g => decide (g.desc.scr256 ≠ 0))).map (fun g => (g.scrBase, g.desc.scr256))

/-- The first row of the lowest free run of `n` rows (R409). -/
def freeRun (held : List (Nat × Nat)) (n : Nat) : Option Nat :=
  let starts := (0 :: held.map (fun r => r.1 + r.2)).filter (fun b => decide (b + n ≤ 2048) && !(held.any (fun r => decide (b < r.1 + r.2 ∧ r.1 < b + n))))
  if n = 0 then some 0
  else match starts with
    | [] => none
    | b :: r => some (r.foldl min b)

/-- A core can admit a group of a descriptor with `n` crews, the groups of a list not counted: its scratchpad run. -/
def State.coreFits (s : State) (c : Nat) (d : Desc) (n : Nat) (out : List Nat) : Option Nat :=
  let gs := s.holders c out
  if ((usedBy gs).add (d.use n)).fits then freeRun (runsHeld gs) d.scr256 else none

/-- The cores of die `d` that admit groups: neither retired nor quarantined (R503, R504). -/
def State.enabledCores (s : State) (d : Nat) : List Nat :=
  (natsFrom (d * 96) 96).filter (fun c => !(s.core c).quarantined && !s.retired d (c % 96))

/-- Free crew slots of a core. -/
def State.freeCrews (s : State) (c : Nat) : Nat := 48 - (usedBy (s.holders c [])).crews

/-- Of the cores of a list that can admit a group, the one with the most free crew slots, ties to the lowest (R409). -/
def State.chooseCore (s : State) (cs : List Nat) (d : Desc) (n : Nat) : Option (Nat × Nat) :=
  let ok := cs.filterMap (fun c => (s.coreFits c d n []).map (fun b => (c, b)))
  match ok with
  | [] => none
  | x :: r => some (r.foldl (fun (best : Nat × Nat) y => if s.freeCrews best.1 < s.freeCrews y.1 then y else best) x)

/-! ### Admitting one group (R15, R413) -/

/-- Crews on each quadrant of a core. -/
def State.quadrantLoad (s : State) (c : Nat) : List Nat :=
  let qs := (s.holders c []).flatMap (fun g => g.crews.map (fun k => k.quadrant))
  (natsFrom 0 4).map (fun q => (qs.filter (fun x => x = q)).length)

/-- The quadrant with the fewest crews, ties to the lowest (R413). -/
def leastQuadrant (load : List Nat) : Nat :=
  let m := load.foldl min (load.headD 0)
  (load.findIdx? (fun x => x = m)).getD 0

/-- The quadrants of `n` crews placed one after the other. -/
def placeCrews : Nat → List Nat → List Nat
  | 0, _ => []
  | n + 1, load =>
    let q := leastQuadrant load
    q :: placeCrews n (lset load q (lget 0 load q + 1))

/-- The position of flat core `c`. -/
def posOf (c : Nat) : Pos := ⟨c / 96, c / 12 % 8, c % 12⟩

/-- The order number of the next admission: one above those of the groups there are. -/
def State.nextOrder (s : State) : Nat := (s.groups.map (fun g => g.order)).foldl max 0 + 1

/-- Inherited values put into a crew: key (crew × 256 + register) × 32 + lane (R21). -/
def inheritCrew (vals : NMap Word) (u : Nat) : NMap Word :=
  vals.filterMap (fun x => if x.1 / 8192 = u ∧ x.2 ≠ 0 then some (x.1 % 8192, x.2) else none)

/-- A new group with linear number `n` of a launch, at its entry points with every register zero (R15). -/
def newGroup (s : State) (l : Launch) (n gang core scr : Nat) (inherited : Option (NMap Word)) : Group :=
  let d := l.desc
  let nx := l.ngroups.1
  let ny := l.ngroups.2.1
  let crew := fun (x : Nat × Nat) =>
    let c := Crew.fresh (allLanes.map (fun i => (i, d.exec))) 0 x.1
    match inherited with
    | some m => { c with v := inheritCrew m x.2 }
    | none => c
  { id := s.nextId, launch := l.id, g := n, ctx := l.ctx, queue := l.queue, prio := l.prio, part := l.part, pos := posOf core, loc := posOf core
    desc := d, launchId := BitVec.ofNat 32 l.launchId, gid := (n % nx, n / nx % ny, n / nx / ny), ngroups := l.ngroups
    param := l.param, paramLen := l.paramLen, crews := (placeCrews l.crews (s.quadrantLoad core)).zipIdx.map crew
    slice := if d.access = 0 then Crew.fresh [] (BitVec.allOnes 32) 0 else Crew.fresh [(0, d.access)] 0 0
    fq := [], bq := [], handles := [], bars := [], bsb := [], flights := [], cmds := [], scrBase := scr, scratch := []
    committed := false, chain := inherited.isSome, retired := 0, phase := .live, pend := [], slot := none, gang := gang
    order := s.nextOrder, since := s.now (core / 96), coupled := 0, wanted := none, qreplays := [] }

/-- Drops the lines of a core's L1 whose tracked bit is clear, dirty bytes written back first (R333, R334). -/
def State.dropUntracked (s : State) (v : View) (c : Nat) : State :=
  (s.core c).l1.foldl (fun (t : State) (x : Nat × L1Line) => if x.2.tracked then t else t.evictLine v c x.1) s

/-- Vacated blocks of a core are no longer free for a successor once another group is admitted to any place there (R21). -/
def State.spoilVacated (s : State) (c : Nat) : State :=
  { s with launches := s.launches.map (fun l => { l with vacated := l.vacated.filter (fun x => decide (x.1 ≠ c)) }) }

/-- Admits group `n` of a launch to a core: the first group of the launch on a core invalidates its L1 (R334), and the
context's time slice begins (R427). -/
def State.admitGroup (s : State) (l : Launch) (n gang core scr : Nat) (inherited : Option (NMap Word)) : State :=
  let s1 := if s.groups.any (fun h => decide (h.launch = l.id ∧ h.loc.flat = core)) then s else s.dropUntracked (s.view l.part) core
  let g := newGroup s1 l n gang core scr inherited
  { s1 with groups := s1.groups ++ [g], nextId := s1.nextId + 1 }.post (.timeSliceExpiry g.id)

/-- Admits groups one after the other to the cores of a list; none when one of them does not fit. -/
def State.admitAll (s : State) (l : Launch) (gang : Nat) (cs : List Nat) : List Nat → Option State
  | [] => some s
  | n :: r =>
    match s.chooseCore cs l.desc l.crews with
    | none => none
    | some (c, scr) => ((s.spoilVacated c).admitGroup l n gang c scr none).admitAll l gang cs r

/-- Admits groups to the cores of a list, the first of them into a vacated block of its launch where one is given: its core and, for a
group that may inherit, its values (R21, R410). -/
def State.admitInto (s : State) (l : Launch) (gang : Nat) (cs : List Nat) (block : Option (Nat × Option (NMap Word))) (ns : List Nat) : Option State :=
  match block, ns with
  | some (c, vals), n :: r =>
    if !cs.contains c then none
    else
      match s.coreFits c l.desc l.crews [] with
      | none => none
      | some scr =>
        let used := fun (m : Launch) => if m.id = l.id then { m with vacated := m.vacated.eraseP (fun x => x.1 = c) } else m
        ({ s with launches := s.launches.map used }.admitGroup l n gang c scr vals).admitAll l gang cs r
  | _, _ => s.admitAll l gang cs ns

/-! ### What a die share admits next -/

/-- What a die share admits next: groups (one, a gang, or the whole share), a cluster to keep off, and the share then. -/
structure Next where
  groups : List Nat
  keepOff : Option Nat
  /-- They were dispatched before: flushed and restarted, or relaunched (R21). -/
  again : Bool
  share : Share
deriving DecidableEq, Repr

/-- The next unit of a die share: what was returned first, then the batch begun, then the lowest batch (R406, R431). -/
def Launch.next (l : Launch) (x : Share) : Option Next :=
  match x.back with
  | (gs, off) :: r => some { groups := gs, keepOff := off, again := true, share := { x with back := r } }
  | [] =>
    if l.desc.cores = 2 then
      (match x.batches with
       | [] => none
       | bs => some { groups := bs.flatMap l.batch, keepOff := none, again := false, share := { x with batches := [] } })
    else
      let y := match x.cur, x.batches with
        | [], b :: r => { x with cur := l.batch b, batches := r }
        | _, _ => x
      match y.cur with
      | [] => none
      | g :: r =>
        let n := if l.gang = 0 then 1 else l.gang
        some { groups := (g :: r).take n, keepOff := none, again := false, share := { y with cur := (g :: r).drop n } }

/-- Cores of a die apart from a cluster; all of them when no other cluster has an enabled core (R495). -/
def State.coresApart (s : State) (d : Nat) (off : Option Nat) : List Nat :=
  let cs := s.enabledCores d
  match off with
  | none => cs
  | some k =>
    match cs.filter (fun c => decide (c / 12 % 8 ≠ k)) with
    | [] => cs
    | r => r

/-- The group drains, be it in a trap meanwhile (R429). -/
def Group.draining (g : Group) : Bool :=
  match g.phase with
  | .drain _ => true
  | .stopping _ _ | .handler _ _ => g.drainTo.isSome
  | _ => false

/-- Cores of a list that a draining group does not hold back for a launch of higher priority (R429). -/
def State.notDraining (s : State) (cs : List Nat) (prio : Nat) : List Nat :=
  cs.filter (fun c => !((s.holders c []).any (fun g => decide (g.prio < prio) && g.draining)))

/-- Admits the next unit of a launch on a die, if it can be admitted now: its first group into a vacated block where one is given, and none
of a group whose abandoned execution still holds resources (R289, R409 to R411, R431). -/
def State.admitNext (s : State) (l : Launch) (d : Nat) (n : Next) (block : Option (Nat × Option (NMap Word))) : Option State :=
  let cs := s.notDraining (s.coresApart d n.keepOff) l.prio
  let put := fun (t : State) => t.onLaunch l.id (fun l1 => { l1 with shares := l1.shares.map (fun x =>
    if x.die = d then { n.share with live := x.live + n.groups.length, since := t.now d, asked := [] } else x) })
  if s.groups.any (fun h => decide (h.launch = l.id) && n.groups.contains h.g) then none
  else if l.desc.cores = 1 then
    let id := s.nextId
    let clusters := (cs.map (fun c => c / 12)).eraseDups
    let gang : Nat → Gang := fun k =>
      { id := id, launch := l.id, die := d, cluster := k % 8, members := n.groups, done := 0, canc := 0, bars := [] }
    (clusters.findSome? (fun k => { s with nextId := id + 1, gangs := s.gangs ++ [gang k] }.admitInto l id (cs.filter (fun c => c / 12 = k)) block n.groups)).map put
  else (s.admitInto l 0 cs block n.groups).map put

/-! ### Which launch is served (R409 to R411) -/

/-- Saved groups of a launch on a die (R436). -/
def State.savedOf (s : State) (l : Launch) (d : Nat) : List Group :=
  s.groups.filter (fun g => decide (g.launch = l.id ∧ g.pos.die = d) && (match g.phase with
    | .saved _ => true
    | _ => false))

/-- Launches by the order in which the front-end consumed them (R409). -/
def byConsumption (ls : List Launch) : List Launch :=
  ls.foldl (fun (r : List Launch) l => r.takeWhile (fun x => decide (x.seq ≤ l.seq)) ++ [l] ++ r.dropWhile (fun x => decide (x.seq ≤ l.seq))) []

/-- The launches of a die with something to admit there, highest priority first, then in the order the front-end consumed
them (R409). -/
def State.waitingOn (s : State) (d : Nat) : List Launch :=
  let ls := byConsumption (s.launches.filter (fun l =>
    match l.shares.find? (fun x => x.die = d) with
    | some x => (l.next x).isSome || !(s.savedOf l d).isEmpty
    | none => false))
  (natsFrom 0 4).flatMap (fun k => ls.filter (fun l => decide (l.prio = 3 - k)))

/-- The share of a launch on a die. -/
def Launch.share? (l : Launch) (d : Nat) : Option Share := l.shares.find? (fun x => x.die = d)

/-- The members that are restored together with a saved group (R436). -/
def State.together (s : State) (g : Group) : List Group :=
  if g.gang ≠ 0 then s.groups.filter (fun h => h.gang = g.gang)
  else if g.desc.cores = 2 then s.groups.filter (fun h => decide (h.launch = g.launch ∧ h.pos.die = g.pos.die))
  else [g]

/-- Places for groups that are restored together: group, core, scratchpad run. -/
def State.restorePlaces (s : State) (cs : List Nat) : List Group → Option (List (Nat × Nat × Nat))
  | [] => some []
  | g :: r =>
    match s.chooseCore cs g.desc g.crews.length with
    | none => none
    | some (c, scr) =>
      match (s.setGroup { g with phase := .live, loc := posOf c, scrBase := scr }).restorePlaces cs r with
      | none => none
      | some xs => some ((g.id, c, scr) :: xs)

/-- Where a saved group and those with it can be restored on its origin die: all of them or none (R289, R436). -/
def State.restorePlan (s : State) (g : Group) : Option (List (Nat × Nat × Nat)) :=
  let gs := (s.together g).filter (fun h => !h.resident)
  let cs := s.notDraining (s.enabledCores g.pos.die) g.prio
  if (s.together g).any (fun h => (h.resident && !h.over) || s.transacting h.id) then none
  else if g.gang ≠ 0 then ((cs.map (fun c => c / 12)).eraseDups).findSome? (fun k => s.restorePlaces (cs.filter (fun c => c / 12 = k)) gs)
  else s.restorePlaces cs gs

/-- What a distributor does next. -/
inductive Choice where
  /-- Admits a successor into a vacated block: launch, core, the values it inherits, none of a restarted group. -/
  | inherit (l : Launch) (core : Nat) (vals : Option (NMap Word)) (n : Next)
  | restore (gid : Nat)
  | fresh (l : Launch) (n : Next)
  | nothing
deriving DecidableEq, Repr

/-- What a launch can have done on a die now. -/
def State.offer (s : State) (d : Nat) (l : Launch) : Option Choice :=
  match s.savedOf l d with
  | g :: _ => if (s.restorePlan g).isSome then some (.restore g.id) else none
  | [] =>
    match (l.share? d).bind l.next with
    | some n => if (s.admitNext l d n none).isSome then some (.fresh l n) else none
    | none => none

/-- A successor for a vacated block of the die: the next undispatched unit of the same share, where its first group fits there (R410) and no group
of its launch is saved there, which comes before it (R436). -/
def State.inheritOffer (s : State) (d : Nat) (ls : List Launch) : Option Choice :=
  ls.findSome? (fun l =>
    match (if (s.savedOf l d).isEmpty then (l.share? d).bind l.next else none) with
    | none => none
    | some n =>
      (l.vacated.filter (fun x => x.1 / 96 = d)).findSome? (fun x =>
        let vals := if n.again then none else some x.2
        if (s.admitNext l d n (some (x.1, vals))).isSome then some (.inherit l x.1 vals n) else none))

/-- The launches that a die may serve now, in order: once the age limit has stopped back-fill, none behind the launch that waits (R411). -/
def State.servable (s : State) (d : Nat) : List Launch :=
  let ws := s.waitingOn d
  let only := nget (fun _ => 0) s.onlyLaunch d
  if ws.any (fun l => decide (l.id = only)) then ws.takeWhile (fun l => decide (l.id ≠ only)) ++ ws.filter (fun l => decide (l.id = only)) else ws

/-- THE CHOICE of a die distributor: a successor first, then the launches in order, each back-filling those before it unless
the age limit has stopped that (R409 to R411). Under a partition reset nothing is dispatched (R486). -/
def State.choice (s : State) (d : Nat) : Choice :=
  if s.parts.any (fun x => decide (x.state = 1) && x.dies.contains d) then .nothing
  else match s.inheritOffer d (s.servable d) with
  | some c => c
  | none => ((s.servable d).findSome? (s.offer d)).getD .nothing

/-- The waits of a die's launches are watched: for back-fill's age limit until it has stopped, and for making room (R411). -/
def State.watchWaits (s : State) (d : Nat) : State :=
  let ws := s.waitingOn d
  let only := nget (fun _ => 0) s.onlyLaunch d
  let s1 := if ws.isEmpty || ws.any (fun l => decide (l.id = only)) then s else s.postOnce (.backfillAgeLimit d)
  ws.foldl (fun (t : State) l => t.postOnce (.priorityWaitExpiry d l.id)) s1

/-- A die distributor looks at what it can do: the step that does it may come. -/
def State.kick (s : State) (d : Nat) : State :=
  match s.choice d with
  | .inherit l _ _ _ | .fresh l _ => (s.watchWaits d).postOnce (.groupDispatch d l.id)
  | .restore g => (s.watchWaits d).postOnce (.restoreGroup g)
  | .nothing => s.watchWaits d

/-- Of two shares the one with more batches not begun, ties to the lower die (R407). -/
def Share.richer (a b : Share) : Share :=
  if a.batches.length < b.batches.length ∨ (a.batches.length = b.batches.length ∧ b.die < a.die) then b else a

/-- A steal request of the die for the launch, or its reply, is on its way. -/
def State.stealing (s : State) (d launch : Nat) : Bool :=
  let mine := fun (e : Ev) => match e with
    | .stealRequest _ a l => decide (a = d ∧ l = launch)
    | .stealReply _ a l => decide (a = d ∧ l = launch)
    | _ => false
  s.due.any mine || s.net.packets.any (fun p => mine p.payload) || s.net.flows.any (fun f => f.queue.any (fun x => mine x.2))

/-- The share of a launch on a die has nothing left to begin while another has: it asks for a batch (R407). -/
def State.askSteal (s : State) (d launch : Nat) : State :=
  match s.launch? launch with
  | none => s
  | some l =>
    match l.share? d with
    | none => s
    | some x =>
      if l.desc.cores ≠ 2 && x.batches.isEmpty && x.cur.isEmpty && x.back.isEmpty && x.coming.isEmpty && !x.reported
          && !s.stealing d launch then
        match (l.shares.filter (fun y => decide (y.die ≠ d) && !y.batches.isEmpty)) with
        | [] => s
        | y :: r =>
          let v := r.foldl Share.richer y
          s.sendMesh (distributorPort d) (distributorPort v.die) 0 l.prio (.stealRequest v.die d launch)
      else s

/-- Back-fill on a die goes on once the launch that it stopped for has admitted (R411). -/
def State.backfillOn (s : State) (die launch : Nat) : State :=
  { s with onlyLaunch := if nget (fun _ => 0) s.onlyLaunch die = launch then nerase s.onlyLaunch die else s.onlyLaunch }

/-- `GROUP_DISPATCH`: the distributor of a die admits the group, gang or share that comes next, if it is of this launch
(R409 to R413). -/
def execGroupDispatch (die launch : Nat) (s : State) : Out :=
  match s.choice die with
  | .inherit l core vals n =>
    if l.id = launch then
      match s.admitNext l die n (some (core, vals)) with
      | some s1 => .next (((s1.backfillOn die launch).kick die).askSteal die launch)
      | none => .next s
    else .next (s.kick die)
  | .fresh l n =>
    if l.id = launch then
      match s.admitNext l die n none with
      | some s1 => .next (((s1.backfillOn die launch).kick die).askSteal die launch)
      | none => .next s
    else .next (s.kick die)
  | _ => .next (s.kick die)

/-- A launch, or something above it, is cancelled. -/
def State.underCancel (s : State) (launch : Nat) : Bool := s.insts.any (fun (i : Inst) => i.cancelled && s.isUnder i.id 8 launch)

/-- The batch that a die gives up: its highest not begun; none to a share that is finished, or under a cancel, which each die meets with
the batches it holds (R299, R407). -/
def State.givenUp (s : State) (l : Launch) (victim thief : Nat) : Option Nat :=
  match l.share? victim, l.share? thief with
  | some v, some t => if t.reported || s.underCancel l.id then none else v.batches.getLast?
  | _, _ => none

/-- `STEAL_REQUEST`: the die asked gives up its highest batch not begun, or answers with none (R407). -/
def execStealRequest (ask : Steal) (launch : Nat) (s : State) : Out :=
  let victim := ask.victim
  let thief := ask.thief
  match s.launch? launch with
  | none => .next s
  | some l =>
    let answer := fun (t : State) => t.sendMesh (distributorPort victim) (distributorPort thief) 1 l.prio (.stealReply victim thief launch)
    match s.givenUp l victim thief with
    | none => .next (answer s)
    | some b =>
      let s1 := s.setLaunch { l with shares := l.shares.map (fun x =>
        if x.die = victim then { x with batches := x.batches.dropLast }
        else if x.die = thief then { x with coming := x.coming ++ [b] } else x) }
      .next (answer (s1.tryShare launch victim))

/-- `STEAL_REPLY`: the batch given up is the asking die's to dispatch; with none, it asks again where any is (R407). -/
def execStealReply (_victim thief launch : Nat) (s : State) : Out :=
  match s.launch? launch with
  | none => .next s
  | some l =>
    match l.share? thief with
    | some t =>
      if t.coming.isEmpty then .next (if t.reported then s else s.askSteal thief launch)
      else
        .next ((s.setLaunch { l with shares := l.shares.map (fun x =>
          if x.die = thief then { x with batches := x.batches ++ x.coming, coming := [], since := s.now thief } else x) }).kick thief)
    | none => .next s

/-- `BACKFILL_AGE_LIMIT`: the oldest waiting launch of the highest priority has waited 65,536 local cycles: nothing else is
admitted on the die until it is (R411). -/
def execBackfillAgeLimit (die : Nat) (s : State) : Out :=
  match s.waitingOn die with
  | [] => .next s
  | l :: _ =>
    let since := ((l.share? die).map (fun x => x.since)).getD 0
    if s.now die - since < 65536 then .next (s.postOnce (.backfillAgeLimit die))
    else .next ({ s with onlyLaunch := ninsert s.onlyLaunch die l.id }.kick die)

/-! ### Making room (R411) -/

/-- Lower-priority groups of some cores that have not ended, in the order they would be pre-empted: lowest priority, then most recently
admitted. -/
def State.victims (s : State) (cs : List Nat) (prio : Nat) : List Group :=
  let gs := s.groups.filter (fun g => g.resident && !g.over && cs.contains g.loc.flat && decide (g.prio < prio))
  gs.foldl (fun (l : List Group) g =>
    let before := fun (h : Group) => decide (h.prio < g.prio ∨ (h.prio = g.prio ∧ g.order < h.order))
    l.takeWhile before ++ [g] ++ l.dropWhile before) []

/-- A launch has something to admit on a die: groups saved there, or a next unit. -/
def State.wants (s : State) (l : Launch) (d : Nat) : Bool := !(s.savedOf l d).isEmpty || ((l.share? d).bind l.next).isSome

/-- What a launch would admit next on a die, saved groups before others, would fit on the cores of a list with some groups gone. -/
def State.fitsWithout (s : State) (l : Launch) (d : Nat) (cs : List Nat) (gone : List Nat) : Bool :=
  let t := { s with groups := s.groups.filter (fun g => !gone.contains g.id) }
  match s.savedOf l d with
  | g :: _ => (t.restorePlaces cs ((s.together g).filter (fun h => !h.resident))).isSome
  | [] => match (l.share? d).bind l.next with
    | some n => (t.admitAll l 0 cs n.groups).isSome
    | none => false

/-- The choices of `n` elements of a list, those with its first elements first. -/
def choices : Nat → List Nat → List (List Nat)
  | 0, _ => [[]]
  | _ + 1, [] => []
  | n + 1, x :: r => (choices n r).map (fun c => x :: c) ++ choices (n + 1) r

/-- The fewest groups whose pre-emption makes room on the cores of a place, none where there is room; of as few, those that come first in the
order. -/
def State.roomAt (s : State) (l : Launch) (d : Nat) (cs : List Nat) : Option (List Nat) :=
  let vs := (s.victims cs l.prio).map (fun g => g.id)
  (natsFrom 0 (vs.length + 1)).findSome? (fun k => (choices k vs).find? (s.fitsWithout l d cs))

/-- The places where room could be made for a launch on a die: cores, clusters, or the die. -/
def State.places (s : State) (l : Launch) (d : Nat) : List (List Nat) :=
  let off := if (s.savedOf l d).isEmpty then ((l.share? d).bind l.next).bind (fun n => n.keepOff) else none
  let cs := s.coresApart d off
  match l.desc.cores with
  | 0 => cs.map (fun c => [c])
  | 1 => ((cs.map (fun c => c / 12)).eraseDups).map (fun k => cs.filter (fun c => c / 12 = k))
  | _ => [cs]

/-- A group whose pre-emption a share last had asked for has not stopped and given its resources back. -/
def State.preempting (s : State) (x : Share) : Bool := x.asked.any (fun gid => match s.group? gid with
  | some g => g.resident
  | none => false)

/-- `PRIORITY_WAIT_EXPIRY`: a launch that has waited 4,096 local cycles for groups of lower priority has the fewest of them
pre-empted (R411). -/
def execPriorityWaitExpiry (die launch : Nat) (s : State) : Out :=
  match s.launch? launch with
  | none => .next s
  | some l =>
    match (if s.wants l die then l.share? die else none) with
    | none => .next s
    | some x =>
      if s.now die - x.since < 4096 ∨ s.preempting x then .next (s.postOnce (.priorityWaitExpiry die launch))
      else
        let rooms := (s.places l die).filterMap (s.roomAt l die)
        match rooms with
        | [] => .next (s.postOnce (.priorityWaitExpiry die launch))
        | r :: rs =>
          let best := rs.foldl (fun (b : List Nat) y => if y.length < b.length then y else b) r
          let s1 := s.setLaunch { l with shares := l.shares.map (fun y => if y.die = die then { y with asked := best } else y) }
          .next ((best.foldl (fun (t : State) g => t.postOnce (.preemptRequest g false)) s1).postOnce (.priorityWaitExpiry die launch))

/-! ### Ends -/

/-- The values of the inherited range that a group leaves (R20, R21). -/
def Group.legacy (g : Group) : Option (NMap Word) :=
  g.desc.inh.map (fun r =>
    g.crews.zipIdx.flatMap (fun x => (x.1.v.filter (fun y => decide (r.1 ≤ y.1 / 32 ∧ y.1 / 32 ≤ r.2))).map (fun y => (x.2 * 8192 + y.1, y.2))))

/-- The barriers of an ended group's gang and share are held against who is left, and its bytes leave the core's write-combining buffer
(R231, R288). -/
def State.drainEnded (s : State) (g : Group) : State := (s.settleOuter g.id).drainOwned g.loc.flat g.id

/-- `GROUP_RESOURCES_RETURN`: once its accesses have drained and its stores are accepted, an ended group is reported and its resources
return to its core; a normal end leaves its block for a successor (R16, R21, R299, R410). -/
def execGroupResourcesReturn (gid : Nat) (s0 : State) : Out :=
  match s0.group? gid with
  | none => .next s0
  | some g =>
    match g.phase with
    | .ended how =>
      let sd := s0.drainEnded g
      if !sd.groupDone g then .next (sd.post (.groupResourcesReturn gid))
      else
        let s := if g.told then sd else sd.tellEnd g how
        let s1 := { s with groups := s.groups.filter (fun h => decide (h.id ≠ gid)) }
        let s2 := match g.legacy with
          | some vals => if how = 0 then s1.onLaunch g.launch (fun l => { l with vacated := l.vacated ++ [(g.loc.flat, vals)] }) else s1
          | none => s1
        .next ((s2.kick g.loc.die).askSteal g.loc.die g.launch)
    | _ => .next s0

/-- `CANCEL_MESSAGE`: a cancel reaches another die of the partition, with the reductions posted from there since (R299, R298, R466). -/
def execCancelMessage (die inst : Nat) (s : State) : Out :=
  .next ((s.cancelOnDie inst die).cancelPosted ((s.insts.filter (fun (x : Inst) => s.isUnder inst 8 x.id)).map (fun (x : Inst) => x.id)))

/-- The group is saved, or being saved: a sleep holds the count that remains. -/
def Group.saveHeld (g : Group) : Bool :=
  match g.phase with
  | .saving _ | .saved _ => true
  | _ => false

/-- `SLEEPC_EXPIRY`: the sleeping threads of a unit are ready once their die's cycle count has come to them; a group being saved keeps what
remains, and its restore posts the step again (R142). -/
def execSleepcExpiry (gid u lane : Nat) (s : State) : Out :=
  match s.group? gid with
  | none => .next s
  | some g =>
    if g.saveHeld then .next s else
    match (g.unit u).waitOf lane with
    | .asleep due _ =>
      if s.now g.loc.die < due then .next (s.post (.sleepcExpiry gid u lane))
      else .next (s.setUnit g u (allLanes.foldl (fun (c : Crew) l =>
        match c.waitOf l with
        | .asleep d _ => if s.now g.loc.die < d then c else c.setWait l .ready
        | _ => c) (g.unit u)))
    | _ => .next s

/-- `TIME_SLICE_EXPIRY`: the context's time slice, counted from the group's admission or restore, asks for a pre-emption
(R427). -/
def execTimeSliceExpiry (gid : Nat) (s : State) : Out :=
  match s.group? gid with
  | none => .next s
  | some g =>
    if g.over || !g.resident then .next s
    else
      let slice := bits (s.ctxReg g.ctx 0x08) 31 0
      if slice = 0 ∨ s.now g.loc.die - g.since < slice then .next (s.post (.timeSliceExpiry gid))
      else .next (s.postOnce (.preemptRequest gid false))

end Sys2Proof.Machine
end

