-- ==== Sys2Proof/Machine/Floating.lean ====
section
/-! DEFINITION. Floating-point instructions, conversions, special functions and the division step (R166 to R185,
Table 06-1). -/
namespace Sys2Proof.Machine
open Sys2Proof

/-- `FADD` (R168). -/
def execFadd (f : Word0) (h : Word1) (s : State) : Out :=
  issueD (.fadd f h) s (fun x c l => faddV fp32F (fctl x.fl.h) false (x.a c l) (x.b c l))

/-- `FADD` (R168). With an immediate B. -/
def execFadd12 (f : Word0) (h : Word1) (w : Word) (s : State) : Out :=
  issueD (.fadd12 f h w) s (fun x c l => faddV fp32F (fctl x.fl.h) false (x.a c l) (x.b c l))

/-- `FSUB` (R168). -/
def execFsub (f : Word0) (h : Word1) (s : State) : Out :=
  issueD (.fsub f h) s (fun x c l => faddV fp32F (fctl x.fl.h) true (x.a c l) (x.b c l))

/-- `FSUB` (R168). With an immediate B. -/
def execFsub12 (f : Word0) (h : Word1) (w : Word) (s : State) : Out :=
  issueD (.fsub12 f h w) s (fun x c l => faddV fp32F (fctl x.fl.h) true (x.a c l) (x.b c l))

/-- `FMUL` (R168). -/
def execFmul (f : Word0) (h : Word1) (s : State) : Out :=
  issueD (.fmul f h) s (fun x c l => fmulV fp32F (fctl x.fl.h) (x.a c l) (x.b c l))

/-- `FMUL` (R168). With an immediate B. -/
def execFmul12 (f : Word0) (h : Word1) (w : Word) (s : State) : Out :=
  issueD (.fmul12 f h w) s (fun x c l => fmulV fp32F (fctl x.fl.h) (x.a c l) (x.b c l))

/-- `FFMA` (R169). -/
def execFfma (f : Word0) (h : Word1) (s : State) : Out :=
  issueD (.ffma f h) s (fun x c l => ffmaV fp32F (fctl x.fl.h) x.fl.h.sub.toNat (x.a c l) (x.b c l) (x.c c l))

/-- `FFMA` (R169). With an immediate B. -/
def execFfma12 (f : Word0) (h : Word1) (w : Word) (s : State) : Out :=
  issueD (.ffma12 f h w) s (fun x c l => ffmaV fp32F (fctl x.fl.h) x.fl.h.sub.toNat (x.a c l) (x.b c l) (x.c c l))

/-- `FMIN` (R170). -/
def execFmin (f : Word0) (h : Word1) (s : State) : Out :=
  issueD (.fmin f h) s (fun x c l => fselV fp32F (fctl x.fl.h) false false (x.a c l) (x.b c l))

/-- `FMIN` (R170). With an immediate B. -/
def execFmin12 (f : Word0) (h : Word1) (w : Word) (s : State) : Out :=
  issueD (.fmin12 f h w) s (fun x c l => fselV fp32F (fctl x.fl.h) false false (x.a c l) (x.b c l))

/-- `FMAX` (R170). -/
def execFmax (f : Word0) (h : Word1) (s : State) : Out :=
  issueD (.fmax f h) s (fun x c l => fselV fp32F (fctl x.fl.h) true false (x.a c l) (x.b c l))

/-- `FMAX` (R170). With an immediate B. -/
def execFmax12 (f : Word0) (h : Word1) (w : Word) (s : State) : Out :=
  issueD (.fmax12 f h w) s (fun x c l => fselV fp32F (fctl x.fl.h) true false (x.a c l) (x.b c l))

/-- `FMINP` (R170). -/
def execFminp (f : Word0) (h : Word1) (s : State) : Out :=
  issueD (.fminp f h) s (fun x c l => fselV fp32F (fctl x.fl.h) false true (x.a c l) (x.b c l))

/-- `FMINP` (R170). With an immediate B. -/
def execFminp12 (f : Word0) (h : Word1) (w : Word) (s : State) : Out :=
  issueD (.fminp12 f h w) s (fun x c l => fselV fp32F (fctl x.fl.h) false true (x.a c l) (x.b c l))

/-- `FMAXP` (R170). -/
def execFmaxp (f : Word0) (h : Word1) (s : State) : Out :=
  issueD (.fmaxp f h) s (fun x c l => fselV fp32F (fctl x.fl.h) true true (x.a c l) (x.b c l))

/-- `FMAXP` (R170). With an immediate B. -/
def execFmaxp12 (f : Word0) (h : Word1) (w : Word) (s : State) : Out :=
  issueD (.fmaxp12 f h w) s (fun x c l => fselV fp32F (fctl x.fl.h) true true (x.a c l) (x.b c l))

/-- `FSETP` (R171). -/
def execFsetp (f : Word0) (h : Word1) (s : State) : Out :=
  issueCrew (.fsetp f h) s (fun x c =>
    x.eachP c x.fl.f.d.toNat (fun l => fcmpV fp32F (fctl x.fl.h) x.fl.h.sub.toNat (x.a c l) (x.b c l) && npredAt c x.fl.h.c l))

/-- `FSETP` (R171). With an immediate B. -/
def execFsetp12 (f : Word0) (h : Word1) (w : Word) (s : State) : Out :=
  issueCrew (.fsetp12 f h w) s (fun x c =>
    x.eachP c x.fl.f.d.toNat (fun l => fcmpV fp32F (fctl x.fl.h) x.fl.h.sub.toNat (x.a c l) (x.b c l) && npredAt c x.fl.h.c l))

/-- `FSEL` (R172). -/
def execFsel (f : Word0) (h : Word1) (s : State) : Out :=
  issueD (.fsel f h) s (fun x c l => if npredAt c x.fl.h.c l then x.a c l else x.b c l)

/-- `FSEL` (R172). With an immediate B. -/
def execFsel12 (f : Word0) (h : Word1) (w : Word) (s : State) : Out :=
  issueD (.fsel12 f h w) s (fun x c l => if npredAt c x.fl.h.c l then x.a c l else x.b c l)

/-- `FCLASS` (R173). -/
def execFclass (f : Word0) (h : Word1) (s : State) : Out :=
  issueD (.fclass f h) s (fun x c l => (ffOfTyp x.fl.h.typ).classBit (x.a c l % 2 ^ (ffOfTyp x.fl.h.typ).width))

/-- `FSCALE` (R174). -/
def execFscale (f : Word0) (h : Word1) (s : State) : Out :=
  issueD (.fscale f h) s (fun x c l => fscaleV (fctl x.fl.h) (x.a c l) (x.b c l))

/-- `FSCALE` (R174). With an immediate B. -/
def execFscale12 (f : Word0) (h : Word1) (w : Word) (s : State) : Out :=
  issueD (.fscale12 f h w) s (fun x c l => fscaleV (fctl x.fl.h) (x.a c l) (x.b c l))

/-- `FRND` in RNE (R175). -/
def execFrnd (f : Word0) (s : State) : Out :=
  issueD (.frnd f) s (fun x c l => frndV (fctl x.fl.h) (x.a c l))

/-- `FRND` (R175). -/
def execFrnd8 (f : Word0) (h : Word1) (s : State) : Out :=
  issueD (.frnd8 f h) s (fun x c l => frndV (fctl x.fl.h) (x.a c l))

/-- `DADD` and `DADD.sub` (R168). -/
def execDadd (f : Word0) (h : Word1) (s : State) : Out :=
  issueD (.dadd f h) s (fun x c l => faddV fp64F (fctl x.fl.h) (decide (x.fl.h.sub.toNat = 1)) (x.a c l) (x.b c l))

/-- `DMUL` (R168). -/
def execDmul (f : Word0) (h : Word1) (s : State) : Out :=
  issueD (.dmul f h) s (fun x c l => fmulV fp64F (fctl x.fl.h) (x.a c l) (x.b c l))

/-- `DFMA` (R169). -/
def execDfma (f : Word0) (h : Word1) (s : State) : Out :=
  issueD (.dfma f h) s (fun x c l => ffmaV fp64F (fctl x.fl.h) x.fl.h.sub.toNat (x.a c l) (x.b c l) (x.c c l))

/-- `DSETP` (R171). -/
def execDsetp (f : Word0) (h : Word1) (s : State) : Out :=
  issueCrew (.dsetp f h) s (fun x c =>
    x.eachP c x.fl.f.d.toNat (fun l => fcmpV fp64F (fctl x.fl.h) x.fl.h.sub.toNat (x.a c l) (x.b c l) && npredAt c x.fl.h.c l))

/-- `HADD2` (R176). -/
def execHadd2 (f : Word0) (h : Word1) (s : State) : Out :=
  issueD (.hadd2 f h) s (fun x c l => packed2 (fun p q _ => faddV (ffOfTyp x.fl.h.typ) (fctl x.fl.h) false p q) (x.a c l) (x.b c l) 0)

/-- `HADD2` (R176). With an immediate B. -/
def execHadd212 (f : Word0) (h : Word1) (w : Word) (s : State) : Out :=
  issueD (.hadd212 f h w) s (fun x c l => packed2 (fun p q _ => faddV (ffOfTyp x.fl.h.typ) (fctl x.fl.h) false p q) (x.a c l) (x.b c l) 0)

/-- `HMUL2` (R176). -/
def execHmul2 (f : Word0) (h : Word1) (s : State) : Out :=
  issueD (.hmul2 f h) s (fun x c l => packed2 (fun p q _ => fmulV (ffOfTyp x.fl.h.typ) (fctl x.fl.h) p q) (x.a c l) (x.b c l) 0)

/-- `HMUL2` (R176). With an immediate B. -/
def execHmul212 (f : Word0) (h : Word1) (w : Word) (s : State) : Out :=
  issueD (.hmul212 f h w) s (fun x c l => packed2 (fun p q _ => fmulV (ffOfTyp x.fl.h.typ) (fctl x.fl.h) p q) (x.a c l) (x.b c l) 0)

/-- `HFMA2` (R176). -/
def execHfma2 (f : Word0) (h : Word1) (s : State) : Out :=
  issueD (.hfma2 f h) s (fun x c l => packed2 (fun p q r => ffmaV (ffOfTyp x.fl.h.typ) (fctl x.fl.h) x.fl.h.sub.toNat p q r) (x.a c l) (x.b c l) (x.c c l))

/-- `HFMA2` (R176). With an immediate B. -/
def execHfma212 (f : Word0) (h : Word1) (w : Word) (s : State) : Out :=
  issueD (.hfma212 f h w) s (fun x c l => packed2 (fun p q r => ffmaV (ffOfTyp x.fl.h.typ) (fctl x.fl.h) x.fl.h.sub.toNat p q r) (x.a c l) (x.b c l) (x.c c l))

/-- `FDOT2` (R177). -/
def execFdot2 (f : Word0) (h : Word1) (s : State) : Out :=
  issueD (.fdot2 f h) s (fun x c l => fdotV (ffOfTyp x.fl.h.typ) 16 2 (fctl x.fl.h) (x.a c l) (x.b c l) (x.c c l))

/-- `FDOT4` (R177). -/
def execFdot4 (f : Word0) (h : Word1) (s : State) : Out :=
  issueD (.fdot4 f h) s (fun x c l => fdotV (ffOfTyp x.fl.h.typ) 8 4 (fctl x.fl.h) (x.a c l) (x.b c l) (x.c c l))

/-- `FCVT` (R72, R178 to R180). -/
def execFcvt (f : Word0) (h : Word1) (s : State) : Out :=
  issueD (.fcvt f h) s (fun x c l => halfWrite x.fl.h.sub.toNat x.fl.h.typ (x.regN c false l x.fl.f.d.toNat x.row.d.count) (fcvtV (ffOfTyp (BitVec.ofNat 5 x.fl.h.c.toNat)) (ffOfTyp x.fl.h.typ) (fctl x.fl.h) (elemAt (ffOfTyp (BitVec.ofNat 5 x.fl.h.c.toNat)).width x.fl.h.b.toNat (x.a c l))))

/-- `FCVTI` (R73, R178, R179, R181). -/
def execFcvti (f : Word0) (h : Word1) (s : State) : Out :=
  issueD (.fcvti f h) s (fun x c l => halfWrite x.fl.h.sub.toNat x.fl.h.typ (x.regN c false l x.fl.f.d.toNat x.row.d.count) (fcvtiV (ffOfTyp (BitVec.ofNat 5 x.fl.h.c.toNat)) x.fl.h.typ (fctl x.fl.h) (elemAt (ffOfTyp (BitVec.ofNat 5 x.fl.h.c.toNat)).width x.fl.h.b.toNat (x.a c l))))

/-- `ICVTF` (R74, R178, R179, R182). -/
def execIcvtf (f : Word0) (h : Word1) (s : State) : Out :=
  issueD (.icvtf f h) s (fun x c l => halfWrite x.fl.h.sub.toNat x.fl.h.typ (x.regN c false l x.fl.f.d.toNat x.row.d.count) (icvtfV (BitVec.ofNat 5 x.fl.h.c.toNat) (ffOfTyp x.fl.h.typ) (fctl x.fl.h) (x.a c l)))

/-- `FRCP` (R183). -/
def execFrcp (f : Word0) (s : State) : Out :=
  issueD (.frcp f) s (fun x c l => sfu 136 x.fl.h.rnd.toNat x.fl.h.fzi x.fl.h.fzo (x.a c l))

/-- `FRCP` with flush fields (R183). -/
def execFrcp8 (f : Word0) (h : Word1) (s : State) : Out :=
  issueD (.frcp8 f h) s (fun x c l => sfu 136 x.fl.h.rnd.toNat x.fl.h.fzi x.fl.h.fzo (x.a c l))

/-- `FRSQ` (R183). -/
def execFrsq (f : Word0) (s : State) : Out :=
  issueD (.frsq f) s (fun x c l => sfu 137 x.fl.h.rnd.toNat x.fl.h.fzi x.fl.h.fzo (x.a c l))

/-- `FRSQ` with flush fields (R183). -/
def execFrsq8 (f : Word0) (h : Word1) (s : State) : Out :=
  issueD (.frsq8 f h) s (fun x c l => sfu 137 x.fl.h.rnd.toNat x.fl.h.fzi x.fl.h.fzo (x.a c l))

/-- `FSQRT` (R183). -/
def execFsqrt (f : Word0) (s : State) : Out :=
  issueD (.fsqrt f) s (fun x c l => sfu 138 x.fl.h.rnd.toNat x.fl.h.fzi x.fl.h.fzo (x.a c l))

/-- `FSQRT` with flush fields (R183). -/
def execFsqrt8 (f : Word0) (h : Word1) (s : State) : Out :=
  issueD (.fsqrt8 f h) s (fun x c l => sfu 138 x.fl.h.rnd.toNat x.fl.h.fzi x.fl.h.fzo (x.a c l))

/-- `FEX2` (R183). -/
def execFex2 (f : Word0) (s : State) : Out :=
  issueD (.fex2 f) s (fun x c l => sfu 139 x.fl.h.rnd.toNat x.fl.h.fzi x.fl.h.fzo (x.a c l))

/-- `FEX2` with flush fields (R183). -/
def execFex28 (f : Word0) (h : Word1) (s : State) : Out :=
  issueD (.fex28 f h) s (fun x c l => sfu 139 x.fl.h.rnd.toNat x.fl.h.fzi x.fl.h.fzo (x.a c l))

/-- `FLG2` (R183). -/
def execFlg2 (f : Word0) (s : State) : Out :=
  issueD (.flg2 f) s (fun x c l => sfu 140 x.fl.h.rnd.toNat x.fl.h.fzi x.fl.h.fzo (x.a c l))

/-- `FLG2` with flush fields (R183). -/
def execFlg28 (f : Word0) (h : Word1) (s : State) : Out :=
  issueD (.flg28 f h) s (fun x c l => sfu 140 x.fl.h.rnd.toNat x.fl.h.fzi x.fl.h.fzo (x.a c l))

/-- `FSIN` (R183). -/
def execFsin (f : Word0) (s : State) : Out :=
  issueD (.fsin f) s (fun x c l => sfu 141 x.fl.h.rnd.toNat x.fl.h.fzi x.fl.h.fzo (x.a c l))

/-- `FSIN` with flush fields (R183). -/
def execFsin8 (f : Word0) (h : Word1) (s : State) : Out :=
  issueD (.fsin8 f h) s (fun x c l => sfu 141 x.fl.h.rnd.toNat x.fl.h.fzi x.fl.h.fzo (x.a c l))

/-- `FCOS` (R183). -/
def execFcos (f : Word0) (s : State) : Out :=
  issueD (.fcos f) s (fun x c l => sfu 142 x.fl.h.rnd.toNat x.fl.h.fzi x.fl.h.fzo (x.a c l))

/-- `FCOS` with flush fields (R183). -/
def execFcos8 (f : Word0) (h : Word1) (s : State) : Out :=
  issueD (.fcos8 f h) s (fun x c l => sfu 142 x.fl.h.rnd.toNat x.fl.h.fzi x.fl.h.fzo (x.a c l))

/-- `FTANH` (R183). -/
def execFtanh (f : Word0) (s : State) : Out :=
  issueD (.ftanh f) s (fun x c l => sfu 143 x.fl.h.rnd.toNat x.fl.h.fzi x.fl.h.fzo (x.a c l))

/-- `FTANH` with flush fields (R183). -/
def execFtanh8 (f : Word0) (h : Word1) (s : State) : Out :=
  issueD (.ftanh8 f h) s (fun x c l => sfu 143 x.fl.h.rnd.toNat x.fl.h.fzi x.fl.h.fzo (x.a c l))

/-- `FDIVF` (R184). -/
def execFdivf (f : Word0) (h : Word1) (s : State) : Out :=
  issueD (.fdivf f h) s (fun x c l => fdivfV (fctl x.fl.h) (x.a c l) (x.b c l) (x.c c l))

end Sys2Proof.Machine
end

