-- ==== Sys2Proof/Machine/Preempt.lean ====
section
/-! DEFINITION. Pre-emption: the choice of a mode, draining, flush and restart, saving a group's image, and restoring a group from it (R26,
R197, R284, R296, R333, R352 to R355, R427 to R436). -/
namespace Sys2Proof.Machine
open Sys2Proof

/-! ### The image (R434, Tables 15-7 to 15-10) -/

/-- Bytes of a block rounded up to a 192-byte border. -/
def padTo192 (bs : List Byte) : List Byte := bs ++ List.replicate ((192 - bs.length % 192) % 192) 0

/-- A lane's wait state (Table 15-9); a sleep holds its remaining count. -/
def LaneWait.bytes (w : LaneWait) : List Byte :=
  match w with
  | .asleep n _ => leBytes 8 (1 + n % 2 ^ 32 * 2 ^ 32)
  | .counted lv k tok _ => leBytes 8 (2 + tok % 256 * 256 + k * 2 ^ 16 + lv * 2 ^ 20)
  | _ => leBytes 8 0

/-- A parked register's slot (Table 15-9). -/
def Park.word (p : Park) : Nat := 2 ^ 31 + (if p.acc then 2 ^ 30 else 0) + p.row * 2 ^ 25 + p.idx * 2 ^ 21 + p.reg * 2 ^ 13

/-- A crew record of 1,024 bytes. -/
def Crew.record (c : Crew) : List Byte :=
  allLanes.flatMap (fun l => leBytes 8 (c.pcOf l)) ++ allLanes.flatMap (fun l => (c.waitOf l).bytes) ++ leBytes 4 c.exited.toNat ++
    leBytes 4 (c.ld + c.st * 2 ^ 8 + c.cp * 2 ^ 16 + c.tl * 2 ^ 24) ++ leBytes 4 c.partw ++
    leBytes 4 (c.parks.foldl (fun (n : Nat) (x : Nat × Park) => n + 2 ^ x.1) 0) ++ leBytes 48 c.quadrant ++
    (natsFrom 0 32).flatMap (fun k => leBytes 4 (match nfind? c.parks k with
      | some p => p.word
      | none => 0)) ++ List.replicate 64 (0 : Byte) ++
    allLanes.flatMap (fun l => leBytes 8 (match c.passAt l with
      | some a => 2 ^ 63 + a
      | none => 0))

/-- The access slice's record of 192 bytes. -/
def Group.sliceRecord (g : Group) : List Byte :=
  leBytes 8 (g.slice.pcOf 0) ++ (g.slice.waitOf 0).bytes ++ leBytes 4 (if g.sliceEnded then 1 else 0) ++
    leBytes 4 (g.slice.st * 2 ^ 8 + g.slice.cp * 2 ^ 16) ++ List.replicate 168 (0 : Byte)

/-- The vector, uniform, predicate, tile and accumulator blocks (Table 01-3). -/
def Group.classBlocks (g : Group) : List (List Byte) :=
  let d := g.desc
  let words := fun (m : NMap Word) (a n : Nat) => (natsFrom a n).flatMap (fun k => leBytes 4 (wget m k).toNat)
  let sl := words g.slice.s 0 d.nsa
  [ g.crews.flatMap (fun c => words c.v 0 (32 * d.nv)),
    sl ++ List.replicate ((64 - sl.length % 64) % 64) 0 ++ g.crews.flatMap (fun c => words c.s 0 d.ns),
    leBytes 64 ((natsFrom 0 16).foldl (fun n k => n + (if predAt g.slice k 0 then 2 ^ k else 0)) 0) ++
      g.crews.flatMap (fun c => (natsFrom 0 16).flatMap (fun k => leBytes 4 (c.pget k).toNat)),
    g.crews.flatMap (fun c => words c.t 0 (256 * d.nt)),
    g.crews.flatMap (fun c => words c.acc 0 (1024 * d.na)) ]

/-- The replay record of a `TCOPY` with acceptance rank `rank` (R434). DEDUCED: as it has no place for ROW0, its next row is the row of the handle
and its e0 that row's first element (log entry 79). -/
def Cmd.replayBytes (c : Cmd) (rank : Nat) : List Byte :=
  match c.kind with
  | .tcopy t =>
    leBytes 16 t.ptr.toNat ++ leBytes 4 (t.e0 + t.row * t.pitch) ++ leBytes 4 t.pitch ++ leBytes 2 (t.row0 + t.row) ++ leBytes 2 t.remaining ++
      leBytes 1 (t.hnum + if t.out then 16 else 0) ++ leBytes 2 c.unit ++ leBytes 1 rank ++ List.replicate 32 (0 : Byte)
  | _ => []

/-- Block 7: the counts, the access slice's records, the crews' and the engine's. -/
def Group.logBlock (g : Group) : List Byte :=
  let a := g.slice.qlog ++ g.qreplays
  let c := g.crews.zipIdx.flatMap (fun x => x.1.log.map (fun r => r.bytes x.2))
  let e := (g.cmds.zipIdx.map (fun x => x.1.replayBytes x.2)).filter (fun b => !b.isEmpty)
  leBytes 64 (a.length + c.length * 2 ^ 8 + e.length * 2 ^ 16) ++ a.flatMap QRec.bytes ++ c.flatten ++ e.flatten

/-- A forward-queue entry as saved (Table 15-10, R352). -/
def QEntry.bytes (e : QEntry) : List Byte :=
  let st := match e.state with
    | .ready => 1
    | .poisoned => 2
    | .filling => 3
  let data := allLanes.flatMap (fun l => leBytes 4 (if e.state = .poisoned then 0 else (wget e.data l).toNat))
  data ++ leBytes 16 (e.vmask.toNat + (if e.state = .poisoned then 2 ^ 32 else 0) + e.token % 8 * 2 ^ 33 + st * 2 ^ 36)

/-- A back-queue entry as saved. -/
def BEntry.bytes (e : BEntry) : List Byte := leBytes 8 (e.value.toNat + e.crew * 2 ^ 32 + 2 ^ 37)

/-- Block 8: every declared queue's entries from the head. -/
def Group.queueBlock (g : Group) : List Byte :=
  (natsFrom 0 8).flatMap (fun q =>
    let n := g.queueDepth q
    (natsFrom 0 g.crews.length).flatMap (fun c =>
      let es := (g.sub q c).flatMap QEntry.bytes
      es ++ List.replicate (144 * n - es.length) 0)) ++
  (natsFrom 0 4).flatMap (fun q =>
    if g.queueDepth (8 + q) = 0 then [] else
      let es := (g.back (8 + q)).flatMap BEntry.bytes
      es ++ List.replicate (128 - es.length) 0)

/-- A handle as saved. -/
def Handle.bytes (h : Handle) : List Byte :=
  leBytes 16 (h.base + h.words * 2 ^ 17 + h.fmt * 2 ^ 35 + h.planes * 2 ^ 41 + (if h.bound then 2 ^ 46 else 0) + h.gen.toNat * 2 ^ 64)

/-- A barrier as saved, with the arrived bits of one group's units. DESIGN CHOICE: of a default-count generation bits [15:0] hold 0, which
Table 15-10 does not say (log entry 33). -/
def Barrier.bytes (b : Barrier) (level gid : Nat) : List Byte :=
  let arrived := (natsFrom 0 33).foldl (fun n u => n + (if b.arrived.contains (barId level gid u) then 2 ^ u else 0)) 0
  leBytes 16 (b.expected + (if b.dflt then 2 ^ 16 else 0) + b.arrivals * 2 ^ 32 + b.gen * 2 ^ 48 + arrived * 2 ^ 64)

/-- The level of the outer barrier set that a group's image holds: only the member with the lowest number holds one (R436). -/
def State.heldLevel (s : State) (g : Group) : Option Nat :=
  let level := if g.gang ≠ 0 then 1 else if g.desc.cores = 2 then 2 else 0
  if level ≠ 0 ∧ (s.together g).all (fun h => decide (g.g ≤ h.g)) then some level else none

/-- Block 9: handles and barriers. -/
def State.barBlock (s : State) (g : Group) : List Byte :=
  (natsFrom 0 16).flatMap (fun k => (g.handle k).bytes) ++ (natsFrom 0 16).flatMap (fun k => (s.barOf g 0 k).bytes 0 g.id) ++
    (match s.heldLevel g with
     | some lv => (natsFrom 0 4).flatMap (fun k => (s.barOf g lv k).bytes lv g.id)
     | none => [])

/-- A sector of the block store buffer as saved. -/
def Sector.bytes (x : Sector) : List Byte :=
  leBytes 8 x.addr ++ leBytes 8 (x.data.foldl (fun n (y : Nat × Byte) => n + 2 ^ y.1) 0) ++
    (natsFrom 0 48).map (fun o => nget (fun _ => 0) x.data o)

/-- The blocks of a group's image in the order of Table 15-8. -/
def State.imageBlocks (s : State) (g : Group) : List (List Byte) :=
  [g.crews.flatMap Crew.record, g.sliceRecord] ++ g.classBlocks ++
    [g.logBlock, g.queueBlock, s.barBlock g, g.bsb.flatMap Sector.bytes, (natsFrom 0 (g.desc.scr256 * 256)).map g.cell]

/-- The offsets of blocks laid one after the other from `o`, 0 for an empty one. -/
def blockOffsets : Nat → List (List Byte) → List Nat
  | _, [] => []
  | o, b :: r => (if b.isEmpty then 0 else o) :: blockOffsets (o + (padTo192 b).length) r

/-- A group's saved image, GANG set for a member of a gang or share saved whole. -/
def State.imageBytes (s : State) (g : Group) (gang : Bool) : List Byte :=
  let bs := s.imageBlocks g
  let body := bs.flatMap padTo192
  headerBytes g 2 (192 + body.length) 0 0 false gang (blockOffsets 192 bs) ++ body

/-! ### A group as it is saved (R432) -/

/-- A load in flight becomes a replay record; one of the access slice, which has no crew record, is left not begun. -/
def Group.loadToRecord (g : Group) (f : Flight) : Group :=
  if f.unit = 32 then
    let c := (g.slice.count 0 false).setPc 0 f.addr
    { g with slice := c }
  else
    let c := g.unit f.unit
    g.setUnit f.unit { c with log := addLog c.log { f.logRec 0 with replay := true } }

/-- The crews whose entry a `QLD` in flight still fills. -/
def Group.fillingCrews (g : Group) (f : Flight) : Word :=
  (natsFrom 0 g.crews.length).foldl (fun (m : Word) c =>
    if (g.sub f.aux c).any (fun e => decide (e.fid = f.id) && decide (e.state = .filling)) then setLane m c true else m) 0

/-- A `QLD` in flight as a replay record for the crews whose entry is still filling (R352). -/
def Group.qldRecord (g : Group) (f : Flight) : Option QRec :=
  let crews := g.fillingCrews f
  match f.kind, f.qrec with
  | .qload, some r => if crews = 0 then none else some { r with crews := crews, fcode := 0, replay := true, faddr := [] }
  | _, _ => none

/-- Queue records in the order in which their `QLD`s issued. -/
def inSeq (l : List QRec) : List QRec :=
  l.foldl (fun (r : List QRec) x => r.takeWhile (fun y => decide (y.seq ≤ x.seq)) ++ [x] ++ r.dropWhile (fun y => decide (y.seq ≤ x.seq))) []

/-- A stopped group as it is saved: loads in flight are replay records, those of queues listed by queue and in issue order (R352); entries still filling name no access, and a copied row that was asked for is asked for again. -/
def Group.settleSave (g : Group) : Group :=
  let g1 := g.flights.foldl (fun (h : Group) f => match f.kind with
    | .load => h.loadToRecord f
    | _ => h) g
  let rs := g.flights.filterMap g.qldRecord ++ g.qreplays
  { g1 with flights := [], qreplays := (natsFrom 0 8).flatMap (fun k => inSeq (rs.filter (fun r => decide (r.queue = k))))
            cmds := g1.cmds.map (fun c => match c.kind with
              | .tcopy t => { c with kind := .tcopy { t with asked := false, snap := none } }
              | _ => c)
            fq := g1.fq.map (fun x => (x.1, x.2.map (fun e => if e.state = .filling then { e with fid := 0 } else e))) }

/-! ### The choice of a mode (R428, R430, Table 15-6) -/

/-- Members that are pre-empted together (R430). -/
def State.companions (s : State) (g : Group) : List Group := (s.together g).filter (fun h => !h.over)

/-- A `COLL` with TIMEOUT 0 of the group is outstanding (R284). -/
def Group.openColl (g : Group) : Bool :=
  g.cmds.any (fun c => match c.kind with
    | .coll k => decide (k.timeout = 0)
    | _ => false)

/-- The slots of a context that are free and whose pages translate for reading and writing (R433). -/
def State.usableSlots (s : State) (g : Group) : List Nat :=
  let v := s.viewOf g
  (natsFrom 0 (s.slotCount g.ctx)).filter (fun k =>
    !s.slots.any (fun x => x.ctx = g.ctx ∧ x.slot = k) &&
      (natsFrom 0 (s.slotSize g.ctx / 4096)).all (fun p =>
        let va := s.slotBase g.ctx + k * s.slotSize g.ctx + p * 4096
        (match s.xbyte v hwCore g.ctx va 0 0 7, s.xbyte v hwCore g.ctx va 1 0 7 with
         | .ok _, .ok _ => true
         | _, _ => false)))

/-- Row 1 of Table 15-6 for one group. -/
def State.drains (s : State) (g : Group) : Bool :=
  let drain := bits (s.ctxReg g.ctx 0x38) 63 32
  decide (g.desc.estimate ≠ 0 ∧ drain ≠ 0 ∧ g.retired ≤ g.desc.estimate ∧ g.desc.estimate - g.retired < drain)

/-- A crew that is saved: what it waits for without counting is withdrawn, a sleep keeps its remaining count (R142, R197,
R296). -/
def Crew.stopToSave (c : Crew) (now : Nat) : Crew :=
  let sleepers := c.wait.filterMap (fun x => match x.2 with
    | .asleep due a => some (x.1, c.pcOf x.1, LaneWait.asleep (due - now) a)
    | _ => none)
  sleepers.foldl (fun (d : Crew) y => (d.setPc y.1 y.2.1).setWait y.1 y.2.2) c.stop

/-- A group begins to save into a slot: it stops at once (R432 step 1). -/
def State.beginSave (s : State) (g : Group) (slot : Nat) : State :=
  let now := s.now g.loc.die
  let s1 := s.setGroup { g with crews := g.crews.map (fun (c : Crew) => c.stopToSave now), slice := g.slice.stopToSave now, phase := .saving slot,
                                 wanted := none, slot := some slot }
  { s1 with slots := s.slots ++ [{ ctx := g.ctx, slot := slot, gid := g.id }], due := s1.due ++ [.saveComplete g.id] }

/-- Mode NONE: the request waits, but one of a partition reset cancels (Table 15-6 row 4). -/
def State.waitRequest (s : State) (gs : List Group) (fromReset : Bool) : State :=
  if fromReset then gs.foldl (fun (t : State) h => t.endGroup h.id 0x28) s
  else gs.foldl (fun (t : State) h => (t.onGroup h.id (fun x => { x with wanted := some false })).postOnce (.preemptRetry h.id)) s

/-- A group's image as it would be saved now (Table 15-6 row 3). -/
def Group.saveSize (s : State) (h : Group) : Nat := (s.imageBytes h.settleSave true).length

/-- Chooses the mode for a group and those that go with it and begins it; `first` tests row 1 too (R428 to R432). -/
def State.preempt (s : State) (g : Group) (fromReset first : Bool) : State :=
  let gs := s.companions g
  if first && !fromReset && gs.all s.drains then
    gs.foldl (fun (t : State) h =>
      let limit := h.desc.estimate + bits (t.ctxReg h.ctx 0x38) 63 32
      (t.setGroup { h with phase := .drain limit, wanted := none }).post (.drainLimit h.id)) s
  else if s.restartable g then s.requeue g none
  else
    let slots := s.usableSlots g
    let fit := gs.all (fun h => decide (h.saveSize s ≤ s.slotSize h.ctx))
    if gs.length ≤ slots.length && fit && !gs.any Group.openColl then
      (gs.zip slots).foldl (fun (t : State) y => t.beginSave y.1 y.2) s
    else s.waitRequest gs fromReset

/-- A group's handler runs or waits to, or a trap of it is pending (R427). -/
def Group.trapping (g : Group) : Bool :=
  !g.pend.isEmpty || (match g.phase with
    | .stopping _ _ | .handler _ _ => true
    | _ => false)

/-- An `ICINV` of the group is not complete (R306). -/
def Group.icinvOpen (g : Group) : Bool := g.flights.any (fun f => f.kind = .icinv)

/-- A group that may be pre-empted is asked to be (R427): one in a handler, or with a companion there, is pre-empted after its `TRET`, or cancelled
by a partition reset; one with an incomplete `ICINV` once that is complete; else the mode is chosen. -/
def State.preemptAsked (s : State) (g : Group) (fromReset : Bool) : State :=
  let gs := s.companions g
  if gs.any Group.trapping then
    if fromReset then gs.foldl (fun (t : State) h => t.endGroup h.id 0x28) s
    else (s.setGroup { g with wanted := some false }).postOnce (.preemptRetry g.id)
  else if gs.any Group.icinvOpen then s.post (.preemptRequest g.id fromReset)
  else s.preempt g fromReset true

/-- `PREEMPT_REQUEST` (R427): a draining group runs on unless a partition reset asks. -/
def execPreemptRequest (gid : Nat) (fromReset : Bool) (s : State) : Out :=
  match s.group? gid with
  | none => .next s
  | some g =>
    match g.phase with
    | .ended _ | .saving _ | .saved _ => .next s
    | .drain _ => if fromReset then .next (s.preemptAsked g true) else .next s
    | _ => .next (s.preemptAsked g fromReset)

/-- `PREEMPT_RETRY`: a request that waits is looked at again (Table 15-6 row 4). -/
def execPreemptRetry (gid : Nat) (s : State) : Out :=
  match s.group? gid with
  | none => .next s
  | some g =>
    match g.phase, g.wanted with
    | .live, some r =>
      if (s.companions g).any Group.trapping then .next (s.post (.preemptRetry gid))
      else if (s.companions g).any Group.icinvOpen then .next (s.post (.preemptRetry gid))
      else .next (s.preempt { g with wanted := none } r true)
    | _, _ => .next s

/-- `DRAIN_LIMIT`: a draining group that has not ended in time has its mode chosen again without draining (R429, R430). -/
def execDrainLimit (gid : Nat) (s : State) : Out :=
  match s.group? gid with
  | none => .next s
  | some g =>
    match g.phase with
    | .drain limit =>
      if g.retired < limit then .next (s.post (.drainLimit gid))
      else
        let gs := s.companions g
        if gs.any Group.trapping || gs.any Group.icinvOpen then .next (s.post (.drainLimit gid))
        else
          let s1 := gs.foldl (fun (t : State) h => t.setGroup { h with phase := .live }) s
          .next (s1.preempt { g with phase := .live } false false)
    | .stopping _ _ | .handler _ _ => if g.drainTo.isSome then .next (s.post (.drainLimit gid)) else .next s
    | _ => .next s

/-! ### Saving (R432, R433) -/

/-- What a save awaits: atomics, writes begun, matrix commands and reductions (R284, R432). -/
def Group.saveWaits (g : Group) : Bool :=
  g.flights.any (fun f => match f.kind with
    | .load | .qload => false
    | _ => true) ||
  g.cmds.any (fun c => match c.kind with
    | .tcopy _ => false
    | _ => true)

/-- The page of a slot does not translate, or its memory is uncorrectable: the image is abandoned, the slot freed and the
queue torn down (R433). -/
def State.abandonSave (s : State) (g : Group) : State := (s.freeSlots g.id).teardown g.queue 8 g.loc.die |>.endGroup g.id 0x28

/-- `SAVE_COMPLETE`: what the save awaits has completed and every byte stored is accepted: dirty lines are written back, the image is written, and the resources
return once the transactions of its loads are complete (R432 to R434, R333). A write that meets an uncorrectable error is abandoned. -/
def execSaveComplete (gid : Nat) (s : State) : Out :=
  match s.group? gid with
  | none => .next s
  | some g =>
    match g.phase with
    | .saving slot =>
      if g.saveWaits then .next (s.post (.saveComplete gid))
      else if s.unaccepted gid then .next ((s.drainOwned g.loc.flat gid).post (.saveComplete gid))
      else
        let v := s.viewOf g
        let g1 := g.settleSave
        let s1 := s.flushL1 v [g.loc.flat]
        let bs := s1.imageBytes g1 (decide (g.gang ≠ 0 ∨ g.desc.cores = 2))
        if s.upsets.contains s.free then .next (s1.abandonSave g)
        else
          match s1.hwWrite g.part g.ctx (s1.slotBase g.ctx + slot * s1.slotSize g.ctx) bs with
          | none => .next (s1.abandonSave g)
          | some s2 => .next ((s2.setGroup { g1 with phase := .saved slot }).kick g.loc.die)
    | _ => .next s

/-! ### Reading an image back (R26, R436 step 3, Tables 15-7 to 15-10)

What the image holds is taken from it; what it has no place for (the attributes of the pages of a buffered sector, the instruction of an
access) stays as the group was stopped. Reading what was written gives the group as it was stopped. -/

/-- The block of `n` bytes that offset field `k` of the header names. -/
def imageBlock (im : List Byte) (k n : Nat) : List Byte := (im.drop (frameNat im (100 + 4 * k) 4)).take n

/-- Little-endian words. -/
def wordsOf : List Byte → List Word
  | a :: b :: c :: d :: r => BitVec.ofNat 32 (ofLeBytes [a, b, c, d]) :: wordsOf r
  | _ => []
/-- Registers from their words in order. -/
def regsOf (bs : List Byte) : NMap Word := (wordsOf bs).zipIdx.filterMap (fun x => if x.1 = 0 then none else some (x.2, x.1))

/-- A wait state read back; `old` gives the address of its instruction. -/
def waitFrom (w : Nat) (old : LaneWait) (pc : Nat) : LaneWait :=
  match w % 16 with
  | 1 => .asleep (bits w 63 32) (match old with
    | .asleep _ a => a
    | _ => pc)
  | 2 => .counted (bits w 21 20) (bits w 19 16) (bits w 15 8) (match old with
    | .counted _ _ _ a => a
    | _ => pc)
  | _ => .ready

/-- A parked register's slot read back. -/
def parkFrom (w : Nat) : Option Park :=
  if bit w 31 then some { acc := bit w 30, idx := bits w 24 21, row := bits w 29 25, reg := bits w 20 13 } else none

/-- A program counter and a wait state read back. -/
def Crew.laneFrom (c : Crew) (l pc w : Nat) : Crew :=
  let d := if c.pcOf l = pc % 2 ^ 57 then c else c.setPc l pc
  d.setWait l (waitFrom w (c.waitOf l) (d.pcOf l))

/-- A crew with what its record holds (Table 15-9). Whether a passed instruction takes the whole crew is no part of the record. -/
def Crew.fromRecord (c : Crew) (r : List Byte) : Crew :=
  let n := frameNat r
  let d := allLanes.foldl (fun (e : Crew) l => e.laneFrom l (n (8 * l) 8) (n (0x100 + 8 * l) 8)) c
  let w := n 0x204 4
  { d with
    exited := BitVec.ofNat 32 (n 0x200 4), ld := bits w 5 0, st := bits w 13 8, cp := bits w 21 16, tl := bits w 29 24
    partw := n 0x208 4 % 64
    parks := (natsFrom 0 32).filterMap (fun k => (parkFrom (n (0x240 + 4 * k) 4)).map (fun x => (k, x)))
    pass := allLanes.filterMap (fun l =>
      let v := n (0x300 + 8 * l) 8
      if bit v 63 then some (l, v % 2 ^ 57 + (nfind? c.pass l).getD 0 / 2 ^ 57 * 2 ^ 57) else none) }

/-- The access slice with what its record holds. -/
def Group.sliceFrom (g : Group) (r : List Byte) : Crew :=
  let c := g.slice.laneFrom 0 (frameNat r 0 8) (frameNat r 8 8)
  let w := frameNat r 0x14 4
  { c with
    exited := if bit (frameNat r 0x10 4) 0 = g.sliceEnded then c.exited else setLane c.exited 0 (bit (frameNat r 0x10 4) 0)
    st := bits w 13 8, cp := bits w 21 16 }

/-- Predicates p0 to p14 of a crew from their words. -/
def Crew.predsFrom (c : Crew) (ws : List Word) : Crew := (natsFrom 0 15).foldl (fun (d : Crew) k => d.psetAll k (lget 0 ws k)) c

/-- The register classes (Table 01-3). -/
def Group.classesFrom (g : Group) (im : List Byte) : Group :=
  let d := g.desc
  let m := g.crews.length
  let p := (4 * d.nsa + 63) / 64 * 64
  let v := imageBlock im 2 (m * d.nv * 128)
  let s := imageBlock im 3 (p + m * d.ns * 4)
  let q := imageBlock im 4 (64 + m * 64)
  let t := imageBlock im 5 (m * d.nt * 1024)
  let a := imageBlock im 6 (m * d.na * 4096)
  let part := fun (b : List Byte) (o n c : Nat) => (b.drop (o + n * c)).take n
  let word := frameNat q 0 4
  { g with
    crews := g.crews.zipIdx.map (fun x =>
      { x.1.predsFrom (wordsOf (part q 64 64 x.2)) with
        v := regsOf (part v 0 (d.nv * 128) x.2), s := regsOf (part s p (d.ns * 4) x.2)
        t := regsOf (part t 0 (d.nt * 1024) x.2), acc := regsOf (part a 0 (d.na * 4096) x.2) })
    slice := { (natsFrom 0 15).foldl (fun (c : Crew) k => c.psetAll k (setLane (c.pget k) 0 (bit word k))) g.slice with
      s := regsOf (s.take (4 * d.nsa)) } }

/-- A crew's log record read back from its 320 bytes: VALID, D, MASK and the lanes' addresses. -/
def LogRec.fromBytes (r : LogRec) (crew : Nat) (b : List Byte) : LogRec :=
  if b = r.bytes crew then r else
    let w := frameNat b 0 64
    { (r.edited (BitVec.ofNat 32 (bits w 223 192)) (fun l => frameNat b (64 + 8 * l) 8 % 2 ^ 57)) with valid := bit w 90, d := bits w 83 76 }

/-- An access-slice record read back from its 64 bytes (Table 12-3). -/
def QRec.fromBytes (r : QRec) (b : List Byte) : QRec :=
  let w := frameNat b 0 64
  { r with addr := bits w 56 0, ptr := BitVec.ofNat 128 (bits w 191 64), index := BitVec.ofNat 32 (bits w 223 192)
           cstride := BitVec.ofNat 32 (bits w 255 224), lstride := BitVec.ofNat 32 (bits w 287 256), crews := BitVec.ofNat 32 (bits w 319 288)
           fcode := bits w 337 330, clip := bit w 339, queue := bits w 342 340, replay := bit w 343 }

/-- The logs of block 7: the access slice's records, the queue replays, then the crews' records. -/
def Group.logsFrom (g : Group) (b : List Byte) : Group :=
  let a := g.slice.qlog.length
  let n := a + g.qreplays.length
  let piece := fun (o k : Nat) => (b.drop o).take k
  let starts := g.crews.zipIdx.map (fun x => ((g.crews.take x.2).map (fun (c : Crew) => c.log.length)).sum)
  { g with
    slice := { g.slice with qlog := g.slice.qlog.zipIdx.map (fun x => x.1.fromBytes (piece (64 + 64 * x.2) 64)) }
    qreplays := g.qreplays.zipIdx.map (fun x => x.1.fromBytes (piece (64 + 64 * (a + x.2)) 64))
    crews := g.crews.zipIdx.map (fun x =>
      { x.1 with log := x.1.log.zipIdx.map (fun y => y.1.fromBytes x.2 (piece (64 + 64 * n + 320 * (lget 0 starts x.2 + y.2)) 320)) }) }

/-- A forward-queue entry read back; none of an empty record. -/
def entryFrom (b : List Byte) (old : Option QEntry) : Option QEntry :=
  let w := frameNat b 128 16
  let e : QState → QEntry := fun st =>
    { vmask := BitVec.ofNat 32 (bits w 31 0), data := regsOf (b.take 128), state := st, token := bits w 35 33, fid := (old.map (fun x => x.fid)).getD 0 }
  match bits w 37 36 with
  | 1 => some (e .ready)
  | 2 => some (e .poisoned)
  | 3 => some (e .filling)
  | _ => none

/-- The queues of block 8. -/
def Group.queuesFrom (g : Group) (b : List Byte) : Group :=
  let m := g.crews.length
  let start := fun (q : Nat) => ((natsFrom 0 q).map (fun k => 144 * m * g.queueDepth k)).sum
  let h := (natsFrom 0 8).foldl (fun (h : Group) q =>
    let n := g.queueDepth q
    (natsFrom 0 m).foldl (fun (k : Group) c =>
      k.setSub q c ((natsFrom 0 n).filterMap (fun j => entryFrom ((b.drop (start q + 144 * (n * c + j))).take 144) (g.sub q c)[j]?))) h) g
  let backs := (natsFrom 0 4).filter (fun q => g.queueDepth (8 + q) ≠ 0)
  backs.zipIdx.foldl (fun (k : Group) x =>
    k.setBack (8 + x.1) ((natsFrom 0 16).filterMap (fun j =>
      let w := frameNat b (start 8 + 128 * x.2 + 8 * j) 8
      if bit w 37 then some { value := BitVec.ofNat 32 (bits w 31 0), crew := bits w 36 32, seen := (((g.back (8 + x.1))[j]?).map (fun e => e.seen)).getD true }
      else none))) h

/-- The handles and the group's own barriers of block 9. The arrived bits name units of the group. -/
def Group.barsFrom (g : Group) (b : List Byte) : Group :=
  let h := (natsFrom 0 16).foldl (fun (k : Group) j =>
    let w := frameNat b (16 * j) 16
    k.setHandle j { bound := bit w 46, base := bits w 16 0, words := bits w 34 17, fmt := bits w 40 35, planes := bits w 45 41
                    gen := BitVec.ofNat 32 (bits w 95 64) }) g
  (natsFrom 0 16).foldl (fun (k : Group) j =>
    let old := nget (fun _ => Barrier.empty) g.bars j
    let r := (b.drop (256 + 16 * j)).take 16
    let w := frameNat r 0 16
    if r = old.bytes 0 g.id then k
    else { k with bars := nset (fun _ => Barrier.empty) k.bars j { expected := bits w 15 0, dflt := bit w 16, arrivals := bits w 47 32, gen := bits w 55 48
                                                                   arrived := (natsFrom 0 33).filter (fun u => bit w (64 + u)) } }) h

/-- A sector of the block store buffer read back (Table 15-10). -/
def Sector.fromBytes (x : Sector) (b : List Byte) : Sector :=
  { x with addr := frameNat b 0 8 % 2 ^ 57, data := (natsFrom 0 48).filterMap (fun o => if bit (frameNat b 8 8) o then some (o, lget 0 (b.drop 16) o) else none) }

/-- An engine command with what its replay record of 64 bytes holds (R434): it copies the rows left from the record's element and row on. -/
def Cmd.fromReplay (c : Cmd) (g : Group) (rank : Nat) (b : List Byte) : Cmd :=
  if b = c.replayBytes rank then c else
    let n := frameNat b
    match c.kind with
    | .tcopy t => { c with unit := n 29 2, kind := .tcopy { t with
        out := bit (n 28 1) 4, hnum := n 28 1 % 16, h := g.handle (n 28 1 % 16), ptr := BitVec.ofNat 128 (n 0 16), e0 := n 16 4, pitch := n 20 4
        row0 := n 24 2, row := 0, remaining := n 26 2 } }
    | _ => c

/-- The engine replay records of block 7, behind the logs. -/
def Group.copiesFrom (g : Group) (b : List Byte) : Group :=
  let o := 64 + 64 * (g.slice.qlog.length + g.qreplays.length) + 320 * (g.crews.map (fun (c : Crew) => c.log.length)).sum
  { g with cmds := g.cmds.zipIdx.map (fun (x : Cmd × Nat) => x.1.fromReplay g x.2 ((b.drop (o + 64 * x.2)).take 64)) }

/-- The scratchpad of block 11: bytes as they are written there. -/
def Group.scratchFrom (g : Group) (b : List Byte) : Group :=
  b.zipIdx.foldl (fun (h : Group) x => if h.cell x.2 = x.1 then h else h.setCell x.2 x.1) g

/-- A stopped group with what its image holds. -/
def Group.fromImage (g : Group) (im : List Byte) : Group :=
  let m := g.crews.length
  let recs := imageBlock im 0 (m * 1024)
  let pos := frameNat im 66 2 / 8
  let g1 : Group := { g with
    crews := g.crews.zipIdx.map (fun (x : Crew × Nat) => x.1.fromRecord ((recs.drop (1024 * x.2)).take 1024))
    slice := g.sliceFrom (imageBlock im 1 192)
    retired := frameNat im 80 8, committed := bit (frameNat im 72 1) 1, launchId := BitVec.ofNat 32 (frameNat im 44 4)
    gid := (frameNat im 56 4, frameNat im 60 2, frameNat im 62 2), pos := ⟨bits pos 4 2, bits pos 8 5, bits pos 12 9⟩ }
  let logs := im.drop (frameNat im 128 4)
  let g2 : Group := ((((g1.classesFrom im).logsFrom logs).queuesFrom (im.drop (frameNat im 132 4))).barsFrom (im.drop (frameNat im 136 4))).copiesFrom logs
  let bsb := im.drop (frameNat im 140 4)
  let g3 : Group := { g2 with bsb := g2.bsb.zipIdx.map (fun (x : Sector × Nat) => x.1.fromBytes ((bsb.drop (64 * x.2)).take 64)) }
  g3.scratchFrom (imageBlock im 11 (g.desc.scr256 * 256))

/-- The image in a saved group's slot; none where it cannot be read. -/
def State.imageOf (s : State) (g : Group) : Option (List Byte) :=
  match g.phase with
  | .saved slot => s.hwRead g.part g.ctx (s.slotBase g.ctx + slot * s.slotSize g.ctx) (s.imageBytes g true).length
  | _ => none

/-! ### Restoring (R353, R435, R436) -/

/-- A queue replay stays pending: a `QLD` of its queue that issued before it has faulted, and the replay of that log record is not complete (R354). -/
def Group.replayHeld (g : Group) (r : QRec) : Bool :=
  g.slice.qlog.any (fun y => decide (y.queue = r.queue ∧ y.seq < r.seq)) ||
    g.flights.any (fun f => decide (f.kind = .qload) && f.replay && (match f.qrec with
      | some y => decide (y.queue = r.queue ∧ y.seq < r.seq) && (decide (y.crews ≠ 0) || !y.replay)
      | none => false))

/-- Issues the queue replay records that may issue, in their order (R353, R354). DESIGN CHOICE: one that faults at restore poisons its entries and
raises no trap, as R354 has it and R255 and R436 do not (log entry 76). -/
def State.issueQueueReplays (s : State) (gid : Nat) : State :=
  match s.group? gid with
  | none => s
  | some g =>
    let s1 := g.qreplays.foldl (fun (t : State) r =>
      match t.group? gid with
      | none => t
      | some h =>
        if h.replayHeld r then t
        else (t.setGroup { h with qreplays := h.qreplays.erase r }).replayQueue gid replayIns (replayCtx h 32 0) r) s
    match s1.group? gid with
    | some h => if h.qreplays.isEmpty then s1 else s1.post (.restoreGroup gid)
    | none => s1

/-- One group comes back on a core with its scratchpad run, as its image holds it (R353, R413, R435, R436). -/
def State.bringBack (s : State) (gid core scr : Nat) : State :=
  match s.group? gid with
  | none => s
  | some old =>
    let g : Group := ((s.imageOf old).map old.fromImage).getD old
    let v := s.viewOf g
    let s1 := if core = g.loc.flat then s else s.dropUntracked v core
    let now := s1.now (core / 96)
    let wake := fun (c : Crew) => { c with wait := c.wait.map (fun x => match x.2 with
      | .asleep n a => (x.1, LaneWait.asleep (now + n) a)
      | w => (x.1, w)) }
    let qs := placeCrews g.crews.length (s1.quadrantLoad core)
    let crews := g.crews.zipIdx.map (fun x => { wake x.1 with quadrant := lget 0 qs x.2, log := [] })
    let g1 := { g with loc := posOf core, scrBase := scr, phase := .live, slot := none, crews := crews, slice := wake g.slice
                       order := s1.nextOrder, since := now, chain := false, coupled := 0 }
    let s2 := ((s1.spoilVacated core).setGroup g1).freeSlots gid
    let sleeps := g1.units.flatMap (fun u => (g1.unit u).wait.filterMap (fun x => match x.2 with
      | .asleep _ _ => some (Ev.sleepcExpiry gid u x.1)
      | _ => none))
    let s3 := { s2 with due := s2.due ++ sleeps ++ g1.cmds.map (fun (c : Cmd) => Ev.tcopyRowWritten gid c.id) ++ [Ev.timeSliceExpiry gid] }
    let s4 := s3.issueQueueReplays gid
    let s5 := g.crews.zipIdx.foldl (fun (t : State) x => (x.1.log.foldl (fun (w : State) r =>
      if r.valid then w.replayLoad gid x.2 replayIns r else w.onGroup gid (fun h => h.setUnit x.2 ((h.unit x.2).count 0 false))) t).landReplays gid x.2) s4
    -- the rows of its tile copies are translated again (R284, R436 step 4)
    let s6 := s5.resumeCopies gid (fun _ => true)
    match s6.group? gid with
    | none => s6
    | some h =>
      match h.phase, nextPending h.pend with
      | .live, some x => (s6.setGroup { h with pend := dropPending h.pend x }).raise gid x.1 x.2
      | _, _ => s6

/-- The header of a saved group's image, none where it cannot be read. -/
def State.headerOf (s : State) (g : Group) : Option (List Byte) :=
  match g.phase with
  | .saved slot => s.hwRead g.part g.ctx (s.slotBase g.ctx + slot * s.slotSize g.ctx) 192
  | _ => none

/-- A saved group whose image holds a word that cannot be corrected: the error is charged to it; it is relaunched afresh, with its gang, when its
header shows that nothing of it was committed or its descriptor has IDEM, else its queue is torn down (R495, R496). -/
def State.loseImage (s : State) (g : Group) : State :=
  let mine := g.desc.idem || (match s.headerOf g with
    | some b => !bit (frameNat b 72 1) 1
    | none => false)
  (s.rollBack g 0x21 (mine && s.restartable { g with committed := false })).kick g.pos.die

/-- The lines of a saved group's image are present at their homes once it is read (R371). -/
def State.touchImage (s : State) (gid : Nat) : State :=
  match s.group? gid with
  | none => s
  | some g => match g.phase with
    | .saved slot => s.hwTouch g.part g.ctx (s.slotBase g.ctx + slot * s.slotSize g.ctx) (s.imageBytes g true).length
    | _ => s

/-- `RESTORE_GROUP`: where that is its choice still (R409 to R411), the distributor brings a saved group back, with its whole gang or share, on cores of its origin die; for a
group already back, a queue replay that waited issues (R353, R354, R436). -/
def execRestoreGroup (gid : Nat) (s : State) : Out :=
  match s.group? gid with
  | none => .next s
  | some g =>
    match g.phase with
    | .saved _ =>
      match (match s.choice g.pos.die with
        | .restore id => if id = gid then s.restorePlan g else none
        | _ => none) with
      | none => .next (s.kick g.pos.die)
      | some places =>
        match places.find? (fun p => ((s.group? p.1).bind s.imageOf).isNone) with
        | some p => .next (s.loseImage ((s.group? p.1).getD g))
        | none => .next (((places.foldl (fun (t : State) p => (t.touchImage p.1).bringBack p.1 p.2.1 p.2.2) s).kick g.pos.die).settle gid)
    | .live | .drain _ => .next (s.issueQueueReplays gid)
    | .stopping _ _ | .handler _ _ => .next (s.post (.restoreGroup gid))
    | _ => .next s

end Sys2Proof.Machine
end

