-- ==== Sys2Proof/Machine/Walker.lean ====
section
/-! DEFINITION. What commands and graph nodes start: launches with their admission checks and batches, copies, signals; and the graph
walker (R127, R128, R399, R401 to R408, R412). -/
namespace Sys2Proof.Machine
open Sys2Proof

/-! ### Launches (R127, R128, R406, R408, R412) -/

/-- A queue descriptor within its range (Table 04-4). -/
def queueDescOk (back : Bool) (v : Nat) : Bool :=
  let depth := bits v 4 0
  let typ := bits v 9 5
  decide (v / 2 ^ 10 = 0) && (if depth = 0 then decide (typ = 0)
    else decide (2 ≤ depth ∧ depth ≤ 16) &&
      (if back then decide (typ = 5 ∨ typ = 6) else decide (1 ≤ typ ∧ typ ≤ 6) || decide (0x0A ≤ typ ∧ typ ≤ 0x11) || decide (typ = 0x17)))

/-- The queue descriptors of a field of `n`. -/
def queueDescs (v n : Nat) : List Nat := (natsFrom 0 n).map (fun k => v / 2 ^ (16 * k) % 65536)

/-- The inherited range of descriptor word `d` (R20). -/
def inheritOf (d : Nat) : Option (Nat × Nat) := if bit d 175 then some (bits d 183 176, bits d 191 184) else none

/-- A kernel descriptor's fields within their ranges, its reserved bits 0 (Table 04-3, R128). -/
def descOk (d : Nat) : Bool :=
  let nv := bits d 133 128 * 8
  decide (bits d 511 448 = 0) && decide (bits d 255 240 = 0) && decide (bits d 159 158 = 0) && decide (bits d 127 121 = 0)
    && decide (bits d 63 57 = 0) && decide (bits d 239 224 ≤ Config.revision) && decide (bits d 174 173 ≠ 3) && decide (bits d 171 160 ≤ 2048)
    && decide (1 ≤ bits d 157 151 ∧ bits d 157 151 ≤ 64) && decide (bits d 150 147 ≤ 8) && decide (bits d 146 142 ≤ 16)
    && decide (1 ≤ bits d 141 138 ∧ bits d 141 138 ≤ 8) && decide (1 ≤ bits d 137 134 ∧ bits d 137 134 ≤ 8)
    && decide (1 ≤ bits d 133 128 ∧ bits d 133 128 ≤ 32) && decide (bits d 120 64 % 4 = 0) && decide (bits d 56 0 % 4 = 0)
    && (queueDescs (bits d 383 256) 8).all (queueDescOk false) && (queueDescs (bits d 447 384) 4).all (queueDescOk true)
    && (match inheritOf d with
        | none => true
        | some (a, b) => decide (a % 8 = 0 ∧ (b + 1) % 8 = 0 ∧ a ≤ b ∧ b < nv ∧ b ≠ 255))

/-- A kernel descriptor read. -/
def descOf (addr d : Nat) : Desc :=
  { addr := addr, exec := bits d 56 0, access := bits d 120 64, nv := bits d 133 128 * 8, ns := bits d 137 134 * 8, nsa := bits d 141 138 * 8
    nt := bits d 146 142, na := bits d 150 147, bsbg := bits d 157 151, scr256 := bits d 171 160, cores := bits d 174 173, idem := bit d 172
    inh := inheritOf d, estimate := bits d 223 192
    fq := (queueDescs (bits d 383 256) 8).map (fun v => ⟨bits v 9 5, bits v 4 0⟩)
    bq := (queueDescs (bits d 447 384) 4).map (fun v => ⟨bits v 9 5, bits v 4 0⟩) }

/-- A launch record's fields within their ranges (Table 04-5, R128). -/
def launchOk (r : Nat) (cores : Nat) : Bool :=
  let gang := bits r 233 230
  decide (bits r 511 234 = 0) && decide (bits r 127 121 = 0) && decide (bits r 63 57 = 0) && decide (bits r 56 0 % 64 = 0)
    && decide (1 ≤ bits r 229 224 ∧ bits r 229 224 ≤ 32) && decide (1 ≤ bits r 223 208) && decide (1 ≤ bits r 207 192) && decide (1 ≤ bits r 191 160)
    && (if cores = 1 then decide (1 ≤ gang ∧ gang ≤ 12) else decide (gang = 0))

/-- How many groups of a descriptor an empty core takes. -/
def coreCapacity (d : Desc) (crews : Nat) : Nat :=
  ((natsFrom 1 16).filter (fun m => ((natsFrom 0 m).foldl (fun u _ => u.add (d.use crews)) Use.zero).fits && decide (m * d.scr256 ≤ 2048))).length

/-- A launch with its batches assigned to the dies of its partition (R406, R408). -/
def Launch.assign (l : Launch) (dies : List Nat) (now : Nat → Nat) : Launch :=
  let n := (l.total + l.batchSize - 1) / l.batchSize
  let share : Nat × Nat → Share := fun x =>
    { die := x.1, batches := (natsFrom 0 n).filter (fun b => decide (b % dies.length = x.2)), cur := [], back := [], live := 0, done := 0, canc := 0
      reported := false, bars := [], since := now x.1, asked := [] }
  { l with shares := (dies.zipIdx.map share).filter (fun x => !x.batches.isEmpty) }

/-- The demand of a co-resident launch can be met by empty clusters or dies (R412). -/
def Launch.meetable (l : Launch) : Bool :=
  let m := coreCapacity l.desc l.crews
  match l.desc.cores with
  | 0 => decide (1 ≤ m)
  | 1 => decide (l.gang ≤ 12 * m)
  | _ => decide (1 ≤ m) && l.shares.all (fun x => decide (l.undispatched x ≤ 96 * m))

/-- Reads a launch record and its descriptor and admits the launch, or finds that it fails at admission (R128). -/
def State.readLaunch (s : State) (queue part ctx recAddr launchId : Nat) : Option Launch :=
  if recAddr % 64 ≠ 0 then none
  else
    match s.hwRead part ctx recAddr 64 with
    | none => none
    | some rb =>
      let r := ofLeBytes rb
      match (if bits r 56 0 % 64 = 0 then s.hwRead part ctx (bits r 56 0) 64 else none) with
      | none => none
      | some db =>
        let d := ofLeBytes db
        let desc := descOf (bits r 56 0) d
        if !descOk d || !launchOk r desc.cores then none
        else
          let l : Launch :=
            { id := 0, queue := queue, ctx := ctx, prio := bits (s.queue queue).ctl 62 61, part := part, desc := desc, launchId := launchId
              ngroups := (bits r 191 160, bits r 207 192, bits r 223 208), crews := bits r 229 224, gang := bits r 233 230
              param := bits r 120 64, paramLen := bits r 159 128, shares := [], vacated := [], relaunch := [] }
          let l1 := l.assign (s.view part).dies s.now
          if l1.meetable then some l1 else none

/-- A new instance. -/
def newInst (s : State) (level : Level) (queue part ctx : Nat) (parent : Option Nat) (recd : Nat) (expected : Option Nat) (node : Nat) : Inst :=
  { id := s.nextId, level := level, queue := queue, ctx := ctx, part := part, parent := parent, recd := recd, expected := expected, children := 0
    done := 0, canc := 0, gdone := 0, gcanc := 0, launchId := 0, closed := false, finished := false, cancelled := false, torn := false
    special := 0, node := node }

/-- Adds an instance and writes its record with STATUS 0 (R400). -/
def State.openInst (s : State) (i : Inst) : State :=
  { s with insts := s.insts ++ [i], nextId := s.nextId + 1 }.writeRecord i 0

/-- A launch takes the partition's next launch identifier, and its record and descriptor are read: when a LAUNCH command is consumed, or a
launch node released (R128, R401). -/
def State.takeLaunch (s : State) (queue part ctx recAddr : Nat) : State × Nat × Option Launch :=
  let lid := nget (fun _ => 0) s.launchCount part
  let t := s.hwTouch part ctx recAddr 64
  ({ t with launchCount := nset (fun _ => 0) s.launchCount part ((lid + 1) % 4294967296) }, lid, s.readLaunch queue part ctx recAddr lid)

/-- A LAUNCH BEGINS with what was taken for it, at place `seq` of the order of consumption: its dies' distributors hear of it, or it fails at
admission with STATUS 3 (R128, R401, R409). -/
def State.beginLaunch (s0 : State) (queue part ctx : Nat) (parent : Option Nat) (recd seq node : Nat) (got : Nat × Option Launch) : State × Nat :=
  let i0 := { newInst s0 .launch queue part ctx parent recd (some 0) node with launchId := got.1 }
  match got.2 with
  | none =>
    let bad : Inst := { i0 with special := 3 }
    (State.tryFinish { s0 with insts := s0.insts ++ [bad], nextId := s0.nextId + 1 } 8 i0.id, i0.id)
  | some l0 =>
    let l := { l0 with id := i0.id, seq := seq }.assign (s0.view part).dies s0.now
    let s1 := (s0.hwTouch part ctx l.desc.addr 64).openInst { i0 with expected := some l.shares.length }
    let s2 := { s1 with launches := s1.launches ++ [l] }
    (l.shares.foldl (fun (t : State) (x : Share) =>
      (t.kick x.die).askSteal x.die l.id) s2, i0.id)

/-! ### Copies (R396, R401) -/

/-- A COPY BEGINS. -/
def State.beginCopy (s : State) (queue part ctx : Nat) (parent : Option Nat) (recd dst src len node : Nat) : State × Nat :=
  let i := newInst s .copy queue part ctx parent recd (some 1) node
  let s1 := s.openInst i
  let c : CopyOp := { inst := i.id, ctx := ctx, queue := queue, dst := dst, src := src, len := len, pos := 0, asked := false }
  (State.post { s1 with copies := s1.copies ++ [c] } (.copyFinish i.id), i.id)

/-- Translates bytes of a copy. -/
def State.copyAddrs (s : State) (v : View) (ctx : Nat) (need : Need) : Nat → Nat → Option (List XByte)
  | _, 0 => some []
  | va, n + 1 =>
    match s.xbyte v hwCore ctx va need 0 8, s.copyAddrs v ctx need (va + 1) n with
    | .ok (b, _), some bs => some (b :: bs)
    | _, _ => none

/-- Bytes of the next piece: up to the end of its destination sector. -/
def pieceLen (va left : Nat) : Nat := min left (48 - va % 48)

/-- The bytes lie in one place and follow on one another. -/
def inOneRun (bs : List XByte) : Bool := (bs.zip (bs.drop 1)).all (fun x => decide (x.2.pa = x.1.pa + 1))

/-- Writes the bytes of a piece at their destination, for the copy of instance `owner`; poison is carried along (R493). -/
def State.writePiece (s : State) (v : View) (queue owner part die : Nat) (ds : List XByte) (bs : List Byte) (bad : Bool) : State :=
  match ds with
  | [] => s
  | d :: _ =>
    let a := d.pa % 2 ^ 45
    match s.placeOf v d.pa with
    | .host h => s.hostPost h (s.hostBus h a) bs bad
    | .local =>
      if d.repl ≠ 0 then s.storeReplica queue owner d.repl a bs bad
      else
        let s1 := s.homePut v a bs none (decide (d.share = 2))
        let secs := (ds.map (fun x => storage v (x.pa % 2 ^ 45) / 48)).eraseDups
        let s2 := if bad then { s1 with poison := secs.foldl (fun m k => nset (fun _ => false) m k true) s1.poison }
          else if ds.length = 48 ∧ secs.length = 1 then { s1 with poison := secs.foldl (fun m k => nset (fun _ => false) m k false) s1.poison }
          else s1
        if bad && secs.any (fun k => !s1.poisoned (48 * k)) then
          s2.event part { typ := 0x02, action := 6, pos := ⟨die, 0, 0⟩, ukind := 4, detail := 2 ^ (a % 192 / 48), addr := a / 192 * 192 }
        else s2
    | _ => s.remoteWrite d.pa bs (2 ^ bs.length - 1) (die * 96) queue [owner] bad

/-- A copy comes to its end: completed, or with STATUS 6 at a fault (R401). -/
def State.endCopy (s : State) (inst : Nat) (fault : Bool) : State :=
  let s1 := { s with copies := s.copies.filter (fun c => c.inst ≠ inst), replies := nerase s.replies inst }
  match s1.inst? inst with
  | none => s1
  | some i => (s1.setInst (if fault then { i with canc := i.canc + 1, special := 6 } else { i with done := i.done + 1 })).tryFinish 8 inst

/-- A copy has written what it can: it ends once that is accepted (R313, R396). -/
def State.closeCopy (s : State) (c : CopyOp) (fault : Bool) : State :=
  if s.unaccepted c.inst then s.post (.copyFinish c.inst) else s.endCopy c.inst fault

/-- Copies piece by piece until done, a fault, or a piece that another package or the host must give. -/
def State.copyOn (s : State) (part : Nat) : Nat → CopyOp → State
  | 0, c => s.closeCopy c false
  | fuel + 1, c =>
    if c.len ≤ c.pos then { s with copies := s.copies.map (fun (y : CopyOp) => if y.inst = c.inst then c else y) }.closeCopy c false
    else
      let v := s.view part
      let die := s.leadDie part
      let n := pieceLen (c.dst + c.pos) (c.len - c.pos)
      match s.copyAddrs v c.ctx 0 (c.src + c.pos) n, s.copyAddrs v c.ctx 1 (c.dst + c.pos) n with
      | some ss, some ds =>
        let n1 := if inOneRun ss && inOneRun ds then n else 1
        let ss1 := ss.take n1
        let ds1 := ds.take n1
        let far := ss1.any (fun x => match s.placeOf v x.pa with
          | .local => false
          | _ => true)
        let keep := fun (t : State) (d : CopyOp) => State.post { t with copies := t.copies.map (fun (y : CopyOp) => if y.inst = d.inst then d else y) } (.copyFinish d.inst)
        if far then
          match nfind? s.replies c.inst with
          | some bs =>
            let s1 := { s with replies := nerase s.replies c.inst }.writePiece v c.queue c.inst part die ds1 bs c.bad
            s1.copyOn part fuel { c with pos := c.pos + n1, asked := false, bad := false }
          | none =>
            let s1 := if c.asked then s else
              s.sendRemote { tag := 0, gid := 0, fid := c.inst, lane := 0, op := 0, pa := (ss1.map (fun x => x.pa)).headD 0, len := n1, data := []
                             mask := 0, queue := c.queue, core := die * 96, part := part, since := 0 }
            keep s1 { c with asked := true }
        else
          let place := fun (x : XByte) => if x.repl = 0 then x.pa % 2 ^ 45 else replAddr s v die x.repl false (x.pa % 2 ^ 45)
          let s0 := ss1.foldl (fun (t : State) x => t.catchUp v (place x / 192)) s
          let bad := ss1.any (fun x => s0.poisoned (storage v (place x)))
          let s1 := s0.writePiece v c.queue c.inst part die ds1 (ss1.map (fun x => s0.byteAt (storage v (place x)))) bad
          s1.copyOn part fuel { c with pos := c.pos + n1 }
      | _, _ => { s with copies := s.copies.map (fun (y : CopyOp) => if y.inst = c.inst then c else y) }.closeCopy c true

/-- `COPY_FINISH`: the copy's bytes are written and it finishes (R396, R401). -/
def execCopyFinish (inst : Nat) (s : State) : Out :=
  match s.copies.find? (fun c => c.inst = inst), s.inst? inst with
  | some c, some i =>
    if i.cancelled then
      let s1 := s.stopCopy inst
      .next (if s1.copies.any (fun y => y.inst = inst) then s1.post (.copyFinish inst) else s1)
    else .next (s.copyOn i.part (c.len + 1) c)
  | _, _ => .next s

/-! ### Signals (R399) -/

/-- Synchronising access of the front-end: the bytes, translated with CLASS synchronising. -/
def State.syncAddrs (s : State) (v : View) (ctx : Nat) (need : Need) : Nat → Nat → Option (List XByte)
  | _, 0 => some []
  | va, n + 1 =>
    match s.xbyte v hwCore ctx va need 2 7, s.syncAddrs v ctx need (va + 1) n with
    | .ok (b, _), some bs => some (b :: bs)
    | _, _ => none

/-- Where a synchronising access to a byte is performed: at its home, or at the sequencer of its page. -/
def State.syncHome (s : State) (v : View) (b : XByte) : Nat :=
  let a := b.pa % 2 ^ 45
  if b.repl = 0 then a else replAddr s v 0 b.repl true a

/-- Reads a word as an acquire at package scope; none on a fault or an uncorrectable error. -/
def State.syncRead (s : State) (part ctx va n : Nat) : Option Nat :=
  let v := s.view part
  match s.syncAddrs v ctx 0 va n with
  | none => none
  | some bs => (s.homeGet v (s.syncHome v (bs.headD ⟨0, 0, 0, false⟩)) n).map ofLeBytes

/-- Bytes that SIGNAL_MEM writes. -/
def signalLen (op : Nat) : Nat := if op = 2 then 4 else 8

/-- The page that SIGNAL_MEM writes is held: its sequencer takes no store now (R502). -/
def State.signalHeld (s : State) (part ctx va op : Nat) : Bool :=
  let v := s.view part
  match s.syncAddrs v ctx 1 va (signalLen op) with
  | some (b :: _) => decide (b.repl ≠ 0) && s.pageHeld v (b.pa % 2 ^ 45 / b.repl * b.repl)
  | _ => false

/-- SIGNAL_MEM's write or add, one action at the home or the sequencer that needs WRITE alone, for command or node `owner`; none on a fault
(R399). -/
def State.signal (s : State) (queue owner part ctx va value op : Nat) : Option State :=
  let v := s.view part
  let n := signalLen op
  match s.syncAddrs v ctx 1 va n with
  | none => none
  | some bs =>
    let b := bs.headD ⟨0, 0, 0, false⟩
    let a := b.pa % 2 ^ 45
    match (if op = 1 then (s.homeGet v (s.syncHome v b) n).map (fun o => (ofLeBytes o + value) % 2 ^ 64) else some value) with
    | none => none
    | some x =>
      if b.repl = 0 then some (s.homePut v a (leBytes n x) none true)
      else some ({ s with nextId := s.nextId + 1 }.stamp v
        { frame := a / b.repl * b.repl, size := b.repl, off := a % b.repl, bytes := leBytes n x, queue := queue, owner := owner, id := s.nextId })

/-! ### The graph walker (R402 to R405) -/

/-- A graph node's fields (Table 14-8); none where a reserved bit or KIND is set. -/
structure Node where
  recd : Nat
  payload : Nat
  succ : Nat
  nsucc : Nat
  preds : Nat
  kind : Nat
deriving DecidableEq, Repr

/-- Reads a node. -/
def State.readNode (s : State) (part : Nat) (g : Graph) (i : Nat) : Option Node :=
  match s.hwRead part g.ctx (g.table + 64 * i) 64 with
  | none => none
  | some bs =>
    let n := ofLeBytes bs
    let kind := bits n 7 0
    if bits n 511 256 ≠ 0 ∨ bits n 63 48 ≠ 0 ∨ bits n 15 8 ≠ 0 ∨ kind = 0 ∨ 4 < kind then none
    else some { recd := bits n 255 192, payload := bits n 191 128, succ := bits n 127 64, nsucc := bits n 47 32, preds := bits n 31 16, kind := kind }

def State.graph? (s : State) (inst : Nat) : Option Graph := s.graphs.find? (fun g => g.inst = inst)
def State.setGraph (s : State) (g : Graph) : State := { s with graphs := s.graphs.map (fun h => if h.inst = g.inst then g else h) }
/-- The walker stops releasing nodes of a graph (R405). -/
def State.stopGraph (s : State) (inst : Nat) : State :=
  match s.graph? inst with
  | some g => s.setGraph { g with stopped := true }
  | none => s

/-- A node that finishes as cancelled without running (R402). -/
def State.nodeCancelled (s : State) (level : Level) (queue part ctx graph recd node : Nat) : State × Nat :=
  let i := newInst s level queue part ctx (some graph) recd (some 1) node
  let s1 := s.openInst i
  ((s1.setInst { i with canc := 1 }).tryFinish 8 i.id, i.id)

/-- A signal node performs what its record, read again, says; on a held page it does so once the page is free, by a NODE_FINISH step (R399, R402,
R502). -/
def State.runSignal (s : State) (part : Nat) (g : Graph) (payload : Nat) (x : Inst) : State :=
  match s.hwRead part g.ctx payload 24 with
  | none => (s.setInst { x with canc := 1 }).tryFinish 8 x.id
  | some bs =>
    let va := ofLeBytes (bs.take 8)
    let op := ofLeBytes (bs.drop 16)
    let good := decide (va % 8 = 0 ∧ op < 3)
    if good && s.signalHeld part g.ctx va op then s.post (.nodeFinish g.inst x.node)
    else
      match (if good then s.signal g.queue x.id part g.ctx va (ofLeBytes ((bs.drop 8).take 8)) op else none) with
      | none => (s.setInst { x with canc := 1 }).tryFinish 8 x.id
      | some s2 => (s2.setInst { x with done := 1 }).tryFinish 8 x.id

/-- RELEASES a node of a graph: it begins (R402, R403). -/
def State.releaseNode (s0 : State) (part inst i : Nat) : State :=
  match s0.graph? inst with
  | none => s0
  | some g =>
    if g.stopped || g.dropped || g.released.any (fun x => x.1 = i) then s0
    else
      let s := s0.hwTouch part g.ctx (g.table + 64 * i) 64
      match s.readNode part g i with
      | none => s.stopGraph inst
      | some n =>
        let s := s.hwTouch part g.ctx n.payload (if n.kind = 3 then 80 else if n.kind = 1 then 64 else 24)
        let go : Option (State × Nat) :=
          match n.kind with
          | 1 =>
            let y := s.takeLaunch g.queue part g.ctx n.payload
            some (y.1.beginLaunch g.queue part g.ctx (some inst) n.recd y.1.nextId i y.2)
          | 2 =>
            match s.hwRead part g.ctx n.payload 24 with
            | none => some (s.nodeCancelled .copy g.queue part g.ctx inst n.recd i)
            | some bs =>
              let len := ofLeBytes (bs.drop 16)
              if len = 0 ∨ 0x10000000000 < len then none
              else some (s.beginCopy g.queue part g.ctx (some inst) n.recd (ofLeBytes (bs.take 8)) (ofLeBytes ((bs.drop 8).take 8)) len i)
          | 3 =>
            match s.hwRead part g.ctx n.payload 80 with
            | none => some (s.nodeCancelled .coll g.queue part g.ctx inst n.recd i)
            | some bs =>
              let x := newInst s .coll g.queue part g.ctx (some inst) n.recd (some 1) i
              some ((s.openInst x).postNode g.queue part g.ctx inst i x.id bs, x.id)
          | _ =>
            match s.hwRead part g.ctx n.payload 24 with
            | none => some (s.nodeCancelled .signal g.queue part g.ctx inst n.recd i)
            | some _ =>
              let x := newInst s .signal g.queue part g.ctx (some inst) n.recd (some 1) i
              some ((s.openInst x).runSignal part g n.payload x, x.id)
        match go with
        | none => s.stopGraph inst
        | some (s1, id) =>
          match s1.graph? inst with
          | some g1 => s1.setGraph { g1 with released := g1.released ++ [(i, id)] }
          | none => s1

/-- Ends a graph that has come to a stand: with no node running, what is left is dropped and STATUS is 5 (R405); with every node
counted it finishes. -/
def State.settleGraph (s : State) (inst : Nat) : State :=
  match s.graph? inst, s.inst? inst with
  | some g, some i =>
    let running := g.released.length - g.finished.length
    let s1 := if running = 0 ∧ !g.dropped ∧ i.done + i.canc < g.nodes then
        (s.setInst { i with canc := i.canc + (g.nodes - g.released.length), special := 5 }).setGraph { g with dropped := true, stopped := true }
      else s
    s1.tryFinish 8 inst
  | _, _ => s

/-- Writes the work words of a submitted graph; the nodes whose count is 0, or none on a walker fault (R403, R405). -/
def State.submitNodes (s : State) (part : Nat) (g : Graph) : Nat → Nat → Option (State × List Nat)
  | _, 0 => some (s, [])
  | i, n + 1 =>
    match s.readNode part g i with
    | none => none
    | some x =>
      match (s.hwTouch part g.ctx (g.table + 64 * i) 64).hwWrite part g.ctx (g.work + 4 * i) (leBytes 4 x.preds) with
      | none => none
      | some s1 =>
        match s1.submitNodes part g (i + 1) n with
        | none => none
        | some (s2, l) => some (s2, if x.preds = 0 then i :: l else l)

/-- A GRAPH IS SUBMITTED (R403): work words, record, and the release of every node whose count is 0. -/
def State.beginGraph (s : State) (queue part ctx : Nat) (parent : Option Nat) (recd table work nodes : Nat) : State × Nat :=
  let i := newInst s .graph queue part ctx parent recd (some nodes) 0
  let g : Graph := { inst := i.id, ctx := ctx, queue := queue, table := table, work := work, nodes := nodes, released := [], finished := []
                     stopped := false, dropped := false }
  match s.submitNodes part g 0 nodes with
  | none =>
    let s1 := s.openInst i
    ({ s1 with graphs := s1.graphs ++ [{ g with stopped := true }] }.settleGraph i.id, i.id)
  | some (s1, zero) =>
    let s2 := s1.openInst i
    let s3 := { s2 with graphs := s2.graphs ++ [g] }
    ((zero.foldl (fun (t : State) k => t.releaseNode part i.id k) s3).settleGraph i.id, i.id)

/-- Decrements the work words of a node's successors in list order, releasing those that reach 0 (R403, R405). -/
def State.decrement (s0 : State) (part inst : Nat) (g : Graph) (succ : Nat) : Nat → Nat → State
  | _, 0 => s0
  | k, n + 1 =>
    let s := s0.hwTouch part g.ctx (succ + 4 * k) 4
    match s.hwRead part g.ctx (succ + 4 * k) 4 with
    | none => s.stopGraph inst
    | some bs =>
      let t := ofLeBytes bs
      if g.nodes ≤ t then s.stopGraph inst
      else
        match s.hwRead part g.ctx (g.work + 4 * t) 4 with
        | none => s.stopGraph inst
        | some wb =>
          let w := ofLeBytes wb
          if w = 0 then s.stopGraph inst
          else
            match s.hwWrite part g.ctx (g.work + 4 * t) (leBytes 4 (w - 1)) with
            | none => s.stopGraph inst
            | some s1 =>
              let s2 := if w = 1 then s1.releaseNode part inst t else s1
              s2.decrement part inst g succ (k + 1) n

/-- `NODE_FINISH`: once every replica holds what the node wrote its record is written, its end counted in the graph, and its successors
decremented (R334, R403 to R405); a signal node that waited for its page performs its write. -/
def execNodeFinish (graph node : Nat) (s : State) : Out :=
  match s.graph? graph, s.inst? graph with
  | some g, some up =>
    match g.released.find? (fun x => x.1 = node) with
    | none => .next s
    | some (_, id) =>
      match s.inst? id with
      | none => .next s
      | some j =>
        if g.finished.contains node then .next s
        else if !j.finished then
          (match (if j.level = .signal ∧ j.done + j.canc = 0 then s.readNode up.part g node else none) with
            | some n => .next (s.runSignal up.part g n.payload j)
            | none => .next s)
        else if s.unaccepted id then .next (s.post (.nodeFinish graph node))
        else
          let s1 := s.writeRecord j j.status
          let bad := decide (j.canc ≠ 0) || decide (j.special ≠ 0)
          let up1 := { up with
            done := if bad then up.done else up.done + 1
            canc := if bad then up.canc + 1 else up.canc
            gdone := up.gdone + j.gdone
            gcanc := up.gcanc + j.gcanc }
          let s2 := (s1.setInst up1).setGraph { g with finished := g.finished ++ [node] }
          let s3 := if g.stopped || g.dropped then s2 else
            match s2.readNode up.part g node with
            | none => s2.stopGraph graph
            | some n => s2.decrement up.part graph g n.succ 0 n.nsucc
          .next (s3.settleGraph graph)
  | _, _ => .next s

end Sys2Proof.Machine
end

