-- ==== Sys2Proof/Machine/FrontEnd.lean ====
section
/-! DEFINITION. The queue front-end: rings, doorbells and resets, the choice of the next packet, command packets and when they begin,
jobs and phases, cancels, signals, waits and fences (R386 to R400). -/
namespace Sys2Proof.Machine
open Sys2Proof

/-! ### Packets (Tables 14-4 and 14-5) -/

/-- 64-bit word `k` of a packet. -/
def packetWord (bs : List Byte) (k : Nat) : Nat := ofLeBytes ((bs.drop (8 * k)).take 8)
/-- The command code of a packet. -/
def packetOpc (bs : List Byte) : Nat := packetWord bs 0 % 256
/-- WAITPREV of a packet. -/
def packetWaits (bs : List Byte) : Bool := bit (packetWord bs 0) 8

/-- A record address that is required: not 0, aligned, virtual. -/
def recordOk (a : Nat) : Bool := decide (a ≠ 0) && decide (a % 64 = 0) && decide (a < 2 ^ 57)

/-- The packet is well formed: reserved bits 0 and every field in its range (R394, Table 14-5). -/
def packetOk (bs : List Byte) : Bool :=
  let w := packetWord bs
  let zero := fun (k : Nat) => decide (ofLeBytes (bs.drop (8 * k)) = 0)
  decide (w 0 / 512 = 0) &&
    (match packetOpc bs with
     | 1 | 2 => recordOk (w 1) && decide (1 ≤ w 2 ∧ w 2 < 0x100000000) && zero 3
     | 3 => recordOk (w 1) && decide (w 2 < 2 ^ 57) && decide (w 3 % 4 = 0 ∧ w 3 < 2 ^ 57) && decide (1 ≤ w 4 ∧ w 4 ≤ 0x1000000) && zero 5
     | 4 => recordOk (w 1) && decide (w 2 < 2 ^ 57) && zero 3
     | 5 => (decide (w 1 = 0) || recordOk (w 1)) && decide (w 2 < 2 ^ 57 ∧ w 3 < 2 ^ 57) && decide (1 ≤ w 4 ∧ w 4 ≤ 0x10000000000) && zero 5
     | 6 => decide (w 1 % 8 = 0 ∧ w 1 < 2 ^ 57) && decide (w 3 < 3) && zero 4
     | 7 => decide (w 1 % 8 = 0 ∧ w 1 < 2 ^ 57) && decide (w 4 % 0x100000000 < 4) && zero 5
     | 8 => (decide (w 1 = 0) || recordOk (w 1)) && decide (1 ≤ w 2 ∧ w 2 ≤ 4) && zero 3
     | 9 => zero 1
     | _ => false)

/-! ### Levels (R397) -/

/-- Adds an implicit level. -/
def State.openImplicit (s : State) (level : Level) (q : Nat) (parent : Option Nat) : State × Nat :=
  let i := newInst s level q (s.partOfQueue q) (bits (s.queue q).ctl 53 48) parent 0 none 0
  ({ s with insts := s.insts ++ [i], nextId := s.nextId + 1 }, i.id)

/-- The level is there and not cancelled. -/
def State.usable (s : State) (i : Nat) : Bool := match s.inst? i with
  | some x => !x.cancelled
  | none => false

/-- The implicit job of a queue, opened where none stands. -/
def State.implicitJobOf (s : State) (q : Nat) : State × Nat :=
  if s.usable (s.queue q).implicitJob then (s, (s.queue q).implicitJob)
  else
    let r := s.openImplicit .job q none
    (r.1.setQueue q { r.1.queue q with implicitJob := r.2 }, r.2)

/-- The implicit phase of a queue. -/
def State.implicitPhaseOf (s : State) (q : Nat) : State × Nat :=
  if s.usable (s.queue q).implicitPhase then (s, (s.queue q).implicitPhase)
  else
    let j := s.implicitJobOf q
    let r := j.1.openImplicit .phase q (some j.2)
    (r.1.setQueue q { r.1.queue q with implicitPhase := r.2 }, r.2)

/-- A child joins a level; none where the level's expected count is reached. -/
def State.joinInst (s : State) (i : Nat) : Option (State × Nat) :=
  match s.inst? i with
  | none => none
  | some x =>
    match x.expected with
    | some e => if e ≤ x.children then none else some (s.setInst { x with children := x.children + 1 }, i)
    | none => some (s.setInst { x with children := x.children + 1 }, i)

/-- The level that a command joins, with the command counted in it; none where that makes it malformed (R397). -/
def State.joinLevel (s : State) (q opc : Nat) : Option (State × Nat) :=
  let qq := s.queue q
  match opc with
  | 2 => if s.usable qq.job then s.joinInst qq.job else
      let r := s.implicitJobOf q
      r.1.joinInst r.2
  | 3 | 4 | 5 => if s.usable qq.phase then s.joinInst qq.phase else
      let r := s.implicitPhaseOf q
      r.1.joinInst r.2
  | 6 | 7 | 9 => if s.usable qq.phase then some (s, qq.phase) else some (s.implicitPhaseOf q)
  | _ => some (s, 0)

/-- Closes a level to new children: its expected count becomes the children it holds (R397). -/
def State.closeInst (s : State) (i : Nat) : State :=
  match s.inst? i with
  | none => s
  | some x =>
    if x.finished then s
    else (s.setInst { x with closed := true, expected := x.expected.map (fun e => min e x.children) }).tryFinish 8 i

/-- What a JOB_START or PHASE_START closes. -/
def State.closeBefore (s : State) (q opc : Nat) : State :=
  let qq := s.queue q
  match opc with
  | 1 => ((s.closeInst qq.phase).closeInst qq.job).setQueue q { ((s.closeInst qq.phase).closeInst qq.job).queue q with job := 0, phase := 0 }
  | 2 => (s.closeInst qq.phase).setQueue q { (s.closeInst qq.phase).queue q with phase := 0 }
  | _ => s

/-- An implicit level that a queue's last command was consumed under, the phase or the job of it, is cancelled (R398). -/
def State.lastCancelled (s : State) (q : Nat) : Bool :=
  let off := fun (u : Inst) => u.cancelled && u.expected.isNone
  match (s.queue q).cmds.getLast? with
  | some c => (match s.inst? c.under with
    | some u => off u || (match u.parent.bind s.inst? with
      | some j => off j
      | none => false)
    | none => false)
  | none => false

/-! ### When a command begins (R396) -/

/-- The command is a JOB_START or PHASE_START whose level is open still. -/
def State.levelOpen (s : State) (c : QCmd) : Bool :=
  c.opens && (match c.inst with
    | some i => (match s.inst? i with
      | some x => !x.closed && !x.finished
      | none => false)
    | none => false)

/-- Every command of a queue consumed before number `seq` has finished, open levels apart. -/
def State.doneBefore (s : State) (q seq : Nat) : Bool := (s.queue q).cmds.all (fun c => decide (seq ≤ c.seq) || s.levelOpen c || s.cmdOver c)

/-- The hardware queues of a partition (R475). -/
def State.queuesOf (s : State) (p : Nat) : List Nat :=
  match s.part? p with
  | some x => x.dies.flatMap (fun d => natsFrom (64 * d) 64)
  | none => []

/-- The number of the queue's last command consumed. -/
def Queue.lastSeq (q : Queue) : Nat := (q.cmds.getLast?.map (fun c => c.seq)).getD 0

/-- The packet just consumed by a queue may begin. -/
def State.mayBegin (s : State) (q : Nat) (bs : List Byte) : Bool :=
  let seq := (s.queue q).lastSeq
  match packetOpc bs with
  | 8 => true
  | 9 => (s.queuesOf (s.partOfQueue q)).all (fun k => s.doneBefore k seq)
  | _ => !packetWaits bs || s.doneBefore q seq

/-- The state of a queue that consumes follows from what it holds; an idle one waits for a doorbell (Table 14-3). -/
def State.settleQueue (s : State) (q : Nat) : State :=
  let qq := s.queue q
  if qq.state ≤ 1 ∨ qq.state = 4 then s
  else s.setQueue q { qq with state := if qq.head.isSome then 3 else if qq.ridx = qq.prevW then 1 else 2 }

/-- Command number `seq` of a queue opened instance `i`, or is finished when `i` is. -/
def State.markCmd (s : State) (q seq i : Nat) : State :=
  let done := match s.inst? i with
    | some x => x.finished
    | none => true
  let s1 := s.setQueue q { s.queue q with cmds := (s.queue q).cmds.map (fun c => if c.seq = seq then { c with inst := some i } else c) }
  if done then s1.endCmds q (fun c => decide (c.seq = seq)) else s1

/-- Command number `seq` of a queue has its effect done. -/
def State.cmdDone (s : State) (q seq : Nat) : State := s.endCmds q (fun c => decide (c.seq = seq))

/-- A CANCEL command (R398). -/
def State.cancelByRecord (s : State) (p ctx addr level : Nat) : State :=
  match s.insts.find? (fun i => decide (addr ≠ 0 ∧ i.level.code = level ∧ i.recd = addr ∧ i.part = p ∧ i.ctx = ctx) && !i.finished) with
  | some i => s.cancelInst i.id (s.leadDie p) false
  | none => s

/-- A PARTITION_FENCE: every core writes back its L1 and drops every line whose tracked bit is clear (Table 14-6). -/
def State.fence (s : State) (p : Nat) : State := (s.view p).cores.foldl (fun (t : State) c => t.dropUntracked (s.view p) c) s

/-- A command that was consumed under a level cancelled since is cancelled as it begins (R398). -/
def State.lateCancel (s : State) (q i under : Nat) : State :=
  match s.inst? under with
  | some u => if u.cancelled then s.cancelInst i (s.leadDie (s.partOfQueue q)) u.torn else s
  | none => s

/-- A COMMAND BEGINS (Table 14-6); a signal, wait or fence consumed under an implicit level cancelled since has no effect (R398). -/
def State.beginCmd (s : State) (q : Nat) (bs : List Byte) : State :=
  let p := s.partOfQueue q
  let qq := s.queue q
  let ctx := bits qq.ctl 53 48
  let seq := qq.lastSeq
  let under := (qq.cmds.getLast?.map (fun c => c.under)).getD 0
  let w := packetWord bs
  let started := fun (r : State × Nat) => (r.1.lateCancel q r.2 under).markCmd q seq r.2
  match packetOpc bs with
  | 1 =>
    let i := newInst s .job q p ctx none (w 1) (some (w 2)) 0
    let s1 := s.openInst i
    started (s1.setQueue q { s1.queue q with job := i.id, phase := 0 }, i.id)
  | 2 =>
    let i := newInst s .phase q p ctx (some under) (w 1) (some (w 2)) 0
    let s1 := s.openInst i
    started (s1.setQueue q { s1.queue q with phase := i.id }, i.id)
  | 3 => started (s.beginGraph q p ctx (some under) (w 1) (w 2) (w 3) (w 4))
  | 4 => started (s.beginLaunch q p ctx (some under) (w 1) seq 0 (((qq.cmds.getLast?).bind (fun c => c.got)).getD (0, none)))
  | 5 => started (s.beginCopy q p ctx (some under) (w 1) (w 2) (w 3) (w 4) 0)
  | 6 =>
    if s.lastCancelled q then s.cmdDone q seq else
    if s.signalHeld p ctx (w 1) (w 3) then (s.setQueue q { qq with head := some bs, waitSince := 0 }).post (.commandBegin q) else
    match s.signal q seq p ctx (w 1) (w 2) (w 3) with
    | some s1 => s1.cmdDone q seq
    | none => (s.cmdDone q seq).queueError q 5
  | 7 =>
    if s.lastCancelled q then s.cmdDone q seq else
    let s1 := s.setQueue q { qq with head := some bs, waitSince := s.now (s.leadDie p) + 1 }
    let s2 := s1.post (.waitMemReread q)
    if w 4 / 0x100000000 = 0 then s2 else s2.post (.waitMemTimeout q)
  | 8 => (s.cancelByRecord p ctx (w 1) (w 2)).cmdDone q seq
  | _ => (if s.lastCancelled q then s else s.fence p).cmdDone q seq

/-! ### Serving the queues (R390, R394, R395) -/

/-- Where the packet at a queue's read index stands (R389). -/
def State.packetAt (s : State) (q : Nat) : Nat := (s.queue q).base + 64 + 64 * ((s.queue q).ridx % 2 ^ bits (s.queue q).ctl 4 0)
/-- Reads the packet at a queue's read index (R389). -/
def State.readPacket (s : State) (q : Nat) : Option (List Byte) :=
  s.hwRead (s.partOfQueue q) (bits (s.queue q).ctl 53 48) (s.packetAt q) 64

/-- The queue has a packet to consume now. -/
def Queue.ready (q : Queue) : Bool := decide (q.state = 2) && q.head.isNone && decide (q.ridx ≠ q.prevW)

/-- The queue served next: by priority, round-robin within one (R395). -/
def State.nextQueue (s : State) (p : Nat) : Option Nat :=
  let qs := (s.queuesOf p).filter (fun k => (s.queue k).ready)
  ([3, 2, 1, 0] : List Nat).findSome? (fun prio =>
    let here := qs.filter (fun k => decide (bits (s.queue k).ctl 62 61 = prio))
    let from' := nget (fun _ => 0) s.served (4 * p + prio)
    ((here.filter (fun k => decide (from' ≤ k))) ++ here).head?)

/-- The step that consumes a packet. -/
def packetStep (opc q : Nat) : Option Ev :=
  match opc with
  | 1 => some (.jobStart q)
  | 2 => some (.phaseStart q)
  | 3 => some (.graphSubmit q)
  | 4 => some (.launch q)
  | 5 => some (.copy q)
  | 6 => some (.signalMem q)
  | 7 => some (.waitMem q)
  | 8 => some (.cancelCommand q)
  | 9 => some (.partitionFence q)
  | _ => none

/-- The queue whose packet a step consumes. -/
def packetQueue : Ev → Option Nat
  | .jobStart q | .phaseStart q | .graphSubmit q | .launch q | .copy q | .signalMem q | .waitMem q | .cancelCommand q
  | .partitionFence q => some q
  | _ => none

/-- THE FRONT-END of a partition looks at its queues: the step that consumes the next packet may come. A packet that cannot be read, or
whose OPC is reserved, puts its queue in ERROR (R394, R395). -/
def State.pump (s : State) (p : Nat) : Nat → State
  | 0 => s
  | fuel + 1 =>
    if s.resetting p || s.due.any (fun e => match packetQueue e with
      | some k => decide (s.partOfQueue k = p)
      | none => false) then s
    else
      match s.nextQueue p with
      | none => s
      | some q =>
        match s.readPacket q with
        | none => (s.queueError q 3).pump p fuel
        | some bs =>
          match packetStep (packetOpc bs) q with
          | some e => s.post e
          | none => (s.queueError q 2).pump p fuel

/-- The front-end goes on. -/
def State.pumpOn (s : State) (q : Nat) : State := s.pump (s.partOfQueue q) 256

/-- CONSUMES the packet at a queue's read index: checked, its level joined, RIDX written, and begun when it may (R390, R394, R396,
R397). -/
def consume (opc q : Nat) (s : State) : Out :=
  let qq := s.queue q
  if !qq.ready || s.resetting (s.partOfQueue q) then .next (s.pumpOn q)
  else
    let p := s.partOfQueue q
    let s0 := { s with served := nset (fun _ => 0) s.served (4 * p + bits qq.ctl 62 61) (q + 1) }.hwTouch p (bits qq.ctl 53 48) (s.packetAt q) 64
    match s0.readPacket q with
    | none => .next ((s0.queueError q 3).pumpOn q)
    | some bs =>
      if packetOpc bs ≠ opc then .next (s0.pumpOn q)
      else if !packetOk bs then .next ((s0.queueError q 2).pumpOn q)
      else
        match s0.joinLevel q opc with
        | none => .next ((s0.queueError q 2).pumpOn q)
        | some (s0', under) =>
          -- the launch record and descriptor are read before RIDX frees the packet's slot
          let taken := s0'.takeLaunch q p (bits qq.ctl 53 48) (packetWord bs 2)
          let s1 := if opc = 4 then taken.1 else s0'
          match s1.hwWrite p (bits qq.ctl 53 48) (qq.base + 8) (leBytes 8 (qq.ridx + 1)) with
          | none => .next ((s0.queueError q 3).pumpOn q)
          | some s2 =>
            let c : QCmd :=
              { seq := s2.nextId, inst := none, opens := decide (opc ≤ 2), under := under, got := if opc = 4 then some taken.2 else none, opc := opc }
            let s3 := { s2 with nextId := s2.nextId + 1 }.setQueue q
              { s2.queue q with ridx := (qq.ridx + 1) % 2 ^ 64, cmds := (s2.queue q).cmds.filter (fun y => !s2.cmdOver y) ++ [c] }
            let s4 := s3.closeBefore q opc
            let s5 := if s4.mayBegin q bs then s4.beginCmd q bs
              else (s4.setQueue q { s4.queue q with head := some bs, waitSince := 0 }).post (.commandBegin q)
            .next ((s5.settleQueue q).pumpOn q)

/-- `JOB_START` (R397). -/
def execJobStart (q : Nat) (s : State) : Out := consume 1 q s
/-- `PHASE_START` (R397). -/
def execPhaseStart (q : Nat) (s : State) : Out := consume 2 q s
/-- `GRAPH_SUBMIT` (R403). -/
def execGraphSubmit (q : Nat) (s : State) : Out := consume 3 q s
/-- `LAUNCH` (R128, R406). -/
def execLaunch (q : Nat) (s : State) : Out := consume 4 q s
/-- `COPY` (R396). -/
def execCopy (q : Nat) (s : State) : Out := consume 5 q s
/-- `SIGNAL_MEM` (R399). -/
def execSignalMem (q : Nat) (s : State) : Out := consume 6 q s
/-- `WAIT_MEM` (R399). -/
def execWaitMem (q : Nat) (s : State) : Out := consume 7 q s
/-- `CANCEL` as a command (R398). -/
def execCancelCommand (q : Nat) (s : State) : Out := consume 8 q s
/-- `PARTITION_FENCE` (R396). -/
def execPartitionFence (q : Nat) (s : State) : Out := consume 9 q s

/-- `COMMAND_BEGIN`: a head packet that waited begins (R396). -/
def execCommandBegin (q : Nat) (s : State) : Out :=
  let qq := s.queue q
  match qq.head with
  | none => .next s
  | some bs =>
    if qq.waitSince ≠ 0 then .next s
    else if s.mayBegin q bs then
      .next ((((s.setQueue q { qq with head := none }).beginCmd q bs).settleQueue q).pumpOn q)
    else .next (s.postOnce (.commandBegin q))

/-- CMP of a WAIT_MEM packet on a word read (R399). -/
def waitHolds (bs : List Byte) (word : Nat) : Bool :=
  let m := packetWord bs 3
  let a := word &&& m
  let b := packetWord bs 2 &&& m
  match packetWord bs 4 % 4 with
  | 0 => decide (a = b)
  | 1 => decide (a ≠ b)
  | 2 => decide (b ≤ a)
  | _ => decide (a < b)

/-- A wait is over: with an ERROR reason, or 0 when it holds. -/
def State.endWait (s : State) (q reason : Nat) : State :=
  let qq := s.queue q
  let s1 := (s.setQueue q { qq with head := none, waitSince := 0 }).cmdDone q qq.lastSeq
  if reason = 0 then (s1.settleQueue q).pumpOn q else (s1.queueError q reason).pumpOn q

/-- The timeout of the wait at a queue's head has passed. -/
def State.waitTimedOut (s : State) (q : Nat) (bs : List Byte) : Bool :=
  let t := packetWord bs 4 / 0x100000000
  decide (t ≠ 0) && decide ((s.queue q).waitSince - 1 + t ≤ s.now (s.leadDie (s.partOfQueue q)))

/-- `WAIT_MEM_REREAD`: the word is read again (R399). -/
def execWaitMemReread (q : Nat) (s : State) : Out :=
  let qq := s.queue q
  match qq.head with
  | none => .next s
  | some bs =>
    if qq.waitSince = 0 then .next s
    else if s.lastCancelled q then .next (s.endWait q 0)
    else
      match s.syncRead (s.partOfQueue q) (bits qq.ctl 53 48) (packetWord bs 1) 8 with
      | none => .next (s.endWait q 5)
      | some x =>
        if waitHolds bs x then .next (s.endWait q 0)
        else if s.waitTimedOut q bs then .next (s.endWait q 6)
        else .next (s.postOnce (.waitMemReread q))

/-- `WAIT_MEM_TIMEOUT`: the wait's timeout expires and the queue enters ERROR with reason 6 (R399). -/
def execWaitMemTimeout (q : Nat) (s : State) : Out :=
  let qq := s.queue q
  match qq.head with
  | none => .next s
  | some bs =>
    if qq.waitSince = 0 then .next s
    else if s.waitTimedOut q bs then .next (s.endWait q 6)
    else .next (if packetWord bs 4 / 0x100000000 = 0 then s else s.postOnce (.waitMemTimeout q))

/-! ### Doorbell, reset, control (R388, R390 to R393) -/

/-- `Q_DOORBELL`: WIDX is read and the packets below it may be consumed, or the queue enters OVERRUN (R390, R391). -/
def execQDoorbell (q : Nat) (s : State) : Out :=
  let qq := s.queue q
  if qq.state = 0 ∨ qq.state = 4 then .next s
  else
    match s.hwRead (s.partOfQueue q) (bits qq.ctl 53 48) qq.base 8 with
    | none => .next (s.queueError q 3)
    | some bs =>
      let s := s.hwTouch (s.partOfQueue q) (bits qq.ctl 53 48) qq.base 8
      let w := ofLeBytes bs
      if 2 ^ bits qq.ctl 4 0 < (w + 2 ^ 64 - qq.ridx) % 2 ^ 64 ∨ w < qq.prevW then .next (s.queueError q 1)
      else .next (((s.setQueue q { qq with prevW := w, state := if qq.state = 1 ∧ (w ≠ qq.ridx ∨ qq.head.isSome) then 2 else qq.state }).settleQueue q).pumpOn q)

/-- `Q_RESET` (R393): read index, previous WIDX and RIDX become `v`; open levels close (R397), the implicit levels are opened afresh and WIDX
is read. -/
def execQReset (q : Nat) (v : Dword) (s0 : State) : Out :=
  if (s0.queue q).state ≠ 0 ∧ (s0.queue q).state ≠ 4 then .next s0
  else
    let s := (s0.closeInst (s0.queue q).phase).closeInst (s0.queue q).job
    let qq := s.queue q
    let en := bit qq.ctl 63
    let q1 := { qq with
      ridx := v.toNat, prevW := v.toNat, state := if en then 1 else 0, reason := 0, job := 0, phase := 0, implicitJob := 0, implicitPhase := 0 }
    let s1 := s.setQueue q q1
    match s1.hwWrite (s.partOfQueue q) (bits qq.ctl 53 48) (qq.base + 8) (leBytes 8 v.toNat) with
    | none => .next (if en then s1.queueError q 3 else s1)
    | some s2 => .next (if en then s2.post (.qDoorbell q) else s2)

/-- The bits of Q_CTL that are writable (Table 14-1). -/
def qCtlMask : Nat := 2 ^ 63 + 3 * 2 ^ 61 + 63 * 2 ^ 48 + 31

/-- The partition that owns context `c`: that of die ⌊c ÷ 16⌋ (R475). -/
def State.ownsCtx (s : State) (p c : Nat) : Bool := match s.part? p with
  | some x => x.dies.contains (c / 16)
  | none => false

/-- `Q_CTL_WRITE`: while EN is 1 only a write that clears EN acts; a wrong size or a disabled context gives ERROR with reason 2
(R388, Table 14-3). -/
def execQCtlWrite (q : Nat) (v : Dword) (s : State) : Out :=
  let qq := s.queue q
  let x := v.toNat &&& qCtlMask
  if bit qq.ctl 63 then
    (if bit x 63 then .next s else .next (s.setQueue q { qq with ctl := x, state := 0, reason := 0 }))
  else if !bit x 63 then .next (s.setQueue q { qq with ctl := x })
  else
    let ctx := bits x 53 48
    let ok := decide (4 ≤ bits x 4 0 ∧ bits x 4 0 ≤ 16) && s.ownsCtx (s.partOfQueue q) ctx && bit (s.ctxReg ctx 0) 0
    let p := s.partOfQueue q
    let s0 := { s with parts := s.parts.map (fun (y : Part) => if y.id = p ∧ y.state = 2 then { y with state := 0 } else y) }
    .next (if ok then s0.setQueue q { qq with ctl := x, state := 1, reason := 0 }
      else s.setQueue q { qq with ctl := x, state := 4, reason := 2 })

end Sys2Proof.Machine
end

