-- ==== Sys2Proof/Machine/Hierarchy.lean ====
section
/-! DEFINITION. The memory hierarchy beyond a core: answers to requests sent out, requests at L2 slices and vaults with their lists,
fills and invalidations, write-backs, TLB misses, walks and invalidations, replicated and diverged pages, and the patrol scrubber
(R364 to R372, R380 to R384, R454, R480, R484, R492, R493, R502). -/
namespace Sys2Proof.Machine
open Sys2Proof

/-! ### Answers to requests sent out (R220, R454, R480, R484) -/

/-- Why a request was not performed: 6 by a peer, 7 by the host, 8 by an exporter (Table 13-6); 0x21 its data is uncorrectable. -/
abbrev WhyNot := Nat

/-- The value that an answer gives a lane: the bytes; for `CAS` 2^64 more when they equal the compare value. -/
def answerValue (r : RemoteReq) (bs : List Byte) : Nat :=
  ofLeBytes bs + (if r.op = 4 ∧ bs = r.data.take bs.length then 2 ^ 64 else 0)

/-- Changes a flight of a group. -/
def State.onFlight (s : State) (gid fid : Nat) (f : Flight → Flight) : State :=
  s.onGroup gid (fun g => { g with flights := g.flights.map (fun (y : Flight) => if y.id = fid then f y else y) })

/-- A store's bytes are dropped: an event, and the issuing queue is torn down (R454, R484). -/
def State.dropBytes (s : State) (r : RemoteReq) : State :=
  (s.event r.part { typ := 0x09, action := 7, pos := posOf r.core, queue := some (r.queue, bits (s.queue r.queue).ctl 53 48)
                    addr := r.pa - r.pa % 2 ^ 45 % 192 }).teardown r.queue 5 (r.core / 96)

/-- The flight meets an error: its record and trap come by the step that a translation fault takes (R454, R480, R484); a slice's load
traps itself, a `QLD`'s crew is poisoned. -/
def State.failFlight (s : State) (r : RemoteReq) (g : Group) (f : Flight) (why : WhyNot) : State :=
  let va := ((f.lanes.find? (fun a => a.lane = r.lane)).map (fun a => a.va)).getD 0
  let t : Trap := { cause := if why = 0x21 then 0x21 else 0x10, lane := r.lane % 32, detail := if why = 0x21 then 0 else why, addr := va, first := f.addr }
  match f.kind with
  | .qload =>
    let s1 := s.onFlight g.id f.id (fun y => { y with qrec := y.qrec.map (fun q =>
      { q with crews := setLane q.crews (r.lane / 32) true, fcode := t.cause, faddr := ninsert q.faddr (r.lane / 32) va }) })
    s1.postOnce (.qldPoison g.id f.id)
  | _ =>
    let s1 := s.onFlight g.id f.id (fun y => { y with fault := some (y.fault.getD t) })
    if f.unit = 32 then s1
    else
      let left := s1.due.filter (fun e => decide (e ≠ .loadComplete g.id f.id) && decide (e ≠ .atomicComplete g.id f.id))
      ({ s1 with due := left }).postOnce (.loadTranslationFault g.id f.id)

/-- Bytes that a request brought enter its core's L1: whole sectors of one line, clean and untracked (R220, R364, R480). -/
def State.fillL1 (s : State) (r : RemoteReq) (bs : List Byte) : State :=
  let key := s.l1Key r.pa
  let o := r.pa % 2 ^ 45 % 192
  let s1 := s.l1Place (s.view r.part) r.core key false
  match nfind? (s1.core r.core).l1 key with
  | none => s1
  | some l =>
    let d := bs.zipIdx.foldl (fun m (x : Byte × Nat) => if l.dirty.testBit (o + x.2) then m else ninsert m (o + x.2) x.1) l.data
    let whole := (natsFrom 0 4).filter (fun k => decide (o ≤ 48 * k ∧ 48 * k + 48 ≤ o + bs.length))
    s1.setCore r.core { s1.core r.core with
      l1 := ninsert (s1.core r.core).l1 key { l with
        data := d, valid := whole.foldl (fun m k => m ||| 2 ^ k) l.valid, filled := whole.foldl (fun f k => nset (fun _ => 0) f k (s.free + 1)) l.filled } }

/-- The lane's bytes are among those that a read brought: it takes them; only the lane that asked where the read serves no other. -/
def RemoteReq.gives (r : RemoteReq) (shared : Bool) (bs : List Byte) (a : LaneAcc) : Option Nat :=
  let q := a.pa.headD 0
  if (shared || decide (a.lane = r.lane)) && decide (r.pa ≤ q ∧ q + a.n ≤ r.pa + r.len) then some (ofLeBytes ((bs.drop (q - r.pa)).take a.n))
  else none

/-- The answer of a flight's request: a read's bytes go to the lanes of a load, or are what a store's unit held; an atomic's to its
lane. -/
def Flight.answered (f : Flight) (r : RemoteReq) (bs : List Byte) : Flight :=
  match f.kind with
  | .store | .release => { f with lanes := f.lanes.map (fun a => match r.gives true bs a with
      | some x => { a with old := x }
      | none => a) }
  | .atomic => { f with lanes := f.lanes.map (fun a => if a.lane = r.lane then { a with value := answerValue r bs } else a) }
  | _ => { f with lanes := f.lanes.map (fun a => match r.gives r.fill bs a with
      | some x => { a with value := x }
      | none => a) }

/-- A flight's request was not performed. What a store or an atomic would write to a peer is dropped with it; uncorrectable data of a store or
a queue's load is contained at once (R248, R454, R493, Table 18-2). -/
def State.refusedFlight (s : State) (r : RemoteReq) (g : Group) (f : Flight) (why : WhyNot) : State :=
  match f.kind with
  | .store | .release => if why = 0x21 then (s.landFlight g.id f 1).contain g.id 0x21 else (s.landFlight g.id f 1).dropBytes r
  | .atomic => if why = 6 then (s.landFlight g.id f 0).dropBytes r else s.failFlight r g f why
  | .qload => if why = 0x21 then s.contain g.id 0x21 else s.failFlight r g f why
  | _ => s.failFlight r g f why

/-- The answer of a tile copy's request (R270). -/
def State.answerCmd (s : State) (r : RemoteReq) (g : Group) (c : Cmd) (ans : Except WhyNot (List Byte)) : State :=
  match c.kind, ans with
  | .tcopy t, .ok bs =>
    let rows := match t.rows with
      | [] => []
      | a :: l => a.map (fun (y : LaneAcc) => match r.gives true bs y with
          | some x => { y with value := x }
          | none => y) :: l
    s.onGroup g.id (fun h => { h with cmds := h.cmds.map (fun d => if d.id = c.id then { d with kind := .tcopy { t with rows := rows } } else d) })
  | _, .ok _ => s
  | _, .error why =>
    let va := (match c.kind with
      | .tcopy t => ((t.rows.headD []).find? (fun (a : LaneAcc) => a.lane = r.lane)).map (fun (a : LaneAcc) => a.va)
      | _ => none).getD 0
    let s1 := { s with remote := s.remote.filter (fun x => decide (x.gid ≠ g.id ∨ x.fid ≠ c.id)) }
    if why = 0x21 then (s1.retireCmd g.id c 2).contain g.id 0x21
    else
      -- the copy stands still at its row until the handler returns (Table 15-1, log entry 79)
      let s2 := match c.kind with
        | .tcopy t => s1.setCmd g.id c.id (.tcopy { t with stuck := true, asked := false, snap := none })
        | _ => s1
      (s2.raise g.id c.unit { cause := 0x10, lane := 0, detail := why, addr := va, first := c.addr }).settle g.id

/-- ANSWERS a request sent out: with its bytes, or with why it was not performed. -/
def State.answerRemote (s : State) (tag : Nat) (ans : Except WhyNot (List Byte)) : State :=
  match s.remote.find? (fun r => r.tag = tag) with
  | none => s
  | some r =>
    let s0 := { s with remote := s.remote.filter (fun x => x.tag ≠ tag) }
    if r.writes then
      (match ans with
       | .ok _ => s0
       | .error _ => s0.dropBytes r)
    else
      let s1 := match r.fill && !r.stale, ans with
        | true, .ok bs => s0.fillL1 r bs
        | _, _ => s0
      if r.gid = 0 then
        (if r.fid = 0 then s1
         else match ans with
          | .ok bs => { s1 with replies := ninsert s1.replies r.fid bs }
          | .error why =>
            -- poisoned bytes are copied with their mark: what they hold is open (R493)
            if why = 0x21 then
              { s1 with replies := ninsert s1.replies r.fid ((natsFrom s1.free r.len).map (fun i => (Config.freeWord i).setWidth 8))
                        copies := s1.copies.map (fun (y : CopyOp) => if y.inst = r.fid then { y with bad := true } else y) }
            else s1.endCopy r.fid true)
      else
        match s1.flight? r.gid r.fid, s1.cmd? r.gid r.fid with
        | some (g, f), _ =>
          (match ans with
           | .ok bs => s1.onFlight g.id f.id (fun y => y.answered r bs)
           | .error why => s1.refusedFlight r g f why)
        | none, some (g, c) => s1.answerCmd r g c ans
        -- the late reply of a saved group's load, which a replay record stands for, is discarded: its resources may return (R432)
        | none, none => match s1.group? r.gid with
          | some g => if g.resident then s1 else s1.kick g.loc.die
          | none => s1

/-! ### Requests at a home (R367 to R372) -/

/-- The reply of a request: to the request sent out that it answers, else held by its number. -/
def State.homeReply (s : State) (r : HomeReq) (ans : Option (List Byte)) : State :=
  let s := { s with net := { s.net with admitted := s.net.admitted.filter (fun x => x.1 ≠ r.id) } }
  if s.remote.any (fun x => x.tag = r.id) then s.answerRemote r.id (match ans with
    | some bs => .ok bs
    | none => .error 0x21)
  else if r.op = 1 then s
  else match ans with
    | some bs => { s with replies := ninsert s.replies r.id bs }
    | none => { s with replies := nerase s.replies r.id }

/-- Performs a listed request, and its reply goes. -/
def State.performHome (s : State) (r : HomeReq) : State :=
  let x := s.performAt (s.view r.part) r
  x.1.homeReply r x.2

/-- The name of a request's line at its home. -/
def State.keyOf (s : State) (r : HomeReq) : Nat := homeKey (s.view r.part) (lineOf r)

/-- The mesh port of the home of a line: its slice's, on a cache chiplet, or that of the chiplet above its vault (Table 16-1, R372). -/
def State.homePort (s : State) (v : View) (line : Nat) : Nat :=
  if isVaultLine line then clusterPort ((line * 192 - 0x18000000000) / 0xC000000) (line % 4)
  else
    let k := (s.sliceOf v line).1
    cachePort (k / 160) (k % 160 / 40) (line % 4)
/-- The mesh port that a core's requests for a line go through. -/
def corePort (c line : Nat) : Nat := clusterPort (clusterOf c) (line % 4)

/-- The sharers that a coherent write must have invalidated first (R367). -/
def State.mustAck (s : State) (r : HomeReq) : List Nat :=
  if homeWrites r && r.coherent then (s.sharers (s.keyOf r)).cores.filter (fun c => decide (some c ≠ r.core)) else []

/-- Performs the requests listed under a name in their order, up to a coherent write whose sharers must be invalidated first: their probes
go out and it waits; of a request performed before only the reply goes (R367, R368, R370). -/
def State.runList (s : State) (key : Nat) : Nat → State
  | 0 => s
  | fuel + 1 =>
    match s.listedAt key with
    | [] => s
    | x :: rest =>
      if !x.acks.isEmpty then s
      else
        match x.ans with
        | some a => ((s.setListed key rest).homeReply x.req a).runList key fuel
        | none =>
          match s.mustAck x.req with
          | [] => ((s.setListed key rest).performHome x.req).runList key fuel
          | cs =>
            let s1 := s.setListed key ({ x with acks := cs } :: rest)
            -- probes of the mesh, of priority 3 (R438, R441)
            cs.foldl (fun (t : State) c => t.sendMesh (t.homePort (t.viewOfKey key) (keyLine key)) (corePort c (keyLine key)) 2 3
              (.invalidateProbe c (keyLine key))) s1

/-- SERVES a request of a gateway or a port at its home, behind every request listed there (R368). -/
def State.serveHome (s : State) (r : HomeReq) : State × Except WhyNot (List Byte) :=
  let v := s.view r.part
  let x := (s.catchUp v (lineOf r)).performAt v r
  (x.1, match x.2 with
    | some bs => .ok bs
    | none => .error 0x21)

/-- Sectors of its line that a request reads or writes in part, so that they must be there; and those that it writes whole (R370). -/
def needSectors (r : HomeReq) : List Nat × List Nat :=
  let o := r.addr % 192
  let n := if r.op = 0 then r.len else atomWidth r
  let touched := (natsFrom 0 4).filter (fun k => decide (o < 48 * k + 48 ∧ 48 * k < o + n))
  let whole := touched.filter (fun k => decide (r.op = 1 ∧ o ≤ 48 * k ∧ 48 * k + 48 ≤ o + n))
  (touched.filter (fun k => !whole.contains k), whole)

/-- The sectors that listed requests have fetched: needed by one of them, and by none before it written whole (R370). -/
def fetched : List Nat → List HomeReq → List Nat
  | _, [] => []
  | whole, r :: l => (needSectors r).1.filter (fun k => !whole.contains k) ++ fetched (whole ++ (needSectors r).2) l

/-- A slice takes a request in: into the list of a line in flight, as a hit, or as a miss with a register; none where the list is full or no
register free (R368 to R371). -/
def State.takeIn (s : State) (r : HomeReq) : Option State :=
  let v := s.view r.part
  let key := s.keyOf r
  let here := s.listedAt key
  let put := s.setListed key (here ++ [{ req := r, acks := [] }])
  if !here.isEmpty then (if 32 ≤ here.length then none else some put)
  else if s.l2Has v (lineOf r) || (needSectors r).1.isEmpty then some (put.runList key 1)
  else if 64 ≤ s.missesOf (s.sliceOf v (lineOf r)).1 ∨ !s.l2Room v (lineOf r) then none
  else some (put.post (.l2Fill key))

/-- Requests that wait in a slice's ingress queue (R369). -/
def State.ingressOf (s : State) (slice : Nat) : List HomeReq := nget (fun _ => []) s.ingress slice
def State.setIngress (s : State) (slice : Nat) (l : List HomeReq) : State := { s with ingress := nset (fun _ => []) s.ingress slice l }

/-- Requests that waited are taken in, in their order: each that can be, but for one behind another to its line (R369). -/
def State.admitFrom (s : State) (slice : Nat) (kept : List HomeReq) : List HomeReq → State
  | [] => s.setIngress slice kept
  | r :: l =>
    if kept.any (fun q => decide (s.keyOf q = s.keyOf r)) then s.admitFrom slice (kept ++ [r]) l
    else
      match s.takeIn r with
      | some s1 => s1.admitFrom slice kept l
      | none => s.admitFrom slice (kept ++ [r]) l

/-- A slice looks at its ingress queue. -/
def State.admitIngress (s : State) (slice : Nat) : State :=
  match s.ingressOf slice with
  | [] => s
  | l => s.admitFrom slice [] l

/-- Posts a step before every other that waits: it keeps its place among those of its kind. -/
def State.postFront (s : State) (e : Ev) : State := { s with due := e :: s.due }

/-- `L2_REQUEST`: a request at a slice: it is taken in, or waits in the ingress queue behind those of its line; with 48 waiting the slice refuses
it and it waits in the network (R368 to R371). -/
def execL2Request (r : HomeReq) (s : State) : Out :=
  let slice := (s.sliceOf (s.view r.part) (lineOf r)).1
  let waiting := s.ingressOf slice
  if 48 ≤ waiting.length then .next (s.postFront (.l2Request r))
  else
    match (if waiting.any (fun q => decide (s.keyOf q = s.keyOf r)) then none else s.takeIn r) with
    | some s1 => .next s1
    | none => .next (s.setIngress slice (waiting ++ [r]))

/-- Marks a sector poisoned and reports it once (R493). -/
def State.poisonSector (s : State) (part die ukind unit addr : Nat) : State :=
  let k := addr / 48
  if nget (fun _ => false) s.poison k then s
  else { s with poison := nset (fun _ => false) s.poison k true }.event part
    { typ := 0x02, action := s.openAction, pos := ⟨die, 0, 0⟩, ukind := ukind, unit := unit, detail := 2 ^ (addr % 192 / 48), addr := addr / 192 * 192 }

/-- `L2_FILL`: the fill of a line, by its name, arrives; its listed requests are performed in order and the slice looks at its ingress queue
(R369, R370). A fill that cannot be corrected poisons a sector that was fetched (R493). -/
def execL2Fill (key : Nat) (s : State) : Out :=
  let here := s.listedAt key
  let v := s.viewOfKey key
  let k := (fetched [] (here.map (fun x => x.req))).headD 0
  let a := storage v (keyLine key * 192 + 48 * k)
  let die := dieOfStorage a
  let part := ((s.partOfDie die).map (fun (x : Part) => x.id)).getD 0
  let s1 := if s.upsets.contains s.free then s.poisonSector part die 4 (s.chanAt die ((a - dieBase die) / 192)) a else s
  .next (((s1.l2Touch v (keyLine key) 0).runList key here.length).admitIngress (s.sliceOfKey key))

/-- `INVALIDATE_PROBE`: the core drops its tracked copy and acknowledges; a line it no longer holds is acknowledged at once (R367). -/
def execInvalidateProbe (core line : Nat) (s : State) : Out :=
  .next ((s.setCore core ((s.core core).dropLine line true)).sendMesh (corePort core line) (s.homePort (s.viewOfDie (core / 96)) line) 2 3
    (.invalidateAck core line))

/-- `INVALIDATE_ACK`: with the last acknowledgement the write is performed, or answered where an access that came later has had it performed, and
the requests behind it go on (R367). -/
def execInvalidateAck (core line : Nat) (s : State) : Out :=
  let key := homeKey (s.viewOfDie (core / 96)) line
  match s.listedAt key with
  | [] => .next s
  | x :: rest =>
    let left := x.acks.filter (fun c => decide (c ≠ core))
    if x.acks.isEmpty then .next s
    else if !left.isEmpty then .next (s.setListed key ({ x with acks := left } :: rest))
    else
      let s1 := s.setListed key rest
      let s2 := match x.ans with
        | some a => s1.homeReply x.req a
        | none => s1.performHome x.req
      .next ((s2.runList key rest.length).admitIngress (s.sliceOfKey key))

/-- `VAULT_REQUEST`: a vault controller applies requests in order, with a directory as an L2 slice's (R372). -/
def execVaultRequest (r : HomeReq) (s : State) : Out :=
  let key := s.keyOf r
  let here := s.listedAt key
  let s1 := s.setListed key (here ++ [{ req := r, acks := [] }])
  .next (if here.isEmpty then s1.runList key 1 else s1)

/-- Sends a core's request to the home of its line, as a request of the mesh with the priority of its queue (R438, R441). -/
def State.toHome (s : State) (r : HomeReq) : State :=
  let e : Ev := if isVaultLine (lineOf r) then .vaultRequest r else .l2Request r
  match s.remote.find? (fun x => x.tag = r.id) with
  | some x => s.sendMesh (corePort x.core (lineOf r)) (s.homePort (s.view r.part) (lineOf r)) 0 (bits (s.queue x.queue).ctl 62 61) e
  | none => s.post e

/-- `L1_WRITEBACK`: an L1 writes a line's dirty bytes back and leaves them clean; one whose write-back is pending already is left to that
(R245, R322, R365). -/
def execL1Writeback (core line : Nat) (s : State) : Out :=
  .next (if s.isHeld core line then s.post (.l1Writeback core line) else s.writeBackLine (s.viewOfDie (core / 96)) core line)

/-! ### Translation (R380 to R382) -/

/-- The view of a core, or of a unit of the package that translates under no core. -/
def State.viewOfCore (s : State) (core ctx : Nat) : View := if core < 384 then s.viewOfDie (core / 96) else s.viewOfDie (ctx / 16)

/-- Puts an entry into a core's TLB. -/
def State.coreTlbPut (s : State) (core : Nat) (e : TlbEntry) : State :=
  if 384 ≤ core ∨ (s.core core).tlb.contains e then s else s.setCore core { s.core core with tlb := (e :: (s.core core).tlb).take 128 }

/-- `TLB_MISS_REQUEST`: a miss reaches a second-level slice: a hit there answers it, else it joins a walk of the same page or enters the
walk queue, or waits while that is full (R380, R381). -/
def execTlbMissRequest (core ctx va : Nat) (s : State) : Out :=
  let die := (s.viewOfCore core ctx).sliceDie va
  let x := s.dieXlate die
  match tlbFind x.tlb ctx va with
  | some e => .next (s.coreTlbPut core e)
  | none =>
    let page := match s.walk (s.viewOfCore core ctx) ctx va with
      | .ok l => (l.va, l.size)
      | .error _ => (va / 4096 * 4096, 4096)
    if x.walks.any (fun w => decide (w.ctx = ctx ∧ page.1 ≤ w.va ∧ w.va < page.1 + page.2)) then .next s
    else if 256 ≤ (x.walks.filter (fun w => !w.started)).length then .next (s.post (.tlbMissRequest core ctx va))
    else
      let w : Walk := { wid := s.nextId, core := core, ctx := ctx, va := va, started := false, level := 4, table := 0 }
      .next (State.post ({ s with nextId := s.nextId + 1 }.setXlate die { x with walks := x.walks ++ [w] }) (.walkStart die))

/-- `WALK_START`: one of 48 walkers takes the next walk, from the context's root or the deepest table cached (R381). -/
def execWalkStart (die : Nat) (s : State) : Out :=
  let x := s.dieXlate die
  match x.walks.find? (fun w => !w.started) with
  | none => .next s
  | some w =>
    if 48 ≤ (x.walks.filter (fun w => w.started)).length then .next (s.postOnce (.walkStart die))
    else if !bit (s.ctxReg w.ctx 0) 0 then .next (s.setXlate die { x with walks := x.walks.filter (fun y => y.wid ≠ w.wid) })
    else
      let from' := (walkCached x.wcache w.ctx w.va).getD (4, bits (s.ctxReg w.ctx 0) 56 12 * 4096)
      let w1 := { w with started := true, level := from'.1, table := from'.2 }
      .next ((s.setXlate die { x with walks := x.walks.map (fun y => if y.wid = w.wid then w1 else y) }).post (.walkReadComplete die w.wid))

/-- `WALK_READ_COMPLETE`: an entry read at its home leads to the next table, to a leaf that the slice and the core take, or nowhere; an
entry that does not translate is held nowhere (R376, R381). -/
def execWalkReadComplete (die wid : Nat) (s : State) : Out :=
  let x := s.dieXlate die
  match x.walks.find? (fun w => w.wid = wid) with
  | none => .next s
  | some w =>
    let v := s.viewOfCore w.core w.ctx
    let rest := x.walks.filter (fun y => y.wid ≠ wid)
    let next := fun (t : State) => if rest.any (fun y => !y.started) then t.postOnce (.walkStart die) else t
    let here := regionOf v w.table
    let readable := decide (here ≠ .none) && (match here with
      | .host _ => false
      | _ => true)
    let a := w.table + 8 * bits w.va (20 + 9 * w.level) (12 + 9 * w.level)
    let s := if readable then (s.catchUp v (a / 192)).l2Touch v (a / 192) 0 else s
    match (if readable && v.admits w.table false then s.homeRead v a 8 else none) with
    | none => .next (next (s.setXlate die { x with walks := rest }))
    | some bs =>
      match readEntry s.peer w.level w.va (ofLeBytes bs) with
      | .bad _ => .next (next (s.setXlate die { x with walks := rest }))
      | .table t =>
        let e : WalkEntry := { ctx := w.ctx, level := w.level - 1, va := w.va / 2 ^ (12 + 9 * w.level), table := t }
        let w1 := { w with level := w.level - 1, table := t }
        .next ((s.setXlate die { x with wcache := (e :: x.wcache).take 256, walks := x.walks.map (fun y => if y.wid = wid then w1 else y) }).post
          (.walkReadComplete die wid))
      | .leaf l =>
        let e : TlbEntry := { ctx := w.ctx, va := l.va, size := l.size, leaf := l.encode }
        .next (next ((s.setXlate die { x with tlb := (e :: x.tlb).take 16384, walks := rest }).coreTlbPut w.core e))

/-- Drops what a request selects from every core TLB, slice and walk cache of a partition (R382). -/
def State.dropXlate (s : State) (p : Nat) (tlb : TlbEntry → Bool) (walk : WalkEntry → Bool) (wk : Walk → Bool) : State :=
  let v := s.view p
  let s1 := (v.cores.filter (fun c => (s.core c).tlb.any tlb)).foldl (fun (t : State) c =>
    t.setCore c { t.core c with tlb := (t.core c).tlb.filter (fun e => !tlb e) }) s
  v.dies.foldl (fun (t : State) d =>
    let x := t.dieXlate d
    t.setXlate d { tlb := x.tlb.filter (fun e => !tlb e), wcache := x.wcache.filter (fun e => !walk e), walks := x.walks.filter (fun w => !wk w) }) s1

/-- An invalidation drops its entries; its completion waits for the accesses begun before it (R382). Register offset 0x1010 holds the
model's boundary between those accesses and later ones. -/
def State.tlbi (s : State) (p : Nat) (tlb : TlbEntry → Bool) (walk : WalkEntry → Bool) (wk : Walk → Bool) : State :=
  ((s.dropXlate p tlb walk wk).setReg p 0x1010 s.nextId).postOnce (.tlbiComplete p)

/-- The context that TLBI_CTL names. -/
def State.tlbiCtx (s : State) (p : Nat) : Nat := bits (s.reg p 0x1000) 5 0

/-- `TLBI` of an address (Table 13-7). -/
def execTlbiAddress (part : Nat) (s : State) : Out :=
  let c := s.tlbiCtx part
  let va := bits (s.reg part 0x1008) 56 12 * 4096
  .next (s.tlbi part (fun e => decide (e.ctx = c ∧ e.va ≤ va ∧ va < e.va + e.size))
    (fun e => decide (e.ctx = c) && decide (e.va = va / 2 ^ (21 + 9 * e.level))) (fun w => decide (w.ctx = c)))

/-- `TLBI` of a context (Table 13-7). -/
def execTlbiContext (part : Nat) (s : State) : Out :=
  let c := s.tlbiCtx part
  .next (s.tlbi part (fun e => decide (e.ctx = c)) (fun e => decide (e.ctx = c)) (fun w => decide (w.ctx = c)))

/-- `TLBI` of every entry (Table 13-7). -/
def execTlbiAll (part : Nat) (s : State) : Out := .next (s.tlbi part (fun _ => true) (fun _ => true) (fun _ => true))

/-- An access begun before number `n` may be under way in the partition: of a group, or a read that has left it; a write that has left its store
buffer counts whenever it left it, as the store that it carries may have begun before (R382). -/
def State.olderAccess (s : State) (p n : Nat) : Bool :=
  (s.view p).cores.any (fun c => !(s.core c).wcb.isEmpty) ||
  s.remote.any (fun r => decide (r.part = p) && (r.writes || decide (r.tag < n))) ||
  (s.toStamp ++ s.net.stamped.map (fun x => x.w)).any (fun w => decide (s.partOfQueue w.queue = p)) ||
  s.groups.any (fun g => decide (g.part = p) &&
    (g.flights.any (fun f => decide (f.id < n) && (decide (f.kind = .writeback) || f.lanes.any (fun a => decide (a.space ≠ 2)))) || g.cmds.any (fun c => decide (c.id < n) && (match c.kind with
      | .mma _ => false
      | _ => true))))

/-- `TLBI_COMPLETE`: once every access that may have used an entry dropped has completed, GO reads 0 (R382). -/
def execTlbiComplete (part : Nat) (s : State) : Out :=
  if s.olderAccess part (s.reg part 0x1010) then .next (s.postOnce (.tlbiComplete part))
  else .next ((s.setReg part 0x1000 (setBits (s.reg part 0x1000) 63 63 0)).setReg part 0x1010 0)

/-! ### Replicated and diverged pages (R383, R384, R502) -/

/-- `REPLICA_STORE`: a store reaches the sequencer, which stamps it; while the page is held it waits (R383, R502). -/
def execReplicaStore (page : ReplPage) (off : Nat) (bytes : List Byte) (s : State) : Out :=
  let w : ReplStore := { page with off := off, bytes := bytes }
  let v := s.view (s.partOfQueue w.queue)
  if s.pageHeld v w.frame then .next (s.postFront (.replicaStore w)) else .next (s.stamp v w)

/-- The die applies none of a page's stamped writes any more. -/
def State.leaveStamps (s : State) (die frame : Nat) : State :=
  let off := fun (x : StampedWrite) => if x.w.frame = frame then { x with left := x.left.filter (fun d => decide (d ≠ die)) } else x
  { s with net := { s.net with stamped := (s.net.stamped.map off).filter (fun x => !x.left.isEmpty) } }

/-- A replica diverges: the lowest free entry of its die's table takes the page and system software hears of it; with the table full the
storing queue is torn down (R384, Table 18-3). -/
def State.diverge (s : State) (die frame queue : Nat) : State :=
  let s0 := s.leaveStamps die frame
  if s.divergedOn die frame then s0
  else
    match (natsFrom 0 64).find? (fun k => decide (bits (s.diverged die k) 63 62 = 0)) with
    | none => s0.teardown queue 6 die
    | some k =>
      (s0.setReg 32 (0x200 * die + 8 * k) (2 ^ 62 + frame)).event (s.partOfQueue queue)
        { typ := 0x08, action := 6, pos := ⟨die, 0, 0⟩, ukind := 6, unit := die, detail := k, addr := frame }

/-- No route leads from one die to another: every link on the way is lost (R384). -/
def State.cutOff (s : State) (d e : Nat) : Bool := decide (d ≠ e) && (s.nextDie d e).isNone

/-- `REPLICA_WRITE`: a replica applies the next stamped write of a page in stamp order, or cannot, for an uncorrectable error or a lost link,
and diverges (R383, R384). -/
def execReplicaWrite (die frame : Nat) (ok : Bool) (s : State) : Out :=
  match s.net.stamped.find? (fun x => decide (x.w.frame = frame) && x.left.contains die) with
  | none => .next s
  | some x =>
    let v := s.view (s.partOfQueue x.w.queue)
    if !ok || s.cutOff (v.sequencer frame x.w.size) die then .next (s.diverge die frame x.w.queue)
    else
      let s1 := s.applyAt v die x.w
      let y := { x with left := x.left.filter (fun d => decide (d ≠ die)) }
      .next { s1 with net := { s1.net with
        stamped := (s1.net.stamped.map (fun z => if z = x then y else z)).filter (fun z => !z.left.isEmpty) } }

/-- `DIVERGED_HOLD`: STATE 10 written to a diverged entry: the sequencer holds new stores (R502). -/
def execDivergedHold (die k : Nat) (s : State) : Out :=
  let v := s.diverged die k
  if bits v 63 62 = 1 then .next ((s.setReg 32 (0x200 * die + 8 * k) (setBits v 63 62 2)).postOnce (.holdComplete die k)) else .next s

/-- `HOLD_COMPLETE`: every stamped store is applied at the sequencer's replica, as it is stamped: HELD reads 1 (R502). -/
def execHoldComplete (die k : Nat) (s : State) : Out :=
  let v := s.diverged die k
  if bits v 63 62 = 2 then .next (s.setReg 32 (0x200 * die + 8 * k) (setBits v 61 61 1)) else .next s

/-- `DIVERGED_CLEAR`: STATE 00 written to a held entry frees it; the stores held are then stamped (R502). -/
def execDivergedClear (die k : Nat) (s : State) : Out :=
  if bits (s.diverged die k) 63 62 = 2 then .next (s.setReg 32 (0x200 * die + 8 * k) 0) else .next s

/-! ### Scrubbing (R492, R493) -/

/-- A corrected error of a unit is counted and, at a multiple of 2^CORRLOG2, reported (Table 18-6). -/
def State.corrected (s : State) (part die ukind unit : Nat) : State :=
  let key := (die * 16 + ukind) * 1024 + unit
  let n := nget (fun _ => 0) s.net.corrected key + 1
  let s1 := { s with net := { s.net with corrected := ninsert s.net.corrected key n } }
  if n % 2 ^ bits (s.reg part 0x5008) 53 48 = 0 then
    s1.event part { typ := 0x01, action := 0, pos := ⟨die, 0, 0⟩, ukind := ukind, unit := unit, detail := n % 0x100000000 }
  else s1

/-- `PATROL_SCRUB`: the scrubber reads a line of its die's HBM or vaults: what it finds wrong it corrects and rewrites, or poisons
(R492, R493). `line` is a storage line. Whether an error can be corrected is a free value. -/
def execPatrolScrub (die line : Nat) (s : State) : Out :=
  let part := ((s.partOfDie die).map (fun (x : Part) => x.id)).getD 0
  let vault := decide (0x18000000000 ≤ line * 192)
  let ukind := if vault then 3 else 4
  let unit := if vault then (line * 192 - 0x18000000000) / 0xC000000 % 8 else s.chanAt die (line - dieBase die / 192)
  if !s.upsets.contains s.free then .next s
  else if Config.chance s.free then .next (s.corrected part die ukind unit)
  else .next (s.poisonSector part die ukind unit (line * 192))

end Sys2Proof.Machine
end

