-- ==== Sys2Proof/Machine/Links.lean ====
section
/-! DEFINITION. Links between dies and Axsis ports as they train, degrade and fail, and peer traffic through the gateways
(R445 to R456, R482). -/
namespace Sys2Proof.Machine
open Sys2Proof

/-! ### Training, degradation and failure (R446 to R450, R452) -/

/-- The partition of a die, 0 where it has none. -/
def State.partIx (s : State) (d : Nat) : Nat := ((s.partOfDie d).map (fun (x : Part) => x.id)).getD 0

/-- Measurement 7 is retaken: the revisions of every link and the state of every IDE stream (R506). -/
def State.measure7 (s : State) : State :=
  let revs := (natsFrom 0 32).map (fun k => bits (s.linkStatus k) 15 8)
  let ide := (natsFrom 0 4).map (fun p => bits (s.reg (16 + p) 0x4000) 8 0)
  { s with trust := { s.trust with measured := ninsert s.trust.measured 7 (Config.digest ((revs ++ ide).foldl (fun (n : Nat) x => n * 512 + x) 0)) } }

/-- A link's status changes: its STATE, WIDTH and REV; the event of type 0x07 (Table 18-6). -/
def State.linkChange (s : State) (link state width rev : Nat) : State :=
  let v := setBits (setBits (setBits (s.linkStatus link) 2 0 state) 23 16 width) 15 8 rev
  (s.setLinkStatus link v).event (s.partIx (link / 8))
    { typ := 0x07, action := s.openAction, pos := ⟨link / 8, 0, 0⟩, ukind := 5, unit := link, detail := state + width * 256 }

/-- Counts a retraining (Table 16-3). -/
def State.countRetrain (s : State) (link : Nat) : State := s.setLinkStatus link (bumpStatus (s.linkStatus link) 32)

/-- The next hops of every packet are looked at again: its route may have changed. -/
def State.reroute (s : State) : State := s.net.packets.foldl (fun (t : State) p => if p.arrived then t else t.offerHops p.die p.router) s

/-- What waits at a gateway leaves as far as its flow's window allows (R455). -/
def State.axPump (s : State) (k : Nat) : State :=
  let go := ((s.axUnacked k).take 1024).filter (fun x => !x.left && s.portUp x.pkt.srcGw)
  let on := fun (x : SentPkt) => if go.contains x then { x with left := true, since := s.now (x.pkt.srcGw / 2) } else x
  { s with net := { s.net with axSent := s.net.axSent.map on, axOut := s.net.axOut ++ go.map (fun x => x.pkt) } }

/-- Every flow of a gateway sends what waits. -/
def State.axPumpPort (s : State) (gw : Nat) : State :=
  ((s.net.axSent.filter (fun x => decide (x.pkt.srcGw = gw))).map (fun x => axFlow gw x.pkt.dstPeer x.pkt.dstGw x.pkt.cls)).eraseDups.foldl
    (fun (t : State) k => t.axPump k) s

/-- The model's count of a link's successive failed trainings, beside its registers. -/
def failCount (link : Nat) : Nat := 0x40018 + 0x40 * link
/-- The width that a link trains at with every lane good: four modules of x64, one of x16 to the trust die, 8 Axsis lanes. -/
def fullWidth (link : Nat) : Nat := if link % 8 < 4 then (if link % 8 = link / 8 then 1 else 0xFF) else 8

/-- `LINK_TRAINING`: the link runs at the highest revision that both ends advertise; with none in common, or at the third training in
succession that fails, it is failed (R446, R449). -/
def execLinkTraining (link peerRevs : Nat) (ok : Bool) (s : State) : Out :=
  if 32 ≤ link ∨ 6 ≤ link % 8 then .next s
  else if !ok then
    let n := s.reg pkgRegs (failCount link) + 1
    let s1 := s.setReg pkgRegs (failCount link) n
    if n < 3 then
      .next ((s1.setLinkStatus link (setBits (setBits (s1.linkStatus link) 2 0 1) 23 8 0)).post (.linkTraining link peerRevs (Config.chance s.free)))
    else .next (s1.post (.linkFailed link))
  else
    let s1 := s.setReg pkgRegs (failCount link) 0
    let common := Config.linkRevs (link / 8) &&& peerRevs
    match ((natsFrom 0 8).filter (fun k => bit common k)).getLast? with
    | none => .next (s1.post (.linkFailed link))
    | some k =>
      let s2 := if s1.linkUp link then s1.countRetrain link else s1
      let s3 := (s2.linkChange link 2 (fullWidth link) (k + 1)).measure7
      .next (if link % 8 < 4 then s3.reroute else s3.axPumpPort (2 * (link / 8) + link % 8 - 4))

/-- A module of a link's end has retrained at a width. -/
def State.narrow (s : State) (link m width : Nat) : State :=
  let w := setBits (bits (s.linkStatus link) 23 16) (2 * m + 1) (2 * m) width
  let s1 := s.countRetrain link
  if w = 0 then s1.post (.linkFailed link) else s1.linkChange link 3 w (bits (s1.linkStatus link) 15 8)

/-- The other end of a link between dies. -/
def otherEnd (link : Nat) : Nat := 8 * (link % 8) + link / 8

/-- `MODULE_RETRAIN`: a module whose lanes fail runs, at both ends of its link, at the smaller width that its good lanes allow, or is off; with one up the
link is degraded, with none failed. A packet sent has been delivered, so that a replay finds none to deliver (R448, log entry 56). Widths: 0 off,
1 x16, 2 x32, 3 x64. -/
def execModuleRetrain (link m width : Nat) (s : State) : Out :=
  if 32 ≤ link ∨ 4 ≤ link % 8 ∨ 4 ≤ m ∨ !s.linkUp link ∨ bits (s.linkStatus link) (17 + 2 * m) (16 + 2 * m) ≤ width then .next s
  else
    let s1 := s.narrow link m width
    .next (if link % 8 ≠ link / 8 ∧ s1.linkUp (otherEnd link) then (s1.narrow (otherEnd link) m width).measure7 else s1.measure7)

/-- A die pair of a partition has no path (R450): both of its dies are unreachable. -/
def State.severed (s : State) (x : Part) : List Nat :=
  x.dies.filter (fun d => x.dies.any (fun e => decide (e ≠ d) && (s.nextDie d e).isNone))

/-- The queues of a partition with an unfinished command. -/
def State.busyQueues (s : State) (p : Nat) : List Nat :=
  (s.queuesOf p).filter (fun q => (s.queue q).cmds.any (fun c => !s.cmdOver c) || (s.queue q).head.isSome)

/-- A command of a queue has groups, homes, engine work or its lead die on a die: every command has homes on each die whose memory its partition's
hashed window takes in (R361, R450, log entry 55). -/
def State.worksOn (s : State) (q d : Nat) : Bool :=
  let v := s.view (s.partOfQueue q)
  decide (0 < v.lines) && v.dies.contains d || s.groups.any (fun g => decide (g.queue = q ∧ g.loc.die = d)) || decide (s.leadDie (s.partOfQueue q) = d)

/-- `LINK_FAILED`: the traffic takes its detour; where a pair of dies is left with no path, the queues of the partition with unfinished
commands are torn down (R449, R450). -/
def execLinkFailed (link : Nat) (s : State) : Out :=
  if 32 ≤ link ∨ 6 ≤ link % 8 then .next s
  else
    let d := link / 8
    let j := link % 8
    let s1 := (s.linkChange link 4 0 0).measure7
    if 4 ≤ j ∨ j = d then .next s1
    else
      let s2 := if bits (s1.linkStatus (8 * j + d)) 2 0 = 4 then s1 else s1.linkChange (8 * j + d) 4 0 0
      match s2.partOfDie d with
      | none => .next s2
      | some x =>
        match (if x.dies.contains j then s2.severed x else []) with
        | [] => .next s2.reroute
        | e :: es => .next (((s2.busyQueues x.id).filter (fun q => (e :: es).any (fun y => s2.worksOn q y))).foldl
            (fun (t : State) q => t.teardown q 4 e) s2.reroute)

/-- `AXSIS_FLIT_RETRY`: the flit is requested again; the link delivers it once, in order (R452). -/
def execAxsisFlitRetry (_port _flit : Nat) (s : State) : Out := .next s

/-- `AXSIS_PORT_RETRAIN`: gateway `port`'s link, which is up, retrains at 4 lanes, or 8, or fails (R452). -/
def execAxsisPortRetrain (port lanes : Nat) (s : State) : Out :=
  let link := 8 * (port / 2) + 4 + port % 2
  if 8 ≤ port ∨ !s.linkUp link then .next s
  else if lanes = 4 ∨ lanes = 8 then
    .next ((((s.countRetrain link).linkChange link (if lanes = 8 then 2 else 3) lanes (bits (s.linkStatus link) 15 8)).measure7).axPumpPort port)
  else .next ((s.linkChange link 4 0 0).measure7)

/-! ### Peer requests at this package (R454, R456, R482) -/

/-- Bytes from an address lie in memory that the partition owns. -/
def State.ownsBytes (s : State) (p a n : Nat) : Bool :=
  let v := s.view p
  [a, a + n - 1].all (fun b => match regionOf v b with
    | .hashed => true
    | .dieLocal d => v.dies.contains d
    | .vault k => v.dies.contains (k / 8)
    | _ => false)

/-- Replies to a peer's request: with bytes or an error. -/
def State.peerReply (s : State) (p : AxPkt) (typ : Nat) (ans : Except WhyNot (List Byte)) : State :=
  let r : AxPkt := { AxPkt.blank with
    typ := typ, srcGw := p.dstGw, dstPeer := p.srcPeer, dstGw := p.srcGw, cls := 1, addr := p.addr, tag := p.tag }
  match ans with
  | .ok bs => s.axSend { r with count := bs.length, data := bs }
  | .error why => if why = 0x21 then s.axSend { r with bad := true } else s.axSend { r with err := true, status := why }

/-- A home request of a gateway. -/
def peerReq (part a op len : Nat) (data : List Byte) (bad : Bool := false) : HomeReq :=
  { id := 0, addr := a, op := op, len := len, data := data, core := none, coherent := true, part := part, bad := bad }

/-- The bytes of a masked write, in runs from their offsets. -/
def maskedRuns (p : AxPkt) : List (Nat × List Byte) :=
  byteRuns (((natsFrom 0 p.data.length).zip p.data).filter (fun x => bit p.mask x.1))

/-- A peer's request is performed at the home across this package, or refused where its partition does not own the address. -/
def State.servePeer (s : State) (p : AxPkt) : State :=
  let part := s.partIx (p.dstGw / 2)
  let a := p.addr % 2 ^ 45
  let n := if p.typ = 1 then p.count else if p.typ = 3 then p.data.length else atomWidth (peerReq part a p.op 0 p.data)
  let reply := if p.typ = 1 then 2 else if p.typ = 3 then 4 else 6
  if p.addr / 2 ^ 45 ≠ s.peer ∨ !s.ownsBytes part a n then s.peerReply p reply (.error 6)
  else if p.typ = 3 then
    ((maskedRuns p).foldl (fun (t : State) x => (t.serveHome (peerReq part (a + x.1) 1 0 x.2 p.bad)).1) s).peerReply p reply (.ok [])
  else
    let x := s.serveHome (peerReq part a (if p.typ = 1 then 0 else p.op) p.count p.data)
    x.1.peerReply p reply x.2

/-- `AXSIS_READ` (R454). -/
def execAxsisRead (p : AxPkt) (s : State) : Out := s.axArrive p (.axsisRead p) (fun t => .next (t.servePeer { p with typ := 1 }))
/-- `AXSIS_WRITE`: the valid bytes of a line, applied in the flow's order (R456). -/
def execAxsisWrite (p : AxPkt) (s : State) : Out := s.axArrive p (.axsisWrite p) (fun t => .next (t.servePeer { p with typ := 3 }))
/-- `AXSIS_ATOMIC`: performed at the home (R454). -/
def execAxsisAtomic (p : AxPkt) (s : State) : Out := s.axArrive p (.axsisAtomic p) (fun t => .next (t.servePeer { p with typ := 5 }))

/-- What a reply says: bytes, a poison mark, or an error. -/
def replyOf (p : AxPkt) : Except WhyNot (List Byte) :=
  if p.bad then .error 0x21 else if p.err then .error 6 else .ok p.data

/-- `READ_REPLY` (R454). -/
def execReadReply (p : AxPkt) (s : State) : Out := s.axArrive p (.readReply p) (fun t => .next (t.answerRemote p.tag (replyOf p)))
/-- `WRITE_ACKNOWLEDGEMENT` (R454). -/
def execWriteAcknowledgement (p : AxPkt) (s : State) : Out :=
  s.axArrive p (.writeAcknowledgement p) (fun t => .next (t.answerRemote p.tag (replyOf p)))
/-- `ATOMIC_REPLY` (R454). -/
def execAtomicReply (p : AxPkt) (s : State) : Out := s.axArrive p (.atomicReply p) (fun t => .next (t.answerRemote p.tag (replyOf p)))

/-! ### Acknowledgement and resending (R455) -/

/-- A number of a flow lies before the next one expected, within the window. -/
def ackedBy (seq next : Nat) : Bool := let d := (next + 65536 - seq) % 65536; decide (0 < d ∧ d ≤ 1024)

/-- `FLOW_ACKNOWLEDGEMENT`: packets up to the number are done with, and those held back by the window leave (R455). -/
def execFlowAcknowledgement (p : AxPkt) (s : State) : Out :=
  if axReserved p then .next (s.axDiscard p.dstGw)
  else
  let k := axFlow p.dstGw p.srcPeer p.srcGw p.cls
  let mine := fun (x : SentPkt) => decide (axFlow x.pkt.srcGw x.pkt.dstPeer x.pkt.dstGw x.pkt.cls = k)
  let s1 := { s with net := { s.net with axSent := s.net.axSent.filter (fun x => !(mine x && x.left && ackedBy x.pkt.seq p.seq)) } }
  .next (s1.axPump k)

/-- A packet that no resend has brought there is undeliverable: a request is answered with an error, a contribution finds no path
(R454, R455, R466). -/
def State.undeliverable (s : State) (p : AxPkt) : State :=
  match p.typ with
  | 1 => s.answerRemote p.tag (.error 6)
  | 3 => s.answerRemote p.tag (.error 6)
  | 5 => s.answerRemote p.tag (.error 6)
  | 0x10 => s.noPath p
  | 0x11 => s.noPath p
  | _ => s

/-- A packet as it is sent again: a sealed one afresh under the current epoch (R469, R512). -/
def State.reseal (s : State) (p : AxPkt) : State × AxPkt :=
  match (if p.cls = 2 then s.jobOf p.jobTag else none) with
  | some j =>
    let h := j.holder ⟨s.peer, p.srcGw⟩
    let s1 := s.seal p.jobTag h
    (s1, { p with epoch := j.epoch, counter := s1.counterOf p.jobTag h })
  | none => (s, p)
/-- A packet's holder seals nothing more under this epoch: it is sent again under the next (R469). -/
def State.resealFull (s : State) (p : AxPkt) : Bool :=
  decide (p.cls = 2) && ((s.jobOf p.jobTag).any (fun j => s.sealFull p.jobTag (j.holder ⟨s.peer, p.srcGw⟩)))

/-- `AXSIS_RESEND_TIMEOUT`: a packet unacknowledged for 2^20 local cycles is sent again, four times; then it is undeliverable (R455).
`dst` holds the package, gateway and class. -/
def execAxsisResendTimeout (gw dst seq : Nat) (s : State) : Out :=
  let k := gw * 2 ^ 17 + dst
  match (s.axUnacked k).find? (fun x => x.pkt.seq = seq) with
  | none => .next s
  | some x =>
    let again := Ev.axsisResendTimeout gw dst seq
    if !x.left && s.portUp gw then .next ((s.axPump k).post again)
    else if s.now (gw / 2) < x.since + 0x100000 then .next (s.post again)
    else if 4 ≤ x.resends then
      .next (({ s with net := { s.net with axSent := s.net.axSent.filter (fun y => y ≠ x) } }).undeliverable x.pkt)
    else if s.resealFull x.pkt then .next (s.post again)
    else
      let y := s.reseal x.pkt
      let up := s.portUp gw
      let x1 : SentPkt := { x with pkt := y.2, since := s.now (gw / 2), resends := x.resends + 1, left := x.left || up }
      let s1 := y.1
      .next (State.post { s1 with net := { s1.net with
        axSent := s1.net.axSent.map (fun z => if z = x then x1 else z), axOut := if up then s1.net.axOut ++ [y.2] else s1.net.axOut } } again)

end Sys2Proof.Machine
end

