-- ==== Sys2Proof/Machine/Reset.lean ====
section
/-! DEFINITION. Partition reset, Function Level Reset, and the forming of the configured layout
(R474, R485 to R489, R503 to R505, R516, R517). -/
namespace Sys2Proof.Machine
open Sys2Proof

/-! ### Retired units and the layout (R474, R504, R505, R517) -/

/-- Ones among the low `n` bits. -/
def ones (n x : Nat) : Nat := ((natsFrom 0 n).filter (fun k => bit x k)).length
/-- A word of the retired-unit record of a die: offset 0 DEG_CORE0, 8 DEG_CORE1, 0x10 DEG_CHAN, 0x18 to 0x28 DEG_SLICE. -/
def Trust.deg (t : Trust) (d off : Nat) : Nat := nget (fun _ => 0) t.record (64 * d + off)
/-- Enabled HBM channels of a die by the record. -/
def Trust.channelsOf (t : Trust) (d : Nat) : Nat := 64 - ones 64 (t.deg d 0x10)

/-- Retirements of cores, clusters and L2 slices of a die take effect (R504). -/
def State.retireUnits (s : State) (d : Nat) : State :=
  ([0, 8, 0x18, 0x20, 0x28] : List Nat).foldl (fun (t : State) o =>
    t.setReg pkgRegs (0x7000 + 0x40 * d + o) (if o = 8 then s.trust.deg d o % 2 ^ 32 else s.trust.deg d o)) s

/-- Retirements of HBM channels of a die take effect, and the lines it backs are reported (R504, R505). -/
def State.retireChannels (s : State) (d : Nat) : State :=
  (s.setReg pkgRegs (0x7010 + 0x40 * d) (s.trust.deg d 0x10)).setReg pkgRegs (0x7030 + 0x40 * d) (linesOf (s.trust.channelsOf d))

/-- A partition of a list of dies. -/
def State.makePart (s : State) (id : Nat) (dies : List Nat) (state : Nat) : Part :=
  { id := id, dies := dies, state := state, channels := dies.map (fun d => 64 - ones 64 (s.reg pkgRegs (0x7010 + 0x40 * d))) }

/-- The partitions of a layout of 2^`lg` (R474). -/
def layoutDies : Nat → List (List Nat)
  | 0 => [[0, 1, 2, 3]]
  | 1 => [[0, 1], [2, 3]]
  | _ => [[0], [1], [2], [3]]

/-- FORMS the configured layout: every partition of it without a refused die (R516, R517). The ports of the dies left in reset present the
recovery function (R515). -/
def State.formLayout (s : State) : State :=
  let ds := (layoutDies s.trust.layout).filter (fun l => !l.any (fun d => s.trust.failed.contains d))
  let before := s.parts.flatMap (fun (x : Part) => x.dies)
  let parts := ds.map (fun l => s.makePart (l.headD 0 / l.length) l (if l.any (fun d => before.contains d) then 2 else 0))
  let out := (natsFrom 0 4).filter (fun d => !ds.any (fun l => l.contains d))
  { s with parts := parts, trust := { s.trust with
    forming := false, service := 2, recoveryPorts := out, released := s.trust.released.filter (fun d => ds.any (fun l => l.contains d)) } }

/-! ### The reset (Table 17-7) -/

/-- Instances of a partition. -/
def State.instsOf (s : State) (p : Nat) : List Inst := s.insts.filter (fun i => i.part = p)

/-- Step 3: what has not stopped is cancelled, and the records of unfinished instances are written with STATUS 4. -/
def State.cutAll (s : State) (x : Part) : State :=
  let open' := (s.instsOf x.id).filter (fun i => !i.finished || s.due.any (fun e => match e, i.parent with
    | .nodeFinish g n, some up => decide (g = up ∧ n = i.node)
    | _, _ => false))
  let ids := open'.map (fun (i : Inst) => i.id)
  let s1 := { s with insts := s.insts.map (fun (i : Inst) => if ids.contains i.id then i.cancel true else i) }
  let s2 := ids.foldl (fun (t : State) a => t.dropNodes a) s1
  let s3 := (s2.launches.filter (fun (l : Launch) => l.part = x.id)).foldl (fun (t : State) (l : Launch) =>
    x.dies.foldl (fun (u : State) d => u.cancelOnDie l.id d) t) s2
  let s4 := (s3.groups.filter (fun (g : Group) => g.part = x.id)).foldl (fun (t : State) (g : Group) => t.endGroup g.id 0x28) s3
  let s5 := (s4.cancelPosted ids)
  let s6 := ids.reverse.foldl (fun (t : State) a => t.tryFinish 8 a) s5
  ids.foldl (fun (t : State) a => match t.inst? a with
    | some i => (t.setInst { i with finished := true }).writeRecord { i with finished := true } 4
    | none => t) s6

/-- Step 4: requests of other partitions not performed here are answered with errors, those performed with their replies; this partition's own, not yet admitted elsewhere, are
discarded (R484, R487). -/
def State.cutRequests (s : State) (p : Nat) : State :=
  let mine := (s.net.admitted.filter (fun y => y.2.1 = p)).map (fun y => y.1)
  let arriving := s.due.filterMap (fun e => match e with
    | .xpartRequest importer exporter r => if exporter = p ∧ importer ≠ p then some r.id else none
    | _ => none)
  let keepDue := s.due.filter (fun e => match e with
    | .xpartRequest importer exporter _ => decide (importer ≠ p ∧ exporter ≠ p)
    | .l2Request r => !mine.contains r.id
    | .vaultRequest r => !mine.contains r.id
    | _ => true)
  let gone := s.due.filterMap (fun e => match e with
    | .xpartRequest importer _ r => if importer = p then some r.id else none
    | _ => none)
  let told := (s.listed.flatMap (fun y => y.2)).filterMap (fun (r : Listed) => match r.ans with
    | some a => if mine.contains r.req.id then some (r.req, a) else none
    | none => none)
  let s0 := told.foldl (fun (t : State) y => t.homeReply y.1 y.2) s
  let s1 := { s0 with
    due := keepDue
    listed := s0.listed.filterMap (fun y =>
      match y.2.filter (fun (r : Listed) => !mine.contains r.req.id) with
      | [] => none
      | l => some (y.1, l))
    ingress := s0.ingress.filterMap (fun y =>
      match y.2.filter (fun (r : HomeReq) => !mine.contains r.id) with
      | [] => none
      | l => some (y.1, l))
    remote := s0.remote.filter (fun r => !gone.contains r.tag)
    net := { s0.net with admitted := s0.net.admitted.filter (fun y => y.2.1 ≠ p) } }
  (mine ++ arriving).foldl (fun (t : State) tag => t.answerRemote tag (.error 8)) s1

/-- Step 5: caches are written back, or discarded with a new memory key (R486, R509). -/
def State.cutCaches (s : State) (x : Part) (scrub : Bool) : State :=
  let v := s.view x.id
  let s1 := if scrub then s else s.flushL1 v v.cores
  let s2 := v.cores.foldl (fun (t : State) c =>
    if (t.core c).l1.isEmpty ∧ (t.core c).plru.isEmpty then t else t.setCore c { t.core c with l1 := [], plru := [] }) s1
  let here := fun (key : Nat) => x.dies.contains (if key < 2 ^ 45 then dieOfStorage (key * 192) else key / 2 ^ 45 - 1)
  let s3 := { s2 with
    l2 := s2.l2.filter (fun y => !x.dies.contains (y.1 / 512 / 160)), dir := s2.dir.filter (fun y => !here y.1)
    listed := s2.listed.filter (fun y => !here y.1), ingress := s2.ingress.filter (fun y => !x.dies.contains (y.1 / 160)) }
  if scrub then
    { s3 with
      due := s3.due.filter (fun e => match e with
        | .replicaStore w => decide (s3.partOfQueue w.queue ≠ x.id)
        | _ => true)
      net := { s3.net with stamped := s3.net.stamped.filter (fun y => decide (s3.partOfQueue y.w.queue ≠ x.id)) }
      mem := s3.mem.filter (fun y => !x.dies.contains (dieOfStorage y.1))
      memKey := x.dies.foldl (fun (m : NMap Nat) d => nset (fun _ => 0) m d (nget (fun _ => 0) m d + 1)) s3.memKey
      trust := { s3.trust with draws := s3.trust.draws + 1 } }
  else s3

/-- Step 6: queues, contexts and windows are disabled, translations and job entries cleared; the partition's objects are gone. Quarantine
ends and retirements take effect (R503, R504). -/
def State.cutRegs (s : State) (x : Part) : State :=
  let v := s.view x.id
  let clear := fun (t : State) (part off bitNo : Nat) => t.setReg part off (setBits (t.reg part off) bitNo bitNo 0)
  let s1 := (x.dies.flatMap (fun d => natsFrom (64 * d) 64)).foldl (fun (t : State) q =>
    t.setQueue q { Queue.empty with base := (t.queue q).base, ctl := setBits (t.queue q).ctl 63 63 0, ridx := (t.queue q).ridx, prevW := (t.queue q).prevW }) s
  let s2 := (x.dies.flatMap (fun d => natsFrom (16 * d) 16)).foldl (fun (t : State) c => clear t 0 (0x10000 + 0x40 * c) 0) s1
  let s3 := x.dies.foldl (fun (t : State) d => (natsFrom 0 8).foldl (fun (u : State) k => clear u (16 + d) (0x2000 + 0x20 * k) 63) t) s2
  let s4 := (natsFrom 0 8).foldl (fun (t : State) k => clear t x.id (0x60000 + 0x40 * k) 63) s3
  let s5 := s4.dropXlate x.id (fun _ => true) (fun _ => true) (fun _ => true)
  let s6 := v.cores.foldl (fun (t : State) c =>
    let k := t.core c
    if k.quarantined || !k.errors.isEmpty || !k.icache.isEmpty then t.setCore c { k with quarantined := false, errors := [], icache := [] } else t) s5
  let s7 := x.dies.foldl (fun (t : State) d => (natsFrom (16 * d) 16).foldl (fun (u : State) c => u.setReg pkgRegs (0x50010 + 0x40 * c) 0)
    (t.retireUnits d)) s6
  { s7 with
    groups := s7.groups.filter (fun (g : Group) => g.part ≠ x.id)
    insts := s7.insts.filter (fun (i : Inst) => i.part ≠ x.id)
    launches := s7.launches.filter (fun (l : Launch) => l.part ≠ x.id)
    gangs := s7.gangs.filter (fun (g : Gang) => !x.dies.contains g.die)
    graphs := s7.graphs.filter (fun (g : Graph) => !x.dies.contains (g.ctx / 16))
    copies := s7.copies.filter (fun (c : CopyOp) => !x.dies.contains (c.ctx / 16))
    remote := s7.remote.filter (fun (r : RemoteReq) => r.part ≠ x.id)
    onlyLaunch := s7.onlyLaunch.filter (fun (y : Nat × Nat) => !x.dies.contains y.1)
    launchCount := s7.launchCount.filter (fun (y : Nat × Nat) => y.1 ≠ x.id)
    net := { s7.net with
      colls := s7.net.colls.filter (fun (w : WaitColl) => w.part ≠ x.id)
      jobs := s7.net.jobs.filter (fun (j : JobEntry) => !x.dies.contains (j.ctx / 16)) } }

def State.setPartState (s : State) (p st : Nat) : State :=
  { s with parts := s.parts.map (fun (y : Part) => if y.id = p then { y with state := st } else y) }

/-- Offsets of the model's own registers of a reset under way: bit 0 of the first SCRUB, bit 1 a WAIT of 0; the second the local cycle of
step 2 on the lead die. -/
def resetNote : Nat := 0x30
def resetSince : Nat := 0x38

/-- STARTS a reset of a partition, or merges with the one under way, which then scrubs if either asked for it (log entry 51): steps 1 and 2 of
Table 17-7 (R485, R486). -/
def State.startReset (s : State) (p : Nat) (scrub noWait : Bool) : State :=
  match s.part? p with
  | none => s
  | some x =>
    if x.state = 1 then (if scrub then s.setReg p resetNote (setBits (s.reg p resetNote) 0 0 1) else s)
    else
      let s1 := ((s.setPartState p 1).setReg p resetNote ((if scrub then 1 else 0) + (if noWait then 2 else 0))).setReg p resetSince (s.now (s.leadDie p))
      ((s1.groups.filter (fun (g : Group) => g.part = p)).foldl (fun (t : State) (g : Group) => t.post (.preemptRequest g.id true)) s1).post
        (.resetWaitExpiry p)

/-- The group has stopped: it has ended or is saved. -/
def Group.stopped (g : Group) : Bool := match g.phase with
  | .ended _ => true
  | .saved _ => true
  | _ => false

/-- FINISHES a reset: steps 3 to 6, then STATE reads 2; a partition held after a thermal trip stays in reset (R486, R521); the layout is
formed where BOOT.FULL asked for the reset (R516). -/
def State.finishReset (s : State) (x : Part) : State :=
  let scrub := bit (s.reg x.id resetNote) 0
  let s1 := ((((s.cutAll x).cutRequests x.id).cutCaches x scrub).cutRegs x)
  let trip := setBits (s1.reg x.id 0x8020) 2 2 (if s.trust.held.contains x.id then 1 else 0)
  let s2 := ((s1.setReg x.id resetNote 0).setReg x.id resetSince 0).setReg x.id 0x8020 trip
  if s.trust.held.contains x.id then s2
  else
    let s3 := s2.setPartState x.id 2
    if s.trust.forming then s3.formLayout else s3

/-- `PART_RESET`: GO without SCRUB (R486). -/
def execPartReset (part : Nat) (s : State) : Out := .next (s.startReset part false false)
/-- `PART_RESET` with SCRUB (R486). -/
def execPartResetScrub (part : Nat) (s : State) : Out := .next (s.startReset part true false)
/-- `FUNCTION_LEVEL_RESET` of a port: a reset of the partition that owns it, without scrub (R485). -/
def execFunctionLevelReset (die : Nat) (s : State) : Out :=
  match s.partOfDie die with
  | none => .next s
  | some x => .next (s.startReset x.id false false)

/-- `RESET_WAIT_EXPIRY`: once every group has stopped, or WAIT local cycles have passed, the reset goes on (R486). -/
def execResetWaitExpiry (part : Nat) (s : State) : Out :=
  match s.part? part with
  | none => .next s
  | some x =>
    if x.state ≠ 1 then .next s
    else
      let wait := if bit (s.reg part resetNote) 1 then 0 else bits (s.reg part 0x20) 31 0
      let quiet := (s.groups.filter (fun (g : Group) => g.part = part)).all Group.stopped
      if !quiet && decide (s.now (s.leadDie part) < s.reg part resetSince + wait) then .next (s.post (.resetWaitExpiry part))
      else .next (s.finishReset x)

end Sys2Proof.Machine
end

