-- ==== Sys2Proof/Machine/Trust.lean ====
section
/-! DEFINITION. The trust die: bring-up, the mailbox's job requests, the SPDM responder and IDE key management
(R446, R481, R506 to R517). Cryptography is held as numbers: a key is its number among those drawn. -/
namespace Sys2Proof.Machine
open Sys2Proof

/-! ### Images and measurements (R506) -/

/-- The image stored for a target: 0 to 3 a die, 4 the trust die. -/
def Trust.image? (t : Trust) (target : Nat) : Option FwImage := t.images.find? (fun x => x.target = target)
/-- An image is accepted: its signature verifies and its security version is not below the fuses' (R506). -/
def Trust.accepts (t : Trust) (x : FwImage) : Bool := x.signed && decide (nget (fun _ => 0) t.fuses x.target ≤ x.version)
/-- The image of a target is there and accepted. -/
def Trust.verifies (t : Trust) (target : Nat) : Bool := match t.image? target with
  | some x => t.accepts x
  | none => false
/-- Records a measurement (Table 19-1). -/
def State.measure (s : State) (index v : Nat) : State := { s with trust := { s.trust with measured := ninsert s.trust.measured index v } }
/-- Measurement 6: the layout and the retired-unit record. -/
def Trust.digest6 (t : Trust) : Nat :=
  Config.digest (t.record.foldl (fun (n : Nat) (x : Nat × Nat) => (n * 256 + x.1) * 2 ^ 64 + x.2) t.layout)

/-! ### Bring-up (R514 to R517, Table 19-4) -/

/-- No compute die runs: every port comes to present the recovery function (R515). -/
def State.recoverAll (s : State) : State :=
  (natsFrom 0 4).foldl (fun (t : State) d => t.post (.pciExpressPortTraining d)) { s with trust := { s.trust with recoveryPorts := natsFrom 0 4 } }

/-- `PACKAGE_POWER_ON`: everything is at reset but what the trust die keeps; staged images take their place; the trust die verifies and
measures its own, reads layout and record, draws the memory keys and begins with die 0; on its recovery image every compute die stays in
reset (R514, R504, R509). -/
def execPackagePowerOn (s : State) : Out :=
  let t := s.trust
  let stored := t.staged ++ t.images.filter (fun x => !t.staged.any (fun y => decide (y.target = x.target)))
  let keys := if t.draws = 0 then s.memKey else (natsFrom 0 4).foldl (fun (m : NMap Nat) d => nset (fun _ => 0) m d (nget (fun _ => 0) m d + 1)) s.memKey
  let t1 : Trust := { Trust.reset with
    layout := t.layout, record := t.record, images := stored, fuses := t.fuses, draws := t.draws + (layoutDies t.layout).length }
  let s1 : State := { State.reset with due := [], inputs := s.inputs, upsets := s.upsets, damage := s.damage, free := s.free, peer := s.peer, memKey := keys, trust := t1 }
  if !t1.verifies 4 then .next ({ s1 with trust := { t1 with recovery := true } }.recoverAll)
  else
    let s2 := (s1.measure 1 (((t1.image? 4).map (fun (x : FwImage) => x.digest)).getD 0)).measure 6 t1.digest6
    .next (((natsFrom 0 4).foldl (fun (u : State) d => (u.retireUnits d).retireChannels d) s2).post (.dieRelease 0))

/-- Both ends of the links between a die and the dies released before it, and its link to the trust die, begin to train (Table 19-4). -/
def State.trainLinks (s : State) (d : Nat) : State :=
  (s.trust.released.filter (fun e => decide (e ≠ d))).foldl (fun (t : State) e =>
    (t.post (.linkTraining (8 * d + e) (Config.linkRevs e) (Config.chance (s.free + e)))).post
      (.linkTraining (8 * e + d) (Config.linkRevs d) (Config.chance (s.free + e))))
    (s.post (.linkTraining (9 * d) (Config.linkRevs 4) (Config.chance (s.free + 4))))

/-- `DIE_RELEASE`: the die's image is measured and the die released, or its bit of FAILED is set. The first die released is the bring-up
die and runs as a partition of one die (R514, R515, Table 19-4). -/
def execDieRelease (die : Nat) (s : State) : Out :=
  let t := s.trust
  if 4 ≤ die ∨ t.released.contains die ∨ t.failed.contains die ∨ t.recovery then .next s
  else if !t.verifies die then
    let s1 := { s with trust := { t with failed := t.failed ++ [die] } }
    .next (if die < 3 then s1.post (.dieRelease (die + 1)) else if t.released.isEmpty then s1.recoverAll else s1)
  else
    let s1 := { s with trust := { t with released := t.released ++ [die] } }.measure (2 + die) (((t.image? die).map (fun (x : FwImage) => x.digest)).getD 0)
    let s2 := (s1.trainLinks die).post (.pciExpressPortTraining die)
    .next (if t.released.isEmpty then { s2 with parts := [s2.makePart die [die] 0] }
      else if die < 3 then s2.post (.dieRelease (die + 1)) else s2)

/-- `PCI_EXPRESS_PORT_TRAINING`: with the bring-up die's port trained the device enters reduced service and the remaining dies follow; a port
without a running die presents the recovery function (R515, Table 19-4). -/
def execPciExpressPortTraining (die : Nat) (s : State) : Out :=
  let t := s.trust
  if 4 ≤ die ∨ t.trained.contains die then .next s
  else
    let s1 := { s with trust := { t with trained := t.trained ++ [die] } }
    if t.service = 0 ∧ t.released.head? = some die then
      let s2 := { s1 with trust := { s1.trust with service := 1 } }
      .next (if die < 3 then s2.post (.dieRelease (die + 1)) else s2)
    else .next s1

/-- `FULL_SERVICE`: BOOT.FULL written: accepted in reduced service once every die not refused has left reset; a single-partition layout with
a refused die refuses it. The bring-up partition is reset, then the layout formed (R516, R517). -/
def execFullService (s : State) : Out :=
  let t := s.trust
  let all := (natsFrom 0 4).all (fun d => t.released.contains d || t.failed.contains d)
  if t.service ≠ 1 ∨ t.forming ∨ !all ∨ (t.layout = 0 ∧ !t.failed.isEmpty) then .next s
  else
    match t.released.head?.bind s.partOfDie with
    | none => .next s
    | some x => .next (({ s with trust := { t with forming := true } }).startReset x.id false false)

/-! ### Job requests (R511 to R513) -/

/-- The mailbox's register of a partition: 8 MB_CTL, 0x10 MB_STATUS. -/
def mbOff (o : Nat) : Nat := 0x9000 + o

/-- A mailbox request completes: GO reads 0, STATUS is set, and the response says `body`; its words, the status first, are written into the request's
buffer (R511). A request through the recovery function of port p names 20 + p in place of a partition. -/
def State.mailDone (s : State) (part cmd status : Nat) (body : List Nat) : State :=
  let s1 := (s.setReg part (mbOff 8) 0).setReg part (mbOff 0x10) status
  let s2 := s1.hostPost ((s.part? part).elim (part - 20) (fun x => x.dies.headD 0)) (bits (s.reg part (mbOff 0)) 63 12 * 4096) ((status :: body).flatMap (fun v => leBytes 8 v))
  { s2 with trust := { s2.trust with answers := s2.trust.answers ++ [{ port := part, code := 0x100 + cmd, body := status :: body }] } }

/-- Why a request about a context is turned away: 1 through a recovery function, which takes FW_STAGE alone (R515); 2 for a context that the
partition does not own (R511). -/
def State.mailBar (s : State) (part ctx : Nat) : Option Nat :=
  if (s.part? part).isNone then some 1 else if !s.ownsCtx part ctx then some 2 else none

/-- `JOB_KEY`: the switches are attested, the gateways and those that pass are keyed, the job entry is written with VALID 1; a job already keyed
has its lists replaced by a rekey; the response lists the switches refused (R508, R511, R512). -/
def execJobKey (part ctx : Nat) (tag : Nat) (gateways : List GwRef) (switches : List SwitchRef) (s : State) : Out :=
  match s.mailBar part ctx with
  | some st => .next (s.mailDone part 1 st [])
  | none =>
    if gateways.isEmpty ∨ 32768 < gateways.length then .next (s.mailDone part 1 1 [])
    else
      let ok := (switches.filter (fun x => x.chainOk && x.measured)).map (fun (x : SwitchRef) => x.id)
      let bad := (switches.filter (fun x => !(x.chainOk && x.measured))).map (fun (x : SwitchRef) => x.id)
      let epoch := match s.jobOf tag with
        | some j => (j.epoch + 1) % 256
        | none => 0
      let e : JobEntry := { ctx := ctx, part := part, tag := tag, valid := true, epoch := epoch, gateways := gateways, switches := ok, counters := [] }
      -- one entry per context; the job's other contexts have its new lists and key
      let others := (s.net.jobs.filter (fun (j : JobEntry) => decide (j.ctx ≠ ctx))).map (fun (j : JobEntry) =>
        if j.tag = tag then { j with epoch := epoch, gateways := gateways, switches := ok, counters := [] } else j)
      let s1 := { s with
        net := { s.net with jobs := others ++ [e] }
        trust := { s.trust with draws := s.trust.draws + 1 } }
      .next (s1.mailDone part 1 0 bad)

/-- `JOB_REKEY` (R512). -/
def execJobRekey (part ctx : Nat) (s : State) : Out :=
  match s.mailBar part ctx with
  | some st => .next (s.mailDone part 2 st [])
  | none =>
    match s.jobOfCtx ctx with
    | none => .next (s.mailDone part 2 1 [])
    | some j => .next ((s.rekey j.tag).mailDone part 2 0 [])

/-- `JOB_CLEAR`: the job's unfinished reductions are cancelled, then its entry is invalid (R513). -/
def execJobClear (part ctx : Nat) (s : State) : Out :=
  match s.mailBar part ctx with
  | some st => .next (s.mailDone part 3 st [])
  | none =>
    match s.jobOfCtx ctx with
    | none => .next (s.mailDone part 3 1 [])
    | some j =>
      let open' := (((s.net.roots.filter (fun (r : RootSlot) => r.job = j.tag)).map (fun (r : RootSlot) => r.ident)) ++
        ((s.net.colls.filter (fun (w : WaitColl) => w.job = j.tag)).map (fun (w : WaitColl) => w.cmd.ident))).eraseDups
      let s1 := open'.foldl (fun (t : State) i => t.cancelReduction j.tag i) s
      let s2 := { s1 with net := { s1.net with jobs := s1.net.jobs.map (fun (k : JobEntry) =>
        if k.ctx = ctx then { k with valid := false } else k) } }
      .next (s2.mailDone part 3 0 [])

/-- `FW_STAGE`: an image that verifies is stored for the next bring-up (R511, R515). -/
def execFwStage (part : Nat) (img : FwImage) (s : State) : Out :=
  if 4 < img.target ∨ !s.trust.accepts img then .next (s.mailDone part 4 1 [])
  else
    let t := s.trust
    .next ({ s with trust := { t with staged := t.staged.filter (fun (x : FwImage) => decide (x.target ≠ img.target)) ++ [img] } }.mailDone part 4 0 [])

/-! ### The SPDM responder (R507)

An answer's `code` is the model's number of the request: 1 GET_VERSION to 12 END_SESSION, 13 IDE_KM; 0 the error response. -/

/-- The trust die answers a request of a port whose function can reach it. -/
def State.answer (s : State) (port code : Nat) (body : List Nat) : State :=
  { s with trust := { s.trust with answers := s.trust.answers ++ [{ port := port, code := code, body := body }] } }
/-- Error responses: 1 SessionLimitExceeded, 2 a session that the port does not have. -/
def State.spdmError (s : State) (port why : Nat) : State := s.answer port 0 [why]
/-- The session of a port, its handshake finished where asked. -/
def State.session? (s : State) (port id : Nat) (done : Bool) : Option Session :=
  s.trust.sessions.find? (fun x => decide (x.port = port ∧ x.id = id) && (x.finished || !done))
/-- The Alias key by its number: derived from the DeviceID secret and measurements 1 to 6 (R506). -/
def State.aliasKey (s : State) : Nat :=
  Config.digest ((natsFrom 1 6).foldl (fun (n : Nat) k => n * 2 ^ 512 + nget (fun _ => 0) s.trust.measured k) 1)
/-- The DeviceID key by its number, the same at every bring-up. -/
def deviceKey : Nat := Config.digest 0

/-- `GET_VERSION`: 1.3. -/
def execGetVersion (port : Nat) (s : State) : Out := .next (s.answer port 1 [0x13])
/-- `GET_CAPABILITIES`: certificates, challenges, measurements, key exchange, encryption. -/
def execGetCapabilities (port : Nat) (s : State) : Out := .next (s.answer port 2 [])
/-- `NEGOTIATE_ALGORITHMS`: Falcon-1024 and SHAKE256, ECDHE over secp384r1, AES-256-GCM. -/
def execNegotiateAlgorithms (port : Nat) (s : State) : Out := .next (s.answer port 3 [])
/-- `GET_DIGESTS`: of the chain in slot 0. -/
def execGetDigests (port : Nat) (s : State) : Out := .next (s.answer port 4 [Config.digest (deviceKey * 2 ^ 512 + s.aliasKey)])
/-- `GET_CERTIFICATE`: the chain from DeviceID to Alias. -/
def execGetCertificate (port : Nat) (s : State) : Out := .next (s.answer port 5 [deviceKey, s.aliasKey])
/-- `CHALLENGE`: the nonce signed with the Alias key. -/
def execChallenge (port nonce : Nat) (s : State) : Out := .next (s.answer port 6 ([nonce, s.aliasKey] ++ s.trust.measured.map (fun y => y.2)))
/-- `GET_MEASUREMENTS`: the block asked for, absent where it is reserved or was not taken (Table 19-1). -/
def execGetMeasurements (port index : Nat) (s : State) : Out :=
  .next (s.answer port 7 (match nfind? s.trust.measured index with
    | some v => [index, v]
    | none => [index]))

/-- `KEY_EXCHANGE`: a new session, the fifth of a port refused. -/
def execKeyExchange (port : Nat) (s : State) : Out :=
  let t := s.trust
  if 4 ≤ (t.sessions.filter (fun x => decide (x.port = port))).length then .next (s.spdmError port 1)
  else
    let x : Session := { port := port, id := t.draws + 1, key := t.draws + 1, finished := false }
    .next ({ s with trust := { t with sessions := t.sessions ++ [x], draws := t.draws + 1 } }.answer port 8 [x.id])

/-- Changes a session. -/
def State.setSession (s : State) (x : Session) : State :=
  { s with trust := { s.trust with sessions := s.trust.sessions.map (fun y => if y.port = x.port ∧ y.id = x.id then x else y) } }

/-- `FINISH`. -/
def execFinish (port session : Nat) (s : State) : Out :=
  match s.session? port session false with
  | none => .next (s.spdmError port 2)
  | some x => .next ((s.setSession { x with finished := true }).answer port 9 [session])
/-- `KEY_UPDATE`: the session's key is replaced. -/
def execKeyUpdate (port session : Nat) (s : State) : Out :=
  match s.session? port session true with
  | none => .next (s.spdmError port 2)
  | some x =>
    let s1 := s.setSession { x with key := s.trust.draws + 1 }
    .next ({ s1 with trust := { s1.trust with draws := s1.trust.draws + 1 } }.answer port 10 [session])
/-- `HEARTBEAT`. -/
def execHeartbeat (port session : Nat) (s : State) : Out :=
  match s.session? port session true with
  | none => .next (s.spdmError port 2)
  | some _ => .next (s.answer port 11 [session])
/-- `END_SESSION`. -/
def execEndSession (port session : Nat) (s : State) : Out :=
  match s.session? port session true with
  | none => .next (s.spdmError port 2)
  | some _ =>
    .next ({ s with trust := { s.trust with sessions := s.trust.sessions.filter (fun y => !decide (y.port = port ∧ y.id = session)) } }.answer
      port 12 [session])

/-- `IDE_KM`: inside a session a stream of the port gets its key and is secure; the trust die may have the port accept protected requests
only, which is a free value; measurement 7 is retaken (R481, R506). -/
def execIdeKm (port session stream key : Nat) (s : State) : Out :=
  match s.session? port session true with
  | none => .next (s.spdmError port 2)
  | some _ =>
    if 8 ≤ stream then .next (s.spdmError port 2)
    else
      let t := s.trust
      let v := setBits (s.reg (16 + port) 0x4000) stream stream 1
      let s1 := { s with trust := { t with
        ideKeys := ninsert t.ideKeys (8 * port + stream) key, insecure := t.insecure.filter (fun x => decide (x ≠ 8 * port + stream)) } }
      .next (((s1.setReg (16 + port) 0x4000 (if Config.chance s.free then setBits v 8 8 1 else v)).measure7).answer port 13 [stream])

end Sys2Proof.Machine
end

