-- ==== Sys2Proof/Machine/Power.lean ====
section
/-! DEFINITION. Power and heat: the governor of a partition, its clock steps, throttling and the thermal trip (R518 to R522). -/
namespace Sys2Proof.Machine
open Sys2Proof

/-- A die's field of a register of steps. -/
def stepOf (v d : Nat) : Nat := bits v (8 * d + 4) (8 * d)
/-- Highest step allowed, and the current step, of a die (Table 19-5). -/
def State.maxStep (s : State) (p d : Nat) : Nat := stepOf (s.reg p 0x8008) d
def State.curStep (s : State) (p d : Nat) : Nat := stepOf (s.reg p 0x8010) d
/-- A die's step changes; no result does (R520). -/
def State.setStep (s : State) (p d v : Nat) : State := s.setReg p 0x8010 (setBits (s.reg p 0x8010) (8 * d + 4) (8 * d) v)
/-- The model's register of the dies that are thermally throttled, one bit per die. -/
def hotReg : Nat := 0x8028
def State.hot (s : State) (p d : Nat) : Bool := bit (s.reg p hotReg) d
/-- The cap of a partition in milliwatts (R519). -/
def State.capOf (s : State) (x : Part) : Nat :=
  let w := bits (s.reg x.id 0x8000) 15 0
  if w = 0 then 1950000 * x.dies.length / 4 else w * 1000

/-- `GOVERNOR_WINDOW`: a window ends with an average power: above the cap every die above step 0 drops one step, and with every die at 0 UNMET
is set; below 95 % every die below its MAX rises one, but a throttled one stays (R520, R521). -/
def execGovernorWindow (part milliwatts : Nat) (s : State) : Out :=
  match s.part? part with
  | none => .next s
  | some x =>
    let s1 := s.setReg part 0x8018 (milliwatts % 0x100000000)
    let cap := s.capOf x
    if cap < milliwatts then
      let unmet := x.dies.all (fun d => decide (s.curStep part d = 0))
      .next (x.dies.foldl (fun (t : State) d => t.setStep part d (t.curStep part d - 1))
        (s1.setReg part 0x8020 (setBits (s1.reg part 0x8020) 3 3 (if unmet then 1 else 0))))
    else
      let s2 := s1.setReg part 0x8020 (setBits (s1.reg part 0x8020) 3 3 0)
      if milliwatts * 100 < cap * 95 then
        .next (x.dies.foldl (fun (t : State) d =>
          if t.curStep part d < t.maxStep part d ∧ !t.hot part d then t.setStep part d (t.curStep part d + 1) else t) s2)
      else .next s2

/-- `PWR_LIMIT_WRITE`: MAX of each die of the partition, at most 20; a die above its MAX drops to it at once (R520). -/
def execPwrLimitWrite (part : Nat) (v : Dword) (s : State) : Out :=
  match s.part? part with
  | none => .next s
  | some x =>
    .next (x.dies.foldl (fun (t : State) d =>
      let m := min 20 (stepOf v.toNat d)
      let t1 := t.setReg part 0x8008 (setBits (t.reg part 0x8008) (8 * d + 4) (8 * d) m)
      if m < t1.curStep part d then t1.setStep part d m else t1) s)

/-- `THERMAL_THROTTLE`: at 100 °C the die drops to step 0 and HOT is set (R521). -/
def execThermalThrottle (die : Nat) (s : State) : Out :=
  match s.partOfDie die with
  | none => .next s
  | some x => .next ((s.setStep x.id die 0).setReg x.id hotReg (setBits (s.reg x.id hotReg) die die 1))

/-- `THERMAL_RECOVER`: below 95 °C HOT clears (R521). -/
def execThermalRecover (die : Nat) (s : State) : Out :=
  match s.partOfDie die with
  | none => .next s
  | some x => .next (s.setReg x.id hotReg (setBits (s.reg x.id hotReg) die die 0))

/-- `THERMAL_TRIP`: at 110 °C the die's partition is reset with a WAIT of 0 and held, TRIP is set, and an event of type 0x0D raised (R521). -/
def execThermalTrip (die : Nat) (s : State) : Out :=
  match s.partOfDie die with
  | none => .next s
  | some x =>
    let s1 := { s with trust := { s.trust with held := if s.trust.held.contains x.id then s.trust.held else s.trust.held ++ [x.id] } }
    let s2 := s1.setReg x.id 0x8020 (setBits (s1.reg x.id 0x8020) 2 2 1)
    let s3 := s2.event x.id { typ := 0x0D, action := s2.openAction, pos := ⟨die, 0, 0⟩, ukind := 6, unit := die, detail := die }
    let s4 := s3.startReset x.id false true
    .next (s4.setReg x.id resetNote (setBits (s4.reg x.id resetNote) 1 1 1))

/-- What PWR_STATUS reads as: UNMET and TRIP as stored, HOT and CAPPED as the dies are (Table 19-5). -/
def State.pwrStatus (s : State) (x : Part) : Nat :=
  let v := s.reg x.id 0x8020
  (if bit v 3 then 8 else 0) + (if bit v 2 then 4 else 0) + (if x.dies.any (fun d => s.hot x.id d) then 2 else 0) +
    (if x.dies.any (fun d => decide (s.curStep x.id d < s.maxStep x.id d)) then 1 else 0)

/-- The fields of the partition's own dies of a register of steps. -/
def ownSteps (x : Part) (v : Nat) : Nat := x.dies.foldl (fun (n : Nat) d => n + stepOf v d * 2 ^ (8 * d)) 0

end Sys2Proof.Machine
end

