-- ==== Sys2Proof/Machine/Host.lean ====
section
/-! DEFINITION. The control window and the PCI Express ports: registers as software reads and writes them, inbound requests, completions of
outbound ones, and cross-partition windows (R387, R388, R472 to R484, R501, R502, R504). -/
namespace Sys2Proof.Machine
open Sys2Proof

/-! ### Reading registers -/

/-- The bits from `lo` to `hi` set. -/
def maskOf (hi lo : Nat) : Nat := 2 ^ (hi + 1) - 2 ^ lo

/-- What PART_CAP reads as (Table 17-3, R476). -/
def State.partCap (s : State) (x : Part) : Nat :=
  let n := x.dies.length
  let deg := fun (d o : Nat) => s.reg pkgRegs (0x7000 + 0x40 * d + o)
  let total := fun (f : Nat → Nat) => (x.dies.map f).foldl (· + ·) 0
  let slices := 160 * n - total (fun d => ones 64 (deg d 0x18) + ones 64 (deg d 0x20) + ones 32 (deg d 0x28))
  let clusters := ((x.dies.flatMap (fun d => natsFrom (8 * d) 8)).filter (fun k => !s.vaultGone k)).length
  let cores := 96 * n - total (fun d => ((natsFrom 0 96).filter (fun k => s.retired d k)).length)
  Config.revision * 2 ^ 48 + x.channels.foldl (· + ·) 0 * 2 ^ 25 + slices * 2 ^ 15 + clusters * 2 ^ 9 + cores

/-- What PART_ID reads as. -/
def Part.idReg (x : Part) : Nat :=
  (if x.dies.length = 4 then 2 else if x.dies.length = 2 then 1 else 0) * 2 ^ 8 + (x.dies.foldl (fun n d => n + 2 ^ d) 0) * 2 ^ 4 + x.id

/-- What BOOT reads as (Table 19-2). -/
def Trust.bootReg (t : Trust) : Nat :=
  (t.failed.foldl (fun n d => n ||| 2 ^ d) 0) * 2 ^ 16 + (t.released.foldl (fun n d => n ||| 2 ^ d) 0) * 2 ^ 12 + t.service

/-- Cores `lo` to `lo + 31` or more of a die that are quarantined, one bit each (R504). -/
def State.quarantine (s : State) (d lo n : Nat) : Nat :=
  (natsFrom 0 n).foldl (fun m k => if (s.core (d * 96 + lo + k)).quarantined then m + 2 ^ k else m) 0

/-- A word of the mailbox registers held under a key: a partition, or 20 and the port of a recovery function. -/
def State.mbRead (s : State) (key o : Nat) : Nat :=
  match o with
  | 0 => s.reg key (mbOff 0)
  | 8 => s.reg key (mbOff 8)
  | 0x10 => s.reg key (mbOff 0x10)
  | 0x18 => s.trust.bootReg
  | _ => 0

/-- READS a register of a partition's control window at an offset that is a multiple of 8; offsets not assigned read 0 (R473). -/
def State.readReg (s : State) (x : Part) (port off : Nat) : Nat :=
  let p := x.id
  if off < 0x1000 then
    (match off with
     | 0 => x.idReg
     | 8 => s.partCap x
     | 0x18 => x.state
     | 0x20 => s.reg p 0x20
     | _ => 0)
  else if off < 0x2000 then (if off = 0x1000 ∨ off = 0x1008 then s.reg p off else 0)
  else if off < 0x3000 then (if off < 0x2100 ∧ off % 0x20 < 0x18 then s.reg (16 + port) off else 0)
  else if off < 0x5000 then (if off = 0x3000 ∨ off = 0x3008 ∨ off = 0x3010 ∨ off = 0x4000 then s.reg (16 + port) off else 0)
  else if off < 0x6000 then (if off < 0x5038 then s.reg p off else 0)
  else if off < 0x7000 then (if 0x6400 ≤ off ∧ off < 0x6C00 then s.reg 32 (off - 0x6400) else 0)
  else if off < 0x8000 then
    (if 0x7100 ≤ off then 0
     else
       let d := (off - 0x7000) / 0x40
       match (off - 0x7000) % 0x40 with
       | 8 => s.reg pkgRegs off + s.quarantine d 64 32 * 2 ^ 32
       | 0x38 => s.quarantine d 0 64
       | _ => s.reg pkgRegs off)
  else if off < 0x9000 then
    (match off with
     | 0x8000 => s.reg p off
     | 0x8008 => ownSteps x (s.reg p off)
     | 0x8010 => ownSteps x (s.reg p off)
     | 0x8018 => s.reg p off
     | 0x8020 => s.pwrStatus x
     | _ => 0)
  else if off < 0x10000 then s.mbRead p (off - 0x9000)
  else if off < 0x20000 then
    (let c := (off - 0x10000) / 0x40
     if c < 64 ∧ s.ownsCtx p c then s.reg 0 off else 0)
  else if off < 0x40000 then
    (let k := (off - 0x20000) / 0x40
     let q := s.queue k
     if 256 ≤ k ∨ !x.dies.contains (k / 64) then 0
     else match (off - 0x20000) % 0x40 with
       | 0 => q.base
       | 8 => q.ctl
       | 0x10 => q.reason * 2 ^ 8 + q.state
       | _ => 0)
  else if off < 0x50000 then
    (let k := (off - 0x40000) / 0x40
     if 32 ≤ k ∨ 6 ≤ k % 8 then 0
     else match (off - 0x40000) % 0x40 with
       | 0 => s.linkStatus k
       | 8 => s.reg pkgRegs off
       | 0x10 => Config.linkRevs (k / 8) % 256
       | _ => 0)
  else if off < 0x60000 then
    (let c := (off - 0x50000) / 0x40
     if 64 ≤ c ∨ !s.ownsCtx p c then 0
     else match s.net.jobs.find? (fun (j : JobEntry) => j.ctx = c), (off - 0x50000) % 0x40 with
       | some j, 0 => j.epoch * 2 ^ 40 + j.gateways.length * 2 ^ 24 + (if j.valid then 2 ^ 16 else 0) + j.tag
       | some j, 8 => j.switches.length
       | _, 0x10 => s.reg pkgRegs off
       | _, _ => 0)
  else if off < 0x60200 then (if off % 0x40 < 0x10 then s.reg p off else 0)
  else 0

/-! ### Writing registers -/

/-- The writable bits of a register that has no behaviour of its own; 0 of any other. -/
def plainMask (off : Nat) : Nat :=
  if 0x2000 ≤ off ∧ off < 0x2100 then
    (match off % 0x20 with
     | 0 => maskOf 63 61 + maskOf 13 8 + maskOf 5 0
     | 8 => maskOf 39 21
     | 0x10 => maskOf 56 21
     | _ => 0)
  else if 0x10000 ≤ off ∧ off < 0x11000 then
    (match off % 0x40 with
     | 0x08 => maskOf 31 0
     | 0x10 => 1
     | 0x18 => maskOf 56 2
     | 0x20 => maskOf 56 2
     | 0x28 => maskOf 63 61 + maskOf 56 6
     | 0x30 => maskOf 56 12
     | 0x38 => maskOf 63 32 + maskOf 23 0
     | _ => 0)
  else if 0x40000 ≤ off ∧ off < 0x40800 then (if off % 0x40 = 8 ∧ off / 0x40 % 8 < 6 then maskOf 15 0 else 0)
  else if 0x60000 ≤ off ∧ off < 0x60200 then (if off % 0x40 = 8 then maskOf 44 21 else 0)
  else
    match off with
    | 0x20 => maskOf 31 0
    | 0x1008 => maskOf 56 12
    | 0x3000 => maskOf 63 12
    | 0x3008 => maskOf 63 63 + maskOf 31 0
    | 0x5000 => maskOf 63 12
    | 0x5008 => maskOf 63 63 + maskOf 53 48 + maskOf 4 0
    | 0x5010 => maskOf 63 2
    | 0x5018 => maskOf 31 0
    | 0x9000 => maskOf 63 12
    | _ => 0

/-- The holder of a register in the model: a port's, the package's, or the partition's. -/
def regOwner (part port off : Nat) : Nat :=
  if 0x2000 ≤ off ∧ off < 0x5000 then 16 + port
  else if 0x40000 ≤ off ∧ off < 0x60000 then pkgRegs
  else part

/-- `CTX_ROOT_WRITE`: enabling a context clears its save-slot occupancy; disabling it makes later translations fault (R388, R433). -/
def execCtxRootWrite (ctx : Nat) (v : Dword) (s : State) : Out :=
  let n := v.toNat &&& (maskOf 56 12 + 1)
  let on := bit n 0 && !bit (s.ctxReg ctx 0) 0
  let s1 := s.setReg 0 (0x10000 + 0x40 * ctx) n
  .next (if on then { s1 with slots := s1.slots.filter (fun x => decide (x.ctx ≠ ctx)) } else s1)

/-- `EVT_RIDX` written: the pending state clears (R501). -/
def execEvtRidxWrite (part : Nat) (v : Dword) (s : State) : Out := .next ((s.setReg part 0x5020 v.toNat).setReg part 0x5038 0)

/-- TLBI_CTL written: GO starts what KIND names, ignored while GO reads 1 and for KIND 11 (Table 13-7). -/
def tlbiWrite (part n : Nat) (s : State) : Out :=
  if bit (s.reg part 0x1000) 63 then .next s
  else
    let f := n &&& (maskOf 9 8 + maskOf 5 0)
    let s1 := s.setReg part 0x1000 f
    if !bit n 63 ∨ bits n 9 8 = 3 then .next s1
    else
      let s2 := s1.setReg part 0x1000 (f + 2 ^ 63)
      match bits n 9 8 with
      | 0 => execTlbiAddress part s2
      | 1 => execTlbiContext part s2
      | _ => execTlbiAll part s2

/-- XWIN_CTL written: closing a window leaves BUSY set until what it admitted is performed (R484). -/
def xwinWrite (part k n : Nat) (s : State) : Out :=
  let off := 0x60000 + 0x40 * k
  let f := n &&& (maskOf 63 63 + maskOf 61 61 + maskOf 11 8 + maskOf 5 0)
  let busy := s.net.admitted.any (fun y => decide (y.2 = (part, k)))
  if !bit f 63 && busy then .next ((s.setReg part off (f + 2 ^ 62)).postOnce (.xwinDrained part k)) else .next (s.setReg part off f)

/-- Q_BASE written: ignored while the queue is enabled (R388). -/
def qBaseWrite (k n : Nat) (s : State) : Out :=
  .next (if bit (s.queue k).ctl 63 then s else s.setQueue k { s.queue k with base := n &&& maskOf 56 6 })

/-- PWR_CAP written: a value outside the partition's range is ignored, 0 selects the nominal share (R519). -/
def pwrCapWrite (x : Part) (n : Nat) (s : State) : Out :=
  let w := n % 2 ^ 16
  .next (if w = 0 ∨ 200 * x.dies.length ≤ w ∧ w ≤ 500 * x.dies.length then s.setReg x.id 0x8000 w else s)

/-- A write through a recovery function: the mailbox alone (R515). -/
def recoveryWrite (port off n : Nat) (s : State) : Out :=
  match off with
  | 0x9000 => .next (s.setReg (20 + port) (mbOff 0) (n &&& maskOf 63 12))
  | 0x9008 => .next (if bit n 0 then s.setReg (20 + port) (mbOff 8) 1 else s)
  | _ => .next s

/-- Some queue of context `c` is enabled: its save registers are not written then (R423). -/
def State.ctxQueued (s : State) (c : Nat) : Bool :=
  (List.range 256).any (fun k => bit (s.queue k).ctl 63 && decide (bits (s.queue k).ctl 53 48 = c))

/-- `REGISTER_WRITE`: a write of a control-window register through a port: the registers with a behaviour of their own show it, the others take
their writable bits, and offsets not assigned ignore it (R387, R473). -/
def execRegisterWrite (part port off : Nat) (v : Dword) (s : State) : Out :=
  let n := v.toNat
  match s.part? part with
  | none => recoveryWrite port off n s
  | some x =>
    if 0x10000 ≤ off ∧ off < 0x11000 then
      (let c := (off - 0x10000) / 0x40
       if !s.ownsCtx part c then .next s
       else if off % 0x40 = 0 then execCtxRootWrite c v s
       else if plainMask off = 0 then .next s
       else if 0x30 ≤ off % 0x40 ∧ s.ctxQueued c then .next s
       else .next (s.setReg 0 off (n &&& plainMask off)))
    else if 0x20000 ≤ off ∧ off < 0x24000 then
      (let k := (off - 0x20000) / 0x40
       if !x.dies.contains (k / 64) then .next s
       else match off % 0x40 with
         | 0 => qBaseWrite k n s
         | 8 => execQCtlWrite k v s
         | 0x18 => execQDoorbell k s
         | 0x20 => execQReset k v s
         | _ => .next s)
    else if 0x6400 ≤ off ∧ off < 0x6C00 ∧ off % 8 = 0 then
      (let d := (off - 0x6400) / 0x200
       let k := (off - 0x6400) % 0x200 / 8
       if !x.dies.contains d then .next s
       else match bits n 63 62 with
         | 2 => execDivergedHold d k s
         | 0 => execDivergedClear d k s
         | _ => .next s)
    else if 0x60000 ≤ off ∧ off < 0x60200 ∧ off % 0x40 = 0 then xwinWrite part ((off - 0x60000) / 0x40) n s
    else
      match off with
      | 0x10 => if !bit n 0 then .next s else if bit n 1 then execPartResetScrub part s else execPartReset part s
      | 0x1000 => tlbiWrite part n s
      | 0x5020 => execEvtRidxWrite part v s
      | 0x8000 => pwrCapWrite x n s
      | 0x8008 => execPwrLimitWrite part v s
      | 0x9008 => .next (if bit n 0 then s.setReg part (mbOff 8) 1 else s)
      | 0x9018 => if bit n 2 then execFullService s else .next s
      | _ => if plainMask off = 0 then .next s else .next (s.setReg (regOwner part port off) off (n &&& plainMask off))

/-! ### Inbound requests (R477, R478, R481) -/

/-- BAR offsets of a request as `Tlp.off` holds them: BAR2 from 0, BAR0 from 2^40, BAR4 from 2^41. -/
inductive BarPlace where
  | memory (o : Nat)
  | window (o : Nat)
  | doorbell (o : Nat)
  | nowhere
deriving DecidableEq, Repr

/-- Where a request goes. -/
def tlpPlace (t : Tlp) : BarPlace :=
  if t.off < 2 ^ 40 then .memory t.off
  else if t.off < 2 ^ 40 + 0x100000 then .window (t.off - 2 ^ 40)
  else if 2 ^ 41 ≤ t.off ∧ t.off < 2 ^ 41 + 0x10000 then .doorbell (t.off - 2 ^ 41)
  else .nowhere

/-- What IDE makes of a request. -/
inductive Gate where
  | pass | unmapped | discard
deriving DecidableEq, Repr

/-- IDE AT THE PORT: a TLP that fails its integrity check makes its stream insecure and is discarded, with every later one of the stream; a port
that requires protection handles a request that no secure stream protects as unmapped (R481). -/
def State.ideGate (s : State) (t : Tlp) : State × Gate :=
  let r := s.reg (16 + t.port) 0x4000
  let k := 8 * t.port + t.stream
  if t.secure && s.trust.insecure.contains k then (s, .discard)
  else if t.secure && !t.intact then
    let s1 := { s with trust := { s.trust with insecure := s.trust.insecure ++ [k] } }
    let s2 := (s1.setReg (16 + t.port) 0x4000 (setBits r t.stream t.stream 0)).measure7
    (s2.event (s2.partIx t.port) { typ := 0x0A, action := s2.openAction, pos := ⟨t.port, 0, 0⟩, ukind := 8, unit := t.port, detail := t.stream }, .discard)
  else if bit r 8 && !(t.secure && bit r t.stream) then (s, .unmapped)
  else (s, .pass)

/-- Counts a request refused (Table 17-5). -/
def State.refuseIn (s : State) (port : Nat) : State :=
  s.setReg (16 + port) 0x3010 (min (s.reg (16 + port) 0x3010 + 1) 0xFFFFFFFFFFFFFFFF)

/-- The window of a port that holds `n` bytes from BAR2 offset `o`: context, virtual address, its control word (R477). -/
def State.iwin (s : State) (port o n : Nat) : Option (Nat × Nat × Nat) :=
  (natsFrom 0 8).findSome? (fun k =>
    let r := fun (j : Nat) => s.reg (16 + port) (0x2000 + 0x20 * k + j)
    let lg := bits (r 0) 13 8
    if bit (r 0) 63 && decide (21 ≤ lg ∧ lg ≤ 40) && decide (r 8 ≤ o ∧ o + n ≤ r 8 + 2 ^ lg) then some (bits (r 0) 5 0, r 0x10 + (o - r 8), r 0)
    else none)

/-- An inbound request's bytes, translated; none where the request is unmapped, its direction is missing, its context is not the partition's, a
translation faults or the attribute forbids it, or the partition is under reset (R477, R478, R486). `write` asks for W and WRITE. -/
def State.inAddrs (s : State) (t : Tlp) (o n : Nat) (write : Bool) : Option (Part × List XByte) :=
  match s.partOfDie t.port, s.iwin t.port o n with
  | some x, some (ctx, va, ctl) =>
    if x.state = 1 ∨ !s.ownsCtx x.id ctx ∨ !(if write then bit ctl 62 else bit ctl 61) then none
    else (s.hwAddrs (s.view x.id) ctx (if write then 1 else 0) va n).map (fun l => (x, l))
  | _, _ => none

/-- An inbound read comes behind the requests listed at the homes of its bytes, and its lines are allocated there (R368, R371). -/
def State.settleHomes (s : State) (v : View) (bs : List XByte) : State :=
  ((bs.map (fun b => s.hwPlace v b / 192)).eraseDups).foldl (fun (t : State) line => (t.catchUp v line).l2Touch v line 0) s

/-- The owner under which the posted writes of a requester through a port stand, where no home has accepted them yet (R329). -/
def tlpOwner (t : Tlp) : Nat := 2 ^ 40 + t.port * 2 ^ 16 + t.requester

/-- A synchronising atomic on a replicated page: its sequencer's replica gives the old value and stamps the new one (R328, R383); none where
the value is uncorrectable. -/
def State.atomReplica (s : State) (v : View) (queue : Nat) (r : HomeReq) (size : Nat) : State × Option (List Byte) :=
  let frame := r.addr / size * size
  let a := dieBase (v.sequencer frame size) + r.addr
  match s.homeGet v a (atomWidth r) with
  | none => (s, none)
  | some old => (match homeNew r old with
    | some new => s.stamp v { frame := frame, size := size, off := r.addr % size, bytes := new, queue := queue, owner := 0, id := s.nextId }
    | none => (s.catchUp v (a / 192)).l2Touch v (a / 192) 0, some old)

/-- Sends a completion. -/
def State.completeIn (s : State) (t : Tlp) (status : Nat) (ep : Bool) (data : List Byte) : State :=
  { s with net := { s.net with completions := s.net.completions ++ [{ port := t.port, requester := t.requester, status := status, ep := ep, data := data }] } }

/-- The port presents the recovery function (R515). -/
def State.recovering (s : State) (port : Nat) : Bool := s.trust.recoveryPorts.contains port

/-- What a register of the window that a port maps reads as. -/
def State.windowRead (s : State) (port off : Nat) : Nat :=
  match (if s.recovering port then none else s.partOfDie port) with
  | some x => s.readReg x port off
  | none =>
    if off = 0 then 2 ^ (4 + port) + port
    else if off = 8 then Config.revision * 2 ^ 48
    else if 0x9000 ≤ off ∧ off < 0x9020 then s.mbRead (20 + port) (off - 0x9000)
    else 0

/-- An access to the control window is one aligned register or half of one (R473). -/
def windowShape (o n : Nat) : Bool := decide ((n = 8 ∧ o % 8 = 0) ∨ (n = 4 ∧ o % 4 = 0))

/-- A posted write to the control window; half a register keeps the other half. -/
def windowWrite (t : Tlp) (o : Nat) (s : State) : Out :=
  let n := t.data.length
  if !windowShape o n then .next s
  else
    let r := o / 8 * 8
    let old := s.windowRead t.port r
    let v := if n = 8 then ofLeBytes t.data else setBits old (8 * (o % 8) + 31) (8 * (o % 8)) (ofLeBytes t.data)
    match (if s.recovering t.port then none else s.partOfDie t.port) with
    | some x => execRegisterWrite x.id t.port r (BitVec.ofNat 64 v) s
    | none => recoveryWrite t.port r v s

/-- `INBOUND_POSTED_WRITE`: performed at the homes, one write to a line, behind the requester's earlier ones, or discarded and counted; a
register write; a doorbell (R307, R329, R472, R473, R478). -/
def execInboundPostedWrite (t : Tlp) (s : State) : Out :=
  let g := s.ideGate t
  let s1 := g.1
  match g.2 with
  | .discard => .next s1
  | .unmapped => .next (s1.refuseIn t.port)
  | .pass =>
    match tlpPlace t with
    | .memory o =>
      (match s1.inAddrs t o t.data.length true with
       | none => .next (s1.refuseIn t.port)
       | some (x, bs) =>
         if s1.unaccepted (tlpOwner t) then .next (s1.postFront (.inboundPostedWrite t))
         else .next (s1.homeWriteAll (s1.view x.id) (tlpOwner t) (bs.zip t.data)))
    | .window o => if s1.unaccepted (tlpOwner t) then .next (s1.postFront (.inboundPostedWrite t)) else windowWrite t o s1
    | .doorbell o =>
      if s1.unaccepted (tlpOwner t) then .next (s1.postFront (.inboundPostedWrite t)) else
      (match (if s1.recovering t.port then none else s1.partOfDie t.port) with
       | some x => if o % 0x40 = 0 ∧ o / 0x40 < 256 ∧ x.dies.contains (o / 0x40 / 64) then execQDoorbell (o / 0x40) s1 else .next s1
       | none => .next s1)
    | .nowhere => .next (s1.refuseIn t.port)

/-- `INBOUND_READ`: behind the requester's posted writes, completed with the bytes, the EP bit set for poisoned ones, or with Unsupported Request (R329, R473, R478, R493). -/
def execInboundRead (t : Tlp) (s : State) : Out :=
  let g := s.ideGate t
  let s1 := g.1
  match g.2 with
  | .discard => .next s1
  | .unmapped => .next (s1.completeIn t 1 false [])
  | .pass =>
    match tlpPlace t with
    | .memory o =>
      (match s1.inAddrs t o t.len false with
       | none => .next (s1.completeIn t 1 false [])
       | some (x, bs) =>
         let v := s1.view x.id
         let s2 := s1.settleHomes v bs
         let as := bs.map (fun b => storage v (s2.hwPlace v b))
         if s1.unaccepted (tlpOwner t) then .next (s1.postFront (.inboundRead t))
         else .next (s2.completeIn t 0 (as.any s2.poisoned) (as.map s2.byteAt)))
    | .window o =>
      if s1.unaccepted (tlpOwner t) then .next (s1.postFront (.inboundRead t))
      else if windowShape o t.len then
        .next (s1.completeIn t 0 false (leBytes t.len (s1.windowRead t.port (o / 8 * 8) / 2 ^ (8 * (o % 8)))))
      else .next (s1.completeIn t 1 false [])
    | .doorbell _ => .next (s1.completeIn t 0 false (leBytes t.len 0))
    | .nowhere => .next (s1.completeIn t 1 false [])

/-- The operation of an inbound AtomicOp as a home request names it. -/
def tlpOp (t : Tlp) : Nat := match t.op with
  | 0 => 2
  | 1 => 3
  | _ => 4

/-- `INBOUND_ATOMICOP`: a synchronising atomic at the home of a coherent page, on an aligned operand of 32 or 64 bits; of a replicated
page, at its sequencer; else Completer Abort (R383, R472, R478). -/
def execInboundAtomicop (t : Tlp) (s : State) : Out :=
  let g := s.ideGate t
  let s1 := g.1
  let n := if t.op = 2 then t.data.length / 2 else t.data.length
  match g.2 with
  | .discard => .next s1
  | .unmapped => .next (s1.completeIn t 2 false [])
  | .pass =>
    match tlpPlace t with
    | .memory o =>
      (match (if (n = 4 ∨ n = 8) ∧ o % n = 0 ∧ t.op ≤ 2 then s1.inAddrs t o n true else none) with
       | none => .next (s1.completeIn t 2 false [])
       | some (x, bs) =>
         let v := s1.view x.id
         let size := (bs.map (fun b => b.repl)).headD 0
         let pa := (bs.map (fun b => b.pa % 2 ^ 45)).headD 0
         let r : HomeReq := { id := 0, addr := pa, op := tlpOp t, len := n, data := t.data, core := none, coherent := true, part := x.id }
         if !bs.all (fun b => decide (b.share = 2)) then .next (s1.completeIn t 2 false [])
         else if s1.unaccepted (tlpOwner t) || (decide (size ≠ 0) && s1.pageHeld v (pa / size * size)) then .next (s1.postFront (.inboundAtomicop t))
         else
           let y := if size = 0 then (s1.catchUp v (lineOf r)).performAt v r else s1.atomReplica v (64 * v.dies.headD 0) r size
           match y.2 with
           | some old => .next (y.1.completeIn t 0 false old)
           | none => .next (y.1.completeIn t 0 true (List.replicate n 0)))
    | _ => .next (s1.completeIn t 1 false [])

/-! ### Outbound completions (R480) -/

/-- `HOST_READ_COMPLETION`: the data of a read or AtomicOp, or a status other than Successful Completion. -/
def execHostReadCompletion (tag : Nat) (ok : Bool) (data : List Byte) (s : State) : Out :=
  .next (s.answerRemote tag (if ok then .ok data else .error 7))

/-- The port whose completion timeout a request to the host waits on. -/
def hostPort (pa : Nat) : Nat := (pa % 2 ^ 45 - hostBase 0) / 0x30000000000

/-- `HOST_COMPLETION_TIMEOUT`: a request not completed within CTO local cycles of its issue (R480). -/
def execHostCompletionTimeout (tag : Nat) (s : State) : Out :=
  match s.remote.find? (fun r => r.tag = tag) with
  | none => .next s
  | some r =>
    let cto := bits (s.reg (16 + hostPort r.pa) 0x3008) 31 0
    if s.now (r.core / 96) < r.since + cto then .next (s.post (.hostCompletionTimeout tag)) else .next (s.answerRemote tag (.error 7))

/-! ### Cross-partition windows (R482 to R484) -/

/-- Bytes that a home request touches. -/
def homeSize (r : HomeReq) : Nat := if r.op = 0 then r.len else atomWidth r

/-- The window of an exporter that admits a request of an importer (R484). -/
def State.admits (s : State) (importer exporter : Nat) (r : HomeReq) : Option Nat :=
  if s.resetting exporter || !s.ownsBytes exporter r.addr (homeSize r) then none
  else (natsFrom 0 8).find? (fun k =>
    let w := s.xwinRange exporter k
    s.xwinOpen exporter k importer && decide (w.1 ≤ r.addr ∧ r.addr + homeSize r ≤ w.1 + w.2) &&
      (!homeWrites r || bit (s.reg exporter (0x60000 + 0x40 * k)) 61))

/-- A link joins a die of the importer with the home's die. -/
def State.linked (s : State) (importer : Nat) (r : HomeReq) : Bool :=
  match s.part? importer with
  | some x => x.dies.any (fun d => s.diesJoined d (dieOfStorage r.addr))
  | none => false

/-- `XPART_REQUEST`: the exporter's home admits the request of an importer that an open window covers, or answers it with an error (R484). -/
def execXpartRequest (importer exporter : Nat) (r : HomeReq) (s : State) : Out :=
  match (if s.linked importer r then s.admits importer exporter r else none) with
  | none => .next (s.answerRemote r.id (.error 8))
  | some k =>
    .next (({ s with net := { s.net with admitted := s.net.admitted ++ [(r.id, exporter, k)] } }).toHome { r with part := exporter, core := none, coherent := true })

/-- `XWIN_DRAINED`: with every request admitted performed, BUSY of a closed window reads 0 (R484). -/
def execXwinDrained (part k : Nat) (s : State) : Out :=
  let off := 0x60000 + 0x40 * k
  if bit (s.reg part off) 63 then .next s
  else if s.net.admitted.any (fun y => decide (y.2 = (part, k))) then .next (s.postOnce (.xwinDrained part k))
  else .next (s.setReg part off (setBits (s.reg part off) 62 62 0))

end Sys2Proof.Machine
end

