-- ==== Sys2Proof/Machine/Integer.lean ====
section
/-! DEFINITION. Integer, logical, bit-field, compare, move and address instructions (R143 to R161, Table 05-2). -/
namespace Sys2Proof.Machine
open Sys2Proof

/-- `IADD` (R144, R146). -/
def execIadd (f : Word0) (h : Word1) (s : State) : Out :=
  issueD (.iadd f h) s (fun x c l => intResult x.fl.h.typ x.fl.h.sat (addX (asInt x.fl.h.typ (x.a c l)) (asInt x.fl.h.typ (x.b c l))))

/-- `IADD` (R144, R146). With an immediate B. -/
def execIadd12 (f : Word0) (h : Word1) (w : Word) (s : State) : Out :=
  issueD (.iadd12 f h w) s (fun x c l => intResult x.fl.h.typ x.fl.h.sat (addX (asInt x.fl.h.typ (x.a c l)) (asInt x.fl.h.typ (x.b c l))))

/-- `ISUB` (R144, R146). -/
def execIsub (f : Word0) (h : Word1) (s : State) : Out :=
  issueD (.isub f h) s (fun x c l => intResult x.fl.h.typ x.fl.h.sat (subX (asInt x.fl.h.typ (x.a c l)) (asInt x.fl.h.typ (x.b c l))))

/-- `ISUB` (R144, R146). With an immediate B. -/
def execIsub12 (f : Word0) (h : Word1) (w : Word) (s : State) : Out :=
  issueD (.isub12 f h w) s (fun x c l => intResult x.fl.h.typ x.fl.h.sat (subX (asInt x.fl.h.typ (x.a c l)) (asInt x.fl.h.typ (x.b c l))))

/-- `IADDC` (R147). -/
def execIaddc (f : Word0) (h : Word1) (s : State) : Out :=
  issueCrew (.iaddc f h) s (fun x c =>
    let sum := fun l => x.a c l + x.b c l + (if npredAt c x.fl.h.c l then 1 else 0)
    x.eachCarry (x.eachD c (fun l => sum l % 2 ^ 32)) x.fl.h.sub.toNat (fun l => decide (2 ^ 32 ≤ sum l)))

/-- `IADDC` (R147). With an immediate B. -/
def execIaddc12 (f : Word0) (h : Word1) (w : Word) (s : State) : Out :=
  issueCrew (.iaddc12 f h w) s (fun x c =>
    let sum := fun l => x.a c l + x.b c l + (if npredAt c x.fl.h.c l then 1 else 0)
    x.eachCarry (x.eachD c (fun l => sum l % 2 ^ 32)) x.fl.h.sub.toNat (fun l => decide (2 ^ 32 ≤ sum l)))

/-- `ISUBC` (R147). -/
def execIsubc (f : Word0) (h : Word1) (s : State) : Out :=
  issueCrew (.isubc f h) s (fun x c =>
    let take := fun l => x.b c l + (if npredAt c x.fl.h.c l then 1 else 0)
    x.eachCarry (x.eachD c (fun l => (x.a c l + 2 ^ 33 - take l) % 2 ^ 32)) x.fl.h.sub.toNat (fun l => decide (x.a c l < take l)))

/-- `ISUBC` (R147). With an immediate B. -/
def execIsubc12 (f : Word0) (h : Word1) (w : Word) (s : State) : Out :=
  issueCrew (.isubc12 f h w) s (fun x c =>
    let take := fun l => x.b c l + (if npredAt c x.fl.h.c l then 1 else 0)
    x.eachCarry (x.eachD c (fun l => (x.a c l + 2 ^ 33 - take l) % 2 ^ 32)) x.fl.h.sub.toNat (fun l => decide (x.a c l < take l)))

/-- `INEG`, `s32` (R144). -/
def execIneg (f : Word0) (s : State) : Out :=
  issueD (.ineg f) s (fun x c l => intResult x.fl.h.typ x.fl.h.sat (negX (asInt x.fl.h.typ (x.a c l))))

/-- `INEG` (R144, R146). -/
def execIneg8 (f : Word0) (h : Word1) (s : State) : Out :=
  issueD (.ineg8 f h) s (fun x c l => intResult x.fl.h.typ x.fl.h.sat (negX (asInt x.fl.h.typ (x.a c l))))

/-- `IMUL` (R144). -/
def execImul (f : Word0) (h : Word1) (s : State) : Out :=
  issueD (.imul f h) s (fun x c l => intResult x.fl.h.typ x.fl.h.sat (mulX (asInt x.fl.h.typ (x.a c l)) (asInt x.fl.h.typ (x.b c l))))

/-- `IMUL` (R144). With an immediate B. -/
def execImul12 (f : Word0) (h : Word1) (w : Word) (s : State) : Out :=
  issueD (.imul12 f h w) s (fun x c l => intResult x.fl.h.typ x.fl.h.sat (mulX (asInt x.fl.h.typ (x.a c l)) (asInt x.fl.h.typ (x.b c l))))

/-- `IMULH` (R144). -/
def execImulh (f : Word0) (h : Word1) (s : State) : Out :=
  issueD (.imulh f h) s (fun x c l => intResult x.fl.h.typ x.fl.h.sat (mulHighX (tyBits x.fl.h.typ) (asInt x.fl.h.typ (x.a c l)) (asInt x.fl.h.typ (x.b c l))))

/-- `IMULH` (R144). With an immediate B. -/
def execImulh12 (f : Word0) (h : Word1) (w : Word) (s : State) : Out :=
  issueD (.imulh12 f h w) s (fun x c l => intResult x.fl.h.typ x.fl.h.sat (mulHighX (tyBits x.fl.h.typ) (asInt x.fl.h.typ (x.a c l)) (asInt x.fl.h.typ (x.b c l))))

/-- `IMAD` (R144). -/
def execImad (f : Word0) (h : Word1) (s : State) : Out :=
  issueD (.imad f h) s (fun x c l => intResult x.fl.h.typ x.fl.h.sat (addX (mulX (asInt x.fl.h.typ (x.a c l)) (asInt x.fl.h.typ (x.b c l))) (asInt x.fl.h.typ (x.c c l))))

/-- `IMAD` (R144). With an immediate B. -/
def execImad12 (f : Word0) (h : Word1) (w : Word) (s : State) : Out :=
  issueD (.imad12 f h w) s (fun x c l => intResult x.fl.h.typ x.fl.h.sat (addX (mulX (asInt x.fl.h.typ (x.a c l)) (asInt x.fl.h.typ (x.b c l))) (asInt x.fl.h.typ (x.c c l))))

/-- `IMADW`: the old D + 1 and the carry predicate join the sum (R148). -/
def execImadw (f : Word0) (h : Word1) (s : State) : Out :=
  issueCrew (.imadw f h) s (fun x c =>
    let sum := fun l => x.a c l * x.b c l + x.c c l + (x.reg1 c (x.fl.f.d.toNat + 1) false l).toNat
      + (if x.fl.h.sub ≠ 15 ∧ predAt c x.fl.h.sub.toNat l then 1 else 0)
    x.eachCarry (x.eachD c (fun l => sum l % 2 ^ 64)) x.fl.h.sub.toNat (fun l => decide (2 ^ 64 ≤ sum l)))

/-- `IMADW`: the old D + 1 and the carry predicate join the sum (R148). With an immediate B. -/
def execImadw12 (f : Word0) (h : Word1) (w : Word) (s : State) : Out :=
  issueCrew (.imadw12 f h w) s (fun x c =>
    let sum := fun l => x.a c l * x.b c l + x.c c l + (x.reg1 c (x.fl.f.d.toNat + 1) false l).toNat
      + (if x.fl.h.sub ≠ 15 ∧ predAt c x.fl.h.sub.toNat l then 1 else 0)
    x.eachCarry (x.eachD c (fun l => sum l % 2 ^ 64)) x.fl.h.sub.toNat (fun l => decide (2 ^ 64 ≤ sum l)))

/-- `IMIN` (R144). -/
def execImin (f : Word0) (h : Word1) (s : State) : Out :=
  issueD (.imin f h) s (fun x c l => intResult x.fl.h.typ x.fl.h.sat (minX (asInt x.fl.h.typ (x.a c l)) (asInt x.fl.h.typ (x.b c l))))

/-- `IMIN` (R144). With an immediate B. -/
def execImin12 (f : Word0) (h : Word1) (w : Word) (s : State) : Out :=
  issueD (.imin12 f h w) s (fun x c l => intResult x.fl.h.typ x.fl.h.sat (minX (asInt x.fl.h.typ (x.a c l)) (asInt x.fl.h.typ (x.b c l))))

/-- `IMAX` (R144). -/
def execImax (f : Word0) (h : Word1) (s : State) : Out :=
  issueD (.imax f h) s (fun x c l => intResult x.fl.h.typ x.fl.h.sat (maxX (asInt x.fl.h.typ (x.a c l)) (asInt x.fl.h.typ (x.b c l))))

/-- `IMAX` (R144). With an immediate B. -/
def execImax12 (f : Word0) (h : Word1) (w : Word) (s : State) : Out :=
  issueD (.imax12 f h w) s (fun x c l => intResult x.fl.h.typ x.fl.h.sat (maxX (asInt x.fl.h.typ (x.a c l)) (asInt x.fl.h.typ (x.b c l))))

/-- `IABS`, `s32` (R144). -/
def execIabs (f : Word0) (s : State) : Out :=
  issueD (.iabs f) s (fun x c l => intResult x.fl.h.typ x.fl.h.sat (absX (asInt x.fl.h.typ (x.a c l))))

/-- `IABS` (R144, R146). -/
def execIabs8 (f : Word0) (h : Word1) (s : State) : Out :=
  issueD (.iabs8 f h) s (fun x c l => intResult x.fl.h.typ x.fl.h.sat (absX (asInt x.fl.h.typ (x.a c l))))

/-- `IADIF` (R144, R146). -/
def execIadif (f : Word0) (h : Word1) (s : State) : Out :=
  issueD (.iadif f h) s (fun x c l => intResult x.fl.h.typ x.fl.h.sat (absDiffX (asInt x.fl.h.typ (x.a c l)) (asInt x.fl.h.typ (x.b c l))))

/-- `IADIF` (R144, R146). With an immediate B. -/
def execIadif12 (f : Word0) (h : Word1) (w : Word) (s : State) : Out :=
  issueD (.iadif12 f h w) s (fun x c l => intResult x.fl.h.typ x.fl.h.sat (absDiffX (asInt x.fl.h.typ (x.a c l)) (asInt x.fl.h.typ (x.b c l))))

/-- `SHL` (R149). -/
def execShl (f : Word0) (h : Word1) (s : State) : Out :=
  issueD (.shl f h) s (fun x c l => shlV (tyBits x.fl.h.typ) (x.a c l) (x.b c l % 2 ^ 32))

/-- `SHL` (R149). With an immediate B. -/
def execShl12 (f : Word0) (h : Word1) (w : Word) (s : State) : Out :=
  issueD (.shl12 f h w) s (fun x c l => shlV (tyBits x.fl.h.typ) (x.a c l) (x.b c l % 2 ^ 32))

/-- `SHR` (R149). -/
def execShr (f : Word0) (h : Word1) (s : State) : Out :=
  issueD (.shr f h) s (fun x c l => shrV (tyBits x.fl.h.typ) (x.a c l) (x.b c l % 2 ^ 32))

/-- `SHR` (R149). With an immediate B. -/
def execShr12 (f : Word0) (h : Word1) (w : Word) (s : State) : Out :=
  issueD (.shr12 f h w) s (fun x c l => shrV (tyBits x.fl.h.typ) (x.a c l) (x.b c l % 2 ^ 32))

/-- `SAR` (R149). -/
def execSar (f : Word0) (h : Word1) (s : State) : Out :=
  issueD (.sar f h) s (fun x c l => sarV (tyBits x.fl.h.typ) (x.a c l) (x.b c l % 2 ^ 32))

/-- `SAR` (R149). With an immediate B. -/
def execSar12 (f : Word0) (h : Word1) (w : Word) (s : State) : Out :=
  issueD (.sar12 f h w) s (fun x c l => sarV (tyBits x.fl.h.typ) (x.a c l) (x.b c l % 2 ^ 32))

/-- `DSH` (R150). -/
def execDsh (f : Word0) (h : Word1) (s : State) : Out :=
  issueD (.dsh f h) s (fun x c l => dshV (tySigned x.fl.h.typ) x.fl.h.sub.toNat (x.a c l) (x.b c l) (x.c c l))

/-- `DSH` (R150). With an immediate B. -/
def execDsh12 (f : Word0) (h : Word1) (w : Word) (s : State) : Out :=
  issueD (.dsh12 f h w) s (fun x c l => dshV (tySigned x.fl.h.typ) x.fl.h.sub.toNat (x.a c l) (x.b c l) (x.c c l))

/-- `ROT` (R149). -/
def execRot (f : Word0) (h : Word1) (s : State) : Out :=
  issueD (.rot f h) s (fun x c l => if x.fl.h.sub = 0 then rolV (tyBits x.fl.h.typ) (x.a c l) (x.b c l % 2 ^ 32) else rorV (tyBits x.fl.h.typ) (x.a c l) (x.b c l % 2 ^ 32))

/-- `ROT` (R149). With an immediate B. -/
def execRot12 (f : Word0) (h : Word1) (w : Word) (s : State) : Out :=
  issueD (.rot12 f h w) s (fun x c l => if x.fl.h.sub = 0 then rolV (tyBits x.fl.h.typ) (x.a c l) (x.b c l % 2 ^ 32) else rorV (tyBits x.fl.h.typ) (x.a c l) (x.b c l % 2 ^ 32))

/-- `LUT3` (R151). -/
def execLut3 (f : Word0) (h : Word1) (w : Word) (s : State) : Out :=
  issueD (.lut3 f h w) s (fun x c l => lut3V w.toNat (tyBits x.fl.h.typ) (x.a c l) (x.b c l) (x.c c l))

/-- `POPC`, `s32` (R152). -/
def execPopc (f : Word0) (s : State) : Out :=
  issueD (.popc f) s (fun x c l => popcV (tyBits x.fl.h.typ) (x.a c l))

/-- `POPC` (R152). -/
def execPopc8 (f : Word0) (h : Word1) (s : State) : Out :=
  issueD (.popc8 f h) s (fun x c l => popcV (tyBits x.fl.h.typ) (x.a c l))

/-- `CLZ`, `s32` (R152). -/
def execClz (f : Word0) (s : State) : Out :=
  issueD (.clz f) s (fun x c l => clzV (tyBits x.fl.h.typ) (x.a c l))

/-- `CLZ` (R152). -/
def execClz8 (f : Word0) (h : Word1) (s : State) : Out :=
  issueD (.clz8 f h) s (fun x c l => clzV (tyBits x.fl.h.typ) (x.a c l))

/-- `CTZ`, `s32` (R152). -/
def execCtz (f : Word0) (s : State) : Out :=
  issueD (.ctz f) s (fun x c l => ctzV (tyBits x.fl.h.typ) (x.a c l))

/-- `CTZ` (R152). -/
def execCtz8 (f : Word0) (h : Word1) (s : State) : Out :=
  issueD (.ctz8 f h) s (fun x c l => ctzV (tyBits x.fl.h.typ) (x.a c l))

/-- `BREV`, `s32` (R152). -/
def execBrev (f : Word0) (s : State) : Out :=
  issueD (.brev f) s (fun x c l => brevV (tyBits x.fl.h.typ) (x.a c l))

/-- `BREV` (R152). -/
def execBrev8 (f : Word0) (h : Word1) (s : State) : Out :=
  issueD (.brev8 f h) s (fun x c l => brevV (tyBits x.fl.h.typ) (x.a c l))

/-- `BFX` (R153). -/
def execBfx (f : Word0) (h : Word1) (s : State) : Out :=
  issueD (.bfx f h) s (fun x c l => bfxV (tySigned x.fl.h.typ) (x.a c l) (x.b c l))

/-- `BFX` (R153). With an immediate B. -/
def execBfx12 (f : Word0) (h : Word1) (w : Word) (s : State) : Out :=
  issueD (.bfx12 f h w) s (fun x c l => bfxV (tySigned x.fl.h.typ) (x.a c l) (x.b c l))

/-- `BFI` (R153). -/
def execBfi (f : Word0) (h : Word1) (s : State) : Out :=
  issueD (.bfi f h) s (fun x c l => bfiV (x.a c l) (x.b c l) (x.c c l))

/-- `BFI` (R153). With an immediate B. -/
def execBfi12 (f : Word0) (h : Word1) (w : Word) (s : State) : Out :=
  issueD (.bfi12 f h w) s (fun x c l => bfiV (x.a c l) (x.b c l) (x.c c l))

/-- `BSEL` (R154). -/
def execBsel (f : Word0) (h : Word1) (s : State) : Out :=
  issueD (.bsel f h) s (fun x c l => bselV (x.a c l) (x.b c l) (x.c c l))

/-- `BSEL` (R154). With an immediate B. -/
def execBsel12 (f : Word0) (h : Word1) (w : Word) (s : State) : Out :=
  issueD (.bsel12 f h w) s (fun x c l => bselV (x.a c l) (x.b c l) (x.c c l))

/-- `ISETP` (R155). -/
def execIsetp (f : Word0) (h : Word1) (s : State) : Out :=
  issueCrew (.isetp f h) s (fun x c =>
    x.eachP c x.fl.f.d.toNat (fun l => icmp x.fl.h.sub.toNat (asInt x.fl.h.typ (x.a c l)) (asInt x.fl.h.typ (x.b c l)) && npredAt c x.fl.h.c l))

/-- `ISETP` (R155). With an immediate B. -/
def execIsetp12 (f : Word0) (h : Word1) (w : Word) (s : State) : Out :=
  issueCrew (.isetp12 f h w) s (fun x c =>
    x.eachP c x.fl.f.d.toNat (fun l => icmp x.fl.h.sub.toNat (asInt x.fl.h.typ (x.a c l)) (asInt x.fl.h.typ (x.b c l)) && npredAt c x.fl.h.c l))

/-- `ISEL` (R155). -/
def execIsel (f : Word0) (h : Word1) (s : State) : Out :=
  issueD (.isel f h) s (fun x c l => if npredAt c x.fl.h.c l then x.a c l else x.b c l)

/-- `ISEL` (R155). With an immediate B. -/
def execIsel12 (f : Word0) (h : Word1) (w : Word) (s : State) : Out :=
  issueD (.isel12 f h w) s (fun x c l => if npredAt c x.fl.h.c l then x.a c l else x.b c l)

/-- `MOV`, `s32` (R156). -/
def execMov (f : Word0) (s : State) : Out :=
  issueD (.mov f) s (fun x c l => x.a c l)

/-- `MOV` (R156). -/
def execMov8 (f : Word0) (h : Word1) (s : State) : Out :=
  issueD (.mov8 f h) s (fun x c l => x.a c l)

/-- `MOVI` (R156). -/
def execMovi (f : Word0) (h : Word1) (w : Word) (s : State) : Out :=
  issueD (.movi f h w) s (fun x _ _ => immOperand x.fl.h.typ w)

/-- `PLOP` (R157). -/
def execPlop (f : Word0) (h : Word1) (w : Word) (s : State) : Out :=
  issueCrew (.plop f h w) s (fun x c =>
    x.eachP c x.fl.f.d.toNat (fun l => lutBit w.toNat (npredAt c x.fl.f.a l) (npredAt c x.fl.h.b l) (npredAt c x.fl.h.c l)))

/-- `P2V` (R158). -/
def execP2v (f : Word0) (s : State) : Out :=
  issueD (.p2v f) s (fun _ c l => (natsFrom 0 16).foldl (fun n k => n + (if predAt c k l then 2 ^ k else 0)) 0)

/-- `P2V` (R158). -/
def execP2v8 (f : Word0) (h : Word1) (s : State) : Out :=
  issueD (.p2v8 f h) s (fun _ c l => (natsFrom 0 16).foldl (fun n k => n + (if predAt c k l then 2 ^ k else 0)) 0)

/-- `V2P` (R158). -/
def execV2p (f : Word0) (h : Word1) (s : State) : Out :=
  issueCrew (.v2p f h) s (fun x c => x.each c (fun d l =>
    (natsFrom 0 15).foldl (fun e k => if bit (x.b c l) k then e.pset k l (bit (x.a c l) k) else e) d))

/-- `S2V` (R159). -/
def execS2v (f : Word0) (s : State) : Out :=
  issueD (.s2v f) s (fun x c l => x.a c l)

/-- `S2V` and `S2V.lin` (R159). -/
def execS2v8 (f : Word0) (h : Word1) (s : State) : Out :=
  issueD (.s2v8 f h) s (fun x c l => if x.fl.h.sub = 0 then x.a c l else (x.a c l + l * x.b c l) % 2 ^ 32)

/-- `V2S` (R160). -/
def execV2s (f : Word0) (h : Word1) (s : State) : Out :=
  issueCrew (.v2s f h) s (fun x c =>
    if x.act = 0 then c else
      c.sset x.fl.f.d.toNat (c.vget x.fl.f.a.toNat (if x.fl.h.sub = 0 then lowest x.act else x.b c 0 % 32)))

/-- `LEA` (R161). -/
def execLea (f : Word0) (h : Word1) (s : State) : Out :=
  issueD (.lea f h) s (fun x c l => leaV (tySigned x.fl.h.typ) x.fl.h.sub.toNat (x.a c l) (x.b c l))

/-- `LEA` (R161). With an immediate B. -/
def execLea12 (f : Word0) (h : Word1) (w : Word) (s : State) : Out :=
  issueD (.lea12 f h w) s (fun x c l => leaV (tySigned x.fl.h.typ) x.fl.h.sub.toNat (x.a c l) (x.b c l))

end Sys2Proof.Machine
end

