-- ==== Sys2Proof/Machine/Pair.lean ====
section
/-! DEFINITION. Pair words: two pairable operations that issue as one instruction (R99 to R102, Table 03-7). -/
namespace Sys2Proof.Machine
open Sys2Proof

/-- The result of a pairable form (Table 03-7). -/
def pairV (psub a b : Nat) : Nat :=
  let i : BitVec 5 := 6
  let sa := readInt true 32 a
  let sb := readInt true 32 b
  match psub with
  | 0x00 => intResult i false (addX sa sb)
  | 0x01 => intResult i false (subX sa sb)
  | 0x02 => intResult i false (mulX sa sb)
  | 0x03 => wrapInt 32 (mulHighX 32 sa sb)
  | 0x04 => wrapInt 32 (mulHighX 32 a b)
  | 0x05 => wrapInt 32 (minX sa sb)
  | 0x06 => min a b
  | 0x07 => wrapInt 32 (maxX sa sb)
  | 0x08 => max a b
  | 0x09 => intResult i false (absDiffX sa sb)
  | 0x0A => wrapInt 32 (absDiffX a b)
  | 0x0B => lut3V 0x88 32 a b 0
  | 0x0C => lut3V 0xEE 32 a b 0
  | 0x0D => lut3V 0x66 32 a b 0
  | 0x0E => lut3V 0x22 32 a b 0
  | 0x0F => shlV 32 a b
  | 0x10 => shrV 32 a b
  | 0x11 => sarV 32 a b
  | 0x12 => rolV 32 a b
  | 0x13 => a
  | 0x14 => intResult i false (negX sa)
  | 0x15 => intResult i false (absX sa)
  | 0x16 => popcV 32 a
  | 0x17 => clzV 32 a
  | 0x18 => ctzV 32 a
  | 0x19 => brevV 32 a
  | 0x20 => faddV fp32F fctlRne false a b
  | 0x21 => faddV fp32F fctlRne true a b
  | 0x22 => fmulV fp32F fctlRne a b
  | 0x23 => fselV fp32F fctlRne false false a b
  | 0x24 => fselV fp32F fctlRne true false a b
  | 0x25 => fselV fp32F fctlRne false true a b
  | 0x26 => fselV fp32F fctlRne true true a b
  | 0x27 => packed2 (fun u v _ => faddV fp16F fctlRne false u v) a b 0
  | 0x28 => packed2 (fun u v _ => faddV bf16F fctlRne false u v) a b 0
  | 0x29 => packed2 (fun u v _ => fmulV fp16F fctlRne u v) a b 0
  | 0x2A => packed2 (fun u v _ => fmulV bf16F fctlRne u v) a b 0
  | 0x2B => fscaleV fctlRne a b
  | 0x2C => icvtfV 6 fp32F fctlRne a
  | 0x2D => fcvtiV fp32F 6 fctlRne a
  | _ => sfu (0x58 + psub) 0 false false a

/-- The result of a slot in lane `l`, from the crew before either slot writes (R101). -/
def slotResult (p : PairSlot) (c : Crew) (l : Nat) : Word :=
  let one := match pairForm p.psub.toNat with
    | some (_, 1) => true
    | _ => false
  let a := if one && p.f then c.sget p.a.toNat else c.vget p.a.toNat l
  let b := if p.f then c.sget p.b.toNat else c.vget p.b.toNat l
  BitVec.ofNat 32 (pairV p.psub.toNat a.toNat (if one then 0 else b.toNat))

/-- A pair word (R101): every source of both slots is read, then both destinations are written. -/
def execPairWord (s0 s1 : PairSlot) (s : State) : Out :=
  issueCrew (.pairWord s0 s1) s (fun x c =>
    x.each c (fun d l => (d.vset s0.d.toNat l (slotResult s0 c l)).vset s1.d.toNat l (slotResult s1 c l)))

end Sys2Proof.Machine
end

