-- ==== Sys2Proof/Machine/Pointer.lean ====
section
/-! DEFINITION. The pointer instructions, the range instructions `RWB`, `RINV` and `ICINV`, and the completions of their
write-backs (R235 to R246, R305). -/
namespace Sys2Proof.Machine
open Sys2Proof

/-! ### The physical ranges of a pointer -/

/-- The leaves of a table at `level` that map any byte of [lo, hi); what does not translate maps none. -/
def State.leavesFrom (s : State) (v : View) (lo hi : Nat) : Nat → Nat → Nat → Nat → List Leaf
  | 0, _, _, _ => []
  | fuel + 1, level, table, base =>
    let span := 2 ^ (12 + 9 * level)
    let first := (lo - base) / span
    let last := min 511 ((hi - 1 - base) / span)
    match regionOf v table with
    | .hashed | .dieLocal _ | .vault _ =>
      (natsFrom first (last + 1 - first)).flatMap (fun i =>
        match s.homeGet v (table + 8 * i) 8 with
        | none => []
        | some bs =>
          match readEntry s.peer level (max lo (base + i * span)) (ofLeBytes bs) with
          | .bad _ => []
          | .table t => s.leavesFrom v lo hi fuel (level - 1) t (base + i * span)
          | .leaf l => [l])
    | _ => []

/-- The physical pieces (first byte, length) of the virtual range [lo, hi) of a context; of a replicated page those of every replica. -/
def State.pieces (s : State) (v : View) (ctx lo hi : Nat) : List (Nat × Nat) :=
  if hi ≤ lo ∨ !bit (s.ctxReg ctx 0) 0 then []
  else
    let ls := s.leavesFrom v lo hi 5 4 (bits (s.ctxReg ctx 0) 56 12 * 4096) 0
    ls.flatMap (fun l =>
      let a := max lo l.va
      let b := min hi (l.va + l.size)
      if b ≤ a then []
      else if l.repl then v.dies.map (fun d => (s.peer * 2 ^ 45 + dieBase d + l.frame % 2 ^ 45 + (a - l.va), b - a))
      else [(l.frame + (a - l.va), b - a)])

/-- The physical pieces of a pointer's range; the scratchpad has none. -/
def ptrPieces (s : State) (g : Group) (p : Ptr) : List (Nat × Nat) :=
  if p.space = 2 ∨ p.len = 0 then []
  else
    let lo := p.base + if p.space = 5 then g.param else 0
    s.pieces (s.viewOf g) g.ctx lo (lo + p.len)

/-- Lines that a core's L1 holds within the pieces, by their keys there. -/
def State.heldLines (s : State) (core : Nat) (ps : List (Nat × Nat)) : List Nat :=
  ((s.core core).l1.filter (fun (x : Nat × L1Line) => meets ps (s.l1Addr x.1))).map (fun (x : Nat × L1Line) => x.1)

/-- Those of them with dirty bytes. -/
def State.dirtyLines (s : State) (core : Nat) (ps : List (Nat × Nat)) : List Nat :=
  (s.heldLines core ps).filter (fun l => match nfind? (s.core core).l1 l with
    | some y => decide (y.dirty ≠ 0)
    | none => false)

/-- Why a range instruction does not issue now: the order of its threads' accesses (R318), a line of the range, or of the buffer that it
commits, whose write-back is pending (R245), or the transaction table, whose entries its write-backs, commits and the `drains` of its core's
write-combining buffer take (R230). -/
def rangeWaits (s : State) (g : Group) (x : Ctx) (ps : List (Nat × Nat)) (commits : Bool) (drains : Nat) : Option Stall :=
  let c := g.loc.flat
  let n := (s.dirtyLines c ps).length + (if commits then g.bsb.length else 0) + drains
  if mustWait g x true [] || (commits && s.commitHeld g) || (s.heldLines c ps).any (s.isHeld c) then some .other
  else if decide (n ≠ 0) && !s.ottFree c x.gid x.unit false n then some (.ott false n)
  else none

/-- A write-back of lines of the issuer's L1 begins: `st` rises; the lines with dirty bytes are held until it is accepted,
and clean lines that are to be invalidated go at once, with what is on its way to them (R323). `aux` bit 0: invalidate; bit 1: wait for the core's remote
writes. -/
def State.beginWriteback (s : State) (i : Instr) (x : Ctx) (g : Group) (ps : List (Nat × Nat)) (drop drain : Bool) : State :=
  let c := g.loc.flat
  let dirty := s.dirtyLines c ps
  let s1 := (if drop then ((s.heldLines c ps).filter (fun l => !dirty.contains l)).foldl (fun t l => t.setCore c ((t.core c).dropLine l false))
    (s.staleFills (fun r => decide (r.core = c) && meets ps (lineStart r.pa))) else s).ottTake c x.gid x.unit
  let f := { newFlight i x s1.nextId .writeback [] with
    ranges := dirty.map (fun l => (s.l1Addr l, 192)), aux := (if drop then 1 else 0) + (if drain then 2 else 0), entries := dirty.length }
  s1.launchFlight x.gid f 1 (.writebackAccepted x.gid f.id)

/-- Writes the lines of a flight's ranges back, and drops them where it invalidates. -/
def State.doWriteback (s : State) (g : Group) (f : Flight) (drop : Bool) : State :=
  f.ranges.foldl (fun t r =>
    let l := s.l1Key r.1
    if drop then t.evictLine (t.viewOf g) g.loc.flat l else t.writeBackLine (t.viewOf g) g.loc.flat l) s

/-- `WRITEBACK_ACCEPTED`: the write-back is performed at the home and `st` lowered (R241 to R244). -/
def execWritebackAccepted (gid fid : Nat) (s : State) : Out :=
  match s.flight? gid fid with
  | none => .next s
  | some (g, f) =>
    let s1 := (s.doWriteback g f (bit f.aux 0)).onGroup gid (fun h =>
      { h with flights := h.flights.map (fun y => if y.id = fid then { y with ranges := [] } else y) })
    if bit f.aux 1 && !s1.drained g 3 fid then .next (s1.post (.writebackAccepted gid fid))
    else .next (if g.dead then s1.landFlight gid f 1 else (s1.landFlight gid f 1).settle gid)

/-! ### Pointer instructions -/

/-- The lanes that a pointer instruction acts for: the lowest active one under `.u` (R246). -/
def Ctx.ptrLanes (x : Ctx) : List Nat := if dotU x.row then x.lanes.take 1 else x.lanes

/-- Writes a quad of the destination: uniform under `.u` and in the access slice. -/
def Ctx.putQuad (x : Ctx) (c : Crew) (l v : Nat) : Crew := c.writeDest (x.access || dotU x.row) l x.fl.f.d.toNat 4 v

/-- A pointer instruction that only writes its destination: every lane's result, or the first trap. -/
def ptrOp (i : Instr) (s : State) (f : Ctx → Group → Crew → Nat → Except (Nat × Nat) Ptr) : Out :=
  issue i s (fun x g c t =>
    match allLanesOk (fun l => match f x g c l with
        | .error (cause, a) => .error (x.trapOf cause l 0 a)
        | .ok p => .ok p) x.ptrLanes with
    | .error tr => .trap tr
    | .ok ps => .done (t.setUnit g x.unit (ps.foldl (fun d (l, p) => x.putQuad d l (Ptr.pack p)) c)))

/-- `PMAKE` (R235). -/
def pmakeLane (x : Ctx) (g : Group) (c : Crew) (l : Nat) : Except (Nat × Nat) Ptr :=
  let a := x.a c l
  let b := x.b c l
  let w := x.c c l
  let p : Ptr := { valid := true, resv := 0, anchor := g.pos, swz := bits w 16 14, scope := bits w 13 11, cls := bits w 10 9
                   space := bits w 8 6, fmt := bits w 5 0, len := bits b 39 0, base := bits a 56 0 }
  if bits a 63 57 ≠ 0 ∨ bits b 63 40 ≠ 0 ∨ bits w 31 17 ≠ 0 ∨ p.formBad then .error (0x08, p.base) else .ok p

def execPmake (f : Word0) (h : Word1) (s : State) : Out := ptrOp (.pmake f h) s pmakeLane

/-- The source pointer of a lane, its form checked (R236). -/
def srcPtr (x : Ctx) (c : Crew) (l : Nat) : Except (Nat × Nat) Ptr :=
  let p := ptrOf (x.a c l)
  if p.formBad then .error (0x08, p.base) else .ok p

/-- `PSUB` (R237). -/
def psubLane (x : Ctx) (_g : Group) (c : Crew) (l : Nat) : Except (Nat × Nat) Ptr :=
  match srcPtr x c l with
  | .error e => .error e
  | .ok p =>
    let b := x.b c l % 2 ^ 32
    let n := if x.c c l = 0xFFFFFFFF then p.len - b else x.c c l
    if p.len < b ∨ p.len < b + n then .error (0x09, p.base + b) else .ok { p with base := p.base + b, len := n }

def execPsub (f : Word0) (h : Word1) (s : State) : Out := ptrOp (.psub f h) s psubLane
def execPsub12 (f : Word0) (h : Word1) (w : Word) (s : State) : Out := ptrOp (.psub12 f h w) s psubLane

/-- `PADV` (R238). -/
def padvLane (x : Ctx) (_g : Group) (c : Crew) (l : Nat) : Except (Nat × Nat) Ptr :=
  match srcPtr x c l with
  | .error e => .error e
  | .ok p => if p.len < x.b c l then .error (0x09, p.base) else .ok { p with base := p.base + x.b c l, len := p.len - x.b c l }

def execPadv (f : Word0) (h : Word1) (s : State) : Out := ptrOp (.padv f h) s padvLane
def execPadv12 (f : Word0) (h : Word1) (w : Word) (s : State) : Out := ptrOp (.padv12 f h w) s padvLane

/-- `PRETYPE` (R239). -/
def pretypeLane (x : Ctx) (_g : Group) (c : Crew) (l : Nat) : Except (Nat × Nat) Ptr :=
  match srcPtr x c l with
  | .error e => .error e
  | .ok p =>
    let b := x.b c l
    let q := { p with fmt := bits b 5 0, cls := if bit b 6 then 1 else p.cls }
    if bits b 31 7 ≠ 0 ∨ q.formBad then .error (0x08, p.base) else .ok q

def execPretype (f : Word0) (h : Word1) (s : State) : Out := ptrOp (.pretype f h) s pretypeLane

/-- `PCHK` (R240). -/
def pchkOp (i : Instr) (s : State) : Out :=
  issue i s (fun x g c t =>
    let k : Kind := if x.fl.h.sub = 1 then .store else .load
    .done (t.setUnit g x.unit (x.eachP c x.fl.f.d.toNat (fun l =>
      let p := ptrOf (x.a c l)
      match checkPtr g p (x.b c l % 2 ^ 32) (fmtInfo p.fmt).unit k with
      | .ok _ => true
      | .error _ => false))))

def execPchk (f : Word0) (h : Word1) (s : State) : Out := pchkOp (.pchk f h) s
def execPchk12 (f : Word0) (h : Word1) (w : Word) (s : State) : Out := pchkOp (.pchk12 f h w) s

/-- The checks of `PWIDEN` (R241) and `PNARROW` (R242): the source and the new pointer. -/
def scopeLane (widen : Bool) (x : Ctx) (g : Group) (c : Crew) (l : Nat) : Except (Nat × Nat) (Ptr × Ptr) :=
  match srcPtr x c l with
  | .error e => .error e
  | .ok p =>
    let n := x.fl.h.sub.toNat / 2
    let q := { p with scope := n }
    if widen then
      if p.outside g.pos p.scope || decide (n < p.scope) then .error (0x0C, p.base)
      else if q.formBad then .error (0x08, p.base) else .ok (p, q)
    else if p.scope < n ∨ p.outside g.pos n then .error (0x0C, p.base)
    else .ok (p, q)

/-- `PWIDEN` and `PNARROW`. -/
def scopeOp (widen : Bool) (i : Instr) (s : State) : Out :=
  issue i s (fun x g c t =>
    if 63 ≤ c.st then .stall .other
    else
      match allLanesOk (fun l => match scopeLane widen x g c l with
          | .error (cause, a) => .error (x.trapOf cause l 0 a)
          | .ok p => .ok p) x.ptrLanes with
      | .error tr => .trap tr
      | .ok ps =>
        let n := x.fl.h.sub.toNat / 2
        let c1 := ps.foldl (fun d (l, _, q) => x.putQuad d l (Ptr.pack q)) c
        let t1 := t.setUnit g x.unit c1
        let moved := ps.filter (fun y => decide (y.2.1.scope ≠ if widen then n else 0))
        let pieces := moved.flatMap (fun y => ptrPieces t g y.2.1)
        if ps.isEmpty then .done t1
        else if !widen && moved.isEmpty then .done t1
        else
          match rangeWaits t g x pieces widen (if widen && decide (n = 4) then (t.core g.loc.flat).wcb.length else 0) with
          | some w => .stall w
          | none =>
            if widen then
              let t2 := t1.commitAll x.gid
              if moved.isEmpty then .done (t2.ottTake g.loc.flat x.gid x.unit)
              else
                let t3 := if n = 4 then t2.drainAllWcb g.loc.flat else t2
                .done (t3.beginWriteback i x g pieces false (decide (n = 4)))
            else .done (t1.beginWriteback i x g pieces true false))

/-- `PWIDEN` (R241). -/
def execPwiden (f : Word0) (h : Word1) (s : State) : Out := scopeOp true (.pwiden f h) s
/-- `PNARROW` (R242). -/
def execPnarrow (f : Word0) (h : Word1) (s : State) : Out := scopeOp false (.pnarrow f h) s

/-- The pointers of a range instruction, form and ANCHOR checked in every lane (R243, R244, R305). -/
def rangePtrs (x : Ctx) (g : Group) (c : Crew) : Except Trap (List (Nat × Ptr)) :=
  allLanesOk (fun l => match srcPtr x c l with
    | .error (cause, a) => .error (x.trapOf cause l 0 a)
    | .ok p => if p.outside g.pos p.scope then .error (x.trapOf 0x0C l 0 p.base) else .ok p) x.lanes

/-- `RWB` (R243). -/
def execRwb (f : Word0) (h : Word1) (s : State) : Out :=
  issue (.rwb f h) s (fun x g c t =>
    if 63 ≤ c.st then .stall .other
    else if x.act = 0 then .done t
    else
      match rangePtrs x g c with
      | .error tr => .trap tr
      | .ok ps =>
        let pieces := ps.flatMap (fun y => ptrPieces t g y.2)
        let mine := fun (e : WcbEntry) => meets pieces e.line
        match rangeWaits t g x pieces true ((t.core g.loc.flat).wcb.filter mine).length with
        | some w => .stall w
        | none =>
          let t1 := t.commitAll x.gid
          let t2 := ((t1.core g.loc.flat).wcb.filter mine).foldl (fun u e => u.drainWcb g.loc.flat false e) t1
          .done (t2.beginWriteback (.rwb f h) x g pieces false false))

/-- `RINV` (R244). -/
def execRinv (f : Word0) (h : Word1) (s : State) : Out :=
  issue (.rinv f h) s (fun x g c t =>
    if 63 ≤ c.st then .stall .other
    else if x.act = 0 then .done t
    else
      match rangePtrs x g c with
      | .error tr => .trap tr
      | .ok ps =>
        let pieces := ps.flatMap (fun y => ptrPieces t g y.2)
        match rangeWaits t g x pieces false 0 with
        | some w => .stall w
        | none => .done (t.beginWriteback (.rinv f h) x g pieces true false))

/-! ### `ICINV` (R305) -/

/-- Core `c` lies at a scope around a position. -/
def Pos.covers (p : Pos) (scope c : Nat) : Bool :=
  if 3 ≤ scope then true
  else if scope = 2 then decide (c / 96 = p.die)
  else if scope = 1 then decide (c / 12 = p.flat / 12)
  else decide (c = p.flat)

/-- `ICINV`: commits the buffer and begins its write-back and invalidations, which hold the crew until they complete. -/
def execIcinv (f : Word0) (h : Word1) (s : State) : Out :=
  issue (.icinv f h) s (fun x g c t =>
    if 63 ≤ c.st then .stall .other
    else if x.act = 0 then .done t
    else
      match rangePtrs x g c with
      | .error tr => .trap tr
      | .ok ps =>
        let pieces := ps.flatMap (fun y => ptrPieces t g y.2)
        match rangeWaits t g x pieces true 0 with
        | some w => .stall w
        | none =>
          let t1 := ((t.commitAll x.gid).onGroup x.gid (fun k => { k with committed := true })).ottTake g.loc.flat x.gid x.unit
          let fl := { newFlight (.icinv f h) x t1.nextId .icinv [] with
            ranges := pieces, aux := ps.foldl (fun n y => max n y.2.scope) 0, entries := (t1.dirtyLines g.loc.flat pieces).length }
          .done (t1.launchFlight x.gid fl 1 (.icinvComplete x.gid fl.id)))

/-- `ICINV_COMPLETE`: the dirty bytes of the range are at their homes, and no instruction cache at the scope holds a line of
it; `st` falls (R305). -/
def execIcinvComplete (gid fid : Nat) (s : State) : Out :=
  match s.flight? gid fid with
  | none => .next s
  | some (g, f) =>
    let s1 := (s.heldLines g.loc.flat f.ranges).foldl (fun t l => t.writeBackLine (t.viewOf g) g.loc.flat l) s
    let hit := fun (line : Nat) => meets f.ranges (s.peer * 2 ^ 45 + line * 192)
    let s2 := s1.cores.foldl (fun (t : State) (x : Nat × Core) =>
      if g.loc.covers f.aux x.1 || g.pos.covers f.aux x.1 then
        t.setCore x.1 { t.core x.1 with icache := (t.core x.1).icache.filter (fun (y : Nat × List Byte) => !hit y.1) }
      else t) s1
    .next (if g.dead then s2.landFlight gid f 1 else (s2.landFlight gid f 1).settle gid)

end Sys2Proof.Machine
end

