-- ==== Sys2Proof/Machine/System.lean ====
section
/-! DEFINITION. The system instructions: thread end, special registers, cancellation, software traps, `WAIT`, and the trap
of an encoding that decodes to nothing (R107 to R109, R140, R274 to R276, R297 to R304). -/
namespace Sys2Proof.Machine
open Sys2Proof

/-- A crew's sub-FIFOs are discarded when its last lane has exited (R254). -/
def Group.dropQueues (g : Group) (u : Nat) : Group :=
  if u ≠ 32 && (g.unit u).ended then { g with fq := g.fq.filter (fun x => decide (x.1 % 32 ≠ u)) } else g

/-- `EXIT`: the active lanes have exited, or the access slice has ended (R140, R16). -/
def execExit (f : Word0) (s : State) : Out :=
  settled s (issue (.exit f) s (fun x g c t =>
    let c1 := { c with exited := if x.access then (if x.act = 0 then c.exited else BitVec.allOnes 32) else c.exited ||| x.act
                       pass := c.pass.filter (fun y => !x.act.getLsbD y.1) }
    .done (t.setGroup ((g.setUnit x.unit c1).dropQueues x.unit))))

/-! ### Special registers (R36, R37, R300) -/

/-- The whole value of special register `n` for a lane of a unit. -/
def srValue (s : State) (g : Group) (u : Nat) (c : Crew) (n l : Nat) : Nat :=
  match n with
  | 0x00 => l
  | 0x01 => u
  | 0x02 => g.gid.1
  | 0x03 => g.gid.2.1
  | 0x04 => g.gid.2.2
  | 0x05 => g.ngroups.1
  | 0x06 => g.ngroups.2.1
  | 0x07 => g.ngroups.2.2
  | 0x08 => g.pos.cluster
  | 0x09 => g.pos.die
  | 0x0A => g.pos.core
  | 0x0B => g.launchId.toNat
  | 0x10 => c.partw
  | 0x11 => if g.chain then 1 else 0
  | 0x12 => match g.slice.stall with
    | some (.backEmpty _) => 1
    | _ => 0
  | 0x13 => c.parks.foldl (fun m (x : Nat × Park) => m + 2 ^ x.1) 0
  | 0x20 => c.tcause.toNat
  | 0x21 | 0x22 => c.tfirst
  | 0x23 | 0x24 => c.tfaddr
  | _ => s.now g.loc.die

/-- The `.lo` number of a register read in halves. -/
def loOf (n : Nat) : Option Nat :=
  if n = 0x21 ∨ n = 0x22 then some 0x21 else if n = 0x23 ∨ n = 0x24 then some 0x23 else if n = 0x30 ∨ n = 0x31 then some 0x30
  else none

/-- What `MFSR` reads: a `.hi` read returns the bits that the last `.lo` read of that register latched (R37). -/
def srRead (s : State) (g : Group) (u : Nat) (c : Crew) (n l : Nat) : Nat :=
  let v := srValue s g u c n l
  match loOf n with
  | none => v
  | some k => if n = k then v % 2 ^ 32 else match nfind? c.latch k with
    | some w => w.toNat
    | none => v / 2 ^ 32

/-- `MFSR` (R300). -/
def execMfsr (f : Word0) (h : Word1) (s : State) : Out :=
  issue (.mfsr f h) s (fun x g c t =>
    if x.act = 0 then .done t
    else
      let n := f.a.toNat
      let c1 := if loOf n = some n then
          { c with latch := ninsert c.latch n (BitVec.ofNat 32 (srValue s g x.unit c n 0 / 2 ^ 32)) } else c
      let c2 := if h.sub = 1 then c1.sset f.d.toNat (BitVec.ofNat 32 (srRead s g x.unit c n (lowest x.act)))
        else x.each c1 (fun d l => d.vset f.d.toNat l (BitVec.ofNat 32 (srRead s g x.unit c n l)))
      .done (t.setUnit g x.unit c2))

/-- Writes a handler register, or the half of it named (R37). -/
def Crew.writeSpecial (c : Crew) (n v : Nat) : Crew :=
  match n with
  | 0x20 => { c with tcause := BitVec.ofNat 32 v }
  | 0x21 => { c with tfirst := setBits c.tfirst 31 0 v }
  | 0x22 => { c with tfirst := setBits c.tfirst 56 32 v }
  | 0x23 => { c with tfaddr := setBits c.tfaddr 31 0 v }
  | _ => { c with tfaddr := setBits c.tfaddr 56 32 v }

/-- `MTSR` (R300). -/
def execMtsr (f : Word0) (h : Word1) (s : State) : Out :=
  issueCrew (.mtsr f h) s (fun x c => if x.act = 0 then c else c.writeSpecial f.d.toNat (x.a c (lowest x.act)))

/-! ### `CANCEL` (R297) -/

/-- The instance of a level that contains instance `i`. -/
def State.above (s : State) (lv : Level) : Nat → Nat → Option Nat
  | 0, _ => none
  | n + 1, i =>
    match s.inst? i with
    | none => none
    | some x => if x.level = lv then some i else match x.parent with
      | some p => s.above lv n p
      | none => none

/-- `CANCEL`: the group, or the instance of the level that contains it; a launch command is a graph of one node. -/
def execCancel (f : Word0) (h : Word1) (s : State) : Out :=
  issue (.cancel f h) s (fun x g _ t =>
    if x.act = 0 then .done t
    else
      let at' := fun (o : Option Nat) => match o with
        | some i => Res.done (t.cancelInst i g.pos.die false)
        | none => Res.done (t.cancelInst g.launch g.pos.die false)
      match h.sub.toNat with
      | 0 => .done (t.endGroup g.id 0x28)
      | 1 => at' (some g.launch)
      | 2 => at' (t.above .graph 8 g.launch)
      | 3 => at' (t.above .phase 8 g.launch)
      | _ => at' (t.above .job 8 g.launch))

/-! ### `TRAP`, `BKPT`, `TRET.end` (R302 to R304) -/

/-- `TRAP k`: completes, then traps with k in the detail bits (R302). -/
def execTrap (f : Word0) (s : State) : Out :=
  settled s (issue (.trap f) s (fun x _ _ t =>
    if x.act = 0 then .done t else .trapAfter t (x.trapOf 0x18 (lowest x.act) f.d.toNat x.addr)))

/-- `BKPT`: traps while the context's breakpoints are enabled, else does nothing (R303, R426). -/
def execBkpt (f : Word0) (s : State) : Out :=
  settled s (issue (.bkpt f) s (fun x g _ t =>
    if x.act = 0 ∨ !bit (t.ctxReg g.ctx 0x10) 0 then .done t
    else .trapAfter t (x.trapOf 0x19 (lowest x.act) 0 x.addr)))

/-- `TRET.end`: the group ends as stopped by its trap (R304, R420). -/
def execTretEnd (f : Word0) (s : State) : Out :=
  issue (.tretEnd f) s (fun x g c t =>
    if x.act = 0 then .done t
    else
      match g.phase with
      | .handler _ w => .done (t.endByTrap g w 0)
      | _ => .done (t.endByTrap g { cause := c.tcause.toNat % 256, lane := 0, detail := 0, addr := c.tfaddr, first := c.tfirst } 0))

/-! ### `WAIT` (R274 to R276) -/

/-- `WAIT` with its thresholds. A `COLL_STATUS` trap not yet raised is raised here; the `WAIT` comes again after it. -/
def waitOp (i : Instr) (ld st cp tl : Nat) (s : State) : Out :=
  settled s (issue i s (fun x g c t =>
    if x.act = 0 then .done t
    else
      match c.collTraps.find? (fun y => y.2.2.2 = 0 ∨ y.2.2.2 &&& x.issued ≠ 0) with
      | some (a, r, status, m) =>
        let back := { g.setUnit x.unit { c.setPcs (lanesOf x.issued) x.addr with collTraps := c.collTraps.erase (a, r, status, m) } with retired := g.retired - 1 }
        .trapAfter (t.setGroup back)
          { cause := 0x13, lane := lowest x.act, detail := status, addr := r, first := a }
      | none =>
        let ldNow := if x.access then 0 else c.ld
        let tlNow := if x.access then 0 else c.tl
        if cp < c.cp then .stall .waitCp
        else if ld < ldNow ∨ st < c.st ∨ tl < tlNow then .stall .other
        else .done t))

/-- A short threshold: 15 means 63 (Table 03-3). -/
def shortThreshold (w : BitVec 4) : Nat := if w = 15 then 63 else w.toNat

/-- `WAIT` (R275). -/
def execWait (gp : BitVec 4) (gn : Bool) (tlw cpw stw ldw : BitVec 4) (s : State) : Out :=
  waitOp (.wait gp gn tlw cpw stw ldw) (shortThreshold ldw) (shortThreshold stw) (shortThreshold cpw) (shortThreshold tlw) s
def execWait8 (gp : BitVec 4) (gn : Bool) (tlw cpw stw ldw : BitVec 6) (s : State) : Out :=
  waitOp (.wait8 gp gn tlw cpw stw ldw) ldw.toNat stw.toNat cpw.toNat tlw.toNat s

/-! ### An encoding that decodes to no instruction (R107 to R109) -/

/-- The failing step: step 3 comes before 4 to 8 and reads the issuing unit. -/
def Reject.detail (r : Reject) (access hmode : Bool) : Nat :=
  let n := r.why.step
  if 3 < n && ((access && (!r.inAccess || r.accessBad)) || (!access && !r.inCrew) || (r.handlerOnly && !hmode)) then 3
  else if access && r.accessU && decide (n = 6) then 5
  else n + (if r.slot1 then 16 else 0)

/-- `ILLEGAL_OP` of a refused encoding, at its address in the lowest lane of the issue group (R109); with no issue group
there is nothing to refuse. -/
def execIllegalOp (r : Reject) (s : State) : Out :=
  match s.cur with
  | none => .next s
  | some u =>
    match s.group? u.gid with
    | none => .next s
    | some g =>
      .next (s.raise u.gid u.unit { cause := 0x01, lane := lowest u.lanes
                                    detail := Reject.detail r (decide (u.unit = 32)) (g.unit u.unit).hmode
                                    addr := u.addr, first := u.addr })

end Sys2Proof.Machine
end

