-- ==== Sys2Proof/Machine/Dispatch.lean ====
section
/-! DEFINITION. The meaning of every instruction: one arm per constructor. -/
namespace Sys2Proof.Machine
open Sys2Proof

/-- The meaning of an instruction or hardware step. -/
def exec (i : Instr) (s : State) : Host.Outcome State Fault Refusal :=
  match i with
  | .nop f => Sys2Proof.Machine.execNop f s
  | .nop8 f h => Sys2Proof.Machine.execNop8 f h s
  | .nop12 f h w => Sys2Proof.Machine.execNop12 f h w s
  | .bra gp gn off17 => Sys2Proof.Machine.execBra gp gn off17 s
  | .bra12 f h w => Sys2Proof.Machine.execBra12 f h w s
  | .bral f h w => Sys2Proof.Machine.execBral f h w s
  | .jmpi f => Sys2Proof.Machine.execJmpi f s
  | .ret f => Sys2Proof.Machine.execRet f s
  | .exit f => Sys2Proof.Machine.execExit f s
  | .dbnz f h w => Sys2Proof.Machine.execDbnz f h w s
  | .brq f h w => Sys2Proof.Machine.execBrq f h w s
  | .yield f => Sys2Proof.Machine.execYield f s
  | .sleepc f => Sys2Proof.Machine.execSleepc f s
  | .sleepc12 f h w => Sys2Proof.Machine.execSleepc12 f h w s
  | .trap f => Sys2Proof.Machine.execTrap f s
  | .tret f => Sys2Proof.Machine.execTret f s
  | .tretEnd f => Sys2Proof.Machine.execTretEnd f s
  | .bkpt f => Sys2Proof.Machine.execBkpt f s
  | .icinv f h => Sys2Proof.Machine.execIcinv f h s
  | .mfsr f h => Sys2Proof.Machine.execMfsr f h s
  | .mtsr f h => Sys2Proof.Machine.execMtsr f h s
  | .bar f h => Sys2Proof.Machine.execBar f h s
  | .bar12 f h w => Sys2Proof.Machine.execBar12 f h w s
  | .bara f h => Sys2Proof.Machine.execBara f h s
  | .bara12 f h w => Sys2Proof.Machine.execBara12 f h w s
  | .barw f h => Sys2Proof.Machine.execBarw f h s
  | .barw12 f h w => Sys2Proof.Machine.execBarw12 f h w s
  | .cancel f h => Sys2Proof.Machine.execCancel f h s
  | .iadd f h => Sys2Proof.Machine.execIadd f h s
  | .iadd12 f h w => Sys2Proof.Machine.execIadd12 f h w s
  | .isub f h => Sys2Proof.Machine.execIsub f h s
  | .isub12 f h w => Sys2Proof.Machine.execIsub12 f h w s
  | .iaddc f h => Sys2Proof.Machine.execIaddc f h s
  | .iaddc12 f h w => Sys2Proof.Machine.execIaddc12 f h w s
  | .isubc f h => Sys2Proof.Machine.execIsubc f h s
  | .isubc12 f h w => Sys2Proof.Machine.execIsubc12 f h w s
  | .ineg f => Sys2Proof.Machine.execIneg f s
  | .ineg8 f h => Sys2Proof.Machine.execIneg8 f h s
  | .imul f h => Sys2Proof.Machine.execImul f h s
  | .imul12 f h w => Sys2Proof.Machine.execImul12 f h w s
  | .imulh f h => Sys2Proof.Machine.execImulh f h s
  | .imulh12 f h w => Sys2Proof.Machine.execImulh12 f h w s
  | .imad f h => Sys2Proof.Machine.execImad f h s
  | .imad12 f h w => Sys2Proof.Machine.execImad12 f h w s
  | .imadw f h => Sys2Proof.Machine.execImadw f h s
  | .imadw12 f h w => Sys2Proof.Machine.execImadw12 f h w s
  | .imin f h => Sys2Proof.Machine.execImin f h s
  | .imin12 f h w => Sys2Proof.Machine.execImin12 f h w s
  | .imax f h => Sys2Proof.Machine.execImax f h s
  | .imax12 f h w => Sys2Proof.Machine.execImax12 f h w s
  | .iabs f => Sys2Proof.Machine.execIabs f s
  | .iabs8 f h => Sys2Proof.Machine.execIabs8 f h s
  | .iadif f h => Sys2Proof.Machine.execIadif f h s
  | .iadif12 f h w => Sys2Proof.Machine.execIadif12 f h w s
  | .shl f h => Sys2Proof.Machine.execShl f h s
  | .shl12 f h w => Sys2Proof.Machine.execShl12 f h w s
  | .shr f h => Sys2Proof.Machine.execShr f h s
  | .shr12 f h w => Sys2Proof.Machine.execShr12 f h w s
  | .sar f h => Sys2Proof.Machine.execSar f h s
  | .sar12 f h w => Sys2Proof.Machine.execSar12 f h w s
  | .dsh f h => Sys2Proof.Machine.execDsh f h s
  | .dsh12 f h w => Sys2Proof.Machine.execDsh12 f h w s
  | .rot f h => Sys2Proof.Machine.execRot f h s
  | .rot12 f h w => Sys2Proof.Machine.execRot12 f h w s
  | .lut3 f h w => Sys2Proof.Machine.execLut3 f h w s
  | .popc f => Sys2Proof.Machine.execPopc f s
  | .popc8 f h => Sys2Proof.Machine.execPopc8 f h s
  | .clz f => Sys2Proof.Machine.execClz f s
  | .clz8 f h => Sys2Proof.Machine.execClz8 f h s
  | .ctz f => Sys2Proof.Machine.execCtz f s
  | .ctz8 f h => Sys2Proof.Machine.execCtz8 f h s
  | .brev f => Sys2Proof.Machine.execBrev f s
  | .brev8 f h => Sys2Proof.Machine.execBrev8 f h s
  | .bfx f h => Sys2Proof.Machine.execBfx f h s
  | .bfx12 f h w => Sys2Proof.Machine.execBfx12 f h w s
  | .bfi f h => Sys2Proof.Machine.execBfi f h s
  | .bfi12 f h w => Sys2Proof.Machine.execBfi12 f h w s
  | .bsel f h => Sys2Proof.Machine.execBsel f h s
  | .bsel12 f h w => Sys2Proof.Machine.execBsel12 f h w s
  | .isetp f h => Sys2Proof.Machine.execIsetp f h s
  | .isetp12 f h w => Sys2Proof.Machine.execIsetp12 f h w s
  | .isel f h => Sys2Proof.Machine.execIsel f h s
  | .isel12 f h w => Sys2Proof.Machine.execIsel12 f h w s
  | .mov f => Sys2Proof.Machine.execMov f s
  | .mov8 f h => Sys2Proof.Machine.execMov8 f h s
  | .movi f h w => Sys2Proof.Machine.execMovi f h w s
  | .plop f h w => Sys2Proof.Machine.execPlop f h w s
  | .p2v f => Sys2Proof.Machine.execP2v f s
  | .p2v8 f h => Sys2Proof.Machine.execP2v8 f h s
  | .v2p f h => Sys2Proof.Machine.execV2p f h s
  | .s2v f => Sys2Proof.Machine.execS2v f s
  | .s2v8 f h => Sys2Proof.Machine.execS2v8 f h s
  | .v2s f h => Sys2Proof.Machine.execV2s f h s
  | .lea f h => Sys2Proof.Machine.execLea f h s
  | .lea12 f h w => Sys2Proof.Machine.execLea12 f h w s
  | .fadd f h => Sys2Proof.Machine.execFadd f h s
  | .fadd12 f h w => Sys2Proof.Machine.execFadd12 f h w s
  | .fsub f h => Sys2Proof.Machine.execFsub f h s
  | .fsub12 f h w => Sys2Proof.Machine.execFsub12 f h w s
  | .fmul f h => Sys2Proof.Machine.execFmul f h s
  | .fmul12 f h w => Sys2Proof.Machine.execFmul12 f h w s
  | .ffma f h => Sys2Proof.Machine.execFfma f h s
  | .ffma12 f h w => Sys2Proof.Machine.execFfma12 f h w s
  | .fmin f h => Sys2Proof.Machine.execFmin f h s
  | .fmin12 f h w => Sys2Proof.Machine.execFmin12 f h w s
  | .fmax f h => Sys2Proof.Machine.execFmax f h s
  | .fmax12 f h w => Sys2Proof.Machine.execFmax12 f h w s
  | .fminp f h => Sys2Proof.Machine.execFminp f h s
  | .fminp12 f h w => Sys2Proof.Machine.execFminp12 f h w s
  | .fmaxp f h => Sys2Proof.Machine.execFmaxp f h s
  | .fmaxp12 f h w => Sys2Proof.Machine.execFmaxp12 f h w s
  | .fsetp f h => Sys2Proof.Machine.execFsetp f h s
  | .fsetp12 f h w => Sys2Proof.Machine.execFsetp12 f h w s
  | .fsel f h => Sys2Proof.Machine.execFsel f h s
  | .fsel12 f h w => Sys2Proof.Machine.execFsel12 f h w s
  | .fclass f h => Sys2Proof.Machine.execFclass f h s
  | .fscale f h => Sys2Proof.Machine.execFscale f h s
  | .fscale12 f h w => Sys2Proof.Machine.execFscale12 f h w s
  | .frnd f => Sys2Proof.Machine.execFrnd f s
  | .frnd8 f h => Sys2Proof.Machine.execFrnd8 f h s
  | .dadd f h => Sys2Proof.Machine.execDadd f h s
  | .dmul f h => Sys2Proof.Machine.execDmul f h s
  | .dfma f h => Sys2Proof.Machine.execDfma f h s
  | .dsetp f h => Sys2Proof.Machine.execDsetp f h s
  | .hadd2 f h => Sys2Proof.Machine.execHadd2 f h s
  | .hadd212 f h w => Sys2Proof.Machine.execHadd212 f h w s
  | .hmul2 f h => Sys2Proof.Machine.execHmul2 f h s
  | .hmul212 f h w => Sys2Proof.Machine.execHmul212 f h w s
  | .hfma2 f h => Sys2Proof.Machine.execHfma2 f h s
  | .hfma212 f h w => Sys2Proof.Machine.execHfma212 f h w s
  | .fdot2 f h => Sys2Proof.Machine.execFdot2 f h s
  | .fdot4 f h => Sys2Proof.Machine.execFdot4 f h s
  | .fcvt f h => Sys2Proof.Machine.execFcvt f h s
  | .fcvti f h => Sys2Proof.Machine.execFcvti f h s
  | .icvtf f h => Sys2Proof.Machine.execIcvtf f h s
  | .frcp f => Sys2Proof.Machine.execFrcp f s
  | .frcp8 f h => Sys2Proof.Machine.execFrcp8 f h s
  | .frsq f => Sys2Proof.Machine.execFrsq f s
  | .frsq8 f h => Sys2Proof.Machine.execFrsq8 f h s
  | .fsqrt f => Sys2Proof.Machine.execFsqrt f s
  | .fsqrt8 f h => Sys2Proof.Machine.execFsqrt8 f h s
  | .fex2 f => Sys2Proof.Machine.execFex2 f s
  | .fex28 f h => Sys2Proof.Machine.execFex28 f h s
  | .flg2 f => Sys2Proof.Machine.execFlg2 f s
  | .flg28 f h => Sys2Proof.Machine.execFlg28 f h s
  | .fsin f => Sys2Proof.Machine.execFsin f s
  | .fsin8 f h => Sys2Proof.Machine.execFsin8 f h s
  | .fcos f => Sys2Proof.Machine.execFcos f s
  | .fcos8 f h => Sys2Proof.Machine.execFcos8 f h s
  | .ftanh f => Sys2Proof.Machine.execFtanh f s
  | .ftanh8 f h => Sys2Proof.Machine.execFtanh8 f h s
  | .fdivf f h => Sys2Proof.Machine.execFdivf f h s
  | .vote f h => Sys2Proof.Machine.execVote f h s
  | .vote12 f h w => Sys2Proof.Machine.execVote12 f h w s
  | .lpick f h => Sys2Proof.Machine.execLpick f h s
  | .lpick12 f h w => Sys2Proof.Machine.execLpick12 f h w s
  | .redux f h => Sys2Proof.Machine.execRedux f h s
  | .redux12 f h w => Sys2Proof.Machine.execRedux12 f h w s
  | .scan f h => Sys2Proof.Machine.execScan f h s
  | .scan12 f h w => Sys2Proof.Machine.execScan12 f h w s
  | .matchLanes f h => Sys2Proof.Machine.execMatchLanes f h s
  | .matchLanes12 f h w => Sys2Proof.Machine.execMatchLanes12 f h w s
  | .elect f h => Sys2Proof.Machine.execElect f h s
  | .elect12 f h w => Sys2Proof.Machine.execElect12 f h w s
  | .part f => Sys2Proof.Machine.execPart f s
  | .part8 f h => Sys2Proof.Machine.execPart8 f h s
  | .ld f h => Sys2Proof.Machine.execLd f h s
  | .ld12 f h w => Sys2Proof.Machine.execLd12 f h w s
  | .st f h => Sys2Proof.Machine.execSt f h s
  | .st12 f h w => Sys2Proof.Machine.execSt12 f h w s
  | .atom f h => Sys2Proof.Machine.execAtom f h s
  | .atom12 f h w => Sys2Proof.Machine.execAtom12 f h w s
  | .cas f h => Sys2Proof.Machine.execCas f h s
  | .cas12 f h w => Sys2Proof.Machine.execCas12 f h w s
  | .pref f h => Sys2Proof.Machine.execPref f h s
  | .pref12 f h w => Sys2Proof.Machine.execPref12 f h w s
  | .pmake f h => Sys2Proof.Machine.execPmake f h s
  | .psub f h => Sys2Proof.Machine.execPsub f h s
  | .psub12 f h w => Sys2Proof.Machine.execPsub12 f h w s
  | .padv f h => Sys2Proof.Machine.execPadv f h s
  | .padv12 f h w => Sys2Proof.Machine.execPadv12 f h w s
  | .pretype f h => Sys2Proof.Machine.execPretype f h s
  | .pwiden f h => Sys2Proof.Machine.execPwiden f h s
  | .pnarrow f h => Sys2Proof.Machine.execPnarrow f h s
  | .pchk f h => Sys2Proof.Machine.execPchk f h s
  | .pchk12 f h w => Sys2Proof.Machine.execPchk12 f h w s
  | .rwb f h => Sys2Proof.Machine.execRwb f h s
  | .rinv f h => Sys2Proof.Machine.execRinv f h s
  | .qld f h => Sys2Proof.Machine.execQld f h s
  | .qld12 f h w => Sys2Proof.Machine.execQld12 f h w s
  | .qpush f h => Sys2Proof.Machine.execQpush f h s
  | .qpop f => Sys2Proof.Machine.execQpop f s
  | .qpop8 f h => Sys2Proof.Machine.execQpop8 f h s
  | .qbpush f => Sys2Proof.Machine.execQbpush f s
  | .qbpush8 f h => Sys2Proof.Machine.execQbpush8 f h s
  | .qbpop f => Sys2Proof.Machine.execQbpop f s
  | .qbpop8 f h => Sys2Proof.Machine.execQbpop8 f h s
  | .oph f h => Sys2Proof.Machine.execOph f h s
  | .oph12 f h w => Sys2Proof.Machine.execOph12 f h w s
  | .mma f h => Sys2Proof.Machine.execMma f h s
  | .mmas f h => Sys2Proof.Machine.execMmas f h s
  | .azero f => Sys2Proof.Machine.execAzero f s
  | .amov f h => Sys2Proof.Machine.execAmov f h s
  | .tldv f h => Sys2Proof.Machine.execTldv f h s
  | .tstv f h => Sys2Proof.Machine.execTstv f h s
  | .park f h => Sys2Proof.Machine.execPark f h s
  | .unpark f h => Sys2Proof.Machine.execUnpark f h s
  | .tcopy f h => Sys2Proof.Machine.execTcopy f h s
  | .tcopy12 f h w => Sys2Proof.Machine.execTcopy12 f h w s
  | .coll f h w => Sys2Proof.Machine.execColl f h w s
  | .wait gp gn tlw cpw stw ldw => Sys2Proof.Machine.execWait gp gn tlw cpw stw ldw s
  | .wait8 gp gn tlw cpw stw ldw => Sys2Proof.Machine.execWait8 gp gn tlw cpw stw ldw s
  | .pairWord s0 s1 => Sys2Proof.Machine.execPairWord s0 s1 s
  | .loadComplete gid fid => Sys2Proof.Machine.execLoadComplete gid fid s
  | .loadTranslationFault gid fid => Sys2Proof.Machine.execLoadTranslationFault gid fid s
  | .storePerformed gid fid => Sys2Proof.Machine.execStorePerformed gid fid s
  | .atomicComplete gid fid => Sys2Proof.Machine.execAtomicComplete gid fid s
  | .releasePerformed gid fid => Sys2Proof.Machine.execReleasePerformed gid fid s
  | .writebackAccepted gid fid => Sys2Proof.Machine.execWritebackAccepted gid fid s
  | .icinvComplete gid fid => Sys2Proof.Machine.execIcinvComplete gid fid s
  | .wcbDrainTimeout core line => Sys2Proof.Machine.execWcbDrainTimeout core line s
  | .queueLaneFill gid fid crew lanes => Sys2Proof.Machine.execQueueLaneFill gid fid crew lanes s
  | .qldPoison gid fid => Sys2Proof.Machine.execQldPoison gid fid s
  | .backQueueVisible gid q => Sys2Proof.Machine.execBackQueueVisible gid q s
  | .mmaComplete gid cid => Sys2Proof.Machine.execMmaComplete gid cid s
  | .tcopyRowWritten gid cid => Sys2Proof.Machine.execTcopyRowWritten gid cid s
  | .sleepcExpiry gid u lane => Sys2Proof.Machine.execSleepcExpiry gid u lane s
  | .groupResourcesReturn gid => Sys2Proof.Machine.execGroupResourcesReturn gid s
  | .cancelMessage die inst => Sys2Proof.Machine.execCancelMessage die inst s
  | .preemptRequest gid fromReset => Sys2Proof.Machine.execPreemptRequest gid fromReset s
  | .timeSliceExpiry gid => Sys2Proof.Machine.execTimeSliceExpiry gid s
  | .drainLimit gid => Sys2Proof.Machine.execDrainLimit gid s
  | .saveComplete gid => Sys2Proof.Machine.execSaveComplete gid s
  | .preemptRetry gid => Sys2Proof.Machine.execPreemptRetry gid s
  | .restoreGroup gid => Sys2Proof.Machine.execRestoreGroup gid s
  | .groupDispatch die launch => Sys2Proof.Machine.execGroupDispatch die launch s
  | .stealRequest ask launch => Sys2Proof.Machine.execStealRequest ask launch s
  | .stealReply victim thief launch => Sys2Proof.Machine.execStealReply victim thief launch s
  | .backfillAgeLimit die => Sys2Proof.Machine.execBackfillAgeLimit die s
  | .priorityWaitExpiry die launch => Sys2Proof.Machine.execPriorityWaitExpiry die launch s
  | .qDoorbell q => Sys2Proof.Machine.execQDoorbell q s
  | .qReset q v => Sys2Proof.Machine.execQReset q v s
  | .qCtlWrite q v => Sys2Proof.Machine.execQCtlWrite q v s
  | .registerWrite part port off v => Sys2Proof.Machine.execRegisterWrite part port off v s
  | .jobStart q => Sys2Proof.Machine.execJobStart q s
  | .phaseStart q => Sys2Proof.Machine.execPhaseStart q s
  | .graphSubmit q => Sys2Proof.Machine.execGraphSubmit q s
  | .launch q => Sys2Proof.Machine.execLaunch q s
  | .copy q => Sys2Proof.Machine.execCopy q s
  | .signalMem q => Sys2Proof.Machine.execSignalMem q s
  | .waitMem q => Sys2Proof.Machine.execWaitMem q s
  | .cancelCommand q => Sys2Proof.Machine.execCancelCommand q s
  | .partitionFence q => Sys2Proof.Machine.execPartitionFence q s
  | .commandBegin q => Sys2Proof.Machine.execCommandBegin q s
  | .waitMemReread q => Sys2Proof.Machine.execWaitMemReread q s
  | .waitMemTimeout q => Sys2Proof.Machine.execWaitMemTimeout q s
  | .nodeFinish graph node => Sys2Proof.Machine.execNodeFinish graph node s
  | .copyFinish inst => Sys2Proof.Machine.execCopyFinish inst s
  | .tlbiAddress part => Sys2Proof.Machine.execTlbiAddress part s
  | .tlbiContext part => Sys2Proof.Machine.execTlbiContext part s
  | .tlbiAll part => Sys2Proof.Machine.execTlbiAll part s
  | .tlbiComplete part => Sys2Proof.Machine.execTlbiComplete part s
  | .tlbMissRequest core ctx va => Sys2Proof.Machine.execTlbMissRequest core ctx va s
  | .walkStart die => Sys2Proof.Machine.execWalkStart die s
  | .walkReadComplete die wid => Sys2Proof.Machine.execWalkReadComplete die wid s
  | .l2Request r => Sys2Proof.Machine.execL2Request r s
  | .l2Fill key => Sys2Proof.Machine.execL2Fill key s
  | .invalidateProbe core line => Sys2Proof.Machine.execInvalidateProbe core line s
  | .invalidateAck core line => Sys2Proof.Machine.execInvalidateAck core line s
  | .l1Writeback core line => Sys2Proof.Machine.execL1Writeback core line s
  | .vaultRequest r => Sys2Proof.Machine.execVaultRequest r s
  | .ottEntryGrant core => Sys2Proof.Machine.execOttEntryGrant core s
  | .replicaStore page off bytes => Sys2Proof.Machine.execReplicaStore page off bytes s
  | .replicaWrite die frame ok => Sys2Proof.Machine.execReplicaWrite die frame ok s
  | .divergedHold die k => Sys2Proof.Machine.execDivergedHold die k s
  | .holdComplete die k => Sys2Proof.Machine.execHoldComplete die k s
  | .divergedClear die k => Sys2Proof.Machine.execDivergedClear die k s
  | .meshPacketHop die router out => Sys2Proof.Machine.execMeshPacketHop die router out s
  | .packetDelivery pid => Sys2Proof.Machine.execPacketDelivery pid s
  | .reorderCreditRequest src dst cls => Sys2Proof.Machine.execReorderCreditRequest src dst cls s
  | .reorderCreditGrant dst cls => Sys2Proof.Machine.execReorderCreditGrant dst cls s
  | .deliveryConfirmation src dst cls => Sys2Proof.Machine.execDeliveryConfirmation src dst cls s
  | .permitAudit link ch => Sys2Proof.Machine.execPermitAudit link ch s
  | .auditMarker link ch => Sys2Proof.Machine.execAuditMarker link ch s
  | .auditMarkerReturn link ch => Sys2Proof.Machine.execAuditMarkerReturn link ch s
  | .channelRestart link ch => Sys2Proof.Machine.execChannelRestart link ch s
  | .linkTraining link peerRevs ok => Sys2Proof.Machine.execLinkTraining link peerRevs ok s
  | .moduleRetrain link m width => Sys2Proof.Machine.execModuleRetrain link m width s
  | .linkFailed link => Sys2Proof.Machine.execLinkFailed link s
  | .axsisFlitRetry port flit => Sys2Proof.Machine.execAxsisFlitRetry port flit s
  | .axsisPortRetrain port lanes => Sys2Proof.Machine.execAxsisPortRetrain port lanes s
  | .axsisRead p => Sys2Proof.Machine.execAxsisRead p s
  | .readReply p => Sys2Proof.Machine.execReadReply p s
  | .axsisWrite p => Sys2Proof.Machine.execAxsisWrite p s
  | .writeAcknowledgement p => Sys2Proof.Machine.execWriteAcknowledgement p s
  | .axsisAtomic p => Sys2Proof.Machine.execAxsisAtomic p s
  | .atomicReply p => Sys2Proof.Machine.execAtomicReply p s
  | .contribution p => Sys2Proof.Machine.execContribution p s
  | .partialArrival p => Sys2Proof.Machine.execPartialArrival p s
  | .completion p => Sys2Proof.Machine.execCompletion p s
  | .notice p => Sys2Proof.Machine.execNotice p s
  | .flowAcknowledgement p => Sys2Proof.Machine.execFlowAcknowledgement p s
  | .axsisResendTimeout gw dst seq => Sys2Proof.Machine.execAxsisResendTimeout gw dst seq s
  | .reductionTimeout job ident => Sys2Proof.Machine.execReductionTimeout job ident s
  | .retentionExpiry job ident => Sys2Proof.Machine.execRetentionExpiry job ident s
  | .switchSlotTimeout sw job ident => Sys2Proof.Machine.execSwitchSlotTimeout sw job ident s
  | .rekeyRequest job holder => Sys2Proof.Machine.execRekeyRequest job holder s
  | .inboundPostedWrite t => Sys2Proof.Machine.execInboundPostedWrite t s
  | .inboundRead t => Sys2Proof.Machine.execInboundRead t s
  | .inboundAtomicop t => Sys2Proof.Machine.execInboundAtomicop t s
  | .hostReadCompletion tag ok data => Sys2Proof.Machine.execHostReadCompletion tag ok data s
  | .hostCompletionTimeout tag => Sys2Proof.Machine.execHostCompletionTimeout tag s
  | .xpartRequest importer exporter r => Sys2Proof.Machine.execXpartRequest importer exporter r s
  | .xwinDrained part k => Sys2Proof.Machine.execXwinDrained part k s
  | .partReset part => Sys2Proof.Machine.execPartReset part s
  | .partResetScrub part => Sys2Proof.Machine.execPartResetScrub part s
  | .functionLevelReset die => Sys2Proof.Machine.execFunctionLevelReset die s
  | .resetWaitExpiry part => Sys2Proof.Machine.execResetWaitExpiry part s
  | .evtRidxWrite part v => Sys2Proof.Machine.execEvtRidxWrite part v s
  | .patrolScrub die line => Sys2Proof.Machine.execPatrolScrub die line s
  | .packagePowerOn => Sys2Proof.Machine.execPackagePowerOn s
  | .dieRelease die => Sys2Proof.Machine.execDieRelease die s
  | .fullService => Sys2Proof.Machine.execFullService s
  | .jobKey part ctx tag gateways switches => Sys2Proof.Machine.execJobKey part ctx tag gateways switches s
  | .jobRekey part ctx => Sys2Proof.Machine.execJobRekey part ctx s
  | .jobClear part ctx => Sys2Proof.Machine.execJobClear part ctx s
  | .fwStage part img => Sys2Proof.Machine.execFwStage part img s
  | .getVersion port => Sys2Proof.Machine.execGetVersion port s
  | .getCapabilities port => Sys2Proof.Machine.execGetCapabilities port s
  | .negotiateAlgorithms port => Sys2Proof.Machine.execNegotiateAlgorithms port s
  | .getDigests port => Sys2Proof.Machine.execGetDigests port s
  | .getCertificate port => Sys2Proof.Machine.execGetCertificate port s
  | .challenge port nonce => Sys2Proof.Machine.execChallenge port nonce s
  | .getMeasurements port index => Sys2Proof.Machine.execGetMeasurements port index s
  | .keyExchange port => Sys2Proof.Machine.execKeyExchange port s
  | .finish port session => Sys2Proof.Machine.execFinish port session s
  | .keyUpdate port session => Sys2Proof.Machine.execKeyUpdate port session s
  | .heartbeat port session => Sys2Proof.Machine.execHeartbeat port session s
  | .endSession port session => Sys2Proof.Machine.execEndSession port session s
  | .ideKm port session stream key => Sys2Proof.Machine.execIdeKm port session stream key s
  | .governorWindow part milliwatts => Sys2Proof.Machine.execGovernorWindow part milliwatts s
  | .pwrLimitWrite part v => Sys2Proof.Machine.execPwrLimitWrite part v s
  | .thermalThrottle die => Sys2Proof.Machine.execThermalThrottle die s
  | .thermalRecover die => Sys2Proof.Machine.execThermalRecover die s
  | .thermalTrip die => Sys2Proof.Machine.execThermalTrip die s
  | .illegalOp r => Sys2Proof.Machine.execIllegalOp r s
  | .pciExpressPortTraining die => Sys2Proof.Machine.execPciExpressPortTraining die s
  | .ctxRootWrite ctx v => Sys2Proof.Machine.execCtxRootWrite ctx v s

end Sys2Proof.Machine
end

