-- ==== Sys2Proof/Machine/RunEv.lean ====
section
/-! DEFINITION. Runs a posted hardware step or an input: the same meanings that `exec` calls for the constructors of these
names. -/
namespace Sys2Proof.Machine
open Sys2Proof

/-- The meaning of a hardware step or an input. -/
def runEv (e : Ev) (s : State) : Out :=
  match e with
  | .loadComplete gid fid => execLoadComplete gid fid s
  | .loadTranslationFault gid fid => execLoadTranslationFault gid fid s
  | .storePerformed gid fid => execStorePerformed gid fid s
  | .atomicComplete gid fid => execAtomicComplete gid fid s
  | .releasePerformed gid fid => execReleasePerformed gid fid s
  | .writebackAccepted gid fid => execWritebackAccepted gid fid s
  | .icinvComplete gid fid => execIcinvComplete gid fid s
  | .wcbDrainTimeout core line => execWcbDrainTimeout core line s
  | .queueLaneFill gid fid crew lanes => execQueueLaneFill gid fid crew lanes s
  | .qldPoison gid fid => execQldPoison gid fid s
  | .backQueueVisible gid q => execBackQueueVisible gid q s
  | .mmaComplete gid cid => execMmaComplete gid cid s
  | .tcopyRowWritten gid cid => execTcopyRowWritten gid cid s
  | .sleepcExpiry gid u lane => execSleepcExpiry gid u lane s
  | .groupResourcesReturn gid => execGroupResourcesReturn gid s
  | .cancelMessage die inst => execCancelMessage die inst s
  | .preemptRequest gid fromReset => execPreemptRequest gid fromReset s
  | .timeSliceExpiry gid => execTimeSliceExpiry gid s
  | .drainLimit gid => execDrainLimit gid s
  | .saveComplete gid => execSaveComplete gid s
  | .preemptRetry gid => execPreemptRetry gid s
  | .restoreGroup gid => execRestoreGroup gid s
  | .groupDispatch die launch => execGroupDispatch die launch s
  | .stealRequest victim thief launch => execStealRequest ⟨victim, thief⟩ launch s
  | .stealReply victim thief launch => execStealReply victim thief launch s
  | .backfillAgeLimit die => execBackfillAgeLimit die s
  | .priorityWaitExpiry die launch => execPriorityWaitExpiry die launch s
  | .qDoorbell q => execQDoorbell q s
  | .qReset q v => execQReset q v s
  | .qCtlWrite q v => execQCtlWrite q v s
  | .registerWrite part port off v => execRegisterWrite part port off v s
  | .jobStart q => execJobStart q s
  | .phaseStart q => execPhaseStart q s
  | .graphSubmit q => execGraphSubmit q s
  | .launch q => execLaunch q s
  | .copy q => execCopy q s
  | .signalMem q => execSignalMem q s
  | .waitMem q => execWaitMem q s
  | .cancelCommand q => execCancelCommand q s
  | .partitionFence q => execPartitionFence q s
  | .commandBegin q => execCommandBegin q s
  | .waitMemReread q => execWaitMemReread q s
  | .waitMemTimeout q => execWaitMemTimeout q s
  | .nodeFinish graph node => execNodeFinish graph node s
  | .copyFinish inst => execCopyFinish inst s
  | .tlbiAddress part => execTlbiAddress part s
  | .tlbiContext part => execTlbiContext part s
  | .tlbiAll part => execTlbiAll part s
  | .tlbiComplete part => execTlbiComplete part s
  | .tlbMissRequest core ctx va => execTlbMissRequest core ctx va s
  | .walkStart die => execWalkStart die s
  | .walkReadComplete die wid => execWalkReadComplete die wid s
  | .l2Request r => execL2Request r s
  | .l2Fill key => execL2Fill key s
  | .invalidateProbe core line => execInvalidateProbe core line s
  | .invalidateAck core line => execInvalidateAck core line s
  | .l1Writeback core line => execL1Writeback core line s
  | .vaultRequest r => execVaultRequest r s
  | .ottEntryGrant core => execOttEntryGrant core s
  | .replicaStore w => execReplicaStore w.toReplPage w.off w.bytes s
  | .replicaWrite die frame ok => execReplicaWrite die frame ok s
  | .divergedHold die k => execDivergedHold die k s
  | .holdComplete die k => execHoldComplete die k s
  | .divergedClear die k => execDivergedClear die k s
  | .meshPacketHop die router out => execMeshPacketHop die router out s
  | .packetDelivery pid => execPacketDelivery pid s
  | .reorderCreditRequest src dst cls => execReorderCreditRequest src dst cls s
  | .reorderCreditGrant dst cls => execReorderCreditGrant dst cls s
  | .deliveryConfirmation src dst cls => execDeliveryConfirmation src dst cls s
  | .permitAudit link ch => execPermitAudit link ch s
  | .auditMarker link ch => execAuditMarker link ch s
  | .auditMarkerReturn link ch => execAuditMarkerReturn link ch s
  | .channelRestart link ch => execChannelRestart link ch s
  | .linkTraining link peerRevs ok => execLinkTraining link peerRevs ok s
  | .moduleRetrain link m width => execModuleRetrain link m width s
  | .linkFailed link => execLinkFailed link s
  | .axsisFlitRetry port flit => execAxsisFlitRetry port flit s
  | .axsisPortRetrain port lanes => execAxsisPortRetrain port lanes s
  | .axsisRead p => execAxsisRead p s
  | .readReply p => execReadReply p s
  | .axsisWrite p => execAxsisWrite p s
  | .writeAcknowledgement p => execWriteAcknowledgement p s
  | .axsisAtomic p => execAxsisAtomic p s
  | .atomicReply p => execAtomicReply p s
  | .contribution p => execContribution p s
  | .partialArrival p => execPartialArrival p s
  | .completion p => execCompletion p s
  | .notice p => execNotice p s
  | .flowAcknowledgement p => execFlowAcknowledgement p s
  | .axsisResendTimeout gw dst seq => execAxsisResendTimeout gw dst seq s
  | .reductionTimeout job ident => execReductionTimeout job ident s
  | .retentionExpiry job ident => execRetentionExpiry job ident s
  | .switchSlotTimeout sw job ident => execSwitchSlotTimeout sw job ident s
  | .rekeyRequest job holder => execRekeyRequest job holder s
  | .inboundPostedWrite t => execInboundPostedWrite t s
  | .inboundRead t => execInboundRead t s
  | .inboundAtomicop t => execInboundAtomicop t s
  | .hostReadCompletion tag ok data => execHostReadCompletion tag ok data s
  | .hostCompletionTimeout tag => execHostCompletionTimeout tag s
  | .xpartRequest importer exporter r => execXpartRequest importer exporter r s
  | .xwinDrained part k => execXwinDrained part k s
  | .partReset part => execPartReset part s
  | .partResetScrub part => execPartResetScrub part s
  | .functionLevelReset die => execFunctionLevelReset die s
  | .resetWaitExpiry part => execResetWaitExpiry part s
  | .evtRidxWrite part v => execEvtRidxWrite part v s
  | .patrolScrub die line => execPatrolScrub die line s
  | .packagePowerOn => execPackagePowerOn s
  | .dieRelease die => execDieRelease die s
  | .fullService => execFullService s
  | .jobKey part ctx tag gateways switches => execJobKey part ctx tag gateways switches s
  | .jobRekey part ctx => execJobRekey part ctx s
  | .jobClear part ctx => execJobClear part ctx s
  | .fwStage part img => execFwStage part img s
  | .getVersion port => execGetVersion port s
  | .getCapabilities port => execGetCapabilities port s
  | .negotiateAlgorithms port => execNegotiateAlgorithms port s
  | .getDigests port => execGetDigests port s
  | .getCertificate port => execGetCertificate port s
  | .challenge port nonce => execChallenge port nonce s
  | .getMeasurements port index => execGetMeasurements port index s
  | .keyExchange port => execKeyExchange port s
  | .finish port session => execFinish port session s
  | .keyUpdate port session => execKeyUpdate port session s
  | .heartbeat port session => execHeartbeat port session s
  | .endSession port session => execEndSession port session s
  | .ideKm port session stream key => execIdeKm port session stream key s
  | .governorWindow part milliwatts => execGovernorWindow part milliwatts s
  | .pwrLimitWrite part v => execPwrLimitWrite part v s
  | .thermalThrottle die => execThermalThrottle die s
  | .thermalRecover die => execThermalRecover die s
  | .thermalTrip die => execThermalTrip die s
  | .illegalOp r => execIllegalOp r s
  | .pciExpressPortTraining die => execPciExpressPortTraining die s
  | .ctxRootWrite ctx v => execCtxRootWrite ctx v s

end Sys2Proof.Machine
end

