-- ==== Sys2Proof/Machine/Turn.lean ====
section
/-! DEFINITION. What comes next: the issue groups that stand ready, how a quadrant and the access engine choose among theirs,
and fetching and running one instruction (R17, R18, R104, R133, R335, R414). -/
namespace Sys2Proof.Machine
open Sys2Proof

/-- An issue group that could issue. -/
structure Cand where
  gid : Nat
  unit : Nat
  lanes : Word
  addr : Nat
deriving DecidableEq, Repr

/-- The lanes of a unit that could issue: not exited, waiting for nothing. -/
def Crew.readyLanes (c : Crew) (u : Nat) : List Nat :=
  (if u = 32 then [0] else allLanes).filter (fun l => !c.out l && decide (c.waitOf l = .ready))

/-- The lanes of a unit that stand before their next instruction: while a `QBPUSH` waits at a full back queue, the crew's other lanes do not
issue past it (R346). -/
def Crew.openLanes (c : Crew) (u : Nat) : List Nat :=
  let ls := c.readyLanes u
  match c.stall with
  | some (.backFull _ m) => (match ls.filter (fun l => m.getLsbD l) with
    | [] => ls
    | held => held)
  | _ => ls

/-- The model's instant since which the issue group at an address has been ready; one not ready yet comes after. -/
def Crew.readyFrom (c : Crew) (a : Nat) (last : Nat) : Nat := nget (fun _ => last) c.readySince a

/-- The issue groups of a unit, the one that has been ready longest first, ties to the lowest lane (R414). -/
def Group.issueGroups (g : Group) (u : Nat) : List Cand :=
  let c := g.unit u
  if g.flights.any (fun f => decide (f.unit = u) && f.holds) then []
  else
    let ls := c.openLanes u
    let pcs := (ls.map c.pcOf).eraseDups
    let group := fun (a : Nat) => ls.filter (fun l => c.pcOf l = a)
    let last := c.readySince.foldl (fun n y => max n (y.2 + 1)) 0
    let key := fun (a : Nat) => c.readyFrom a last
    let sorted := pcs.foldl (fun (l : List Nat) a =>
      l.takeWhile (fun b => decide (key b ≤ key a)) ++ [a] ++ l.dropWhile (fun b => decide (key b ≤ key a))) []
    sorted.map (fun a => { gid := g.id, unit := u, lanes := (group a).foldl (fun (m : Word) l => setLane m l true) 0, addr := a })

/-- Puts an issue group at its instruction. -/
def State.atCand (s : State) (c : Cand) (len : Nat) : State :=
  { s with cur := some { gid := c.gid, unit := c.unit, lanes := c.lanes, addr := c.addr, ilen := len } }

/-- The trap of a fetch that fails at byte `a` (R104). -/
def fetchTrap (c : Cand) (f : XFault) (a : Nat) : Trap :=
  { cause := f.cause, lane := lowest c.lanes, detail := f.detail, addr := a, first := c.addr }

/-- What a fetch gives: the instruction's bytes and the state that has cached them, or a trap (R104). -/
def State.fetch (s : State) (g : Group) (c : Cand) : Except Trap (List Byte × State) :=
  match s.fetchCode g c.addr 4 with
  | .error (f, a) => .error (fetchTrap c f a)
  | .ok xs =>
    let n := lengthOf (ofLeBytes (xs.map (fun x => x.1)))
    match s.fetchCode g ((c.addr + 4) % 2 ^ 57) (n - 4) with
    | .error (f, a) => .error (fetchTrap c f a)
    | .ok ys => .ok ((xs ++ ys).map (fun x => x.1), s.noteFetch g (xs ++ ys))

/-- Fetches, decodes and executes the instruction of an issue group. -/
def State.runUnit (s : State) (c : Cand) : Out :=
  match s.group? c.gid with
  | none => .next s
  | some g =>
    match s.fetch g c with
    | .error t => .next ((s.raise c.gid c.unit t).settle c.gid)
    | .ok (bs, s1) =>
      match decode bs with
      | .error r => settled (s1.atCand c 4) (execIllegalOp r (s1.atCand c 4))
      | .ok i => exec i (s1.atCand c bs.length)

/-- The unit as it stands. -/
def State.unitOf (s : State) (c : Cand) : Option Crew := (s.group? c.gid).map (fun g => g.unit c.unit)

/-- The unit's note of why it waits. -/
def State.noteOf (s : State) (c : Cand) : Option Stall := (s.unitOf c).bind (fun k => k.stall)

/-- What trying an issue group's instruction leads to where it cannot issue now: a state that only notes why (R414). -/
def State.tried (s : State) (c : Cand) : Option State :=
  match (s.onGroup c.gid (fun g => g.setUnit c.unit { g.unit c.unit with stall := none })).runUnit c with
  | .next t => if (t.noteOf c).isSome then some t else none
  | _ => none

/-- The issue group's instruction cannot issue now. -/
def State.blocked (s : State) (c : Cand) : Bool := (s.tried c).isSome

/-- An issue group begins to wait: trying it notes what is not noted yet. -/
def State.beginsWait (s : State) (c : Cand) : Bool :=
  match s.tried c with
  | none => false
  | some t =>
    (match s.unitOf c, t.unitOf c with
     | some a, some b => a.stall.isNone || decide (a.hungry ≠ b.hungry) || decide (a.waitCp ≠ b.waitCp) ||
        (decide (a.stall ≠ b.stall) && (decide (c.unit = 32) || (match b.stall with
          | some (.backFull _ _) => true
          | _ => false)))
     | _, _ => true) || s.groups.any (fun g => decide (g.id = c.gid) &&
        decide ((t.core g.loc.flat).ottWait.length ≠ (s.core g.loc.flat).ottWait.length))

/-! ### Quadrants (R413, R414) -/

/-- What a crew is chosen by among the crews of its quadrant, lowest first (R414). -/
def crewKey (g : Group) (u : Nat) : List Nat :=
  let c := g.unit u
  let old := decide (64 ≤ c.age)
  [if c.hmode then 0 else 1, if old then 0 else 1, if old then c.ripe else 0, if c.yielded then 1 else 0, 3 - g.prio,
    g.order, u]

/-- Lexicographic order of keys. -/
def keyLe : List Nat → List Nat → Bool
  | [], _ => true
  | _ :: _, [] => false
  | a :: l, b :: m => if a = b then keyLe l m else decide (a < b)

/-- The units of a group that act, with their issue groups. -/
def Group.cands (g : Group) : List (Nat × List Cand) :=
  (g.acting.filter (fun u => decide (u ≠ 32) || !g.sliceEnded)).filterMap (fun u =>
    match g.issueGroups u with
    | [] => none
    | l => some (u, l))

/-- Where a unit issues: the core and its quadrant, 4 for the access engine. -/
def Group.placeOfUnit (g : Group) (u : Nat) : Nat × Nat := (g.loc.flat, if u = 32 then 4 else (g.unit u).quadrant)

/-- Every issue group that stands ready, unit by unit, in the order its quadrant or engine would take the units. -/
structure Ready where
  place : Nat × Nat
  key : List Nat
  cands : List Cand
deriving DecidableEq, Repr

/-- What a slice is chosen by on its core, lowest first: the handler's, then by round robin, one that yielded last (R335,
R141). -/
def sliceKey (s : State) (g : Group) : List Nat :=
  let here := (s.groups.filter (fun h => h.loc.flat = g.loc.flat)).map (fun h => h.id)
  let n := here.length
  let k := (here.findIdx? (fun x => x = g.id)).getD 0
  [if g.slice.hmode then 0 else 1, if g.slice.yielded then 1 else 0, (k + n - (s.core g.loc.flat).aae % n) % n]

/-- The units that stand ready, sorted within each place. -/
def State.readyUnits (s : State) : List Ready :=
  let all := s.groups.flatMap (fun g => g.cands.map (fun x =>
    { place := g.placeOfUnit x.1, key := if x.1 = 32 then sliceKey s g else crewKey g x.1, cands := x.2 : Ready }))
  all.foldl (fun (l : List Ready) r =>
    l.takeWhile (fun y => keyLe y.key r.key) ++ [r] ++ l.dropWhile (fun y => keyLe y.key r.key)) []

/-- A step that could come next. -/
inductive Move where
  | unit (c : Cand)
  | due (k : Nat)
  | input
deriving DecidableEq, Repr

/-- The issue group that a place issues: of the first unit that can, the first group that can (R414, R335). -/
def State.winner (s : State) (rs : List Ready) : Option Cand :=
  (rs.filterMap (fun r => r.cands.find? (fun c => !s.blocked c))).head?

/-- The moves of the ready units: for each place its winner, and each unit that begins to wait. -/
def State.unitMoves (s : State) : List Move :=
  let rs := s.readyUnits
  let places := (rs.map (fun r => r.place)).eraseDups
  let wins := places.filterMap (fun p => (s.winner (rs.filter (fun r => r.place = p))).map Move.unit)
  let begins := (rs.flatMap (fun r => r.cands)).filter s.beginsWait
  wins ++ begins.map Move.unit

/-- Of an inbound write, the register or doorbell of its port that it writes (R473). -/
def writeKey (t : Tlp) : List (List Nat) :=
  match tlpPlace t with
  | .window o => [[4, t.port, o / 8]]
  | .doorbell o => [[5, t.port, o / 8]]
  | _ => []

/-- What posted steps and inputs are taken in the order they came by (R316, R318, R328, R329, R368, R369, R372, R473): stores to one replicated
page, requests for one line at its home and on their way to another partition, requests of one requester through one port, writes of one register
through one port. -/
def flowKeys : Ev → List (List Nat)
  | .replicaStore w => [[0, w.frame, w.queue / 64]]
  | .xpartRequest importer exporter r => [[1, importer, exporter, lineOf r]]
  | .l2Request r => [[2, r.part, lineOf r]]
  | .vaultRequest r => [[2, r.part, lineOf r]]
  | .inboundPostedWrite t => [3, t.port, t.requester] :: writeKey t
  | .inboundRead t => [[3, t.port, t.requester]]
  | .inboundAtomicop t => [[3, t.port, t.requester]]
  | _ => []

/-- An earlier posted step goes before this one. -/
def heldBack (before : List Ev) (e : Ev) : Bool :=
  match flowKeys e with
  | [] => false
  | ks => before.any (fun d => (flowKeys d).any ks.contains)

/-- A write-combining entry whose 4,096 cycles have passed drains now (R231). -/
def State.overdue (s : State) (e : Ev) : Bool :=
  match e with
  | .wcbDrainTimeout c line => (s.core c).wcb.any (fun y => decide (y.line = line) && decide (y.since + 4096 ≤ s.now (c / 96)))
  | _ => false

/-- The posted steps that could come next. -/
def State.dueMoves (s : State) : List Nat :=
  (natsFrom 0 s.due.length).filter (fun k => match s.due[k]? with
    | some e => !heldBack (s.due.take k) e
    | none => false)

/-- Every move. A single issue group with nothing else to do is not looked into. -/
def State.moves (s : State) : List Move :=
  if s.due.isEmpty && s.inputs.isEmpty then
    match s.readyUnits with
    | [r] => match r.cands with
      | [c] => [.unit c]
      | _ => s.unitMoves
    | _ => s.unitMoves
  else match (natsFrom 0 s.due.length).find? (fun k => (s.due[k]?).any s.overdue) with
    | some k => [.due k]
    | none => s.unitMoves ++ s.dueMoves.map Move.due ++ (if s.inputs.isEmpty then [] else [Move.input])

/-- The move that comes next: where several could, the free value says which (R17, R18, R133). -/
def State.turn (s : State) : Option Move :=
  match s.moves with
  | [] => none
  | [m] => some m
  | m :: ms => some (lget m (m :: ms) (Config.pick s.free % (ms.length + 1)))

/-! ### What surrounds each step -/

/-- The crew was ready in a cycle and did not issue, at instant `now` of the model. -/
def Crew.older (k : Crew) (now : Nat) : Crew := { k with age := k.age + 1, ripe := if k.age + 1 = 64 then now else k.ripe }

/-- No other unit's `YIELD` outlives an issue at its place (R141). -/
def State.unyield (s : State) (p : Nat × Nat) (c : Cand) : State :=
  (s.groups.filter (fun h => decide (h.loc.flat = p.1))).foldl (fun (t : State) h =>
    (h.acting.filter (fun u => (h.unit u).yielded && decide (h.placeOfUnit u = p) && decide (h.id ≠ c.gid ∨ u ≠ c.unit))).foldl (fun (t : State) u =>
      t.onGroup h.id (fun k => k.setUnit u { k.unit u with yielded := false })) t) s

/-- After an issue at a place: the other crews of a quadrant that could have issued grow older (R414); the access engine's pointer moves on
(R335). -/
def State.aged (s : State) (before : State) (c : Cand) : State :=
  match before.group? c.gid with
  | none => s
  | some g =>
    let p := g.placeOfUnit c.unit
    if p.2 = 4 then s.setCore p.1 { s.core p.1 with aae := (s.core p.1).aae + 1 }
    else
      (before.readyUnits.filter (fun r => decide (r.place = p))).foldl (fun (t : State) r =>
        match r.cands with
        | [] => t
        | d :: _ =>
          if d.gid = c.gid ∧ d.unit = c.unit then t
          else if r.cands.any (fun e => !before.blocked e) then
            t.onGroup d.gid (fun h => h.setUnit d.unit ((h.unit d.unit).older before.free))
          else t) s

/-- The access slice waits at an empty back queue: `sr.decoup` reads 1 (R344). -/
def Group.isCoupled (g : Group) : Bool :=
  match g.slice.stall with
  | some (.backEmpty _) => true
  | _ => false

/-- Local time passes on every die of a partition (R9), and is counted for the groups whose slices are coupled (R344). -/
def State.pass (s : State) : State :=
  let s1 := (s.groups.filter Group.isCoupled).foldl (fun (t : State) g =>
    t.onGroup g.id (fun h => { h with coupled := h.coupled + Config.elapsed s.free g.loc.die })) s
  (s.parts.flatMap (fun p => p.dies)).foldl (fun (t : State) d =>
    { t with cycle := ninsert t.cycle d (t.now d + Config.elapsed s.free d) }) s1

/-- Notes since when each issue group of the diverged crews has been ready (R414). -/
def State.watchReady (s : State) : State :=
  s.groups.foldl (fun (t : State) h =>
    let cs := h.cands
    h.units.foldl (fun (t : State) u =>
      let here := ((cs.find? (fun x => x.1 = u)).map (fun x => x.2)).getD []
      let old := (h.unit u).readySince
      match here with
      | [] => if old.isEmpty then t else t.onGroup h.id (fun g => g.setUnit u { g.unit u with readySince := [] })
      | [a] => if old.isEmpty && (h.unit u).wait.isEmpty && (h.unit u).exited = 0 then t
        else t.onGroup h.id (fun g =>
          let k := g.unit u
          g.setUnit u { k with readySince := if s.blocked a then [] else [(a.addr, k.readyFrom a.addr s.free)] })
      | _ => t.onGroup h.id (fun g =>
          let k := g.unit u
          g.setUnit u { k with readySince := (here.filter (fun c => !s.blocked c)).foldl (fun m c => ninsert m c.addr (k.readyFrom c.addr s.free)) [] })) t) s

/-- Dirty bytes of a sector of a line in a core's L1 are marked poisoned, which is reported once (R492, R493). -/
def State.poisonDirty (s : State) (c line k : Nat) : State :=
  match nfind? (s.core c).l1 line with
  | none => s
  | some l =>
    if bits l.dirty (48 * k + 47) (48 * k) = 0 ∨ l.bad.testBit k then s
    else (s.setCore c { s.core c with l1 := ninsert (s.core c).l1 line { l with bad := l.bad + 2 ^ k } }).event
      (((s.partOfDie (c / 96)).map (fun (x : Part) => x.id)).getD 0) { typ := 0x02, action := s.openAction, pos := posOf c, detail := 2 ^ k, addr := line * 192 }

/-- What an error found in storage does: a group's own is charged to it, one of a core or of a shared structure tears queues down
(R492, R493, R495, Table 18-3). -/
def State.strike (s : State) : Damage → State
  | .corrected part die ukind unit => s.corrected part die ukind unit
  | .sector part die ukind unit addr => s.poisonSector part die ukind unit addr
  | .owned gid => s.contain gid 0x21
  | .dirty c line k => s.poisonDirty c line k
  | .core c => (((s.groups.filter (fun (g : Group) => g.resident && decide (g.loc.flat = c))).map (fun (g : Group) => g.queue)).eraseDups).foldl (fun (t : State) q => t.teardown q 3 (c / 96)) s
  | .shared p => (s.busyQueues p).foldl (fun (t : State) q => t.teardown q 3 (s.leadDie p)) s

/-- The errors found at this instant. -/
def State.strikes (s : State) : State := (s.damage.filter (fun x => decide (x.1 = s.free))).foldl (fun (t : State) x => t.strike x.2) s

/-- Units whose barrier operation waits try again (R291), a group whose units have ended commits its last stores once none is held back (R320),
barriers of gangs and die shares are held against who has ended (R288), and the free values move on. -/
def State.tail (s : State) : State :=
  let waiting := s.groups.filter (fun g => g.units.any (fun u => (g.unit u).pendBar.isSome) || (g.finished && !g.phase.ends && g.resident))
  let s0 := waiting.foldl (fun (t : State) g => t.settle g.id) s
  let s1 := ((s0.groups.filter (fun g => g.phase.ends)).foldl (fun (t : State) g => t.settleOuter g.id) s0).watchReady
  { s1.pass.strikes with free := s.free + 256, cur := none }

/-- What follows a step. -/
def after (o : Out) : Out :=
  match o with
  | .next t => .next t.tail
  | o => o

/-- Only one issue group was ready: nothing ages. -/
def State.alone (s : State) : Bool := decide (s.readyUnits.length ≤ 1)

/-- After an issue group's move: what surrounds an issue; a try that only left a note is none. -/
def State.issued (before : State) (s : State) (c : Cand) : State :=
  match before.group? c.gid with
  | none => s
  | some g =>
    if before.alone then s.unyield (g.placeOfUnit c.unit) c
    else if before.blocked c then s
    else (s.aged before c).unyield (g.placeOfUnit c.unit) c

/-- Runs a move. -/
def State.runMove (s : State) (m : Move) : Out :=
  match m with
  | .unit c =>
    match s.runUnit c with
    | .next t => .next (s.issued t c)
    | o => o
  | .due k =>
    match s.due[k]? with
    | some e => runEv e { s with due := s.due.eraseIdx k, cur := none }
    | none => .next s
  | .input =>
    match s.inputs with
    | e :: r => if heldBack s.due e then .next { s with inputs := r, due := s.due ++ [e], cur := none } else runEv e { s with inputs := r, cur := none }
    | [] => .next s

end Sys2Proof.Machine
end

