-- ==== Sys2Proof/Machine/Place.lean ====
section
/-! DEFINITION. A group laid directly on a core with one instruction before it: the stand-in for the boot, the host's queue
and the dispatch that would bring it there (log entry 11). -/
namespace Sys2Proof.Machine
open Sys2Proof

/-- Where the placed instruction lies. -/
def placeAddr : Nat := 0x1000
/-- Where the placed page tables lie: levels 4, 3 and 2. -/
def placeTable : Nat := 0x10000

/-- A descriptor that declares every resource. -/
def placeDesc : Desc :=
  { addr := 0, exec := placeAddr, access := placeAddr, nv := 255, ns := 63, nsa := 63, nt := 16, na := 8, bsbg := 1, scr256 := 16
    cores := 0, idem := false, inh := none, estimate := 0, fq := List.replicate 8 ⟨6, 4⟩, bq := List.replicate 4 ⟨6, 4⟩ }

/-- A group of one crew on core 0 of cluster 0 of die 0, in context 0, whose crew or access slice stands at the placed
instruction. -/
def placeGroup (id : Nat) (inSlice : Bool) : Group :=
  { id := id, launch := 0, g := 0, ctx := 0, queue := 0, prio := 0, part := 0, pos := ⟨0, 0, 0⟩, loc := ⟨0, 0, 0⟩, desc := placeDesc
    launchId := 0, gid := (0, 0, 0), ngroups := (1, 1, 1), param := 0x2000, paramLen := 0
    crews := [if inSlice then Crew.fresh [] (BitVec.allOnes 32) 0 else Crew.fresh (allLanes.map (fun l => (l, placeAddr))) 0 0]
    slice := if inSlice then Crew.fresh [(0, placeAddr)] 0xFFFFFFFE 0 else Crew.fresh [] (BitVec.allOnes 32) 0
    fq := [], bq := [], handles := [], bars := [], bsb := [], flights := [], cmds := [], scrBase := 0, scratch := []
    committed := false, chain := false, retired := 0, phase := .live, pend := [], slot := none, gang := 0, order := 0, since := 0
    coupled := 0, wanted := none, qreplays := [] }

/-- The partition of die 0 alone. -/
def placePart : Part := { id := 0, dies := [0], state := 0, channels := [64] }

/-- A state with page tables that map the first 2^34 bytes of context 0 to the first bytes of the hashed window. -/
def State.withTables (s : State) : State :=
  let s0 := { s with parts := [placePart], peer := 0, memKey := [] }
  let s1 := s0.setReg 0 0x10000 (placeTable + 1)
  let put := fun (t : State) (a v : Nat) => t.putBytes (storage (t.view 0) a) (leBytes 8 v)
  let s2 := put s1 placeTable (placeTable + 0x1000 + 1)
  let s3 := put s2 (placeTable + 0x1000) (placeTable + 0x2000 + 1)
  put s3 (placeTable + 0x2000) (7 * 2 ^ 61 + 0x81F)

/-- A state in which one group stands before the bytes `bs` and nothing else could come next. -/
def State.placed (s : State) (bs : List Byte) (inSlice : Bool) : State :=
  let s1 := s.withTables
  { s1.putBytes (storage (s1.view 0) placeAddr) bs with
    cur := none, due := [], inputs := [], upsets := [], damage := [], cores := [], xlate := [], poison := [], listed := [], groups := [placeGroup s.nextId inSlice]
    nextId := s.nextId + 1 }

end Sys2Proof.Machine
end

