-- ==== Sys2Proof/Machine/Step.lean ====
section
/-! DEFINITION. One step of the machine, and a state laid out so that the next step runs a given instruction. -/
namespace Sys2Proof.Machine
open Sys2Proof

/-- One step: the issue group, posted hardware step or input that comes next runs; with none, only time passes. -/
def step (s : State) : Host.Outcome State Fault Refusal :=
  match s.turn with
  | none => .next s.tail
  | some m => after (s.runMove m)

/-- The instruction whose bits are `w` (bit 0 lowest in the first word, those above `nbits` zero) stored where the next step
fetches it: in a crew, or in an access slice when only that may issue it. -/
def State.withFetchWord (s : State) (nbits w : Nat) : State :=
  let bs := leBytes 12 (w % 2 ^ nbits)
  s.placed bs (match decode bs with
    | .ok i => !(rowOf i).crew
    | .error _ => false)

end Sys2Proof.Machine
end

