-- ==== Sys2Proof/Safety.lean ====
section
/-! DEFINITION. The terms that the statements are made in: an instruction that issues, the state once it has begun, what each
register instruction leaves in its destination, what a frame is, and the invariant of the machine. -/
namespace Sys2Proof.Machine
open Sys2Proof

/-! ### An instruction that issues (R108, R109, R421) -/

/-- Instruction `i` issues in state `s` as the issue group `u` of group `g`: the group and the unit exist, the checks of
Table 03-10 that read the unit pass, no register it names is awaited, and no checker finds the unit faulty. -/
structure Issues (i : Instr) (s : State) (u : Issue) (g : Group) : Prop where
  cur : s.cur = some u
  group : s.group? u.gid = some g
  unit : g.hasUnit u.unit = true
  legal : illegalDetail i (mkCtx i u (g.unit u.unit)) g (g.unit u.unit) = none
  ready : interlocked i (mkCtx i u (g.unit u.unit)) g = false
  sound : s.upsets.contains s.free = false

/-- The context of an issue. -/
def issueCtx (i : Instr) (u : Issue) (g : Group) : Ctx := mkCtx i u (g.unit u.unit)
/-- The issuing crew once its lanes have moved past the instruction. -/
def begunCrew (i : Instr) (u : Issue) (g : Group) : Crew := (issueCtx i u g).advance (g.unit u.unit)
/-- The group with that crew, the instruction counted. -/
def begunGroup (i : Instr) (u : Issue) (g : Group) : Group :=
  { g.setUnit u.unit (begunCrew i u g) with retired := g.retired + 1 }
/-- The state with that group. -/
def begunState (i : Instr) (s : State) (u : Issue) (g : Group) : State := s.setGroup (begunGroup i u g)
/-- The state in which the instruction has left crew `c` in its unit and nothing else. -/
def leaves (i : Instr) (s : State) (u : Issue) (g : Group) (c : Crew) : State :=
  (begunState i s u g).setUnit (begunGroup i u g) u.unit c
/-- The trap of an instruction at its own address is taken, with none of its effect. -/
def trapped (i : Instr) (s : State) (u : Issue) (g : Group) (cause lane detail addr : Nat) : State :=
  s.raise u.gid u.unit ((issueCtx i u g).trapOf cause lane detail addr)

/-! ### What the register instructions write (Tables 05-2 and 06-1) -/

/-- An integer result of type T: exact, clamped under SAT, its low bits written (R144, R146). -/
def intOut (x : Ctx) (v : Int) : Nat := intResult x.fl.h.typ x.fl.h.sat v
/-- Operand A, B or C of lane `l` as an integer of the type. -/
def intA (x : Ctx) (c : Crew) (l : Nat) : Int := asInt x.fl.h.typ (x.a c l)
def intB (x : Ctx) (c : Crew) (l : Nat) : Int := asInt x.fl.h.typ (x.b c l)
def intC (x : Ctx) (c : Crew) (l : Nat) : Int := asInt x.fl.h.typ (x.c c l)
/-- The width of the type, and the shift count of operand B. -/
def wid (x : Ctx) : Nat := tyBits x.fl.h.typ
def cnt (x : Ctx) (c : Crew) (l : Nat) : Nat := x.b c l % 2 ^ 32
/-- The bits of a lane's predicates as a number (R158). -/
def predWord (c : Crew) (l : Nat) : Nat := (natsFrom 0 16).foldl (fun n k => n + (if predAt c k l then 2 ^ k else 0)) 0

/-- The value that an integer, bit-field or move instruction writes to D in an active lane. -/
def integerValue : Instr → Option (Ctx → Crew → Nat → Nat)
  | .iadd _ _ | .iadd12 _ _ _ => some fun x c l => intOut x (intA x c l + intB x c l)
  | .isub _ _ | .isub12 _ _ _ => some fun x c l => intOut x (intA x c l - intB x c l)
  | .ineg _ | .ineg8 _ _ => some fun x c l => intOut x (-intA x c l)
  | .imul _ _ | .imul12 _ _ _ => some fun x c l => intOut x (intA x c l * intB x c l)
  | .imulh _ _ | .imulh12 _ _ _ => some fun x c l => intOut x (intA x c l * intB x c l / (2 : Int) ^ wid x)
  | .imad _ _ | .imad12 _ _ _ => some fun x c l => intOut x (intA x c l * intB x c l + intC x c l)
  | .imin _ _ | .imin12 _ _ _ => some fun x c l => intOut x (if intA x c l ≤ intB x c l then intA x c l else intB x c l)
  | .imax _ _ | .imax12 _ _ _ => some fun x c l => intOut x (if intA x c l ≤ intB x c l then intB x c l else intA x c l)
  | .iabs _ | .iabs8 _ _ => some fun x c l => intOut x (if intA x c l < 0 then -intA x c l else intA x c l)
  | .iadif _ _ | .iadif12 _ _ _ => some fun x c l =>
      intOut x (if intA x c l - intB x c l < 0 then -(intA x c l - intB x c l) else intA x c l - intB x c l)
  | .shl _ _ | .shl12 _ _ _ => some fun x c l => shlV (wid x) (x.a c l) (cnt x c l)
  | .shr _ _ | .shr12 _ _ _ => some fun x c l => shrV (wid x) (x.a c l) (cnt x c l)
  | .sar _ _ | .sar12 _ _ _ => some fun x c l => sarV (wid x) (x.a c l) (cnt x c l)
  | .dsh _ _ | .dsh12 _ _ _ => some fun x c l => dshV (tySigned x.fl.h.typ) x.fl.h.sub.toNat (x.a c l) (x.b c l) (x.c c l)
  | .rot _ _ | .rot12 _ _ _ => some fun x c l =>
      if x.fl.h.sub = 0 then rolV (wid x) (x.a c l) (cnt x c l) else rorV (wid x) (x.a c l) (cnt x c l)
  | .lut3 _ _ _ => some fun x c l => lut3V x.fl.w.toNat (wid x) (x.a c l) (x.b c l) (x.c c l)
  | .popc _ | .popc8 _ _ => some fun x c l => popcV (wid x) (x.a c l)
  | .clz _ | .clz8 _ _ => some fun x c l => clzV (wid x) (x.a c l)
  | .ctz _ | .ctz8 _ _ => some fun x c l => ctzV (wid x) (x.a c l)
  | .brev _ | .brev8 _ _ => some fun x c l => brevV (wid x) (x.a c l)
  | .bfx _ _ | .bfx12 _ _ _ => some fun x c l => bfxV (tySigned x.fl.h.typ) (x.a c l) (x.b c l)
  | .bfi _ _ | .bfi12 _ _ _ => some fun x c l => bfiV (x.a c l) (x.b c l) (x.c c l)
  | .bsel _ _ | .bsel12 _ _ _ => some fun x c l => bselV (x.a c l) (x.b c l) (x.c c l)
  | .isel _ _ | .isel12 _ _ _ => some fun x c l => if npredAt c x.fl.h.c l then x.a c l else x.b c l
  | .mov _ | .mov8 _ _ => some fun x c l => x.a c l
  | .movi _ _ _ => some fun x _ _ => immOperand x.fl.h.typ x.fl.w
  | .p2v _ | .p2v8 _ _ => some fun _ c l => predWord c l
  | .s2v _ => some fun x c l => x.a c l
  | .s2v8 _ _ => some fun x c l => if x.fl.h.sub = 0 then x.a c l else (x.a c l + l * x.b c l) % 2 ^ 32
  | .lea _ _ | .lea12 _ _ _ => some fun x c l => leaV (tySigned x.fl.h.typ) x.fl.h.sub.toNat (x.a c l) (x.b c l)
  | _ => none

/-- The rounding and flush fields of an instruction. -/
def ctl (x : Ctx) : FCtl := fctl x.fl.h
/-- The format of the type field, and of a conversion's source code in C. -/
def fmtT (x : Ctx) : FFmt := ffOfTyp x.fl.h.typ
def fmtC (x : Ctx) : FFmt := ffOfTyp (BitVec.ofNat 5 x.fl.h.c.toNat)
/-- A special function of operand A: its pairable code tells which (R183). -/
def special (x : Ctx) (c : Crew) (l fn : Nat) : Nat := sfu fn x.fl.h.rnd.toNat x.fl.h.fzi x.fl.h.fzo (x.a c l)

/-- D before the instruction: a conversion to 16 bits or fewer may leave a part of it (R178). -/
def oldD (x : Ctx) (c : Crew) (l : Nat) : Nat := x.regN c false l x.fl.f.d.toNat x.row.d.count

/-- The value that a floating-point instruction writes to D in an active lane. -/
def floatValue : Instr → Option (Ctx → Crew → Nat → Nat)
  | .fadd _ _ | .fadd12 _ _ _ => some fun x c l => faddV fp32F (ctl x) false (x.a c l) (x.b c l)
  | .fsub _ _ | .fsub12 _ _ _ => some fun x c l => faddV fp32F (ctl x) true (x.a c l) (x.b c l)
  | .fmul _ _ | .fmul12 _ _ _ => some fun x c l => fmulV fp32F (ctl x) (x.a c l) (x.b c l)
  | .ffma _ _ | .ffma12 _ _ _ => some fun x c l => ffmaV fp32F (ctl x) x.fl.h.sub.toNat (x.a c l) (x.b c l) (x.c c l)
  | .fmin _ _ | .fmin12 _ _ _ => some fun x c l => fselV fp32F (ctl x) false false (x.a c l) (x.b c l)
  | .fmax _ _ | .fmax12 _ _ _ => some fun x c l => fselV fp32F (ctl x) true false (x.a c l) (x.b c l)
  | .fminp _ _ | .fminp12 _ _ _ => some fun x c l => fselV fp32F (ctl x) false true (x.a c l) (x.b c l)
  | .fmaxp _ _ | .fmaxp12 _ _ _ => some fun x c l => fselV fp32F (ctl x) true true (x.a c l) (x.b c l)
  | .fsel _ _ | .fsel12 _ _ _ => some fun x c l => if npredAt c x.fl.h.c l then x.a c l else x.b c l
  | .fclass _ _ => some fun x c l => (fmtT x).classBit (x.a c l % 2 ^ (fmtT x).width)
  | .fscale _ _ | .fscale12 _ _ _ => some fun x c l => fscaleV (ctl x) (x.a c l) (x.b c l)
  | .frnd _ | .frnd8 _ _ => some fun x c l => frndV (ctl x) (x.a c l)
  | .dadd _ _ => some fun x c l => faddV fp64F (ctl x) (decide (x.fl.h.sub.toNat = 1)) (x.a c l) (x.b c l)
  | .dmul _ _ => some fun x c l => fmulV fp64F (ctl x) (x.a c l) (x.b c l)
  | .dfma _ _ => some fun x c l => ffmaV fp64F (ctl x) x.fl.h.sub.toNat (x.a c l) (x.b c l) (x.c c l)
  | .hadd2 _ _ | .hadd212 _ _ _ => some fun x c l =>
      packed2 (fun p q _ => faddV (fmtT x) (ctl x) false p q) (x.a c l) (x.b c l) 0
  | .hmul2 _ _ | .hmul212 _ _ _ => some fun x c l => packed2 (fun p q _ => fmulV (fmtT x) (ctl x) p q) (x.a c l) (x.b c l) 0
  | .hfma2 _ _ | .hfma212 _ _ _ => some fun x c l =>
      packed2 (fun p q r => ffmaV (fmtT x) (ctl x) x.fl.h.sub.toNat p q r) (x.a c l) (x.b c l) (x.c c l)
  | .fdot2 _ _ => some fun x c l => fdotV (fmtT x) 16 2 (ctl x) (x.a c l) (x.b c l) (x.c c l)
  | .fdot4 _ _ => some fun x c l => fdotV (fmtT x) 8 4 (ctl x) (x.a c l) (x.b c l) (x.c c l)
  | .frcp _ | .frcp8 _ _ => some fun x c l => special x c l 136
  | .frsq _ | .frsq8 _ _ => some fun x c l => special x c l 137
  | .fsqrt _ | .fsqrt8 _ _ => some fun x c l => special x c l 138
  | .fex2 _ | .fex28 _ _ => some fun x c l => special x c l 139
  | .flg2 _ | .flg28 _ _ => some fun x c l => special x c l 140
  | .fsin _ | .fsin8 _ _ => some fun x c l => special x c l 141
  | .fcos _ | .fcos8 _ _ => some fun x c l => special x c l 142
  | .ftanh _ | .ftanh8 _ _ => some fun x c l => special x c l 143
  | .fcvt _ _ => some fun x c l => halfWrite x.fl.h.sub.toNat x.fl.h.typ (oldD x c l)
      (fcvtV (fmtC x) (fmtT x) (ctl x) (elemAt (fmtC x).width x.fl.h.b.toNat (x.a c l)))
  | .fcvti _ _ => some fun x c l => halfWrite x.fl.h.sub.toNat x.fl.h.typ (oldD x c l)
      (fcvtiV (fmtC x) x.fl.h.typ (ctl x) (elemAt (fmtC x).width x.fl.h.b.toNat (x.a c l)))
  | .icvtf _ _ => some fun x c l => halfWrite x.fl.h.sub.toNat x.fl.h.typ (oldD x c l)
      (icvtfV (BitVec.ofNat 5 x.fl.h.c.toNat) (fmtT x) (ctl x) (x.a c l))
  | .fdivf _ _ => some fun x c l => fdivfV (ctl x) (x.a c l) (x.b c l) (x.c c l)
  | _ => none

/-- The sum of a carry instruction, its carry-in C with it (R147). -/
def carrySum (x : Ctx) (c : Crew) (l : Nat) : Nat := x.a c l + x.b c l + (if npredAt c x.fl.h.c l then 1 else 0)
/-- What a borrow instruction takes from A (R147). -/
def borrowed (x : Ctx) (c : Crew) (l : Nat) : Nat := x.b c l + (if npredAt c x.fl.h.c l then 1 else 0)
/-- The wide sum of `IMADW`: A × B + C + the old D + 1 + the carry predicate (R148). -/
def wideSum (x : Ctx) (c : Crew) (l : Nat) : Nat :=
  x.a c l * x.b c l + x.c c l + (x.reg1 c (x.fl.f.d.toNat + 1) false l).toNat
    + (if x.fl.h.sub ≠ 15 ∧ predAt c x.fl.h.sub.toNat l then 1 else 0)

/-- What the compares, the carry chain and the predicate instructions leave of their crew. -/
def predicateEffect : Instr → Option (Ctx → Crew → Crew)
  | .iaddc _ _ | .iaddc12 _ _ _ => some fun x c =>
      x.eachCarry (x.eachD c (fun l => carrySum x c l % 2 ^ 32)) x.fl.h.sub.toNat (fun l => decide (2 ^ 32 ≤ carrySum x c l))
  | .isubc _ _ | .isubc12 _ _ _ => some fun x c =>
      x.eachCarry (x.eachD c (fun l => (x.a c l + 2 ^ 33 - borrowed x c l) % 2 ^ 32)) x.fl.h.sub.toNat
        (fun l => decide (x.a c l < borrowed x c l))
  | .imadw _ _ | .imadw12 _ _ _ => some fun x c =>
      x.eachCarry (x.eachD c (fun l => wideSum x c l % 2 ^ 64)) x.fl.h.sub.toNat (fun l => decide (2 ^ 64 ≤ wideSum x c l))
  | .isetp _ _ | .isetp12 _ _ _ => some fun x c =>
      x.eachP c x.fl.f.d.toNat (fun l => icmp x.fl.h.sub.toNat (intA x c l) (intB x c l) && npredAt c x.fl.h.c l)
  | .fsetp _ _ | .fsetp12 _ _ _ => some fun x c =>
      x.eachP c x.fl.f.d.toNat (fun l => fcmpV fp32F (ctl x) x.fl.h.sub.toNat (x.a c l) (x.b c l) && npredAt c x.fl.h.c l)
  | .dsetp _ _ => some fun x c =>
      x.eachP c x.fl.f.d.toNat (fun l => fcmpV fp64F (ctl x) x.fl.h.sub.toNat (x.a c l) (x.b c l) && npredAt c x.fl.h.c l)
  | .plop _ _ _ => some fun x c =>
      x.eachP c x.fl.f.d.toNat (fun l => lutBit x.fl.w.toNat (npredAt c x.fl.f.a l) (npredAt c x.fl.h.b l) (npredAt c x.fl.h.c l))
  | .v2p _ _ => some fun x c => x.each c (fun d l =>
      (natsFrom 0 15).foldl (fun e k => if bit (x.b c l) k then e.pset k l (bit (x.a c l) k) else e) d)
  | .v2s _ _ => some fun x c =>
      if x.act = 0 then c else
        c.sset x.fl.f.d.toNat (c.vget x.fl.f.a.toNat (if x.fl.h.sub = 0 then lowest x.act else x.b c 0 % 32))
  | .pairWord s0 s1 => some fun x c =>
      x.each c (fun d l => (d.vset s0.d.toNat l (slotResult s0 c l)).vset s1.d.toNat l (slotResult s1 c l))
  | _ => none

/-- The instructions whose whole effect is on the registers, predicates and program counters of their crew. -/
def registerOnly (i : Instr) : Bool := (integerValue i).isSome || (floatValue i).isSome || (predicateEffect i).isSome

/-! ### Cross-lane instructions -/

/-- What operand A of a lane gives a cross-lane instruction with member mask C (R199 to R205). -/
def crossSource : Instr → Option (Ctx → Crew → Nat → Nat)
  | .vote _ _ | .vote12 _ _ _ => some fun x c l => if npredAt c x.fl.f.a l then 1 else 0
  | .lpick _ _ | .lpick12 _ _ _ | .redux _ _ | .redux12 _ _ _ | .scan _ _ | .scan12 _ _ _ | .matchLanes _ _ | .matchLanes12 _ _ _ =>
      some fun x c l => x.a c l
  | .elect _ _ | .elect12 _ _ _ => some fun _ _ _ => 0
  | _ => none

/-- The token of the instructions whose member set is the whole crew or the access slice; only `BARW` has one (R206, R290). -/
def wholeToken : Instr → Option (Ctx → Crew → Nat)
  | .part _ | .part8 _ _ | .bar _ _ | .bar12 _ _ _ | .bara _ _ | .bara12 _ _ _ => some fun _ _ => 0
  | .barw _ _ => some fun x c => x.b c 0
  | .barw12 _ _ w => some fun _ _ => w.toNat
  | _ => none

/-! ### Frames -/

/-- A crew but for its vector and uniform registers, its predicates, its program counters and the record of its issue. -/
structure SameRest (c d : Crew) : Prop where
  tiles : d.t = c.t
  acc : d.acc = c.acc
  exited : d.exited = c.exited
  wait : d.wait = c.wait
  pass : d.pass = c.pass
  aside : d.aside = c.aside
  counters : (d.ld, d.st, d.cp, d.tl) = (c.ld, c.st, c.cp, c.tl)
  partw : d.partw = c.partw
  parks : d.parks = c.parks
  hmode : d.hmode = c.hmode
  traps : (d.tcause, d.tfirst, d.tfaddr) = (c.tcause, c.tfirst, c.tfaddr)
  latch : d.latch = c.latch
  logs : (d.log, d.qlog) = (c.log, c.qlog)
  coll : d.collTraps = c.collTraps
  bar : d.pendBar = c.pendBar

/-- A group but for one unit and its count of instructions: queues, handles, barriers, buffers, accesses, commands, its
scratchpad, its traps and the other units are unchanged. -/
structure SameGroup (u : Nat) (g h : Group) : Prop where
  others : ∀ w, w ≠ u → g.hasUnit w = true → h.unit w = g.unit w
  queues : (h.fq, h.bq) = (g.fq, g.bq)
  handles : h.handles = g.handles
  bars : h.bars = g.bars
  bsb : h.bsb = g.bsb
  flights : h.flights = g.flights
  cmds : h.cmds = g.cmds
  scratch : h.scratch = g.scratch
  phase : h.phase = g.phase
  pend : h.pend = g.pend
  slot : h.slot = g.slot
  committed : h.committed = g.committed

/-- A state but for one group: every byte of memory, every other group, every control register, core, queue, launch,
translation unit and counter of free values is unchanged. -/
structure SameState (gid : Nat) (s t : State) : Prop where
  memory : ∀ a, t.byteAt a = s.byteAt a
  others : ∀ n, n ≠ gid → t.group? n = s.group? n
  registers : ∀ p o, t.reg p o = s.reg p o
  cores : t.cores = s.cores
  queues : t.queues = s.queues
  work : (t.insts, t.launches, t.gangs, t.graphs, t.copies, t.slots, t.launchCount, t.onlyLaunch, t.served) =
    (s.insts, s.launches, s.gangs, s.graphs, s.copies, s.slots, s.launchCount, s.onlyLaunch, s.served)
  xlate : t.xlate = s.xlate
  homes : (t.dir, t.l2, t.listed, t.ingress, t.replies, t.poison) = (s.dir, s.l2, s.listed, s.ingress, s.replies, s.poison)
  fabric : (t.net, t.trust, t.remote, t.hostOut) = (s.net, s.trust, s.remote, s.hostOut)
  steps : (t.due, t.inputs, t.free, t.upsets, t.damage) = (s.due, s.inputs, s.free, s.upsets, s.damage)
  rest : (t.cur, t.parts, t.cycle, t.memKey, t.peer, t.nextId) = (s.cur, s.parts, s.cycle, s.memKey, s.peer, s.nextId)

/-- The registers and predicates of a crew are unchanged. -/
structure SameRegisters (c d : Crew) : Prop where
  vectors : ∀ k l, d.vget k l = c.vget k l
  uniforms : ∀ k, d.sget k = c.sget k
  predicates : ∀ k, d.pget k = c.pget k

/-- What an instruction that writes registers alone leaves: the state `t`, in which group `g` has become `h`. -/
structure RegistersOnly (s t : State) (u : Issue) (g h : Group) : Prop where
  state : SameState u.gid s t
  group : SameGroup u.unit g h
  crew : SameRest (g.unit u.unit) (h.unit u.unit)
  found : t.group? u.gid = some h

/-! ### The invariant -/

/-- Memory is listed in its canonical form, and no issue group is left over from an earlier step. -/
def Inv (s : State) : Prop := s.memWf = true ∧ s.cur = none

end Sys2Proof.Machine
end

