-- ==== Sys2Proof/Certificates/Slice0/Obligations.lean ====
section
/-! DEFINITION. The statements about the machine that the provers settle. -/
open Sys2Proof Sys2Proof.Machine

/-- Decoding the encoding of every well-formed instruction gives the instruction back. For every well-formed
instruction, with every field at every value its encoding admits, and whatever bytes follow it, the decoder reads the
bytes of its encoding as that instruction: no bit of a field is dropped and no two instructions share a word. -/
def Obligations.EncodedInstructionDecodesBack : Prop :=
  ∀ (i : Instr) (rest : List Byte), i.wf = true → decode (encode i ++ rest) = .ok i

/-- Bytes that decode are the encoding of what they decode to. Whenever bytes decode to an instruction, encoding that
instruction gives exactly the bytes it was read from, so each instruction has one encoding and every bit that the
decoder ignores would have been refused. -/
def Obligations.DecodedBytesAreTheirEncoding : Prop :=
  ∀ (bs : List Byte) (i : Instr), decode bs = .ok i →
    encode i = bs.take (encode i).length ∧ (encode i).length = lengthOf (ofLeBytes (bs.take 4))

/-- An encoding of a listed opcode is refused at the first of the steps 4, 5 and 6 that it fails. For every
instruction of a listed opcode and length, whatever its fields hold, its words are refused at step 4 when a field it
does not use is not zero, else at step 5 when its SUB, TYP or SAT is not accepted, else at step 6 when an operand
field is out of range, else decoded to it. (The words of TRET and TRET.end differ in D alone, so a TRET whose D is 1
stands for the other; pair words have a statement of their own.) -/
def Obligations.RefusedEncodingsNameTheFirstStepThatFails : Prop :=
  ∀ (i : Instr), (rowOf i).len ≠ 0 → (∀ f, i = .tret f → f.d ≠ 1) → (∀ f, i = .tretEnd f → f.d = 1) →
    (∀ a b, i ≠ .pairWord a b) →
    (fails4 (rowOf i) (fieldsOf i) = true → ∃ r, decode (encode i) = .error r ∧ r.why.step = 4) ∧
    (fails4 (rowOf i) (fieldsOf i) = false → fails5 (rowOf i) (fieldsOf i) = true →
      ∃ r, decode (encode i) = .error r ∧ r.why.step = 5) ∧
    (fails4 (rowOf i) (fieldsOf i) = false → fails5 (rowOf i) (fieldsOf i) = false → fails6 (rowOf i) (fieldsOf i) = true →
      ∃ r, decode (encode i) = .error r ∧ r.why.step = 6) ∧
    (fails4 (rowOf i) (fieldsOf i) = false → fails5 (rowOf i) (fieldsOf i) = false → fails6 (rowOf i) (fieldsOf i) = false →
      decode (encode i) = .ok i)

/-- Words written out in the spec decode to the instructions they stand for. The words of IADDC.n32 v2, p1, v0, v4,
p1 and of IMADW.n32 v8, p15, v0, v4, v255 that the spec writes out decode to those instructions with those fields;
the word 0x000003FC, which the spec names as a guaranteed illegal instruction, and the all-zero word are refused at
step 1. -/
def Obligations.SampleWordsDecode : Prop :=
  decodeWords 0x00013C89 0x12800104 0 =
      .ok (.iaddc ⟨15, false, 2, 0, false⟩ ⟨4, 1, false, false, 0, false, false, false, 5, 1⟩) ∧
    decodeWords 0x00043CA1 0xF280FF04 0 =
      .ok (.imadw ⟨15, false, 8, 0, false⟩ ⟨4, 255, false, false, 0, false, false, false, 5, 15⟩) ∧
    (∃ r, decodeWords 0x000003FC 0 0 = .error r ∧ r.why.step = 1) ∧ (∃ r, decodeWords 0 0 0 = .error r ∧ r.why.step = 1)

/-- A step that takes an issue group executes the instruction its bytes decode to. When the next turn is an issue
group's, its group exists, the fetch gives bytes and they decode to an instruction i, the step is exec of i with that
issue group as the one that issues; what the step adds is what surrounds an issue (the other ready crews of the
quadrant grow older, and a YIELD at the place is over) and the passing of time. -/
def Obligations.StepRunsTheDecodedInstruction : Prop :=
  ∀ (s s1 : State) (c : Cand) (g : Group) (bs : List Byte) (i : Instr),
    s.turn = some (.unit c) → s.group? c.gid = some g → s.fetch g c = .ok (bs, s1) → decode bs = .ok i →
    step s = match exec i (s1.atCand c bs.length) with
      | .next t => .next (s.issued t c).tail
      | .fault f => .fault f
      | .refused r => .refused r

/-- Bytes that decode to nothing raise ILLEGAL_OP, and a fetch that fails raises its own trap. When the next turn is
an issue group's and its bytes are refused for reason r, the step is exec of ILLEGAL_OP for r, after which the group
settles; when the fetch itself fails with a trap, the step takes that trap. -/
def Obligations.StepTrapsWhatDoesNotDecode : Prop :=
  (∀ (s s1 : State) (c : Cand) (g : Group) (bs : List Byte) (r : Reject),
    s.turn = some (.unit c) → s.group? c.gid = some g → s.fetch g c = .ok (bs, s1) → decode bs = .error r →
    ∃ t, exec (.illegalOp r) (s1.atCand c 4) = .next t ∧
      step s = .next (s.issued (t.settleAt c.gid c.addr) c).tail) ∧
  (∀ (s : State) (c : Cand) (g : Group) (tr : Trap),
    s.turn = some (.unit c) → s.group? c.gid = some g → s.fetch g c = .error tr →
    step s = .next (s.issued ((s.raise c.gid c.unit tr).settle c.gid) c).tail)

/-- A step that takes a posted hardware step or an input runs its meaning and takes it out. When the next turn is
posted step k, it is taken out of those posted and run, with no issue group issuing; when it is the input, the oldest
input is taken and run, or joins the posted steps where one of its own flow is posted before it; with no turn, only
time passes. (That any posted step may come next, but for the order within a flow, and inputs between any two steps,
is the model's reading, log entries 2, 15 and 77.) -/
def Obligations.StepTakesPostedStepsAndInputs : Prop :=
  (∀ (s : State) (k : Nat) (e : Ev), s.turn = some (.due k) → s.due[k]? = some e →
    step s = after (runEv e { s with due := s.due.eraseIdx k, cur := none })) ∧
  (∀ (s : State) (e : Ev) (r : List Ev), s.turn = some .input → s.inputs = e :: r →
    (heldBack s.due e = false → step s = after (runEv e { s with inputs := r, cur := none })) ∧
    (heldBack s.due e = true → step s = .next (State.tail { s with inputs := r, due := s.due ++ [e], cur := none }))) ∧
  (∀ s : State, s.turn = none → step s = .next s.tail)

/-- From every state a step answers a next state. Whatever the state, reached by a run or not, one step of the
machine gives a next state: it neither stops with a fault nor is refused, for every instruction, posted step and
input. -/
def Obligations.EveryStepAnswersAState : Prop :=
  ∀ s : State, ∃ t, step s = .next t

/-- Every step keeps memory in its canonical form and leaves no issue group over. For every state whose memory is
listed in its canonical form (addresses strictly rising, no entry equal to what an unlisted byte reads as) and in
which no issue group is left over, the state after a step has both again. The canonical form is the model's own; the
bytes are the spec's. -/
def Obligations.CanonicalMemoryIsKept : Prop :=
  ∀ s t : State, Inv s → step s = .next t → Inv t

/-- The state after reset has the invariant, nothing resident, and the trust die's boot to come. After power-on no
group, command, queue or launch is resident, no byte of memory is listed, no die has been released, and the one step
to come is the power-on of the package; the invariant of the steps holds. (That unlisted memory then reads zero is
the model's choice, log entry 1.) -/
def Obligations.ResetIsCanonical : Prop :=
  Inv State.reset ∧ State.reset.groups = [] ∧ State.reset.mem = [] ∧ State.reset.parts = [] ∧ State.reset.launches = [] ∧
    State.reset.due = [.packagePowerOn] ∧ State.reset.inputs = []

/-- Every integer, move and floating-point instruction that writes D completes, with D written in each active lane.
For IADD, ISUB, INEG, IMUL, IMULH, IMAD, IMIN, IMAX, IABS, IADIF, SHL, SHR, SAR, DSH, ROT, LUT3, POPC, CLZ, CTZ,
BREV, BFX, BFI, BSEL, ISEL, MOV, MOVI, P2V, S2V and LEA (table integerValue), and for FADD, FSUB, FMUL, FFMA, FMIN,
FMAX, FMINP, FMAXP, FSEL, FCLASS, FSCALE, FRND, DADD, DMUL, DFMA, HADD2, HMUL2, HFMA2, FDOT2, FDOT4, FCVT, FCVTI,
ICVTF, FRCP, FRSQ, FSQRT, FEX2, FLG2, FSIN, FCOS, FTANH and FDIVF (table floatValue), in every form: when the
instruction issues, exec answers the state in which D holds, in each active lane, the value of the table computed
from the registers before it, the lanes issued have moved past it, and nothing else has changed. (The value of a
special function within its error bound is a free value.) -/
def Obligations.ValueInstructionsWriteTheirResult : Prop :=
  ∀ (i : Instr) (f : Ctx → Crew → Nat → Nat) (s : State) (u : Issue) (g : Group),
    (integerValue i = some f ∨ floatValue i = some f) → Issues i s u g →
    exec i s = .next (leaves i s u g ((issueCtx i u g).eachD (begunCrew i u g) (f (issueCtx i u g) (begunCrew i u g))))

/-- The compares, the carry chain, the predicate moves and pair words complete with their result. For IADDC, ISUBC,
IMADW, ISETP, FSETP, DSETP, PLOP, V2P, V2S and pair words in every form: when the instruction issues, exec answers
the state in which its crew is what the table predicateEffect makes of the crew before it (sum and carry, difference
and borrow, the 64-bit sum and its carry, the comparison ANDed with pC, the truth table of three predicates, the
predicates named, the uniform register, both slots' results), with the lanes issued moved past it and nothing else
changed. -/
def Obligations.CompareCarryAndPredicateInstructionsComplete : Prop :=
  ∀ (i : Instr) (f : Ctx → Crew → Crew) (s : State) (u : Issue) (g : Group),
    predicateEffect i = some f → Issues i s u g →
    exec i s = .next (leaves i s u g (f (issueCtx i u g) (begunCrew i u g)))

/-- A value written to D is read back from D in the active lanes, and v255, s63 and p15 stay constant. Writing D in
each active lane of a crew leaves in register D + j of an active lane the j-th 32-bit word of the lane's value,
unless that register is v255, which still reads zero, and leaves every other register of every lane unchanged; in the
access slice the same holds of its uniform registers with s63. Writing a predicate in each active lane leaves its bit
in the active lanes alone, and p15 reads true whatever is written. -/
def Obligations.DestinationWritesReadBack : Prop :=
  (∀ (x : Ctx) (c : Crew) (f : Nat → Nat) (k l : Nat), x.access = false → l < 32 →
    (x.eachD c f).vget k l =
      if l ∈ x.lanes ∧ k ≠ 255 ∧ x.fl.f.d.toNat ≤ k ∧ k < x.fl.f.d.toNat + x.row.d.count
      then BitVec.ofNat 32 (f l / 2 ^ (32 * (k - x.fl.f.d.toNat))) else c.vget k l) ∧
  (∀ (x : Ctx) (c : Crew) (f : Nat → Nat) (k l : Nat), x.access = true → x.lanes = [l] →
    (x.eachD c f).sget k =
      if k ≠ 63 ∧ x.fl.f.d.toNat ≤ k ∧ k < x.fl.f.d.toNat + x.row.d.count
      then BitVec.ofNat 32 (f l / 2 ^ (32 * (k - x.fl.f.d.toNat))) else c.sget k) ∧
  (∀ (x : Ctx) (c : Crew) (f : Nat → Nat), (∀ k, x.access = false → (x.eachD c f).sget k = c.sget k) ∧
    (∀ k l, x.access = true → (x.eachD c f).vget k l = c.vget k l) ∧ (∀ k, (x.eachD c f).pget k = c.pget k)) ∧
  (∀ (x : Ctx) (c : Crew) (p : Nat) (f : Nat → Bool) (k l : Nat), l < 32 →
    predAt (x.eachP c p f) k l = if k = p ∧ p ≠ 15 ∧ l ∈ x.lanes then f l else predAt c k l) ∧
  (∀ c : Crew, (∀ l, c.vget 255 l = 0) ∧ c.sget 63 = 0 ∧ c.pget 15 = BitVec.allOnes 32)

/-- Frame of the register instructions: D, the predicates named and the program counters aside, nothing changes. For
every instruction of the three tables of register instructions, when it issues and exec answers t: every byte of
memory, every other group, every control register, core and queue is as before; of its group only the issuing unit
and the count of instructions differ; of that unit the tiles, accumulators, counters, waits, records, trap registers
and latches are as before; registers of lanes that are not active, and uniform registers that D does not name, are as
before, and for the instructions of the integer and floating-point tables every vector register that D does not name
and every predicate too; the lanes issued stand after the instruction and the others where they stood. -/
def Obligations.RegisterInstructionsChangeNothingElse : Prop :=
  ∀ (i : Instr) (s t : State) (u : Issue) (g : Group), registerOnly i = true → Issues i s u g → exec i s = .next t →
    ∃ h, RegistersOnly s t u g h ∧
      (∀ k l, l < 32 → l ∉ (issueCtx i u g).lanes → (h.unit u.unit).vget k l = (g.unit u.unit).vget k l) ∧
      (∀ k, (k < (issueCtx i u g).fl.f.d.toNat ∨ (issueCtx i u g).fl.f.d.toNat + (rowOf i).d.count ≤ k) →
        (h.unit u.unit).sget k = (g.unit u.unit).sget k) ∧
      ((integerValue i).isSome = true ∨ (floatValue i).isSome = true →
        (∀ k l, l < 32 → (k < (issueCtx i u g).fl.f.d.toNat ∨ (issueCtx i u g).fl.f.d.toNat + (rowOf i).d.count ≤ k ∨ u.unit = 32) →
          (h.unit u.unit).vget k l = (g.unit u.unit).vget k l) ∧
        (∀ k, (h.unit u.unit).pget k = (g.unit u.unit).pget k)) ∧
      (∀ l, (h.unit u.unit).pcOf l =
        if l ∈ lanesOf u.lanes then (u.addr + u.ilen) % 2 ^ 57 else (g.unit u.unit).pcOf l)

/-- Integer results are the exact ones modulo 2^N, and under SAT confined to the range of the type. For the types
s32, n32, s64 and n64 and operands that are N-bit patterns, the results of IADD, ISUB, INEG, IMUL and IMAD without
SAT are those of N-bit two's-complement arithmetic, IMULH is the upper half of the 2N-bit product read as the type
says, and IMIN, IMAX, IABS and IADIF are the lesser, the greater, the absolute value and the absolute difference of
the operands read as integers of the type, reduced modulo 2^N. Under SAT what is written, read back as the type, is
min(max(x, tmin), tmax) of the exact result x. -/
def Obligations.IntegerResultsAreTwosComplement : Prop :=
  (∀ (t : BitVec 5) (n a b c : Nat), ((t = 5 ∨ t = 6) ∧ n = 32 ∨ (t = 7 ∨ t = 8) ∧ n = 64) → a < 2 ^ n → b < 2 ^ n → c < 2 ^ n →
    let A : Int := if t = 6 ∨ t = 8 then (BitVec.ofNat n a).toInt else a
    let B : Int := if t = 6 ∨ t = 8 then (BitVec.ofNat n b).toInt else b
    asInt t a = A ∧ asInt t b = B ∧
    intResult t false (A + B) = (BitVec.ofNat n a + BitVec.ofNat n b).toNat ∧
    intResult t false (A - B) = (BitVec.ofNat n a - BitVec.ofNat n b).toNat ∧
    intResult t false (-A) = (-BitVec.ofNat n a).toNat ∧
    intResult t false (A * B) = (BitVec.ofNat n a * BitVec.ofNat n b).toNat ∧
    intResult t false (A * B + asInt t c) = (BitVec.ofNat n a * BitVec.ofNat n b + BitVec.ofNat n c).toNat ∧
    intResult t false (A * B / (2 : Int) ^ n) = ((A * B % (2 : Int) ^ (2 * n)).toNat) / 2 ^ n ∧
    (intResult t false (if A ≤ B then A else B) = if A ≤ B then a else b) ∧
    (intResult t false (if A ≤ B then B else A) = if A ≤ B then b else a) ∧
    intResult t false (if A < 0 then -A else A) = A.natAbs ∧
    intResult t false (if A - B < 0 then -(A - B) else A - B) = (A - B).natAbs) ∧
  (∀ (t : BitVec 5) (x : Int), (t = 5 ∨ t = 6 ∨ t = 7 ∨ t = 8) →
    let n : Nat := if t = 5 ∨ t = 6 then 32 else 64
    let lo : Int := if t = 6 ∨ t = 8 then -(2 : Int) ^ (n - 1) else 0
    let hi : Int := if t = 6 ∨ t = 8 then (2 : Int) ^ (n - 1) - 1 else (2 : Int) ^ n - 1
    asInt t (intResult t true x) = min (max x lo) hi ∧ intResult t true x < 2 ^ n)

/-- Shifts by any count, LUT3, POPC, CLZ, CTZ and BREV bit by bit. For N-bit patterns with N = 32 or 64: SHL and SHR
move bit i by the count and give 0 from N on; SAR repeats the sign; ROT.l moves bit i to (i + c) mod N; LUT3 looks
each bit up in its table; BREV moves bit i to N - 1 - i; POPC is the number of one bits; CLZ and CTZ count the zeros
above the highest and below the lowest one and give N for zero. -/
def Obligations.ShiftsAndBitCounts : Prop :=
  ∀ (n a b c : Nat), (n = 32 ∨ n = 64) → a < 2 ^ n →
    (∀ i, i < n → (shlV n a c).testBit i = (decide (c ≤ i) && a.testBit (i - c))) ∧
    (∀ i, i < n → (shrV n a c).testBit i = (decide (i + c < n) && a.testBit (i + c))) ∧
    (∀ i, i < n → (sarV n a c).testBit i = a.testBit (min (i + c) (n - 1))) ∧
    (∀ i, i < n → (rolV n a c).testBit ((i + c) % n) = a.testBit i) ∧
    (∀ i, i < n → (rorV n a c).testBit i = a.testBit ((i + c) % n)) ∧
    shlV n a c < 2 ^ n ∧ shrV n a c < 2 ^ n ∧ sarV n a c < 2 ^ n ∧ rolV n a c < 2 ^ n ∧ rorV n a c < 2 ^ n ∧
    (∀ tab d i, i < n → (lut3V tab n a b d).testBit i =
      tab.testBit ((a.testBit i).toNat + 2 * (b.testBit i).toNat + 4 * (d.testBit i).toNat)) ∧
    (∀ i, i < n → (brevV n a).testBit i = a.testBit (n - 1 - i)) ∧
    popcV n a = ((List.range n).filter (fun i => a.testBit i)).length ∧
    (a = 0 → clzV n a = n ∧ ctzV n a = n) ∧
    (a ≠ 0 → clzV n a < n ∧ a.testBit (n - 1 - clzV n a) = true ∧ (∀ i, n - 1 - clzV n a < i → a.testBit i = false) ∧
      ctzV n a < n ∧ a.testBit (ctzV n a) = true ∧ ∀ i, i < ctzV n a → a.testBit i = false)

/-- A carry chain loses no bit: sum, difference and wide product-sum with their carry-out. What IADDC writes plus
2^32 times its carry-out is A + B + the carry-in; what ISUBC writes minus 2^32 times its borrow-out is A - B - the
carry-in; what IMADW writes plus 2^64 times its carry-out is A × B + C + the old D + 1 + the carry-in, where SUB = 15
gives a carry-in of 0; the sum of IMADW is at most 2^64. Operands are 32-bit words. -/
def Obligations.CarryChainsAddExactly : Prop :=
  (∀ (x : Ctx) (c : Crew) (l : Nat), x.row.a.count = 1 → x.row.b.count = 1 → x.row.c.count = 1 →
    (x.row.w2 = .immB → x.fl.h.typ ≠ 8) →
    let ci := if xor ((c.pget (x.fl.h.c.toNat % 16)).getLsbD l) (x.fl.h.c.getLsbD 7) then 1 else 0
    carrySum x c l % 2 ^ 32 + 2 ^ 32 * (decide (2 ^ 32 ≤ carrySum x c l)).toNat = x.a c l + x.b c l + ci ∧
    ((x.a c l + 2 ^ 33 - borrowed x c l) % 2 ^ 32 : Int) - 2 ^ 32 * (decide (x.a c l < borrowed x c l)).toNat =
      x.a c l - x.b c l - ci ∧
    (let cw := if x.fl.h.sub = 15 then 0 else if (c.pget x.fl.h.sub.toNat).getLsbD l then 1 else 0
     let old := (x.reg1 c (x.fl.f.d.toNat + 1) false l).toNat
     wideSum x c l % 2 ^ 64 + 2 ^ 64 * (decide (2 ^ 64 ≤ wideSum x c l)).toNat = x.a c l * x.b c l + x.c c l + old + cw ∧
     wideSum x c l ≤ 2 ^ 64))

/-- BRA, BRAL and DBNZ move the active lanes to (addr + off) mod 2^57, the other issued lanes past the branch, and no
other lane. When BRA in either form, BRAL or DBNZ issues, exec answers a state in which every active lane that takes
the branch stands at (addr + off) mod 2^57, with off = 4 × sext(OFF17) in the 4-byte BRA and word 2 elsewhere; every
other lane of the issue group stands at (addr + ilen) mod 2^57; lanes outside it stand where they stood. With some
lane active BRAL writes the link (addr + 12) mod 2^57 to the uniform pair, and DBNZ decrements its uniform register
once and branches when the difference modulo 2^32 is not zero; with none both write nothing. Nothing else changes:
registers, predicates, memory, other units and groups are as before. -/
def Obligations.BranchesMoveTheActiveLanes : Prop :=
  ∀ (i : Instr) (s : State) (u : Issue) (g : Group), Issues i s u g →
    let x := issueCtx i u g
    let c := g.unit u.unit
    let moves := fun (d : Crew) (taken : Bool) (off : Int) => ∀ l, d.pcOf l =
      if taken ∧ l ∈ x.lanes then (((u.addr : Int) + off) % (2 : Int) ^ 57).toNat
      else if l ∈ lanesOf u.lanes then (u.addr + u.ilen) % 2 ^ 57 else c.pcOf l
    (∀ gp gn o, i = .bra gp gn o → ∃ t h, exec i s = .next t ∧ RegistersOnly s t u g h ∧ SameRegisters c (h.unit u.unit) ∧
      moves (h.unit u.unit) true (4 * o.toInt)) ∧
    (∀ f w2 w, i = .bra12 f w2 w → ∃ t h, exec i s = .next t ∧ RegistersOnly s t u g h ∧ SameRegisters c (h.unit u.unit) ∧
      moves (h.unit u.unit) true w.toInt) ∧
    (∀ f w2 w, i = .bral f w2 w → ∃ t h, exec i s = .next t ∧ RegistersOnly s t u g h ∧ moves (h.unit u.unit) true w.toInt ∧
      (∀ k l, (h.unit u.unit).vget k l = c.vget k l) ∧ (∀ k, (h.unit u.unit).pget k = c.pget k) ∧
      ∀ k, (h.unit u.unit).sget k =
        if x.act = 0 ∨ k = 63 then c.sget k
        else if k = f.d.toNat then BitVec.ofNat 32 ((u.addr + 12) % 2 ^ 57)
        else if k = f.d.toNat + 1 then BitVec.ofNat 32 ((u.addr + 12) % 2 ^ 57 / 2 ^ 32) else c.sget k) ∧
    (∀ f w2 w, i = .dbnz f w2 w → ∃ t h, exec i s = .next t ∧ RegistersOnly s t u g h ∧
      moves (h.unit u.unit) (decide (c.sget f.d.toNat ≠ 1)) w.toInt ∧
      (∀ k l, (h.unit u.unit).vget k l = c.vget k l) ∧ (∀ k, (h.unit u.unit).pget k = c.pget k) ∧
      ∀ k, (h.unit u.unit).sget k = if x.act ≠ 0 ∧ k = f.d.toNat ∧ k ≠ 63 then c.sget k - 1 else c.sget k)

/-- JMPI and RET jump each active lane to the address its pair holds, or raise ALIGN with no lane moved. When JMPI or
RET issues and every active lane's pair A is a multiple of 4, exec answers a state in which each active lane stands
at bits [56:0] of its pair, whatever bits [63:57] hold, the other issued lanes past the instruction, and nothing else
has changed; when some active lane's target is misaligned, ALIGN is raised in the lowest such lane with that lane's
target (modulo 2^57) as the faulting address, from the state before the instruction. RET has exactly the effect of
JMPI. -/
def Obligations.JumpsGoToTheAddressInThePair : Prop :=
  ∀ (i : Instr) (f : Word0) (s : State) (u : Issue) (g : Group), i = .jmpi f ∨ i = .ret f → Issues i s u g →
    let x := issueCtx i u g
    let c := g.unit u.unit
    ((∀ l ∈ x.lanes, x.a c l % 4 = 0) → ∃ t h, exec i s = .next t ∧ RegistersOnly s t u g h ∧ SameRegisters c (h.unit u.unit) ∧
      ∀ l, (h.unit u.unit).pcOf l = if l ∈ x.lanes then x.a c l % 2 ^ 57
        else if l ∈ lanesOf u.lanes then (u.addr + u.ilen) % 2 ^ 57 else c.pcOf l) ∧
    (∀ l ∈ x.lanes, x.a c l % 4 ≠ 0 → (∀ m ∈ x.lanes, m < l → x.a c m % 4 = 0) →
      exec i s = .next (trapped i s u g 0x0A l 0 (x.a c l)))

/-- NOP has no effect, and YIELD only makes its unit the lowest candidate of the next cycle. When NOP in any form or
YIELD issues, exec answers a state in which the issued lanes stand after the instruction and no register, predicate,
memory byte, other unit, group, queue, core or control register has changed. YIELD with some lane active leaves in
its unit the note that puts a crew after every other crew of its quadrant that is in the same mode and not over age,
and an access slice after every other slice of its core in the same mode: the key by which the quadrant or the engine
chooses is greater than that of any unit without the note. -/
def Obligations.NoOperationsOnlyAdvance : Prop :=
  (∀ (i : Instr) (s : State) (u : Issue) (g : Group), Issues i s u g →
    ((∃ f, i = .nop f) ∨ (∃ f h, i = .nop8 f h) ∨ (∃ f h w, i = .nop12 f h w) ∨ (∃ f, i = .yield f)) →
    ∃ t h, exec i s = .next t ∧ RegistersOnly s t u g h ∧ SameRegisters (g.unit u.unit) (h.unit u.unit) ∧
      (∀ l, (h.unit u.unit).pcOf l =
        if l ∈ lanesOf u.lanes then (u.addr + u.ilen) % 2 ^ 57 else (g.unit u.unit).pcOf l) ∧
      ((h.unit u.unit).yielded = true ↔ (∃ f, i = .yield f) ∧ (issueCtx i u g).act ≠ 0)) ∧
  (∀ (g h : Group) (u w : Nat), (g.unit u).yielded = true → (h.unit w).yielded = false →
    (g.unit u).hmode = (h.unit w).hmode → (g.unit u).age < 64 → (h.unit w).age < 64 →
    keyLe (crewKey g u) (crewKey h w) = false) ∧
  (∀ (s : State) (g h : Group), g.slice.yielded = true → h.slice.yielded = false → g.slice.hmode = h.slice.hmode →
    keyLe (sliceKey s g) (sliceKey s h) = false)

/-- SLEEPC puts each active lane to sleep for its count, and a count of 0 does nothing. When SLEEPC issues, in the
4-byte form with count A of the lane and in the 12-byte form with word 2, exec answers a state in which each active
lane with a count n other than 0 waits until its die's cycle count reaches the present one plus n, and no other
lane's wait has changed; registers, predicates, memory and the other units are as before, and one wake-up per
sleeping lane is posted. In a group that is neither being saved nor saved, a wake-up that comes at or after its time
makes the lane ready; one that comes before its time is posted again and wakes nothing. -/
def Obligations.SleepsUntilTheCountHasPassed : Prop :=
  (∀ (i : Instr) (s : State) (u : Issue) (g : Group), Issues i s u g → ((∃ f, i = .sleepc f) ∨ (∃ f h w, i = .sleepc12 f h w)) →
    let x := issueCtx i u g
    let c := g.unit u.unit
    let n := fun l => match i with
      | .sleepc12 _ _ w => w.toNat
      | _ => x.a c l
    ∃ t h, exec i s = .next t ∧ t.group? u.gid = some h ∧ SameRegisters c (h.unit u.unit) ∧ SameGroup u.unit g h ∧
      (∀ a, t.byteAt a = s.byteAt a) ∧
      (∀ l, (h.unit u.unit).waitOf l =
        if l ∈ x.lanes ∧ n l ≠ 0 then .asleep (s.now g.loc.die + n l) u.addr else c.waitOf l) ∧
      (∀ l, (h.unit u.unit).pcOf l = if l ∈ lanesOf u.lanes then (u.addr + u.ilen) % 2 ^ 57 else c.pcOf l) ∧
      t.due = s.due ++ (x.lanes.filter (fun l => decide (n l ≠ 0))).map (fun l => Ev.sleepcExpiry u.gid u.unit l)) ∧
  (∀ (gid unit lane due addr : Nat) (s : State) (g : Group), s.group? gid = some g → g.hasUnit unit = true → g.saveHeld = false →
    lane < 32 → (g.unit unit).waitOf lane = .asleep due addr →
    (s.now g.loc.die < due → exec (.sleepcExpiry gid unit lane) s = .next (s.post (.sleepcExpiry gid unit lane))) ∧
    (due ≤ s.now g.loc.die → ∃ (t : State) (h : Group), exec (.sleepcExpiry gid unit lane) s = .next t ∧ t.group? gid = some h ∧
      (h.unit unit).waitOf lane = .ready))

/-- MFSR writes special register A to D and latches the upper half on a .lo read; MTSR writes the handler register it
names. When MFSR issues with some lane active, exec answers a state in which D holds what the special register reads:
with SUB 0 each active lane's value in vector register D, with SUB 1 the value of the lowest active lane in uniform
register D; a .lo read latches the upper half, which the .hi read of the register then returns. When MTSR issues with
some lane active, exec answers a state in which sr.tcause, or the named half of sr.tfirst or sr.tfaddr, holds the
source of the lowest active lane and the other trap registers are as before. With no lane active neither does
anything; other registers, predicates, memory, groups and units are as before. -/
def Obligations.SpecialRegistersAreReadAndWritten : Prop :=
  (∀ (f : Word0) (w : Word1) (s : State) (u : Issue) (g : Group), Issues (.mfsr f w) s u g →
    let x := issueCtx (.mfsr f w) u g
    let c := g.unit u.unit
    let n := f.a.toNat
    ∃ t h, exec (.mfsr f w) s = .next t ∧ SameState u.gid s t ∧ SameGroup u.unit g h ∧ t.group? u.gid = some h ∧
      (∀ k l, l < 32 → (h.unit u.unit).vget k l =
        if w.sub ≠ 1 ∧ l ∈ x.lanes ∧ k = f.d.toNat ∧ k ≠ 255 then BitVec.ofNat 32 (srRead s (begunGroup (.mfsr f w) u g) u.unit (begunCrew (.mfsr f w) u g) n l) else c.vget k l) ∧
      (∀ k, (h.unit u.unit).sget k =
        if w.sub = 1 ∧ x.act ≠ 0 ∧ k = f.d.toNat ∧ k ≠ 63 then BitVec.ofNat 32 (srRead s (begunGroup (.mfsr f w) u g) u.unit (begunCrew (.mfsr f w) u g) n (lowest x.act)) else c.sget k) ∧
      (∀ k, (h.unit u.unit).pget k = c.pget k) ∧
      (∀ k, nfind? (h.unit u.unit).latch k =
        if x.act ≠ 0 ∧ loOf n = some n ∧ k = n then some (BitVec.ofNat 32 (srValue s (begunGroup (.mfsr f w) u g) u.unit (begunCrew (.mfsr f w) u g) n 0 / 2 ^ 32))
        else nfind? c.latch k)) ∧
  (∀ (f : Word0) (w : Word1) (s : State) (u : Issue) (g : Group), Issues (.mtsr f w) s u g →
    let x := issueCtx (.mtsr f w) u g
    let c := g.unit u.unit
    let n := f.d.toNat
    let v := x.a c (lowest x.act) % 2 ^ 32
    ∃ t h, exec (.mtsr f w) s = .next t ∧ SameState u.gid s t ∧ SameGroup u.unit g h ∧ t.group? u.gid = some h ∧
      SameRegisters c (h.unit u.unit) ∧
      (h.unit u.unit).tcause = (if x.act ≠ 0 ∧ n = 0x20 then BitVec.ofNat 32 v else c.tcause) ∧
      (h.unit u.unit).tfirst = (if x.act = 0 then c.tfirst else if n = 0x21 then c.tfirst / 2 ^ 32 * 2 ^ 32 + v
        else if n = 0x22 then c.tfirst / 2 ^ 57 * 2 ^ 57 + v % 2 ^ 25 * 2 ^ 32 + c.tfirst % 2 ^ 32 else c.tfirst) ∧
      (h.unit u.unit).tfaddr = (if x.act = 0 then c.tfaddr else if n = 0x23 then c.tfaddr / 2 ^ 32 * 2 ^ 32 + v
        else if n = 0x24 then c.tfaddr / 2 ^ 57 * 2 ^ 57 + v % 2 ^ 25 * 2 ^ 32 + c.tfaddr % 2 ^ 32 else c.tfaddr))

/-- WAIT completes without effect once its counters are at or below its thresholds, and is held until then. When WAIT
in either form issues with some lane active and no COLL_STATUS trap is due: if none of ld, st, cp and tl is above its
threshold (15 of the 4-byte form meaning 63; ld and tl read 0 in the access slice), exec answers the state in which
only the lanes have moved past it and the group has settled; if one is, the instruction has not begun and the unit's
note says that it waits. -/
def Obligations.WaitHoldsUntilTheCountersAreLow : Prop :=
  ∀ (i : Instr) (s : State) (u : Issue) (g : Group), Issues i s u g →
    ∀ ld st cp tl : Nat,
    ((∃ gp gn a b c d, i = .wait gp gn a b c d ∧ (tl, cp, st, ld) = (shortThreshold a, shortThreshold b, shortThreshold c, shortThreshold d)) ∨
      (∃ gp gn a b c d, i = .wait8 gp gn a b c d ∧ (tl, cp, st, ld) = (a.toNat, b.toNat, c.toNat, d.toNat))) →
    let x := issueCtx i u g
    let c := g.unit u.unit
    let met := c.cp ≤ cp ∧ c.st ≤ st ∧ (u.unit = 32 ∨ (c.ld ≤ ld ∧ c.tl ≤ tl))
    x.act ≠ 0 → c.collTraps = [] →
    (met → exec i s = .next ((begunState i s u g).settleAt u.gid u.addr)) ∧
    (¬ met → ∃ w, exec i s = .next ((s.noteStall x w).settleAt u.gid u.addr) ∧ (w = .waitCp ↔ cp < c.cp))

/-- EXIT, CANCEL, TRAP, BKPT and TRET.end complete with their effect on lanes, instances and groups. When EXIT
issues, the active lanes (or the access slice) have exited, their pass records are gone and the group settles. CANCEL
with some lane active ends its own group as cancelled at the group level and cancels the launch, graph, phase or job
that contains it at the others, the launch itself where it has no such level. TRAP k, and BKPT while the context's
breakpoints are enabled, complete and then raise USER_TRAP with k in the detail, or BKPT, in the lowest active lane
at their own address; a disabled BKPT only advances. TRET.end in a handler ends the group as stopped by the trap
handled. -/
def Obligations.ExitsTrapsAndCancelsTakeEffect : Prop :=
  ∀ (i : Instr) (s : State) (u : Issue) (g : Group), Issues i s u g →
    let x := issueCtx i u g
    let c := begunCrew i u g
    let h := begunGroup i u g
    let t := begunState i s u g
    (∀ f, i = .exit f → exec i s = .next ((t.setGroup ((h.setUnit u.unit { c with
        exited := if u.unit = 32 then (if x.act = 0 then c.exited else BitVec.allOnes 32) else c.exited ||| x.act
        pass := c.pass.filter (fun y => !x.act.getLsbD y.1) }).dropQueues u.unit)).settleAt u.gid u.addr)) ∧
    (∀ f w, i = .cancel f w → x.act ≠ 0 →
      exec i s = .next (if w.sub = 0 then t.endGroup u.gid 0x28
        else t.cancelInst ((if w.sub = 1 then some g.launch else if w.sub = 2 then t.above .graph 8 g.launch
          else if w.sub = 3 then t.above .phase 8 g.launch else t.above .job 8 g.launch).getD g.launch) g.pos.die false)) ∧
    (∀ f, i = .trap f → x.act ≠ 0 →
      exec i s = .next ((t.raise u.gid u.unit (x.trapOf 0x18 (lowest x.act) f.d.toNat u.addr)).settleAt u.gid u.addr)) ∧
    (∀ f, i = .bkpt f → x.act ≠ 0 →
      exec i s = .next (if bit (s.ctxReg g.ctx 0x10) 0
        then (t.raise u.gid u.unit (x.trapOf 0x19 (lowest x.act) 0 u.addr)).settleAt u.gid u.addr else t.settleAt u.gid u.addr)) ∧
    (∀ f k w, i = .tretEnd f → x.act ≠ 0 → g.phase = .handler k w → exec i s = .next (t.endByTrap h w 0))

/-- A cross-lane or barrier instruction completes its arrival: active lanes wait at it with their operands, the
others pass. When VOTE, LPICK, REDUX, SCAN, MATCH or ELECT in any form issues with every active lane's mask naming
the lane itself and only lanes of its tile, or PART, BAR, BARA or BARW in any form issues, exec answers the state in
which the active lanes have arrived at it with their masks and operands, the guard-false lanes have passed it, and
the group has settled: sets that are complete have run. A mask that is wrong raises CONV_MASK in the lowest failing
lane before any lane arrives. -/
def Obligations.CrossLaneInstructionsArrive : Prop :=
  ∀ (i : Instr) (s : State) (u : Issue) (g : Group), Issues i s u g →
    let x := issueCtx i u g
    let c := begunCrew i u g
    let mask := fun l => BitVec.ofNat 32 (x.c c l)
    (∀ a, crossSource i = some a → (∀ l ∈ x.lanes, maskBad c.partw l (mask l) = none) →
      exec i s = .next ((leaves i s u g (c.reach x i false (bit x.fl.w.toNat 31) mask
        (fun l => { x := a x c l, b := x.b c l, fill := fillOf i c (crossIdentity i) l }))).settleAt u.gid u.addr)) ∧
    (∀ a l v, crossSource i = some a → l ∈ x.lanes → maskBad c.partw l (mask l) = some v →
      (∀ m ∈ x.lanes, m < l → maskBad c.partw m (mask m) = none) →
      exec i s = .next ((trapped i s u g 0x03 l v u.addr).settleAt u.gid u.addr)) ∧
    (∀ b, wholeToken i = some b →
      exec i s = .next ((leaves i s u g (c.reach x i true true (fun _ => if u.unit = 32 then 1 else BitVec.allOnes 32)
        (fun _ => { x := 0, b := b x c, fill := 0 }))).settleAt u.gid u.addr))

/-- Integer REDUX and SCAN give the sum of the tile and of its prefix; AND, OR, XOR, VOTE and ELECT bit by bit. For a
completed member set of a tile of 2, 4, 8, 16 or 32 lanes and an integer type, with x(y) operand A of lane y or its
fill: REDUX.add is the sum of all x(y) modulo 2^32; REDUX.and, .or and .xor are the bitwise conjunction, disjunction
and parity; inclusive SCAN.add in lane l is the sum of x(t) to x(l) modulo 2^32; VOTE.count is the number of one
votes. ELECT sets its predicate in the lowest arrived lane and clears it in the others. -/
def Obligations.ReductionsAndScansAreTheirSums : Prop :=
  (∀ (m : MemberSet) (t : BitVec 5) (k : FCtl), m.width ∈ [2, 4, 8, 16, 32] → t ≠ 10 →
    reduxV m 0 t k = ((m.lanes.map m.x).sum) % 2 ^ 32 ∧
    (∀ i, i < 32 → (reduxV m 3 t k).testBit i = m.lanes.all (fun y => (m.x y).testBit i)) ∧
    (∀ i, i < 32 → (reduxV m 4 t k).testBit i = m.lanes.any (fun y => (m.x y).testBit i)) ∧
    (∀ i, i < 32 → (reduxV m 5 t k).testBit i = decide ((m.lanes.filter (fun y => (m.x y).testBit i)).length % 2 = 1)) ∧
    (∀ (l : Nat) (a : LaneIn), m.base ≤ l → l < m.base + m.width →
      scanV m 0 t k l a = (((natsFrom m.base (l - m.base + 1)).map m.x).sum) % 2 ^ 32) ∧
    (∀ v : List (Nat × Bool), voteV 4 v = (v.filter (fun p => p.2)).length)) ∧
  (∀ (i : Instr) (m : MemberSet) (c : Crew) (l : Nat), ((∃ f h, i = .elect f h) ∨ (∃ f h w, i = .elect12 f h w)) →
    l < 32 → (∀ p ∈ m.arrived, p.1 < 32) → (fieldsOf i).f.d.toNat ≠ 15 →
    predAt (crossWrite i m c) (fieldsOf i).f.d.toNat l =
      if m.arrived.any (fun p => decide (p.1 = l)) then m.arrived.all (fun p => decide (l ≤ p.1))
      else predAt c (fieldsOf i).f.d.toNat l)

/-- LD completes its issue: every lane checked and translated, the load under way, ld raised. When LD in either form
issues with some lane active, ld below 63 and fewer than 16 records and loads of the unit, pointers that can be read,
no 8-byte format with T 0, every lane passing check_ptr and translation, and nothing that it must wait for: exec
answers the state in which the load has begun; with no lane active a load of no lane begins. A lane that fails
check_ptr raises its trap instead, before any access. A load that begins adds one flight with its lanes to its group,
raises ld of its unit by one, posts its completion, and changes no byte of memory and no other unit. -/
def Obligations.LoadsAreSent : Prop :=
  (∀ (i : Instr) (s : State) (u : Issue) (g : Group), ((∃ f w, i = .ld f w) ∨ (∃ f w v, i = .ld12 f w v)) → Issues i s u g →
    let x := issueCtx i u g
    let c := begunCrew i u g
    let h := begunGroup i u g
    c.ld < 63 → logUse h c u.unit < 16 →
    (x.act = 0 → exec i s = .next ((begunState i s u g).startLoad i x h [])) ∧
    (x.act ≠ 0 → ∀ (t1 : State) (ps : Nat → Ptr), lanePtr x h c (begunState i s u g) = .ok (t1, ps) → rawWide x ps = none →
      (∀ (t2 : State) (as : List LaneAcc), formLanes x h c t1 ps (fun l => x.b c l % 2 ^ 32) .load 0 = .ok t2 as →
        loadWaits t2 h x as = none → exec i s = .next (t2.startLoad i x h as)) ∧
      (∀ tr, formLanes x h c t1 ps (fun l => x.b c l % 2 ^ 32) .load 0 = .trap tr → exec i s = .next (s.raise u.gid u.unit tr)))) ∧
  (∀ (i : Instr) (x : Ctx) (t : State) (h k : Group) (as : List LaneAcc), t.group? x.gid = some k → k.hasUnit x.unit = true →
    ∃ (m : Group) (f : Flight), (t.startLoad i x h as).group? x.gid = some m ∧ m.flights = k.flights ++ [f] ∧ f.kind = .load ∧
      f.unit = x.unit ∧ f.lanes.map (fun a => (a.lane, a.pa)) = as.map (fun a => (a.lane, a.pa)) ∧
      m.unit x.unit = (k.unit x.unit).count 0 true ∧ (∀ w, w ≠ x.unit → k.hasUnit w = true → m.unit w = k.unit w) ∧ m.bsb = k.bsb ∧
      Ev.loadComplete x.gid f.id ∈ (t.startLoad i x h as).due ∧ ∀ a, (t.startLoad i x h as).byteAt a = t.byteAt a)

/-- LOAD_COMPLETE writes to D the element at the lane's address as the home holds it, or as the group's own buffer
does. When the load of one lane, local, of a page that is not replicated, whose access is performed at the home (a
synchronising pointer or an edge line), completes in a group that still lives, with no earlier load of the same bytes
by the same thread under way and no request listed or waiting at the lines: D receives in that lane the element
converted from the bytes that lie at the storage of its address, where the group's buffer holds a byte valid, that
byte instead; ld falls by one, the load is no longer under way, no byte of memory changes, and the group settles. -/
def Obligations.LoadsReturnTheBytesOfTheirHome : Prop :=
  ∀ (s : State) (g : Group) (f : Flight) (a : LaneAcc) (q0 : Nat), s.flight? g.id f.id = some (g, f) → g.dead = false → f.away = false →
    f.fault = none → f.lanes = [a] → f.kind = .load → a.remote s (s.viewOf g) = false → a.away = false → a.space ≠ 2 → a.repl = 0 →
    policyOf a.cls a.share a.edge = .home → g.hasUnit f.unit = true → g.olderLoad f.unit f.id f.lanes = false →
    a.pa = natsFrom q0 a.n → q0 % 2 ^ 45 + a.n ≤ 2 ^ 45 →
    (∀ pa ∈ a.pa, s.poisoned (storage (s.viewOf g) (pa % 2 ^ 45)) = false) →
    (∀ pa ∈ a.pa, s.listedAt (homeKey (s.viewOf g) (pa % 2 ^ 45 / 192)) = [] ∧ s.waitingAt (s.viewOf g) (pa % 2 ^ 45 / 192) = []) →
    s.homeWaits g false f.lanes = false →
    let byte := fun pa => match g.forward pa with
      | some b => b
      | none => s.byteAt (storage (s.viewOf g) (pa % 2 ^ 45))
    ∃ (t : State) (h : Group), exec (.loadComplete g.id f.id) s = .next (t.settle g.id) ∧ t.group? g.id = some h ∧ (∀ q, t.byteAt q = s.byteAt q) ∧
      h.flights = g.flights.filter (fun y => y.id ≠ f.id) ∧ h.bsb = g.bsb ∧
      h.unit f.unit = ((g.unit f.unit).writeDest (decide (f.unit = 32)) a.lane f.d (destCount f.typ)
        (loadConvert a.fmt (ofLeBytes (a.pa.map byte)) a.bitOff f.typ f.sat)).count 0 false

/-- ST completes its issue: lanes that may be buffered enter the group's buffer, the others go past it. When ST in
either form issues with st below 63, pointers that can be read, no 8-byte format with T 0, every lane passing
check_ptr and translation, and nothing that it must wait for: exec answers the state in which the store of those
lanes has begun. Where no lane bypasses the buffer or writes a save slot, each lane's bytes (C converted to the
format) enter the group's block store buffer; where some lane bypasses it, the lanes that do, with those that write a
byte of one of these, are one flight (but a synchronising store's lanes of the scratchpad), st of the unit is raised
and their completion is posted, a release's for a synchronising store. With no lane active nothing but the advance
happens. -/
def Obligations.StoresAreSent : Prop :=
  (∀ (i : Instr) (s : State) (u : Issue) (g : Group), ((∃ f w, i = .st f w) ∨ (∃ f w v, i = .st12 f w v)) → Issues i s u g →
    let x := issueCtx i u g
    let c := begunCrew i u g
    let h := begunGroup i u g
    c.st < 63 →
    (x.act = 0 → exec i s = .next (begunState i s u g)) ∧
    (x.act ≠ 0 → ∀ (t1 t2 : State) (ps : Nat → Ptr) (as : List LaneAcc), lanePtr x h c (begunState i s u g) = .ok (t1, ps) → rawWide x ps = none →
      formLanes x h c t1 ps (fun l => x.b c l % 2 ^ 32) .store 1 = .ok t2 as → storeWaits t2 h x as = none →
      exec i s = .next (t2.startStore i x h (as.map (fun a => { a with value := x.c c a.lane }))))) ∧
  (∀ (i : Instr) (x : Ctx) (t : State) (h : Group) (vals : List LaneAcc), vals.any LaneAcc.bypass = false →
    (∀ a ∈ vals, inSlots t h a = false) → t.startStore i x h vals = vals.foldl (fun (v : State) a =>
      v.bsbStore x.gid a.share a.repl a.edge (a.pa.headD 0) (storeBytes a.fmt a x.fl.h.typ x.fl.h.sat a.value (List.replicate a.n 0)))
      (t.ottTake h.loc.flat x.gid x.unit)) ∧
  (∀ (i : Instr) (x : Ctx) (t : State) (h : Group) (vals : List LaneAcc), vals.any LaneAcc.bypass = true → ∃ (v : State) (f : Flight),
    t.startStore i x h vals = v.launchFlight x.gid f 1 (if anySync (passing vals) then .releasePerformed x.gid f.id else .storePerformed x.gid f.id) ∧
      f.lanes = (passing vals).filter (fun a => !(anySync (passing vals) && decide (a.space = 2))) ∧ f.unit = x.unit ∧ f.id = v.nextId) ∧
  (∀ (vals : List LaneAcc) (a : LaneAcc), a ∈ passing vals ↔ a ∈ vals ∧ (a.bypass = true ∨
    ∃ b ∈ vals, b.bypass = true ∧ b.space ≠ 2 ∧ ∃ q ∈ a.pa, q ∈ b.pa))

/-- Bytes entering the block store buffer change no other byte; a write at a home changes the bytes stored to and no
other byte of memory. When bytes enter the buffer of a group at consecutive addresses from pa, all in one sector, and
the buffer has room for that sector beside those it holds: every byte of memory is unchanged, every other group is
unchanged, the group reads the byte stored at each address stored to, and at every other address the buffer forwards
exactly what it forwarded before. When bytes within one line are written at their home, in whatever partition, by
whatever writer, coherent or not: each byte of storage from the storage of the address on reads as the byte written,
every other byte of storage reads as before, and no group, register, queue or launch changes. -/
def Obligations.StoredBytesAloneChange : Prop :=
  (∀ (s : State) (g : Group) (share repl pa : Nat) (edge : Bool) (bs : List Byte), s.group? g.id = some g →
    bs ≠ [] → pa % 2 ^ 45 % 48 + bs.length ≤ 48 → pa % 2 ^ 45 + bs.length ≤ 2 ^ 45 →
    g.bsb.length + (if (g.bsb.find? (fun y => y.addr = sectorOf pa)).isSome then 0 else 1) ≤ 32 * g.desc.bsbg →
    let t := s.bsbStore g.id share repl edge pa bs
    (∀ q, t.byteAt q = s.byteAt q) ∧ (∀ n, n ≠ g.id → t.group? n = s.group? n) ∧
    ∃ h, t.group? g.id = some h ∧
      (∀ k, k < bs.length → h.forward (pa + k) = some (bs.getD k 0)) ∧
      (∀ q, q < pa ∨ pa + bs.length ≤ q → h.forward q = g.forward q)) ∧
  (∀ (s : State) (v : View) (a : Nat) (bs : List Byte) (writer : Option Nat) (coherent : Bool),
    let t := s.homeWrite v a bs writer coherent
    (∀ k, k < bs.length → t.byteAt (storage v a + k) = bs.getD k 0) ∧
    (∀ q, q < storage v a ∨ storage v a + bs.length ≤ q → t.byteAt q = s.byteAt q) ∧
    t.groups = s.groups ∧ t.creg = s.creg ∧ t.queues = s.queues ∧ t.launches = s.launches)

/-- No two bytes of the hashed window share storage, and hashed line N lies at line N div 2^b of its home die. In a
partition of one, two or four dies of the package whose window takes no more lines of a die than it has: byte a of
the hashed window is stored in its home die, the XOR fold of its line number, at die-local line N div 2^b and the
same byte of the line, and different bytes of the window have different storage. -/
def Obligations.HashedLinesHaveTheirOwnStorage : Prop :=
  ∀ v : View, (v.dies.length = 1 ∨ v.dies.length = 2 ∨ v.dies.length = 4) → v.dies.Nodup → (∀ d ∈ v.dies, d < 4) →
    v.lines ≤ dieLines →
    (∀ a, a < v.dies.length * v.lines * 192 →
      storage v a = dieBase (v.homeDie (a / 192)) + a / 192 / 2 ^ v.b * 192 + a % 192 ∧ v.homeDie (a / 192) ∈ v.dies ∧
      a / 192 / 2 ^ v.b < dieLines) ∧
    (∀ a b, a < v.dies.length * v.lines * 192 → b < v.dies.length * v.lines * 192 → storage v a = storage v b → a = b)

/-- Every SWZ mode places word w in row w div 64 and permutes the banks of a row. In each of the modes 0 to 7, word w
of a scratchpad pointer's range lies in row w div 64, in a bank below 64 given by w[5:0] in mode 0, by (w XOR (w >>
(5 + m))) AND 63 in modes 1 to 6 and by bitrev6(w[5:0]) XOR w[11:6] in mode 7; within one mode different byte offsets
of an allocation of at most 2,048 rows have different cells. -/
def Obligations.SwizzleKeepsEveryWordApart : Prop :=
  ∀ m : Nat, m < 8 →
    (∀ w, w < 2048 * 64 → cellOf m (4 * w) / 4 / 64 = w / 64 ∧ cellOf m (4 * w) / 4 % 64 =
      (if m = 0 then w % 64 else if m = 7 then ((List.range 6).map (fun i => (w.testBit i).toNat * 2 ^ (5 - i))).sum ^^^ (w / 64 % 64)
        else (w ^^^ (w / 2 ^ (5 + m))) % 64)) ∧
    (∀ o p, o < 2048 * 256 → p < 2048 * 256 → cellOf m o = cellOf m p → o = p)

/-- ATOM and CAS complete their issue: the buffer commits, the operation is performed lane by lane with the new value
of Table 08-5, ld rises. When ATOM or CAS in either form issues with ld below 63, room in the operand log, pointers
that can be read, lanes passing check_ptr, ATOM_FORMAT and translation, and nothing that it must wait for: exec
answers the state in which the atomic has begun, and, where its scope lets it perform at once, has been performed in
its lanes; uncorrectable data goes to containment. One lane of ATOM at a home that holds its bytes returns them as
the old value, writes the new value over them and changes no other byte. For a type of N = 32 or 64 bits and N-bit
patterns old and C, the new value is (old + C) mod 2^N for .add, the lesser or greater as the type for .min and .max,
the bitwise operation for .and, .or and .xor, and C for .swap. -/
def Obligations.AtomicsArePerformedInLaneOrder : Prop :=
  (∀ (i : Instr) (sub : Nat) (s : State) (u : Issue) (g : Group),
    ((∃ f w, i = .atom f w ∧ sub = w.sub.toNat) ∨ (∃ f w v, i = .atom12 f w v ∧ sub = w.sub.toNat) ∨
      (∃ f w, i = .cas f w ∧ sub = 16) ∨ (∃ f w v, i = .cas12 f w v ∧ sub = 16)) → Issues i s u g →
    let x := issueCtx i u g
    let c := begunCrew i u g
    let h := begunGroup i u g
    x.act ≠ 0 → c.ld < 63 → logUse h c u.unit < 16 →
    ∀ (t1 t2 : State) (ps : Nat → Ptr) (as : List LaneAcc), lanePtr x h c (begunState i s u g) = .ok (t1, ps) →
      (∀ l ∈ x.lanes, ∃ a, laneCheck x h (ps l) l (x.b c l % 2 ^ 32) .atomic = .ok a) →
      (∀ l ∈ x.lanes, atomBad (ps l) sub x.fl.h.typ = false) →
      formLanes x h c t1 ps (fun l => x.b c l % 2 ^ 32) .atomic 1 = .ok t2 as → atomWaits t2 h x as = none →
      let y := t2.startAtomic i sub x h (as.map (fun a => { a with value := x.c c a.lane }))
      exec i s = .next (if y.1.mayPerform h y.2 then (match y.1.performAtomic h y.2 with
        | some t => t
        | none => s.contain u.gid 0x21) else y.1)) ∧
  (∀ (i : Instr) (sub : Nat) (x : Ctx) (t : State) (h : Group) (vals : List LaneAcc), ∃ v : State,
    t.startAtomic i sub x h vals = (v.launchFlight x.gid (t.startAtomic i sub x h vals).2 0 (.atomicComplete x.gid v.nextId), (t.startAtomic i sub x h vals).2) ∧
    (t.startAtomic i sub x h vals).2.lanes = vals ∧ (t.startAtomic i sub x h vals).2.id = v.nextId ∧
    (t.startAtomic i sub x h vals).2.unit = x.unit ∧ (t.startAtomic i sub x h vals).2.kind = .atomic) ∧
  (∀ (s : State) (g : Group) (f : Flight) (sub c q : Nat) (a : LaneAcc), s.group? g.id = some g → sub < 16 → a.remote s (s.viewOf g) = false →
    a.space ≠ 2 → a.repl = 0 → policyOf a.cls a.share a.edge = .home → a.pa = natsFrom q a.n → 0 < a.n → q % 2 ^ 45 % 192 + a.n ≤ 192 →
    q % 2 ^ 45 + a.n ≤ 2 ^ 45 → s.listedAt (homeKey (s.viewOf g) (q % 2 ^ 45 / 192)) = [] → s.waitingAt (s.viewOf g) (q % 2 ^ 45 / 192) = [] →
    let p := storage (s.viewOf g) (q % 2 ^ 45)
    (∀ k, k < a.n → s.poisoned (p + k) = false) →
    let old := ofLeBytes (s.bytesAt p a.n)
    ∃ t : State, s.atomLane g.id f sub a c = some (t, old) ∧ t.bytesAt p a.n = leBytes a.n (atomNew sub f.typ old c) ∧
      ∀ b, b < p ∨ p + a.n ≤ b → t.byteAt b = s.byteAt b) ∧
  (∀ (t : BitVec 5) (n old c : Nat), ((t = 5 ∨ t = 6) ∧ n = 32 ∨ (t = 7 ∨ t = 8) ∧ n = 64) → old < 2 ^ n → c < 2 ^ n →
    let lt : Bool := if t = 6 ∨ t = 8 then decide ((BitVec.ofNat n c).toInt < (BitVec.ofNat n old).toInt) else decide (c < old)
    atomNew 0 t old c = (BitVec.ofNat n old + BitVec.ofNat n c).toNat ∧
    atomNew 2 t old c = (if lt then c else old) ∧ atomNew 3 t old c = (if lt then old else if old = c then old else c) ∧
    atomNew 5 t old c = old &&& c ∧ atomNew 6 t old c = old ||| c ∧ atomNew 7 t old c = old ^^^ c ∧ atomNew 8 t old c = c)

/-- PREF completes without trap or counter, and PCHK writes whether check_ptr would pass. When PREF issues with
registers as its pointers, exec answers the state after its lanes have been brought in, or dropped when more than 448
transaction-table entries are in use, once nothing holds the lines and the TLB takes its misses; with a literal that
can be read the same holds. PCHK writes, in each active lane, to predicate D whether check_ptr passes for its kind,
changes nothing else and raises no trap. -/
def Obligations.PrefetchesAndPointerChecksComplete : Prop :=
  (∀ (i : Instr) (s : State) (u : Issue) (g : Group), ((∃ f w, i = .pref f w) ∨ (∃ f w v, i = .pref12 f w v)) → Issues i s u g →
    let x := issueCtx i u g
    let c := begunCrew i u g
    let h := begunGroup i u g
    let t := begunState i s u g
    (x.act = 0 ∨ 448 < t.ottUsed h.loc.flat → exec i s = .next t) ∧
    (∀ (t1 : State) (ps : Nat → Ptr), x.act ≠ 0 → t.ottUsed h.loc.flat ≤ 448 → lanePtr x h c t = .ok (t1, ps) →
      t1.missesWait (t1.viewOf h) h.loc.flat h.ctx ((prefVas x h c ps).map (fun y => y.2)) = none → prefHeld x h c t1 ps = false →
      exec i s = .next (x.lanes.foldl (fun v l => prefLane x h v (ps l) l (x.b c l % 2 ^ 32)) t1))) ∧
  (∀ (i : Instr) (s : State) (u : Issue) (g : Group), ((∃ f w, i = .pchk f w) ∨ (∃ f w v, i = .pchk12 f w v)) → Issues i s u g →
    let x := issueCtx i u g
    let c := begunCrew i u g
    exec i s = .next (leaves i s u g (x.eachP c x.fl.f.d.toNat (fun l =>
      (checkPtr (begunGroup i u g) (ptrOf (x.a c l)) (x.b c l % 2 ^ 32) (fmtInfo (ptrOf (x.a c l)).fmt).unit
        (if x.fl.h.sub = 1 then .store else .load)).toOption.isSome))))

/-- PMAKE, PSUB, PADV and PRETYPE write the pointer they form to the quad D, or trap in the lowest failing lane. When
PMAKE, PSUB, PADV or PRETYPE in any form issues and every lane it acts for forms a pointer: exec answers the state in
which each of those lanes' quad D holds the 128 bits of its pointer and nothing else has changed; when some lane
fails, the trap of the lowest failing lane is raised and no lane is written. PSUB moves BASE by B and sets LEN to C,
or to LEN - B for C = 0xFFFFFFFF, when B and B + L do not exceed LEN; PADV moves BASE by B and shortens LEN when B
does not exceed LEN; both raise BOUNDS otherwise, at BASE + B and at BASE. A pointer whose fields lie within the
widths of Table 01-7 is packed into a number below 2^128, and the fields read from that number are the pointer's own;
the number packed from the fields of any 128-bit value is that value. -/
def Obligations.PointerInstructionsFormTheirPointer : Prop :=
  (∀ (i : Instr) (lane : Ctx → Group → Crew → Nat → Except (Nat × Nat) Ptr) (s : State) (u : Issue) (g : Group),
    ((∃ f w, i = .pmake f w ∧ lane = pmakeLane) ∨ (∃ f w, i = .psub f w ∧ lane = psubLane) ∨
      (∃ f w v, i = .psub12 f w v ∧ lane = psubLane) ∨ (∃ f w, i = .padv f w ∧ lane = padvLane) ∨
      (∃ f w v, i = .padv12 f w v ∧ lane = padvLane) ∨ (∃ f w, i = .pretype f w ∧ lane = pretypeLane)) → Issues i s u g →
    let x := issueCtx i u g
    let c := begunCrew i u g
    let h := begunGroup i u g
    (∀ p : Nat → Ptr, (∀ l ∈ x.ptrLanes, lane x h c l = .ok (p l)) →
      exec i s = .next (leaves i s u g (x.ptrLanes.foldl (fun d l => x.putQuad d l (p l).pack) c))) ∧
    (∀ l cause a, l ∈ x.ptrLanes → lane x h c l = .error (cause, a) → (∀ m ∈ x.ptrLanes, m < l → ∃ p, lane x h c m = .ok p) →
      exec i s = .next (trapped i s u g cause l 0 a))) ∧
  (∀ (x : Ctx) (g : Group) (c : Crew) (l : Nat), (ptrOf (x.a c l)).formBad = false →
    let p := ptrOf (x.a c l)
    let b := x.b c l % 2 ^ 32
    let n := if x.c c l = 0xFFFFFFFF then p.len - b else x.c c l
    psubLane x g c l = (if b ≤ p.len ∧ b + n ≤ p.len then .ok { p with base := p.base + b, len := n } else .error (0x09, p.base + b)) ∧
    padvLane x g c l = (if x.b c l ≤ p.len then .ok { p with base := p.base + x.b c l, len := p.len - x.b c l }
      else .error (0x09, p.base))) ∧
  (∀ p : Ptr, p.resv < 4 → p.anchor.core < 16 → p.anchor.cluster < 16 → p.anchor.die < 8 → p.swz < 8 → p.scope < 8 → p.cls < 4 →
    p.space < 8 → p.fmt < 64 → p.len < 2 ^ 40 → p.base < 2 ^ 57 → p.pack < 2 ^ 128 ∧ ptrOf p.pack = p) ∧
  (∀ q, q < 2 ^ 128 → (ptrOf q).pack = q)

/-- PWIDEN, PNARROW, RWB, RINV and ICINV complete their issue: pointers written, the buffer committed, the write-back
begun. When the instruction issues with some lane active, st below 63, every lane passing its form and scope checks
and nothing that it must wait for: PWIDEN writes the widened pointers and commits the buffer, and where the scope
grew begins the write-back of the ranges, draining the write-combining buffer at pod scope; PNARROW writes the
narrowed pointers and, where the old scope was not the core, begins the write-back that also invalidates; RWB commits
the buffer, drains the write-combining entries of the ranges and begins the write-back; RINV begins the write-back
that also invalidates; ICINV commits the buffer, ends restartability and begins its invalidations. A lane that fails
its checks makes RWB, RINV and ICINV raise its trap instead. -/
def Obligations.ScopeAndRangeInstructionsBeginTheirWork : Prop :=
  ∀ (i : Instr) (s : State) (u : Issue) (g : Group), Issues i s u g →
    let x := issueCtx i u g
    let c := begunCrew i u g
    let h := begunGroup i u g
    let t := begunState i s u g
    let n := x.fl.h.sub.toNat / 2
    x.act ≠ 0 → c.st < 63 →
    (∀ f w (p q : Nat → Ptr), i = .pwiden f w → x.ptrLanes ≠ [] → (∀ l ∈ x.ptrLanes, scopeLane true x h c l = .ok (p l, q l)) →
      let t1 := (leaves i s u g (x.ptrLanes.foldl (fun d l => x.putQuad d l (q l).pack) c)).commitAll u.gid
      let moved := x.ptrLanes.filter (fun l => decide ((p l).scope ≠ n))
      let pieces := moved.flatMap (fun l => ptrPieces t h (p l))
      rangeWaits t h x pieces true (if n = 4 then (t.core h.loc.flat).wcb.length else 0) = none →
      exec i s = .next (if moved.isEmpty then t1.ottTake h.loc.flat u.gid u.unit
        else (if n = 4 then t1.drainAllWcb h.loc.flat else t1).beginWriteback i x h pieces false (decide (n = 4)))) ∧
    (∀ f w (p q : Nat → Ptr), i = .pnarrow f w → (∀ l ∈ x.ptrLanes, scopeLane false x h c l = .ok (p l, q l)) →
      let t1 := leaves i s u g (x.ptrLanes.foldl (fun d l => x.putQuad d l (q l).pack) c)
      let moved := x.ptrLanes.filter (fun l => decide ((p l).scope ≠ 0))
      let pieces := moved.flatMap (fun l => ptrPieces t h (p l))
      (moved = [] → exec i s = .next t1) ∧
      (moved ≠ [] → rangeWaits t h x pieces false 0 = none → exec i s = .next (t1.beginWriteback i x h pieces true false))) ∧
    (∀ f w ps, i = .rwb f w → rangePtrs x h c = .ok ps →
      let pieces := ps.flatMap (fun y => ptrPieces t h y.2)
      let t1 := t.commitAll u.gid
      let mine := fun (e : WcbEntry) => meets pieces e.line
      rangeWaits t h x pieces true ((t.core h.loc.flat).wcb.filter mine).length = none →
      exec i s = .next ((((t1.core h.loc.flat).wcb.filter mine).foldl (fun v e => v.drainWcb h.loc.flat false e) t1).beginWriteback
        i x h pieces false false)) ∧
    (∀ f w ps, i = .rinv f w → rangePtrs x h c = .ok ps →
      let pieces := ps.flatMap (fun y => ptrPieces t h y.2)
      rangeWaits t h x pieces false 0 = none → exec i s = .next (t.beginWriteback i x h pieces true false)) ∧
    (∀ f w ps, i = .icinv f w → rangePtrs x h c = .ok ps →
      let pieces := ps.flatMap (fun y => ptrPieces t h y.2)
      rangeWaits t h x pieces true 0 = none → ∃ (v : State) (fl : Flight),
        exec i s = .next (v.launchFlight u.gid fl 1 (.icinvComplete u.gid fl.id)) ∧ fl.kind = .icinv ∧ fl.unit = u.unit ∧ fl.ranges = pieces ∧
        fl.aux = ps.foldl (fun m y => max m y.2.scope) 0 ∧ fl.id = v.nextId ∧
        (s.group? u.gid = some g → g.id = u.gid → ∀ k, v.group? u.gid = some k → k.committed = true)) ∧
    (∀ f w tr, i = .rwb f w ∨ i = .rinv f w ∨ i = .icinv f w → rangePtrs x h c = .error tr →
      exec i s = .next (s.raise u.gid u.unit tr))

/-- QPUSH, QPOP, QBPUSH, QBPOP and BRQ move one entry and complete, and a poisoned head traps with nothing popped.
With some lane active: QPUSH that need not wait appends to the sub-FIFO of every crew not ended one entry whose 32
lanes hold A, valid in every lane; QPOP of a ready head takes it off, writes its lane data to D in the active lanes
and, where SUB names a predicate, its valid bits there; a poisoned head raises QUEUE_POISON with nothing popped.
QBPUSH to a back queue below its depth appends A of the lowest active lane with the crew's number; QBPOP and BRQ of a
head that the slice sees pop it into D, and BRQ branches when the value is not zero (.nz) or zero (.z). The group
then settles. -/
def Obligations.QueueInstructionsMoveTheirEntries : Prop :=
  (∀ (i : Instr) (s : State) (u : Issue) (g : Group), Issues i s u g →
    let x := issueCtx i u g
    let c := begunCrew i u g
    let h := begunGroup i u g
    let t := begunState i s u g
    let a := x.fl.f.a.toNat
    let d := x.fl.f.d.toNat
    x.act ≠ 0 →
    (∀ f w, i = .qpush f w → pushWaits t h d = false →
      exec i s = .next ((t.onGroup u.gid (fun k => k.pushAll d k.running (fun _ =>
        { vmask := BitVec.allOnes 32, data := if x.a c 0 % 2 ^ 32 = 0 then [] else allLanes.map (fun l => (l, BitVec.ofNat 32 (x.a c 0)))
          state := .ready, token := 0, fid := 0 }))).settleAt u.gid u.addr)) ∧
    (∀ f sub e rest, (i = .qpop f ∧ sub = 0) ∨ (∃ w, i = .qpop8 f w ∧ sub = w.sub.toNat) → h.sub a u.unit = e :: rest →
      (e.state = .ready → ∃ v : Crew,
        exec i s = .next ((t.setGroup ((h.setSub a u.unit rest).setUnit u.unit v)).settleAt u.gid u.addr) ∧
        (∀ k l, l < 32 → v.vget k l = if l ∈ x.lanes ∧ k = d ∧ k ≠ 255 then nget zeroW e.data l else c.vget k l) ∧
        (∀ k l, l < 32 → predAt v k l =
          if sub ≠ 0 ∧ l ∈ x.lanes ∧ k = sub - 1 ∧ k ≠ 15 then e.vmask.getLsbD l else predAt c k l) ∧
        SameRest c v ∧ (∀ l, v.pcOf l = c.pcOf l) ∧ ∀ k, v.sget k = c.sget k) ∧
      (e.state = .poisoned → ∀ r, h.qlogFor a u.unit = some r →
        exec i s = .next ((trapped i s u g 0x11 (lowest x.act) (a + 8 * r.fcode) (nget (fun _ => 0) r.faddr u.unit)).settleAt u.gid u.addr))) ∧
    (∀ f, (i = .qbpush f ∨ ∃ w, i = .qbpush8 f w) → (h.back d).length < h.queueDepth d →
      exec i s = .next (((t.onGroup u.gid (fun k => k.setBack d (k.back d ++
        [{ value := BitVec.ofNat 32 (x.a c (lowest x.act)), crew := u.unit, seen := false }]))).post (.backQueueVisible u.gid d)).settleAt
          u.gid u.addr)) ∧
    (∀ f e rest, (i = .qbpop f ∨ ∃ w, i = .qbpop8 f w) → h.back a = e :: rest → e.seen = true →
      exec i s = .next ((t.setGroup ((h.setBack a rest).setUnit u.unit (c.sset d e.value))).settleAt u.gid u.addr)) ∧
    (∀ f b w e rest, i = .brq f b w → h.back a = e :: rest → e.seen = true →
      exec i s = .next ((t.setGroup ((h.setBack a rest).setUnit u.unit
        (if (b.sub = 0 ↔ e.value ≠ 0) then (c.sset d e.value).setPcs x.lanes (((u.addr : Int) + w.toInt) % (2 : Int) ^ 57).toNat
          else c.sset d e.value))).settleAt u.gid u.addr))) ∧
  (∀ (g : Group) (k : Nat) (e : Nat → QEntry) (w : Nat), w < 32 →
    (g.pushAll k g.running e).sub k w = if w ∈ g.running then g.sub k w ++ [e w] else g.sub k w) ∧
  (∀ (g : Group) (k w : Nat) (l : List QEntry), (g.setSub k w l).sub k w = l)

/-- QLD opens an entry in every running crew's sub-FIFO, and the fills, poisonings and back-queue deliveries
complete. QLD in either form, whose queue has room, whose checks pass in every lane, whose accesses nothing holds and
for whose first crew's entry the transaction table has room, opens a filling entry in the sub-FIFO of every crew not
ended and sends its loads: lane l of crew c takes element index + lane stride times l + crew stride times c. An entry
not expanded yet is first expanded, or its fill waits for room. A fill that nothing older holds writes the bytes read
into the lanes that arrive, sets their valid bits and makes the entry poppable when no lane is left; which of the
lanes named arrive is left open, but some does. A poisoning marks the entries of the crews that faulted and writes
the queue's log record, records standing by queue and in the order of their QLDs. The oldest unseen entry of a back
queue becomes visible to the slice. -/
def Obligations.QueueLoadsFillOneEntryPerCrew : Prop :=
  (∀ (i : Instr) (f : Word0) (b : Word1) (ls : Word) (s : State) (u : Issue) (g : Group),
    (i = .qld f b ∧ ls = 1) ∨ i = .qld12 f b ls → Issues i s u g →
    let x := issueCtx i u g
    let c := begunCrew i u g
    let h := begunGroup i u g
    let t := begunState i s u g
    let r : QRec := { addr := u.addr, ptr := BitVec.ofNat 128 (x.a c 0), index := BitVec.ofNat 32 (x.b c 0)
                      cstride := BitVec.ofNat 32 (x.c c 0), lstride := ls, crews := 0, fcode := 0
                      clip := decide (b.sub = 1), queue := f.d.toNat, replay := true, faddr := [] }
    (∀ w l, r.elem w l = ((BitVec.ofNat 32 (x.b c 0)).toNat : Int) + ls.toInt * l + (BitVec.ofNat 32 (x.c c 0)).toInt * w) ∧
    (∀ plan, x.act ≠ 0 → pushWaits t h f.d.toNat = false →
      allLanesOk (fun w => qldCrew x h r w) h.running = .ok plan →
      ((ptrOf r.ptr.toNat).space = 2 ∨
        t.missesWait (t.viewOf h) h.loc.flat h.ctx (plan.flatMap (fun y => y.2.map (fun z => z.2))) = none) →
      let q := (plan.map (fun y => qldXlate x h t r y.1 y.2)).foldl QldXlate.join ⟨[], [], []⟩
      cmdsHold h 32 (accFoot q.accs false) = false → lineHeld t h (q.accs.flatMap (fun a => a.pa)) = false →
      (q.accs.any (fun a => a.remote t (t.viewOf h)) && h.olderLoad 32 t.nextId q.accs) = false →
      (t.qldFirst h q.accs = 0 ∨ t.ottFree h.loc.flat u.gid 32 false (t.qldFirst h q.accs) = true) → watchHit t h c x false (q.accs.map (fun a => { a with lane := 0 })) = none →
      exec i s = .next ((((t.ottTake h.loc.flat u.gid 32).onGroup u.gid (fun k => k.pushAll f.d.toNat k.running
        (fun _ => { vmask := 0, data := [], state := .filling, token := 0, fid := t.nextId }))).sendQld i x h r q h.running
          false).settleAt u.gid u.addr))) ∧
  (∀ (gid fid w : Nat) (lanes : Word) (s : State) (g : Group) (f : Flight), s.flight? gid fid = some (g, f) → f.done ≤ w →
    ((∀ h k, (s.expandCrew gid fid w).flight? gid fid = some (h, k) → w < k.done →
      exec (.queueLaneFill gid fid w lanes) s = exec (.queueLaneFill gid fid w lanes) (s.expandCrew gid fid w)) ∧
    (g.dead = false → (s.expandCrew gid fid w).flight? gid fid = some (g, f) →
      exec (.queueLaneFill gid fid w lanes) s = .next ((s.expandCrew gid fid w).post (.queueLaneFill gid fid w lanes))))) ∧
  (∀ (gid fid w : Nat) (lanes : Word) (s : State) (g : Group) (f : Flight), s.flight? gid fid = some (g, f) → w < f.done →
    let mine := f.lanes.filter (fun a => decide (a.lane / 32 = w))
    ∃ now : Word, (∀ l, now.getLsbD l = true → lanes.getLsbD l = true) ∧
      (mine.any (fun a => lanes.getLsbD (a.lane % 32)) = true → mine.any (fun a => now.getLsbD (a.lane % 32)) = true) ∧
      let take := mine.filter (fun a => now.getLsbD (a.lane % 32))
      let rest := mine.filter (fun a => !now.getLsbD (a.lane % 32))
      ∀ s1 vals, take.any (s.laneAwaits gid fid) = false → g.olderLoad 32 fid take = false → s.homeWaits g false take = false →
        s.readLanes gid f take = some (s1, vals) →
        let t := (s1.qldLeft gid fid g (fun a => take.contains a)).onGroup gid (fun h => h.onEntry f.aux w fid (fun e =>
          { vals.foldl (fun (d : QEntry) v => { d with data := ninsert d.data (v.1 % 32) (BitVec.ofNat 32 v.2),
                                                       vmask := setLane d.vmask (v.1 % 32) true }) e with
            state := if rest.isEmpty then .ready else .filling }))
        let t1 := if rest.isEmpty then t.dropQld gid fid
          else t.post (.queueLaneFill gid fid w (rest.foldl (fun m a => setLane m (a.lane % 32) true) 0))
        exec (.queueLaneFill gid fid w lanes) s = .next (if g.dead then t1 else t1.settle gid)) ∧
  (∀ (gid fid : Nat) (s : State) (g : Group) (f : Flight) (r : QRec), s.flight? gid fid = some (g, f) → f.qrec = some r →
    let t := s.onGroup gid (fun h =>
      let k := (lanesOf r.crews).foldl (fun (k : Group) w => k.onEntry r.queue w fid (fun e =>
        { e with vmask := 0, data := [], state := .poisoned, token := r.queue })) h
      let old := k.slice.qlog
      { k with slice := { k.slice with
          qlog := old.filter (fun y => decide (y.queue < r.queue ∨ (y.queue = r.queue ∧ y.seq ≤ r.seq))) ++ [{ r with replay := false }] ++
            old.filter (fun y => !decide (y.queue < r.queue ∨ (y.queue = r.queue ∧ y.seq ≤ r.seq))) } })
    exec (.qldPoison gid fid) s = .next (if g.dead then t.dropQld gid fid else (t.dropQld gid fid).settle gid)) ∧
  (∀ (gid q : Nat) (s : State) (g : Group) (old new : List BEntry) (e : BEntry), s.group? gid = some g →
    g.back q = old ++ e :: new → old.all (fun y => y.seen) = true → e.seen = false →
    exec (.backQueueVisible gid q) s = .next (s.setGroup (g.setBack q (old ++ { e with seen := true } :: new))))

/-- OPH binds or unbinds its handle, raising its generation, or raises HANDLE_STATE with no effect. When OPH in
either form issues with some lane active: OPH.unbind clears BOUND and adds 1 to GEN; OPH with a row format or b8, o
and L multiples of 4, L not 0 and o + L inside the group's scratchpad allocation sets BOUND, BASE = o / 4, WORDS = L
/ 4, FMT, PLANES = the words of a row of the format (3 for b8) and adds 1 to GEN; otherwise it raises HANDLE_STATE in
the lowest active lane, reason 1 for the format or sC[31:6], else reason 2, from the state before the instruction.
Other handles and everything else are as before. -/
def Obligations.HandlesAreBoundAndUnbound : Prop :=
  (∀ (i : Instr) (s : State) (u : Issue) (g : Group), ((∃ f w, i = .oph f w) ∨ (∃ f w v, i = .oph12 f w v)) → Issues i s u g →
    let x := issueCtx i u g
    let c := begunCrew i u g
    let h := begunGroup i u g
    let k := x.fl.f.d.toNat
    let o := x.a c 0
    let n := x.b c 0
    let fmt := match i with
      | .oph12 _ _ w => w.toNat % 64
      | _ => x.c c 0 % 64
    let fmtBad := rowWords fmt = 0 ∨ ((∃ f w, i = .oph f w) ∧ 64 ≤ x.c c 0)
    let sizeBad := o % 4 ≠ 0 ∨ n % 4 ≠ 0 ∨ n = 0 ∨ h.desc.scr256 * 256 < o + n
    x.act ≠ 0 →
    (x.fl.h.sub = 1 → exec i s = .next ((begunState i s u g).setGroup (h.setHandle k
      { h.handle k with bound := false, gen := (h.handle k).gen + 1 }))) ∧
    (x.fl.h.sub = 0 → ¬ fmtBad → ¬ sizeBad → exec i s = .next ((begunState i s u g).setGroup (h.setHandle k
      { bound := true, base := o / 4, words := n / 4, fmt := fmt, planes := rowWords fmt, gen := (h.handle k).gen + 1 }))) ∧
    (x.fl.h.sub = 0 → fmtBad → exec i s = .next (trapped i s u g 0x0F (lowest x.act) (1 + 16 * k) o)) ∧
    (x.fl.h.sub = 0 → ¬ fmtBad → sizeBad → exec i s = .next (trapped i s u g 0x0F (lowest x.act) (2 + 16 * k) o))) ∧
  (∀ (g : Group) (k j : Nat) (h : Handle), (g.setHandle k h).handle j = if j = k then h else g.handle j) ∧
  rowWords 0 = 3

/-- AZERO, AMOV, TLDV, TSTV, PARK and UNPARK copy exactly the elements they name and complete. With some lane active
and no matrix command on the accumulators and tiles named: AZERO clears its accumulator; AMOV.row and .col write row
or column element l to D in each active lane l, AMOV.torow writes A of all 32 lanes to a row; TLDV raw and typed
write one row of a tile group, typed from the element codes; TSTV writes a row's words or rebuilt codes to D in the
active lanes; PARK moves all lanes of A into its row and fills its slot; UNPARK writes the row back to the recorded
register in all lanes and frees the slot. Every other element, tile word, register, predicate and slot is as before.
-/
def Obligations.TileInstructionsMoveTheirRows : Prop :=
  ∀ (i : Instr) (s : State) (u : Issue) (g : Group), Issues i s u g →
    let x := issueCtx i u g
    let c := begunCrew i u g
    let h := begunGroup i u g
    let free := fun accs tiles => matrixHolds h u.unit accs tiles = false
    let toD := fun (v : Crew) (d : Nat) (f : Nat → Word) =>
      (∀ k l, l < 32 → v.vget k l = if l ∈ x.lanes ∧ k = d ∧ k ≠ 255 then f l else c.vget k l) ∧
      (∀ k, v.sget k = c.sget k) ∧ (∀ k, v.pget k = c.pget k) ∧ SameRest c v
    let row := fun (m m' : NMap Word) (o n : Nat) (f : Nat → Word) =>
      ∀ k, wget m' k = if o ≤ k ∧ k < o + n then f (k - o) else wget m k
    x.act ≠ 0 →
    (∀ f, i = .azero f → free [f.d.toNat] [] → ∃ v, exec i s = .next (leaves i s u g v) ∧ SameRegisters c v ∧
      SameRest { c with acc := v.acc } v ∧ row c.acc v.acc (1024 * f.d.toNat) 1024 (fun _ => 0)) ∧
    (∀ f w, i = .amov f w → w.sub = 0 → free [f.a.toNat] [] → ∃ v, exec i s = .next (leaves i s u g v) ∧
      toD v f.d.toNat (fun l => wget c.acc (1024 * f.a.toNat + 32 * w.b.toNat + l))) ∧
    (∀ f w, i = .amov f w → w.sub = 1 → free [f.a.toNat] [] → ∃ v, exec i s = .next (leaves i s u g v) ∧
      toD v f.d.toNat (fun l => wget c.acc (1024 * f.a.toNat + 32 * l + w.b.toNat))) ∧
    (∀ f w, i = .amov f w → w.sub = 2 → free [f.d.toNat] [] → ∃ v, exec i s = .next (leaves i s u g v) ∧ SameRegisters c v ∧
      SameRest { c with acc := v.acc } v ∧ row c.acc v.acc (1024 * f.d.toNat + 32 * w.b.toNat) 32 (fun l => c.vget f.a.toNat l)) ∧
    (∀ f w, i = .tldv f w → free [] (tileNames w f.d.toNat) → ∃ v, exec i s = .next (leaves i s u g v) ∧ SameRegisters c v ∧
      SameRest { c with t := v.t } v ∧
      let fmt := tileFmt w.typ
      let codes := rowOfCodes fmt (allLanes.map (fun l => (c.vget f.a.toNat l).toNat % 2 ^ (fmtInfo fmt).width)) (plainScale fmt)
      if w.typ = 0 then row c.t v.t (256 * f.d.toNat + 32 * w.b.toNat) 32 (fun l => c.vget f.a.toNat l)
      else row c.t v.t (256 * f.d.toNat + w.b.toNat * rowWords fmt) codes.length (fun j => lget 0 codes j)) ∧
    (∀ f w, i = .tstv f w → free [] (tileNames w f.a.toNat) → ∃ v, exec i s = .next (leaves i s u g v) ∧
      toD v f.d.toNat (fun l => if w.typ = 0 then wget c.t (256 * f.a.toNat + 32 * w.b.toNat + l)
        else BitVec.ofNat 32 (rowCode (tileFmt w.typ) (c.tileRow f.a.toNat (tileFmt w.typ) w.b.toNat) l))) ∧
    (∀ f w, i = .park f w → let p : Park := { acc := decide (w.sub = 1), idx := w.b.toNat, row := w.c.toNat, reg := f.a.toNat }
      (if p.acc then free [p.idx] [] else free [] [p.idx]) → ∃ v, exec i s = .next (leaves i s u g v) ∧ SameRegisters c v ∧
      SameRest { c with acc := v.acc, t := v.t, parks := v.parks } v ∧
      (∀ k, nfind? v.parks k = if k = f.d.toNat then some p else nfind? c.parks k) ∧
      (if p.acc then v.t = c.t ∧ row c.acc v.acc (1024 * p.idx + 32 * p.row) 32 (fun l => c.vget p.reg l)
        else v.acc = c.acc ∧ row c.t v.t (256 * p.idx + 32 * p.row) 32 (fun l => c.vget p.reg l))) ∧
    (∀ f w p, i = .unpark f w → nfind? c.parks f.d.toNat = some p → (if p.acc then free [p.idx] [] else free [] [p.idx]) →
      ∃ v, exec i s = .next (leaves i s u g v) ∧ SameRest { c with parks := v.parks } v ∧
      (∀ k, nfind? v.parks k = if k = f.d.toNat then none else nfind? c.parks k) ∧
      (∀ k l, l < 32 → v.vget k l = if k = p.reg ∧ k ≠ 255 then
        (if p.acc then wget c.acc (1024 * p.idx + 32 * p.row + l) else wget c.t (256 * p.idx + 32 * p.row + l)) else c.vget k l) ∧
      (∀ k, v.sget k = c.sget k) ∧ ∀ k, v.pget k = c.pget k)

/-- MMA and MMAS are accepted for the whole crew and raise tl; their completion writes every element of D with its
rounded exact sum. MMA and MMAS of all 32 lanes with their handles in order, tl below 63 and no matrix command on
their accumulators and tiles are accepted: the command joins the group with its bindings, tl rises and the completion
is posted. With some lane missing they raise ILLEGAL_CONV in the lowest missing lane; a bad handle raises
HANDLE_STATE. When its order allows and no earlier matrix command of its quadrant is left, the command begins to
read, and in a later step, if no residue mismatch is found, it writes to element (i, n) of D the exact sum of C(i, n)
and the 32 products rounded once to fp32, for MMAS with B taken at the positions that the metadata names, changes no
other element and retires, and the group settles. Each scratchpad word that it reads has the value of when reading
began or the present one (the model's choice of when the two are: log entry 39). -/
def Obligations.MatrixCommandsComputeTheirSums : Prop :=
  (∀ (i : Instr) (sp : Bool) (s : State) (u : Issue) (g : Group),
    (sp = false ∧ ∃ f w, i = .mma f w) ∨ (sp = true ∧ ∃ f w, i = .mmas f w) → Issues i s u g →
    let x := issueCtx i u g
    let c := begunCrew i u g
    let h := begunGroup i u g
    let m := mmaCmd x h sp
    (c.tl < 63 → x.act ≠ 0 → x.act ≠ BitVec.allOnes 32 →
      exec i s = .next ((trapped i s u g 0x02 (lowest (~~~ x.act)) 0 u.addr).settleAt u.gid u.addr)) ∧
    (c.tl < 63 → x.act = BitVec.allOnes 32 → ∀ r k, mmaReason x h sp = some (r, k) →
      exec i s = .next ((trapped i s u g 0x0F 0 (r + 16 * k) ((h.handle k).base * 4)).settleAt u.gid u.addr)) ∧
    (x.act = BitVec.allOnes 32 → mmaReason x h sp = none → c.tl < 63 → matrixHolds h u.unit (mmaNames m).1 (mmaNames m).2 = false →
      exec i s = .next (((begunState i s u g).accept x 3 (.mma m) (fun id => .mmaComplete u.gid id)).settleAt u.gid u.addr))) ∧
  (∀ (s : State) (x : Ctx) (g : Group) (k : CmdKind) (ev : Nat → Ev), s.group? x.gid = some g → g.hasUnit x.unit = true →
    ∃ h : Group, (s.accept x 3 k ev).group? x.gid = some h ∧ (h.unit x.unit).tl = (g.unit x.unit).tl + 1 ∧
      h.cmds = g.cmds ++ [{ id := s.nextId, unit := x.unit, addr := x.addr, kind := k }] ∧ (s.accept x 3 k ev).due = s.due ++ [ev s.nextId]) ∧
  (∀ (gid cid : Nat) (s : State) (g : Group) (k : Cmd) (m : MmaCmd), s.cmd? gid cid = some (g, k) → k.kind = .mma m →
    cmdReady g k = true → s.quadrantBusy g k = false →
    (m.snap = none → exec (.mmaComplete gid cid) s =
      .next ((s.setCmd gid cid (.mma { m with snap := some g.scratch })).post (.mmaComplete gid cid))) ∧
    ∀ old, m.snap = some old → s.upsets.contains s.free = false →
    let c := g.unit k.unit
    let r := g.readCells old (s.free + 1)
    let elem := fun i n (b : List Val) => mmaElem m.fzo (wget c.acc (1024 * m.c + 32 * i + n)) (products (lget [] (r.matA c m.a) i) b)
    ∃ d : NMap Word, exec (.mmaComplete gid cid) s = .next (((s.setUnit g k.unit { c with acc := d }).retireCmd gid k 3).settle gid) ∧
      (∀ j, j < 1024 * m.d ∨ 1024 * m.d + 1024 ≤ j → wget d j = wget c.acc j) ∧
      (∀ i n, i < 32 → n < 32 → wget d (1024 * m.d + 32 * i + n) = match m.sparse with
        | none => elem i n (lget [] (r.blockVals m.b m.bj m.prec) n)
        | some (q, mh, j) => elem i n (allLanes.map (fun l =>
            let p := sparsePos q (r.scrWords (mh.base + 96 * j + 3 * i) 3) l
            lget .nan (lget [] (lget [] ((natsFrom m.bj (8 / q)).map (fun y => r.blockVals m.b y m.prec)) (p / 32)) n) (p % 32))))) ∧
  (∀ (g : Group) (old : NMap Byte) (n w : Nat), (∀ k, nfind? g.scratch k = none → nfind? old k = none) →
    (∀ k, k / 4 = w → (g.readCells old n).cell k = g.cell k) ∨
    (∀ k, k / 4 = w → (g.readCells old n).cell k = (nfind? old k).getD (Config.scratchByte g.id k))) ∧
  (∀ fzo (c : Word) (ps : List Val),
    mmaElem fzo c ps = BitVec.ofNat 32 (fp32F.flush fzo (fp32F.deliver 0 false (exactSum 0 (fp32F.read c.toNat :: ps)))))

/-- TCOPY is accepted once its checks pass, in their order, and each of its steps copies one whole row. TCOPY in
either form whose pointer form, row checks, alignment, handle and translations pass, whose rows do not overlap the
scratchpad it reads or writes, which no watch hits and with cp below 63 is accepted: cp rises and its first row is
posted; the first failing check of the first four kinds raises its trap in the lowest active lane with no effect. A
row whose order allows, of a group that is not saved and with nothing that holds its bytes, begins to be read in one
step and has been read in a later one, which writes the handle's row whole, or writes the row read from the handle to
memory, each of its words as it was at the one step or at the other; the next row is then posted, or with the last
the command retires and cp falls. -/
def Obligations.TileCopiesMoveRowByRow : Prop :=
  (∀ (i : Instr) (s : State) (u : Issue) (g : Group), ((∃ f w, i = .tcopy f w) ∨ (∃ f w v, i = .tcopy12 f w v)) → Issues i s u g →
    let x := issueCtx i u g
    let c := begunCrew i u g
    let h := begunGroup i u g
    let t := begunState i s u g
    let out := decide (x.fl.h.sub = 1)
    let p := ptrOf (x.a c 0)
    let hn := h.handle x.fl.f.d.toNat
    let e0 := x.b c 0
    let pitch := x.c c 0
    let rows := copyRows x
    let checked := rowsCheck h p (if out then .store else .load) e0 pitch (lastElem hn) (natsFrom 0 rows.2)
    let skewed := e0 % rowStep p.fmt ≠ 0 ∨ pitch % rowStep p.fmt ≠ 0
    let trap := fun cause detail addr => exec i s = .next ((trapped i s u g cause (lowest x.act) detail addr).settleAt u.gid u.addr)
    x.act ≠ 0 → c.cp < 63 →
    (p.engineBad = true → trap 0x08 0 p.base) ∧
    (p.engineBad = false → ∀ cause a, checked = some (cause, a) → trap cause 0 a) ∧
    (p.engineBad = false → checked = none → skewed → trap 0x0A 0 (p.base + elemOffset p.fmt e0)) ∧
    (p.engineBad = false → checked = none → ¬ skewed → ∀ r, copyReason hn p.fmt rows.1 rows.2 out = some r →
      trap 0x0F (r + 16 * x.fl.f.d.toNat) (hn.base * 4)) ∧
    (p.engineBad = false → checked = none → ¬ skewed → copyReason hn p.fmt rows.1 rows.2 out = none →
      (if p.space = 2 then none else t.missesWait (t.viewOf h) h.loc.flat h.ctx ((natsFrom 0 rows.2).flatMap (fun r =>
        [elemVa h p (e0 + r * pitch), elemVa h p (e0 + r * pitch + lastElem hn) + (fmtInfo p.fmt).unit - 1]))) = none → ∀ xs,
      rowsXlate x h t p (if out then 1 else 0) e0 pitch (lastElem hn) (natsFrom 0 rows.2) = .ok xs →
      let as := xs.map (fun r => r.map (fun y => y.1))
      runsMeet (as.flatMap accWords) [(hn.base + rows.1 * hn.planes, rows.2 * hn.planes)] = false →
      watchHit t h c x out (as.flatMap (fun r => r.map (fun a => { a with lane := lowest x.act }))) = none →
      exec i s = .next (((xs.foldl (fun (v : State) r => v.noteAll h r) t).accept x 2 (.tcopy
        { out := out, hnum := x.fl.f.d.toNat, h := hn, ptr := BitVec.ofNat 128 (x.a c 0), e0 := e0, pitch := pitch, row0 := rows.1
          row := 0, remaining := rows.2, rows := as, asked := false }) (fun id => .tcopyRowWritten u.gid id)).settleAt u.gid u.addr))) ∧
  (∀ (gid cid : Nat) (s : State) (g : Group) (k : Cmd) (m : TcopyCmd) (v : Conv), s.cmd? gid cid = some (g, k) → k.kind = .tcopy m →
    cmdReady g k = true → m.stuck = false → (∀ n, g.phase ≠ .saved n) → s.upsets.contains s.free = false →
    copyConv (ptrOf m.ptr.toNat).fmt m.h.fmt m.out = some v →
    let w := m.h.base + (m.row0 + m.row) * m.h.planes
    let as := m.rows.headD []
    let later := fun (t : State) (m' : TcopyCmd) => (t.setCmd gid cid (.tcopy m')).post (.tcopyRowWritten gid cid)
    (m.out = true → s.commitHeld g = false →
      (m.snap = none → exec (.tcopyRowWritten gid cid) s = .next (later s { m with snap := some g.scratch })) ∧
      (∀ old, m.snap = some old → exec (.tcopyRowWritten gid cid) s =
        .next ((s.putRow gid (rowUnits (ptrOf m.ptr.toNat).fmt v m.h.fmt ((g.readCells old (s.free + 1)).scrWords w m.h.planes) as)).nextRow gid k m))) ∧
    (m.out = false → s.homeWaits g false as = false →
      (m.asked = false → ∀ s1 rs, (s.askLoads g cid true (as.map (s.awayLane g))).readEarly g (as.map (s.awayLane g)) = some (s1, rs) →
        exec (.tcopyRowWritten gid cid) s = .next (later s1 { m with asked := true, rows := rs :: m.rows.drop 1 })) ∧
      (m.asked = true → s.awaits gid cid = false → ∀ s1 us, s.readRow gid as = some (s1, us) →
        exec (.tcopyRowWritten gid cid) s =
          .next ((s1.onGroup gid (fun h => (h.putScrWords w (copyIn (ptrOf m.ptr.toNat).fmt m.h.fmt v us)).rowSeen
            (natsFrom (4 * w) (4 * m.h.planes)))).nextRow gid k m)))) ∧
  (∀ (s : State) (gid : Nat) (k : Cmd) (m : TcopyCmd),
    (m.remaining ≤ 1 → s.nextRow gid k m = (s.retireCmd gid k 2).settle gid) ∧
    (1 < m.remaining → (s.nextRow gid k m).due = s.due ++ [.tcopyRowWritten gid k.id]))

/-- A trap stops the whole group, records cause, lane, detail and addresses, and enters the handler with a frame in a
save slot. Raising a cause other than containment in a running group stops it: no unit is left arrived at a
cross-lane instruction or about to arrive at a barrier, registers, predicates and pass records are kept, and the
trapping unit's trap registers hold cause + 256 lane + 8192 detail, the first address and the faulting address. While
awaited accesses are out it stays so; then the handler is entered: with an entry address (that of when the trap was
raised, else the present one), a slot that is free and large enough and a frame that can be written, every lane not
exited stands at the entry, s4 to s7 hold a global b8 pointer that is not COH of package scope to the slot with LEN
its size and ANCHOR the group's position, s0 its number, all else in the unit's registers is kept and the other units
are as before; otherwise the group ends by the trap. A trap raised by another unit meanwhile is held pending, one in
the handler's unit ends the group. -/
def Obligations.TrapsStopTheGroupAndEnterTheHandler : Prop :=
  (∀ (s : State) (g : Group) (u : Nat) (t : Trap), s.group? g.id = some g → g.hasUnit u = true → g.phase = .live →
    t.cause ≠ 0x20 → t.cause ≠ 0x21 → ∃ h : Group, s.raise g.id u t = (s.setGroup h).settleStop g.id ∧
      h.phase = .stopping u { t with entry := some (s.handlerAt g.ctx u) } ∧
      (h.unit u).tcause = BitVec.ofNat 32 (t.cause + 256 * t.lane + 8192 * t.detail) ∧ (h.unit u).tfirst = t.first ∧
      (h.unit u).tfaddr = t.addr ∧ (h.flights, h.cmds, h.bsb, h.fq, h.bq, h.handles) = (g.flights, g.cmds, g.bsb, g.fq, g.bq, g.handles) ∧
      (∀ w, g.hasUnit w = true → SameRegisters (g.unit w) (h.unit w) ∧ (h.unit w).pendBar = none ∧
        (∀ l v, nfind? (g.unit w).pass l = some v → nfind? (h.unit w).pass l = some v) ∧ ∀ l a, (h.unit w).waitOf l ≠ .arrived a)) ∧
  (∀ (s : State) (g : Group) (u : Nat) (t : Trap), s.group? g.id = some g → g.phase = .stopping u t → t.seq = 0 →
    (g.flights.any Flight.awaited = true → s.settleStop g.id = s) ∧
    (g.flights.any Flight.awaited = false → s.settleStop g.id = s.enterHandler g u t)) ∧
  (∀ (s : State) (g : Group) (u w : Nat) (t t0 : Trap), s.group? g.id = some g → t.cause ≠ 0x20 → t.cause ≠ 0x21 →
    (g.phase = .stopping w t0 →
      s.raise g.id u t = s.setGroup { g with pend := g.pend ++ [(u, { t with entry := some (s.handlerAt g.ctx u) })] }) ∧
    (g.phase = .handler w t0 → w ≠ u →
      s.raise g.id u t = s.setGroup { g with pend := g.pend ++ [(u, { t with entry := some (s.handlerAt g.ctx u) })] }) ∧
    (g.phase = .handler w t0 → w = u → s.raise g.id u t = s.endByTrap g t0 t.cause)) ∧
  (∀ (s s1 : State) (g : Group) (u k : Nat) (t : Trap),
    let entry := t.entry.getD (bits (s.ctxReg g.ctx (if u = 32 then 0x20 else 0x18)) 56 2 * 4)
    let size := s.slotSize g.ctx
    let base := s.slotBase g.ctx + k * size
    let frame := frameBytes g u t (!g.pend.isEmpty)
    (entry = 0 → s.enterHandler g u t = s.endByTrap g t 0) ∧
    (entry ≠ 0 → g.slot = none → s.freeSlot g.ctx = none → s.enterHandler g u t = s.endByTrap g t 0) ∧
    (entry ≠ 0 → g.slot = some k ∨ (g.slot = none ∧ s.freeSlot g.ctx = some k) → frame.length ≤ size → g.hasUnit u = true →
      (∀ f, s.putVirtual g base frame = .error f → s.enterHandler g u t = s.endByTrap g t f.cause) ∧
      (s.putVirtual g base frame = .ok s1 → (s1.group? g.id).isSome = true → ∃ h : Group,
        (s.enterHandler g u t).group? g.id = some h ∧ h.phase = .handler u t ∧ h.slot = some k ∧
        (s.enterHandler g u t).slots.any (fun x => x.ctx = g.ctx ∧ x.slot = k) = true ∧
        (h.unit u).hmode = true ∧ (∀ w, w ≠ u → g.hasUnit w = true → h.unit w = g.unit w) ∧
        (∀ l, l < 32 → u ≠ 32 → (h.unit u).pcOf l = if (g.unit u).out l then (g.unit u).pcOf l else entry) ∧
        (∀ n l, (h.unit u).vget n l = (g.unit u).vget n l) ∧ (∀ n, (h.unit u).pget n = (g.unit u).pget n) ∧
        (∀ n, n ≠ 0 → (n < 4 ∨ 7 < n) → (h.unit u).sget n = (g.unit u).sget n) ∧ (h.unit u).sget 0 = BitVec.ofNat 32 k ∧
        (base + size ≤ 2 ^ 57 → g.pos.die < 8 → g.pos.cluster < 16 → g.pos.core < 16 →
          ptrOf ((h.unit u).squad 4) = { valid := true, resv := 0, anchor := g.pos, swz := 0, scope := 3, cls := 0, space := 0
                                         fmt := 0, len := size, base := base }))))

/-- TRET completes: it reloads the frame, replays and resumes or enters the next pending trap. TRET in a handler that
holds a slot, whose frame can be read and whose resume addresses are multiples of 4, completes: it takes the trap
return of that frame, after which the group settles, and with no lane active it has no effect but its advance; a
misaligned resume address of a lane not exited raises ALIGN in the lowest active lane. The reload gives v0 to v7, s0
to s7, p0 to p14 and every lane's program counter the bytes at their places in the frame and changes no other
register. Leaving the handler with no trap pending makes the group live, or draining again where it was, with no
slot; with one pending it stops for that. -/
def Obligations.TrapReturnReloadsTheFrame : Prop :=
  (∀ (f : Word0) (s s1 : State) (u : Issue) (g : Group) (w k : Nat) (t0 : Trap) (bs : List Byte), Issues (.tret f) s u g →
    let x := issueCtx (.tret f) u g
    let c := begunCrew (.tret f) u g
    let h := begunGroup (.tret f) u g
    let t := begunState (.tret f) s u g
    let crooked := (framePcs bs u.unit).zipIdx.find? (fun p => decide (p.1 % 4 ≠ 0) && !c.out p.2)
    (x.act = 0 → exec (.tret f) s = .next (t.settleAt u.gid u.addr)) ∧
    (x.act ≠ 0 → g.phase = .handler w t0 → g.slot = some k →
    t.getVirtual h (t.slotBase g.ctx + k * t.slotSize g.ctx)
      (0x680 + if u.unit = 32 then 64 * c.qlog.length else 320 * c.log.length) = .ok (s1, bs) →
    (crooked = none → exec (.tret f) s = .next ((s1.trapReturn u.gid (.tret f) x t0 bs).settleAt u.gid u.addr)) ∧
    (∀ p, crooked = some p →
      exec (.tret f) s = .next ((trapped (.tret f) s u g 0x0A (lowest x.act) 0 p.1).settleAt u.gid u.addr)))) ∧
  (∀ (c : Crew) (f : List Byte) (u : Nat), u < 32 →
    (∀ k l, l < 32 → (c.reload f u).vget k l =
      if k < 8 then BitVec.ofNat 32 (ofLeBytes ((f.drop (0xC0 + 128 * k + 4 * l)).take 4)) else c.vget k l) ∧
    (∀ k, (c.reload f u).sget k = if k < 8 then BitVec.ofNat 32 (ofLeBytes ((f.drop (0x4C0 + 4 * k)).take 4)) else c.sget k) ∧
    (∀ k, (c.reload f u).pget k = if k < 15 then BitVec.ofNat 32 (ofLeBytes ((f.drop (0x500 + 4 * k)).take 4)) else c.pget k) ∧
    (∀ l, l < 32 → (c.reload f u).pcOf l = ofLeBytes ((f.drop (0x540 + 8 * l)).take 8) % 2 ^ 57)) ∧
  (∀ (s : State) (g : Group), s.group? g.id = some g →
    (g.pend = [] → g.wanted = none → ∃ h : Group, (s.leaveHandler g.id).group? g.id = some h ∧ h.slot = none ∧
      (g.drainTo = none → h.phase = .live) ∧ (∀ n, g.drainTo = some n → h.phase = .drain n) ∧
      (s.leaveHandler g.id).slots.all (fun x => decide (x.gid ≠ g.id)) = true) ∧
    (∀ x, nextPending g.pend = some x → s.leaveHandler g.id =
      (s.setGroup { g with pend := dropPending g.pend x, phase := .stopping x.1 x.2 }).settleStop g.id))

/-- Illegal and handler-only instructions raise ILLEGAL_OP with the failing step and have no other effect. An
encoding that decodes to nothing, and an instruction that fails a check reading the unit, raise ILLEGAL_OP with the
failing step in the lowest lane of the issue group and have no other effect; TRET and TRET.end outside handler mode
fail step 3. -/
def Obligations.IllegalInstructionsRaiseIllegalOp : Prop :=
  (∀ (r : Reject) (s : State) (u : Issue) (g : Group), s.cur = some u → s.group? u.gid = some g →
    exec (.illegalOp r) s = .next (s.raise u.gid u.unit
      { cause := 0x01, lane := lowest u.lanes, detail := Reject.detail r (decide (u.unit = 32)) (g.unit u.unit).hmode
        addr := u.addr, first := u.addr })) ∧
  (∀ (i : Instr) (s : State) (u : Issue) (g : Group) (d : Nat), s.cur = some u → s.group? u.gid = some g → (rowOf i).len ≠ 0 →
    illegalDetail i (issueCtx i u g) g (g.unit u.unit) = some d →
    let t := trapped i s u g 0x01 (lowest u.lanes) d u.addr
    exec i s = .next t ∨ exec i s = .next (t.settleAt u.gid u.addr)) ∧
  (∀ (i : Instr) (f : Word0) (u : Issue) (g : Group), (i = .tret f ∨ i = .tretEnd f) → (g.unit u.unit).hmode = false →
    illegalDetail i (issueCtx i u g) g (g.unit u.unit) = some 3)

/-- Stores, releases, atomics, faulting loads, write-backs, ICINV, drained entries and granted entries complete once
they may. For an access under way in a group that lives: a load whose translation faulted enters the operand log and
raises its trap, ld still counting it; a store past the buffer and a release, once they may perform and what the
units hold that they write in part is at hand, write their lanes, and st falls then, or, where a home is elsewhere,
once the write is accepted there; an atomic that may perform is performed, its reply comes in a step of its own,
which writes D and lowers ld; a write-back writes its ranges' lines back; ICINV writes back and drops instruction
lines in its scope; each then lowers st and the group settles. Landing removes the access and lowers one counter of
its unit by one. An entry of the write-combining buffer drains 4,096 cycles after it was taken, or when it was to
drain, once a transaction-table entry is free for it; free entries go to the first waiter if there is room for the
number it needs, else at most to a synchronising one behind it. -/
def Obligations.AccessStepsComplete : Prop :=
  (∀ (gid fid : Nat) (s : State) (g : Group) (f : Flight), s.flight? gid fid = some (g, f) → g.dead = false →
    let without := s.onGroup gid (fun h => { h with flights := h.flights.filter (fun y => y.id ≠ fid) })
    (∀ t, f.fault = some t → exec (.loadTranslationFault gid fid) s =
      .next (((without.onGroup gid (fun h => h.setUnit f.unit { h.unit f.unit with log := addLog (h.unit f.unit).log (f.logRec t.cause) })).raise
        gid f.unit { t with seq := fid + 1 }).settle gid)) ∧
    let writes := fun (r : Ev → State) => exec (.storePerformed gid fid) s = .next (r (.storePerformed gid fid)) ∧
      exec (.releasePerformed gid fid) s = .next (r (.releasePerformed gid fid))
    (f.done ≠ 2 → s.mayPerform g f = true → s.oldUnits g f = [] → s.awaits gid fid = false → ∀ t, s.storeLanes gid fid f [] f.lanes = some t →
      let u := t.onGroup gid (fun h => h.bumpGen (cellsOf f.lanes))
      (f.farWrite s g = false → writes (fun _ => (u.landFlight gid f 1).settle gid)) ∧
      (f.farWrite s g = true → writes (fun ev => (u.setDone gid fid 2).post ev))) ∧
    (f.done = 2 → s.awaits gid fid = false → s.toStamp.any (fun w => decide (w.owner = gid)) = false →
      s.net.stamped.any (fun y => decide (y.w.owner = gid)) = false → writes (fun _ => (s.landFlight gid f 1).settle gid)) ∧
    (s.awaits gid fid = false → f.fault = none → f.done < f.lanes.length → (f.done ≠ 0 ∨ s.mayPerform g f = true) →
      ∀ t, s.performAtomic g f = some t → exec (.atomicComplete gid fid) s = .next (t.post (.atomicComplete gid fid))) ∧
    (s.awaits gid fid = false → f.fault = none → f.lanes.length ≤ f.done → atomSub f.ins ≠ 16 →
      exec (.atomicComplete gid fid) s = .next (((s.onGroup gid (fun h => h.setUnit f.unit (f.lanes.foldl (fun c a =>
        c.writeDest (decide (f.unit = 32)) a.lane f.d (destCount f.typ) (a.value % 2 ^ 64)) (h.unit f.unit)))).landFlight gid f 0).settle gid)) ∧
    (bit f.aux 1 = false → exec (.writebackAccepted gid fid) s = .next (((((s.doWriteback g f (bit f.aux 0)).onGroup gid (fun h =>
      { h with flights := h.flights.map (fun y => if y.id = fid then { y with ranges := [] } else y) })).landFlight gid f 1).settle gid))) ∧
    (∃ t : State, exec (.icinvComplete gid fid) s = .next ((t.landFlight gid f 1).settle gid) ∧
      ((s.heldLines g.loc.flat f.ranges) = [] → ∀ (n : Nat) (k : Core), (n, k) ∈ s.cores → nwf (fun _ => Core.empty) s.cores = true →
        (g.loc.covers f.aux n = true ∨ g.pos.covers f.aux n = true) →
        ∀ y ∈ (t.core n).icache, meets f.ranges (s.peer * 2 ^ 45 + y.1 * 192) = false))) ∧
  (∀ (s : State) (gid k : Nat) (g : Group) (f : Flight), s.group? gid = some g → g.hasUnit f.unit = true →
    ∃ h : Group, (s.landFlight gid f k).group? gid = some h ∧ h.flights = g.flights.filter (fun y => y.id ≠ f.id) ∧
      h.unit f.unit = (g.unit f.unit).count k false ∧ ∀ a, (s.landFlight gid f k).byteAt a = s.byteAt a) ∧
  (∀ (core line : Nat) (s : State) (e : WcbEntry), (s.core core).wcb.find? (fun y => y.line = line) = some e →
    let due := e.out = true ∨ e.since + 4096 ≤ s.now (core / 96)
    let room := ottRoom (s.ottUsed core) 1 e.out = true
    (¬ (due ∧ room) → exec (.wcbDrainTimeout core line) s = .next (s.post (.wcbDrainTimeout core line))) ∧
    (due → room → exec (.wcbDrainTimeout core line) s = .next (s.drainWcb core e.out e) ∧
      ((s.drainWcb core e.out e).core core).wcb = (s.core core).wcb.filter (fun y => decide (y.line ≠ line)))) ∧
  (∀ (core : Nat) (s : State) (w : OttWait), nextWaiter (s.ottUsed core) (s.core core).ottWait = some w →
    exec (.ottEntryGrant core) s = .next (s.setCore core { s.core core with
      ottWait := (s.core core).ottWait.map (fun y => if y = w then { y with granted := true } else y) })) ∧
  (∀ (used : Nat) (w : OttWait) (ws : List OttWait), w.granted = false →
    (ottRoom used w.n w.sync = true → nextWaiter used (w :: ws) = some w) ∧
    (ottRoom used w.n w.sync = false → w.sync = true → nextWaiter used (w :: ws) = none) ∧
    (ottRoom used w.n w.sync = false → w.sync = false → ∀ v, nextWaiter used (w :: ws) = some v →
      v.sync = true ∧ v.granted = false ∧ ottRoom used v.n true = true)) ∧
  (∀ used n, n ≤ 508 → (ottRoom used n true = decide (used + n ≤ 512)) ∧ (ottRoom used n false = decide (used + n ≤ 508)))

/-- A die distributor admits what comes next, steals and gives batches, ages its waiting launches, and takes a
group's resources back. A dispatch admits the unit that the distributor has chosen, into a vacated block with its
values where it inherits; a new group's crews stand at the kernel's entry with no counter raised, every register and
predicate zero but the values inherited, and the chain mark where it has such. A die with nothing left asks the die
with the most batches not begun, ties to the lowest; the die asked gives up its highest batch or answers with none,
and the reply makes the batches given up the asking die's. After 65,536 cycles the oldest waiting launch alone is
admitted; after 4,096 a launch has the fewest groups of lower priority pre-empted that make room. An ended group
whose accesses have drained and whose stores are accepted is reported and leaves its core, a normal end leaving its
inherited range; a time slice that is over asks for a pre-emption; a cancel message stops the groups below it on its
die and the reductions they posted. -/
def Obligations.DistributorsAdmitAndReturnGroups : Prop :=
  (∀ (die : Nat) (s s1 : State) (l : Launch) (n : Next), s.choice die = .fresh l n → s.admitNext l die n none = some s1 →
    exec (.groupDispatch die l.id) s = .next (((s1.backfillOn die l.id).kick die).askSteal die l.id)) ∧
  (∀ (die core : Nat) (s s1 : State) (l : Launch) (vals : Option (NMap Word)) (n : Next), s.choice die = .inherit l core vals n →
    s.admitNext l die n (some (core, vals)) = some s1 →
    exec (.groupDispatch die l.id) s = .next (((s1.backfillOn die l.id).kick die).askSteal die l.id)) ∧
  (∀ (s : State) (l : Launch) (n gang core scr : Nat) (vals : Option (NMap Word)),
    let g := newGroup s l n gang core scr vals
    g.crews.length = l.crews ∧ g.phase = .live ∧ g.loc = posOf core ∧ g.flights = [] ∧ g.cmds = [] ∧ g.chain = vals.isSome ∧
    ∀ c u, (c, u) ∈ g.crews.zipIdx → c.exited = 0 ∧ (c.ld, c.st, c.cp, c.tl) = (0, 0, 0, 0) ∧ c.hmode = false ∧ c.partw = 32 ∧
      (∀ k, k < 32 → c.pcOf k = l.desc.exec) ∧ (vals = none → ∀ k j, c.vget k j = 0) ∧
      (∀ m, vals = some m → c.v = inheritCrew m u) ∧ (∀ k, c.sget k = 0) ∧ ∀ k, k ≠ 15 → c.pget k = 0) ∧
  (∀ (d launch : Nat) (s : State) (l : Launch) (x y : Share) (r : List Share), s.launch? launch = some l → l.share? d = some x →
    l.desc.cores ≠ 2 → x.batches = [] → x.cur = [] → x.back = [] → x.coming = [] → x.reported = false → s.stealing d launch = false →
    l.shares.filter (fun z => decide (z.die ≠ d) && !z.batches.isEmpty) = y :: r →
    let v := r.foldl Share.richer y
    s.askSteal d launch = s.sendMesh (distributorPort d) (distributorPort v.die) 0 l.prio (.stealRequest v.die d launch) ∧
    ∀ z ∈ y :: r, z.batches.length ≤ v.batches.length ∧ (z.batches.length = v.batches.length → v.die ≤ z.die)) ∧
  (∀ (victim thief launch : Nat) (s : State) (l : Launch), s.launch? launch = some l →
    let answer := fun (t : State) => t.sendMesh (distributorPort victim) (distributorPort thief) 1 l.prio (.stealReply victim thief launch)
    (s.givenUp l victim thief = none → exec (.stealRequest ⟨victim, thief⟩ launch) s = .next (answer s)) ∧
    (∀ b, s.givenUp l victim thief = some b → exec (.stealRequest ⟨victim, thief⟩ launch) s =
      .next (answer ((s.setLaunch { l with shares := l.shares.map (fun x =>
        if x.die = victim then { x with batches := x.batches.dropLast }
        else if x.die = thief then { x with coming := x.coming ++ [b] } else x) }).tryShare launch victim)) ∧
      ∃ v, l.share? victim = some v ∧ v.batches.getLast? = some b)) ∧
  (∀ (victim thief launch : Nat) (s : State) (l : Launch) (t : Share), s.launch? launch = some l → l.share? thief = some t → t.coming ≠ [] →
    exec (.stealReply victim thief launch) s = .next ((s.setLaunch { l with shares := l.shares.map (fun x =>
      if x.die = thief then { x with batches := x.batches ++ x.coming, coming := [], since := s.now thief } else x) }).kick thief)) ∧
  (∀ (die : Nat) (s : State) (l : Launch) (r : List Launch) (x : Share), s.waitingOn die = l :: r → l.share? die = some x →
    65536 ≤ s.now die - x.since →
    exec (.backfillAgeLimit die) s = .next ({ s with onlyLaunch := ninsert s.onlyLaunch die l.id }.kick die)) ∧
  (∀ (die launch : Nat) (s : State) (l : Launch) (x : Share) (r : List Nat) (rs : List (List Nat)),
    s.launch? launch = some l → s.wants l die = true → l.share? die = some x → 4096 ≤ s.now die - x.since → s.preempting x = false →
    (s.places l die).filterMap (s.roomAt l die) = r :: rs →
    let best := rs.foldl (fun (b : List Nat) y => if y.length < b.length then y else b) r
    exec (.priorityWaitExpiry die launch) s = .next ((best.foldl (fun (t : State) g => t.postOnce (.preemptRequest g false))
      (s.setLaunch { l with shares := l.shares.map (fun y => if y.die = die then { y with asked := best } else y) })).postOnce
        (.priorityWaitExpiry die launch)) ∧
    ∀ y ∈ r :: rs, best.length ≤ y.length) ∧
  (∀ (gid how : Nat) (s : State) (g : Group), s.group? gid = some g → g.phase = .ended how → (s.drainEnded g).groupDone g = true →
    let s1 := if g.told then s.drainEnded g else (s.drainEnded g).tellEnd g how
    ∃ t : State, exec (.groupResourcesReturn gid) s = .next ((t.kick g.loc.die).askSteal g.loc.die g.launch) ∧
      t.groups = s1.groups.filter (fun h => decide (h.id ≠ gid)) ∧
      (how ≠ 0 ∨ g.desc.inh = none → t.launches = s1.launches) ∧
      (∀ vals, how = 0 → g.legacy = some vals → t.launches = ({ s1 with groups := t.groups }.onLaunch g.launch (fun l =>
        { l with vacated := l.vacated ++ [(g.loc.flat, vals)] })).launches)) ∧
  (∀ (die inst : Nat) (s : State), exec (.cancelMessage die inst) s = .next ((s.cancelOnDie inst die).cancelPosted
    ((s.insts.filter (fun x => s.isUnder inst 8 x.id)).map (fun x => x.id)))) ∧
  (∀ (gid : Nat) (s : State) (g : Group), s.group? gid = some g → g.over = false → g.resident = true →
    let slice := bits (s.ctxReg g.ctx 0x08) 31 0
    slice ≠ 0 → slice ≤ s.now g.loc.die - g.since →
    exec (.timeSliceExpiry gid) s = .next (s.postOnce (.preemptRequest gid false)))

/-- A pre-emption request chooses its mode; a save writes the image and frees the core, a restore brings the group
back. A request, or its retry, for a running group none of whose companions handles a trap or has ICINV open chooses
its mode; one for a group in a handler waits for the TRET. A group that drains has its mode chosen again without
draining once it has retired its limit. A save whose awaited accesses are done and whose stores are accepted writes
the dirty lines back and the image into the slot and the group is saved; a write that does not translate or meets an
uncorrectable error abandons the image. A saved group that is the distributor's choice comes back with its whole set
on the places found, if all the images can be read, and settles; one whose image cannot be read is lost. -/
def Obligations.PreemptionSavesAndRestores : Prop :=
  (∀ (gid : Nat) (fr : Bool) (s : State) (g : Group), s.group? gid = some g →
    (g.phase = .live → (s.companions g).any Group.trapping = false → (s.companions g).any Group.icinvOpen = false →
      exec (.preemptRequest gid fr) s = .next (s.preempt g fr true)) ∧
    (g.phase = .live → (s.companions g).any Group.trapping = true → fr = false →
      exec (.preemptRequest gid fr) s = .next ((s.setGroup { g with wanted := some false }).postOnce (.preemptRetry gid))) ∧
    (∀ r, g.phase = .live → g.wanted = some r → (s.companions g).any Group.trapping = false →
      (s.companions g).any Group.icinvOpen = false →
      exec (.preemptRetry gid) s = .next (s.preempt { g with wanted := none } r true)) ∧
    (∀ limit, g.phase = .drain limit → limit ≤ g.retired → (s.companions g).any Group.trapping = false →
      (s.companions g).any Group.icinvOpen = false →
      exec (.drainLimit gid) s = .next (((s.companions g).foldl (fun (t : State) h => t.setGroup { h with phase := .live }) s).preempt
        { g with phase := .live } false false))) ∧
  (∀ (s : State) (g : Group) (fr first : Bool),
    (first = true → fr = false → (s.companions g).all s.drains = true → s.companions g = [g] →
      s.preempt g fr first = (s.setGroup { g with phase := .drain (g.desc.estimate + bits (s.ctxReg g.ctx 0x38) 63 32), wanted := none }).post
        (.drainLimit g.id)) ∧
    ((first && !fr && (s.companions g).all s.drains) = false → s.restartable g = true → s.preempt g fr first = s.requeue g none)) ∧
  (∀ (gid slot : Nat) (s : State) (g : Group), s.group? gid = some g → g.phase = .saving slot → g.saveWaits = false → s.unaccepted gid = false →
    let s1 := s.flushL1 (s.viewOf g) [g.loc.flat]
    let image := s1.imageBytes g.settleSave (decide (g.gang ≠ 0 ∨ g.desc.cores = 2))
    (s.upsets.contains s.free = true → exec (.saveComplete gid) s = .next (s1.abandonSave g)) ∧
    (s.upsets.contains s.free = false →
      (s1.hwWrite g.part g.ctx (s1.slotBase g.ctx + slot * s1.slotSize g.ctx) image = none →
        exec (.saveComplete gid) s = .next (s1.abandonSave g)) ∧
      (∀ t, s1.hwWrite g.part g.ctx (s1.slotBase g.ctx + slot * s1.slotSize g.ctx) image = some t →
        exec (.saveComplete gid) s = .next ((t.setGroup { g.settleSave with phase := .saved slot }).kick g.loc.die)))) ∧
  (∀ (gid slot : Nat) (s : State) (g : Group) (places : List (Nat × Nat × Nat)), s.group? gid = some g → g.phase = .saved slot →
    (s.choice g.pos.die ≠ .restore gid → exec (.restoreGroup gid) s = .next (s.kick g.pos.die)) ∧
    (s.choice g.pos.die = .restore gid → s.restorePlan g = some places →
      let lost := fun (p : Nat × Nat × Nat) => ((s.group? p.1).bind s.imageOf).isNone
      (places.find? lost = none → exec (.restoreGroup gid) s =
        .next (((places.foldl (fun (t : State) p => (t.touchImage p.1).bringBack p.1 p.2.1 p.2.2) s).kick g.pos.die).settle gid)) ∧
      (∀ p, places.find? lost = some p → exec (.restoreGroup gid) s = .next (s.loseImage ((s.group? p.1).getD g))))) ∧
  (∀ (gid : Nat) (s : State) (g : Group), s.group? gid = some g → g.phase = .live →
    exec (.restoreGroup gid) s = .next (s.issueQueueReplays gid)) ∧
  (∀ (s : State) (g : Group), (s.beginSave g 0).due.any (fun e => decide (e = .saveComplete g.id)) = true)

/-- The front-end consumes each kind of packet, writes RIDX and begins it when it may; waits, copies, nodes and queue
registers complete. Each packet step of a queue that is ready and not under reset consumes its well-formed packet:
the level is joined, a LAUNCH takes its identifier and its records are read, RIDX + 1 is written to memory and kept,
the levels it closes are closed, and the command begins at once or is held at the head until it may; a malformed
packet puts the queue in ERROR with reason 2. A held command begins once it may. A CANCEL cancels the named instance,
PARTITION_FENCE writes back and drops lines, SIGNAL_MEM writes its word, WAIT_MEM waits, is read again, and ends when
its comparison holds or, with reason 6, when its time is over; under an implicit level cancelled since these have no
effect. A copy goes on to its end; a finished node whose writes are accepted is recorded, counted once in its graph
and its successors released. A doorbell takes WIDX or enters OVERRUN; a reset closes the open levels and sets both
indices; Q_CTL enables, disables, or fails with ERROR reason 2. -/
def Obligations.CommandPacketsAreConsumedAndBegin : Prop :=
  (∀ (opc q : Nat) (i : Instr) (s : State) (bs : List Byte),
    ((opc = 1 ∧ i = .jobStart q) ∨ (opc = 2 ∧ i = .phaseStart q) ∨ (opc = 3 ∧ i = .graphSubmit q) ∨ (opc = 4 ∧ i = .launch q) ∨
      (opc = 5 ∧ i = .copy q) ∨ (opc = 6 ∧ i = .signalMem q) ∨ (opc = 7 ∧ i = .waitMem q) ∨ (opc = 8 ∧ i = .cancelCommand q) ∨
      (opc = 9 ∧ i = .partitionFence q)) →
    let k := s.queue q
    let p := s.partOfQueue q
    let s0 := { s with served := nset (fun _ => 0) s.served (4 * p + bits k.ctl 62 61) (q + 1) }.hwTouch p (bits k.ctl 53 48) (s.packetAt q) 64
    k.ready = true → s.resetting p = false → s0.readPacket q = some bs → packetOpc bs = opc →
    (packetOk bs = false → exec i s = .next ((s0.queueError q 2).pumpOn q)) ∧
    (∀ sj under s2, packetOk bs = true → s0.joinLevel q opc = some (sj, under) →
      let taken := sj.takeLaunch q p (bits k.ctl 53 48) (packetWord bs 2)
      (if opc = 4 then taken.1 else sj).hwWrite p (bits k.ctl 53 48) (k.base + 8) (leBytes 8 (k.ridx + 1)) = some s2 →
      let c : QCmd := { seq := s2.nextId, inst := none, opens := decide (opc ≤ 2), under := under
                        got := if opc = 4 then some taken.2 else none, opc := opc }
      let s4 := ({ s2 with nextId := s2.nextId + 1 }.setQueue q
        { s2.queue q with ridx := (k.ridx + 1) % 2 ^ 64, cmds := (s2.queue q).cmds.filter (fun y => !s2.cmdOver y) ++ [c] }).closeBefore q opc
      (s4.mayBegin q bs = true → exec i s = .next (((s4.beginCmd q bs).settleQueue q).pumpOn q)) ∧
      (s4.mayBegin q bs = false → exec i s = .next ((((s4.setQueue q { s4.queue q with head := some bs, waitSince := 0 }).post
        (.commandBegin q)).settleQueue q).pumpOn q)))) ∧
  (∀ (q : Nat) (s : State) (bs : List Byte), (s.queue q).head = some bs →
    ((s.queue q).waitSince = 0 → s.mayBegin q bs = true → exec (.commandBegin q) s =
      .next ((((s.setQueue q { s.queue q with head := none }).beginCmd q bs).settleQueue q).pumpOn q)) ∧
    ((s.queue q).waitSince ≠ 0 → s.lastCancelled q = false →
      let word := s.syncRead (s.partOfQueue q) (bits (s.queue q).ctl 53 48) (packetWord bs 1) 8
      (∀ v, word = some v → waitHolds bs v = true → exec (.waitMemReread q) s = .next (s.endWait q 0)) ∧
      (∀ v, word = some v → waitHolds bs v = false → s.waitTimedOut q bs = false →
        exec (.waitMemReread q) s = .next (s.postOnce (.waitMemReread q))) ∧
      (s.waitTimedOut q bs = true → exec (.waitMemTimeout q) s = .next (s.endWait q 6)))) ∧
  (∀ (q : Nat) (s : State) (bs : List Byte), let p := s.partOfQueue q
    let ctx := bits (s.queue q).ctl 53 48
    let seq := (s.queue q).lastSeq
    (packetOpc bs = 8 → s.beginCmd q bs = (s.cancelByRecord p ctx (packetWord bs 1) (packetWord bs 2)).cmdDone q seq) ∧
    (packetOpc bs = 9 → s.beginCmd q bs = (if s.lastCancelled q then s else s.fence p).cmdDone q seq) ∧
    (∀ t, packetOpc bs = 6 → s.lastCancelled q = false → s.signalHeld p ctx (packetWord bs 1) (packetWord bs 3) = false → s.signal q seq p ctx (packetWord bs 1) (packetWord bs 2) (packetWord bs 3) = some t →
      s.beginCmd q bs = t.cmdDone q seq)) ∧
  (∀ (bs : List Byte) (v : Nat), let m := packetWord bs 3
    waitHolds bs v = true ↔ (packetWord bs 4 % 4 = 0 ∧ v &&& m = packetWord bs 2 &&& m) ∨ (packetWord bs 4 % 4 = 1 ∧ v &&& m ≠ packetWord bs 2 &&& m) ∨
      (packetWord bs 4 % 4 = 2 ∧ packetWord bs 2 &&& m ≤ v &&& m) ∨ (packetWord bs 4 % 4 = 3 ∧ v &&& m < packetWord bs 2 &&& m)) ∧
  (∀ (n : Nat) (s : State) (c : CopyOp) (x : Inst), s.copies.find? (fun y => y.inst = n) = some c → s.inst? n = some x → x.cancelled = false →
    exec (.copyFinish n) s = .next (s.copyOn x.part (c.len + 1) c)) ∧
  (∀ (graph node n : Nat) (s : State) (g : Graph) (up j : Inst), s.graph? graph = some g → s.inst? graph = some up →
    g.released.find? (fun x => x.1 = node) = some (node, n) → s.inst? n = some j → g.finished.contains node = false → j.finished = true → s.unaccepted n = false →
    let bad := decide (j.canc ≠ 0) || decide (j.special ≠ 0)
    let s2 := ((s.writeRecord j j.status).setInst { up with
      done := if bad then up.done else up.done + 1, canc := if bad then up.canc + 1 else up.canc
      gdone := up.gdone + j.gdone, gcanc := up.gcanc + j.gcanc }).setGraph { g with finished := g.finished ++ [node] }
    ((g.stopped || g.dropped) = true → exec (.nodeFinish graph node) s = .next (s2.settleGraph graph)) ∧
    ((g.stopped || g.dropped) = false → ∀ x, s2.readNode up.part g node = some x →
      exec (.nodeFinish graph node) s = .next ((s2.decrement up.part graph g x.succ 0 x.nsucc).settleGraph graph))) ∧
  (∀ (q : Nat) (s : State) (bs : List Byte), let k := s.queue q
    k.state ≠ 0 → k.state ≠ 4 → s.hwRead (s.partOfQueue q) (bits k.ctl 53 48) k.base 8 = some bs →
    let t := s.hwTouch (s.partOfQueue q) (bits k.ctl 53 48) k.base 8
    let w := ofLeBytes bs
    let past := 2 ^ bits k.ctl 4 0 < (w + 2 ^ 64 - k.ridx) % 2 ^ 64 ∨ w < k.prevW
    (past → exec (.qDoorbell q) s = .next (t.queueError q 1)) ∧
    (¬ past → exec (.qDoorbell q) s = .next (((t.setQueue q { k with
      prevW := w, state := if k.state = 1 ∧ (w ≠ k.ridx ∨ k.head.isSome) then 2 else k.state }).settleQueue q).pumpOn q))) ∧
  (∀ (q : Nat) (v : Dword) (s0 t : State), (s0.queue q).state = 0 ∨ (s0.queue q).state = 4 →
    let s := (s0.closeInst (s0.queue q).phase).closeInst (s0.queue q).job
    let k := s.queue q
    (s.setQueue q { k with ridx := v.toNat, prevW := v.toNat, state := if bit k.ctl 63 then 1 else 0, reason := 0, job := 0, phase := 0
                           implicitJob := 0, implicitPhase := 0 }).hwWrite (s.partOfQueue q) (bits k.ctl 53 48) (k.base + 8)
      (leBytes 8 v.toNat) = some t →
    exec (.qReset q v) s0 = .next (if bit k.ctl 63 then t.post (.qDoorbell q) else t)) ∧
  (∀ (q : Nat) (v : Dword) (s : State), let k := s.queue q
    let x := v.toNat &&& qCtlMask
    (bit k.ctl 63 = true → bit x 63 = true → exec (.qCtlWrite q v) s = .next s) ∧
    (bit k.ctl 63 = true → bit x 63 = false → exec (.qCtlWrite q v) s = .next (s.setQueue q { k with ctl := x, state := 0, reason := 0 })) ∧
    (bit k.ctl 63 = false → bit x 63 = false → exec (.qCtlWrite q v) s = .next (s.setQueue q { k with ctl := x })) ∧
    (bit k.ctl 63 = false → bit x 63 = true →
      let ok := decide (4 ≤ bits x 4 0 ∧ bits x 4 0 ≤ 16) && s.ownsCtx (s.partOfQueue q) (bits x 53 48) && bit (s.ctxReg (bits x 53 48) 0) 0
      (ok = true → ∃ t : State, exec (.qCtlWrite q v) s = .next t ∧ t.queue q = { k with ctl := x, state := 1, reason := 0 }) ∧
      (ok = false → exec (.qCtlWrite q v) s = .next (s.setQueue q { k with ctl := x, state := 4, reason := 2 }))))

/-- TLB misses are answered or walked, and a walk step follows one entry. Each of these steps completes. A miss that
the second-level slice holds fills the core's TLB; one whose page no walk covers, with the walk queue not full,
enters it. A walk starts from the deepest cached table or the context's root on a free walker. A walk read of a table
entry, made at the entry's home behind what is listed there, caches the table and goes one level down; of a leaf it
fills the slice and the core's TLB and ends. An entry that is not valid reads as TRANSLATION reason 0 with its level.
-/
def Obligations.TranslationStepsComplete : Prop :=
  (∀ (core ctx va : Nat) (s : State), let die := (s.viewOfCore core ctx).sliceDie va
    let x := s.dieXlate die
    let page := match s.walk (s.viewOfCore core ctx) ctx va with
      | .ok l => (l.va, l.size)
      | .error _ => (va / 4096 * 4096, 4096)
    (∀ e, tlbFind x.tlb ctx va = some e → exec (.tlbMissRequest core ctx va) s = .next (s.coreTlbPut core e)) ∧
    (tlbFind x.tlb ctx va = none → x.walks.any (fun w => decide (w.ctx = ctx ∧ page.1 ≤ w.va ∧ w.va < page.1 + page.2)) = false →
      (x.walks.filter (fun w => !w.started)).length < 256 → ∃ t : State, exec (.tlbMissRequest core ctx va) s = .next t ∧
        (t.dieXlate die).walks = x.walks ++ [{ wid := s.nextId, core := core, ctx := ctx, va := va, started := false, level := 4, table := 0 }] ∧
        t.due = s.due ++ [.walkStart die] ∧ ∀ a, t.byteAt a = s.byteAt a)) ∧
  (∀ (die : Nat) (s : State) (w : Walk), let x := s.dieXlate die
    x.walks.find? (fun y => !y.started) = some w → (x.walks.filter (fun y => y.started)).length < 48 → bit (s.ctxReg w.ctx 0) 0 = true →
    let start := (walkCached x.wcache w.ctx w.va).getD (4, bits (s.ctxReg w.ctx 0) 56 12 * 4096)
    exec (.walkStart die) s = .next ((s.setXlate die { x with walks := x.walks.map (fun y =>
      if y.wid = w.wid then { w with started := true, level := start.1, table := start.2 } else y) }).post (.walkReadComplete die w.wid))) ∧
  (∀ (die wid : Nat) (s : State) (w : Walk) (bs : List Byte), let x := s.dieXlate die
    let v := s.viewOfCore w.core w.ctx
    let a := w.table + 8 * bits w.va (20 + 9 * w.level) (12 + 9 * w.level)
    let r := (s.catchUp v (a / 192)).l2Touch v (a / 192) 0
    x.walks.find? (fun y => y.wid = wid) = some w → regionOf v w.table = .hashed → v.admits w.table false = true → r.homeRead v a 8 = some bs →
    (∀ t, readEntry r.peer w.level w.va (ofLeBytes bs) = .table t → exec (.walkReadComplete die wid) s =
      .next ((r.setXlate die { x with
        wcache := ({ ctx := w.ctx, level := w.level - 1, va := w.va / 2 ^ (12 + 9 * w.level), table := t } :: x.wcache).take 256
        walks := x.walks.map (fun y => if y.wid = wid then { w with level := w.level - 1, table := t } else y) }).post
          (.walkReadComplete die wid))) ∧
    (∀ l, readEntry r.peer w.level w.va (ofLeBytes bs) = .leaf l → (x.walks.filter (fun y => y.wid ≠ wid)).all (fun y => y.started) = true →
      let e : TlbEntry := { ctx := w.ctx, va := l.va, size := l.size, leaf := l.encode }
      exec (.walkReadComplete die wid) s = .next ((r.setXlate die { x with
        tlb := (e :: x.tlb).take 16384, walks := x.walks.filter (fun y => y.wid ≠ wid) }).coreTlbPut w.core e))) ∧
  (∀ (peer level va e : Nat), bit e 0 = false → readEntry peer level va e = .bad { cause := 0x10, detail := level * 16 + 128 })

/-- TLBI by address, by context and for all completes with what it selects dropped, and reports once older accesses
are done. In every state TLBI by address, by context and for all completes: it leaves in the core TLBs and the slices
of the partition's dies no entry that it selects, of a context or of all no cached table either, and the entries it
does not select stay in the slices; its boundary is the next number to be given to an access. Its completion, once no
access begun before that boundary is under way, clears GO and changes no other register but the boundary, which the
model keeps at offset 0x1010 of the window (log entry 53). -/
def Obligations.TranslationInvalidationsComplete : Prop :=
  (∀ (p : Nat) (s : State), let c := s.tlbiCtx p
    let va := bits (s.reg p 0x1008) 56 12 * 4096
    let dropped := fun (t : State) (sel : TlbEntry → Bool) => t.reg p 0x1010 = s.nextId ∧
      (∀ k ∈ (s.view p).cores, (t.core k).tlb.all (fun e => !sel e) = true) ∧
      ∀ d ∈ (s.view p).dies, (t.dieXlate d).tlb = (s.dieXlate d).tlb.filter (fun e => !sel e)
    (∃ t, exec (.tlbiAddress p) s = .next t ∧ dropped t (fun e => decide (e.ctx = c ∧ e.va ≤ va ∧ va < e.va + e.size))) ∧
    (∃ t, exec (.tlbiContext p) s = .next t ∧ dropped t (fun e => decide (e.ctx = c)) ∧
      ∀ d ∈ (s.view p).dies, (t.dieXlate d).wcache = (s.dieXlate d).wcache.filter (fun e => decide (e.ctx ≠ c))) ∧
    (∃ t, exec (.tlbiAll p) s = .next t ∧ dropped t (fun _ => true) ∧ ∀ d ∈ (s.view p).dies, t.dieXlate d = ⟨[], [], []⟩)) ∧
  (∀ (p : Nat) (s : State), s.olderAccess p (s.reg p 0x1010) = false → ∃ t : State, exec (.tlbiComplete p) s = .next t ∧
    bit (t.reg p 0x1000) 63 = false ∧ ∀ q o, cregKey q o ≠ cregKey p 0x1000 → cregKey q o ≠ cregKey p 0x1010 →
      t.reg q o = s.reg q o)

/-- L2 slices and vaults take in, list, fill and perform requests in order; probes, acknowledgements and write-backs
complete. A request at a slice that no other request to its line waits before is taken in: it joins the list of a
line in flight while that has room, is performed when the line is present or no sector of it need be fetched, or
takes a free miss register and its fill is asked for; one that is not taken in waits in the ingress queue, and while
that is full every request waits outside. A vault lists and performs in order. A fill makes the line present,
performs its list and lets the ingress queue in. A probe drops the tracked copy and sends its acknowledgement; with
the last acknowledgement the write is performed, or answered where a later access has performed it. An L1 writes a
line back unless its write-back is pending already. -/
def Obligations.HomesPerformTheirRequests : Prop :=
  (∀ (r : HomeReq) (s : State), let v := s.view r.part
    let key := s.keyOf r
    let slice := (s.sliceOf v (lineOf r)).1
    let here := s.listedAt key
    let waiting := s.ingressOf slice
    let put := s.setListed key (here ++ [{ req := r, acks := [] }])
    (48 ≤ waiting.length → exec (.l2Request r) s = .next (s.postFront (.l2Request r))) ∧
    (waiting.length < 48 → waiting.any (fun q => decide (s.keyOf q = key)) = false → ∀ t, s.takeIn r = some t →
      exec (.l2Request r) s = .next t) ∧
    ((waiting.any (fun q => decide (s.keyOf q = key)) = true ∨ s.takeIn r = none) → waiting.length < 48 →
      exec (.l2Request r) s = .next (s.setIngress slice (waiting ++ [r]))) ∧
    (here ≠ [] → s.takeIn r = if here.length < 32 then some put else none) ∧
    (here = [] → (s.l2Has v (lineOf r) = true ∨ (needSectors r).1 = []) → s.takeIn r = some (put.runList key 1)) ∧
    (here = [] → s.l2Has v (lineOf r) = false → (needSectors r).1 ≠ [] → s.missesOf slice < 64 → s.l2Room v (lineOf r) = true →
      s.takeIn r = some (put.post (.l2Fill key))) ∧
    (here = [] → exec (.vaultRequest r) s = .next (put.runList key 1)) ∧
    (here ≠ [] → exec (.vaultRequest r) s = .next put)) ∧
  (∀ (key : Nat) (s : State), s.upsets.contains s.free = false →
    exec (.l2Fill key) s = .next (((s.l2Touch (s.viewOfKey key) (keyLine key) 0).runList key (s.listedAt key).length).admitIngress
      (s.sliceOfKey key))) ∧
  (∀ (key : Nat) (x : Listed) (rest : List Listed) (s : State), s.listedAt key = x :: rest → x.ans = none → x.acks = [] →
    s.mustAck x.req = [] → s.runList key 1 = (s.setListed key rest).performHome x.req) ∧
  (∀ (core line : Nat) (s : State), ∃ t : State, exec (.invalidateProbe core line) s =
      .next (t.sendMesh (corePort core line) (s.homePort (s.viewOfDie (core / 96)) line) 2 3 (.invalidateAck core line)) ∧
    t.core core = (s.core core).dropLine line true ∧ (t.due, t.net, t.groups) = (s.due, s.net, s.groups) ∧
    (∀ c, c ≠ core → t.core c = s.core c) ∧ ∀ a, t.byteAt a = s.byteAt a) ∧
  (∀ (core line : Nat) (s : State) (x : Listed) (rest : List Listed), let key := homeKey (s.viewOfDie (core / 96)) line
    s.listedAt key = x :: rest → x.acks ≠ [] →
    let left := x.acks.filter (fun c => decide (c ≠ core))
    (left ≠ [] → exec (.invalidateAck core line) s = .next (s.setListed key ({ x with acks := left } :: rest))) ∧
    let done := fun (t : State) => (t.runList key rest.length).admitIngress (s.sliceOfKey key)
    (left = [] → x.ans = none → exec (.invalidateAck core line) s = .next (done ((s.setListed key rest).performHome x.req))) ∧
    (left = [] → ∀ a, x.ans = some a → exec (.invalidateAck core line) s = .next (done ((s.setListed key rest).homeReply x.req a)))) ∧
  (∀ (core line : Nat) (s : State), s.isHeld core line = false →
    exec (.l1Writeback core line) s = .next (s.writeBackLine (s.viewOfDie (core / 96)) core line))

/-- Stores to replicated pages are stamped and applied in order or diverge; diverged pages and the scrubber complete.
A store to a replicated page is stamped, with the next stamp of the page, unless the page is held; a replica that the
sequencer reaches applies its next stamped write, and one that it does not reach or that cannot apply it diverges;
the diverged states change as written. A scrub that finds nothing changes nothing, else it corrects or poisons. -/
def Obligations.ReplicasApplyTheirStamps : Prop :=
  (∀ (w : ReplStore) (s : State), let v := s.view (s.partOfQueue w.queue)
    (s.pageHeld v w.frame = false → exec (.replicaStore w.toReplPage w.off w.bytes) s = .next (s.stamp v w)) ∧
    nget (fun _ => 0) (s.stamp v w).net.stamps w.frame = nget (fun _ => 0) s.net.stamps w.frame + 1) ∧
  (∀ (die frame : Nat) (s : State) (x : StampedWrite),
    s.net.stamped.find? (fun y => decide (y.w.frame = frame) && y.left.contains die) = some x →
    let v := s.view (s.partOfQueue x.w.queue)
    let far := s.cutOff (v.sequencer frame x.w.size) die
    let s1 := s.applyAt v die x.w
    let y := { x with left := x.left.filter (fun d => decide (d ≠ die)) }
    let still := (s1.net.stamped.map (fun z => if z = x then y else z)).filter (fun z => !z.left.isEmpty)
    (far = false → exec (.replicaWrite die frame true) s = .next { s1 with net := { s1.net with stamped := still } }) ∧
    (far = true → exec (.replicaWrite die frame true) s = .next (s.diverge die frame x.w.queue)) ∧
    exec (.replicaWrite die frame false) s = .next (s.diverge die frame x.w.queue)) ∧
  (∀ (s : State) (v : View) (die : Nat) (w : ReplStore), let a := dieBase die + w.frame + w.off
    w.bad = false → w.bytes ≠ [] → a % 192 + w.bytes.length ≤ 192 → s.applyAt v die w = s.homePut v a w.bytes none true) ∧
  (∀ (die k : Nat) (s : State), let v := s.diverged die k
    (bits v 63 62 = 1 → exec (.divergedHold die k) s =
      .next ((s.setReg 32 (0x200 * die + 8 * k) (setBits v 63 62 2)).postOnce (.holdComplete die k))) ∧
    (bits v 63 62 = 2 → exec (.holdComplete die k) s = .next (s.setReg 32 (0x200 * die + 8 * k) (setBits v 61 61 1))) ∧
    (bits v 63 62 = 2 → exec (.divergedClear die k) s = .next (s.setReg 32 (0x200 * die + 8 * k) 0))) ∧
  (∀ (die line : Nat) (s : State), (s.upsets.contains s.free = false → exec (.patrolScrub die line) s = .next s) ∧
    (s.upsets.contains s.free = true → ∃ part kind unit, exec (.patrolScrub die line) s =
      .next (s.corrected part die kind unit) ∨ exec (.patrolScrub die line) s = .next (s.poisonSector part die kind unit (line * 192))))

/-- A granted packet moves one hop, an arrived one is delivered in its turn, credits go to the lowest asker, and the
audit counts permits. An output that has a ready packet grants one, neither a ready packet going before it nor a
saturated one of its input waiting; it moves on. An output's second grant begins the router's next mesh cycle, in
which the packets that were ready and not granted are one older, up to 255. An arrived packet whose sequence number
its flow expects is delivered: it leaves the mesh, the flow expects the next number, its confirmation and its payload
are posted. A credit request joins those asking once; with one of 32 free the lowest asker that still has packets
waiting gets it. A confirmation counts what the flow still has under way. An audit whose time has come snapshots the
free permits and sends its marker; the marker snapshots the occupied slots; its return finds P + O + C equal to the
slots, or reports LOST_PERMIT and stops the sender, which restarts with full permits once the receiver is empty. -/
def Obligations.MeshPacketsMoveAndAreDelivered : Prop :=
  (∀ (die router out : Nat) (s : State) (p : MeshPkt), let s0 := if (s.grants die router).contains out then s.nextCycle die router else s
    s0.granted die router out = some p →
    let s1 := ((s0.setGrants die router (s0.grants die router ++ [out])).movePkt p out).offerHops die router
    exec (.meshPacketHop die router out) s = .next (if p.link = portIn p.src then s1.pumpPort p.src else s1) ∧
    p ∈ s0.heads die router ∧ s0.readyFor p out = true ∧ s0.behindSaturated (s0.heads die router) p = false) ∧
  (∀ (die router : Nat) (s : State), (s.net.packets.map (fun p => p.id)).Nodup →
    (s.nextCycle die router).grants die router = [] ∧ (s.nextCycle die router).net.packets = s.net.packets.map (fun q =>
      if (s.heads die router).contains q && (s.outsOf q).any (fun o => s.readyFor q o) then { q with age := min 255 (q.age + 1) } else q)) ∧
  (∀ (p : MeshPkt) (s : State), ∃ t : State, s.movePkt p 4 = t.post (.packetDelivery p.id) ∧
    t.net.packets = s.net.packets.map (fun q => if q.id = p.id then { p with arrived := true, link := 0, age := 0 } else q)) ∧
  (∀ (pid : Nat) (s : State) (p : MeshPkt), s.net.packets.find? (fun q => decide (q.id = pid) && q.arrived) = some p →
    p.seq = (s.flow p.src p.dst p.cls).expect → ∃ t : State, exec (.packetDelivery pid) s = .next (t.post p.payload) ∧
      t.net.packets = s.net.packets.filter (fun q => decide (q.id ≠ pid)) ∧
      (t.flow p.src p.dst p.cls).expect = (p.seq + 1) % 256 ∧
      t.due.any (fun e => decide (e = .deliveryConfirmation p.src p.dst p.cls)) = true) ∧
  (∀ (src dst cls : Nat) (s : State), ∃ t : State, exec (.reorderCreditRequest src dst cls) s = .next t ∧
    (t.reorderPort dst cls).granted = (s.reorderPort dst cls).granted ∧
    (t.reorderPort dst cls).asking = (if (s.reorderPort dst cls).asking.contains src then (s.reorderPort dst cls).asking
      else (s.reorderPort dst cls).asking ++ [src]) ∧ t.due.contains (.reorderCreditGrant dst cls) = true) ∧
  (∀ (dst cls a : Nat) (rest : List Nat) (s : State), let r := s.reorderPort dst cls
    r.asking = a :: rest → r.granted < 32 →
    let src := rest.foldl min a
    let s1 := s.setReorderPort dst cls { granted := r.granted + 1, asking := r.asking.filter (fun x => decide (x ≠ src)) }
    (s1.flow src dst cls).queue ≠ [] →
    let s2 := s1.pumpFlow { s1.flow src dst cls with credits := (s1.flow src dst cls).credits + 1 }
    let s3 := if (s2.flow src dst cls).queue.isEmpty then s2 else s2.post (.reorderCreditRequest src dst cls)
    exec (.reorderCreditGrant dst cls) s =
      .next (if (s3.reorderPort dst cls).asking.isEmpty then s3 else s3.postOnce (.reorderCreditGrant dst cls)) ∧
    ∀ x ∈ r.asking, src ≤ x) ∧
  (∀ (src dst cls : Nat) (s : State), let n := (s.net.packets.filter (fun p => decide (p.src = src ∧ p.dst = dst ∧ p.cls = cls))).length
    exec (.deliveryConfirmation src dst cls) s = .next (s.pumpFlow { s.flow src dst cls with unconfirmed := n })) ∧
  (∀ (link ch : Nat) (s : State), let c := (s.channel link ch).collect
    (c.phase = 0 → c.stopped = false → s.auditPeriod link ≠ 0 → c.nextAudit ≤ s.now (dieOfLink link) →
      let c1 := { c with phase := 1, p := channelSlots ch - c.used, c := 0, nextAudit := s.now (dieOfLink link) + s.auditPeriod link }
      exec (.permitAudit link ch) s = .next ((s.setChannel link ch c1).post (.auditMarker link ch))) ∧
    (c.phase = 1 → exec (.auditMarker link ch) s =
      .next ((s.setChannel link ch { c with phase := 2, o := c.occupied }).post (.auditMarkerReturn link ch)))) ∧
  (∀ (link ch : Nat) (s : State), let c := s.channel link ch
    let pumped := fun (t : State) => if link < 1537 then t else t.pumpPort ((link - 1537) / 2)
    (c.phase = 2 → c.p + c.o + c.c = channelSlots ch → exec (.auditMarkerReturn link ch) s =
      .next (pumped ((s.setChannel link ch (Channel.collect { c with phase := 0 })).post (.permitAudit link ch)))) ∧
    (c.phase = 2 → c.p + c.o + c.c ≠ channelSlots ch → ∃ (part : Nat) (e : EventInfo), e.typ = 0x06 ∧
      let s1 := (s.setChannel link ch { Channel.collect { c with phase := 0 } with stopped := true }).event part e
      exec (.auditMarkerReturn link ch) s = .next ((match ucieNumber link with
        | some k => s1.setLinkStatus k (bumpStatus (s1.linkStatus k) 40)
        | none => s1).post (.channelRestart link ch))) ∧
    (c.stopped = true → c.occupied = 0 → exec (.channelRestart link ch) s =
      .next (pumped (((s.setChannel link ch { Channel.empty with nextAudit := c.nextAudit }).post (.permitAudit link ch)).offerHops
        (dieOfLink link) (routerOfLink link)))))

/-- Links train at the highest common revision, degrade by module and fail at the third failed training; Axsis
resends and retrains. A training that succeeds with a revision in common sets the link active at full width at the
highest one; with none in common, or at the third failure in succession, the link fails, before that it trains again.
A module that retrains narrower leaves both ends of its link degraded at the new width, or failed with no module up.
A failed link between dies takes its twin with it, and with a pair of dies cut off the partition's busy queues that
work on a die cut off are torn down. A flit retry changes nothing; an Axsis port retrains at 8 or 4 lanes or fails.
An acknowledgement takes the acknowledged packets out of its flow; a packet unacknowledged for 2^20 cycles is sent
again, after four times it is undeliverable. -/
def Obligations.LinksTrainDegradeAndFail : Prop :=
  (∀ (link revs : Nat) (s : State), link < 32 → link % 8 < 6 →
    let common := (natsFrom 0 8).filter (fun k => bit (Config.linkRevs (link / 8) &&& revs) k)
    let s1 := s.setReg pkgRegs (failCount link) 0
    (common = [] → exec (.linkTraining link revs true) s = .next (s1.post (.linkFailed link))) ∧
    (∀ k, common.getLast? = some k →
      let s3 := ((if s1.linkUp link then s1.countRetrain link else s1).linkChange link 2 (fullWidth link) (k + 1)).measure7
      exec (.linkTraining link revs true) s =
        .next (if link % 8 < 4 then s3.reroute else s3.axPumpPort (2 * (link / 8) + link % 8 - 4))) ∧
    let n := s.reg pkgRegs (failCount link) + 1
    let s2 := s.setReg pkgRegs (failCount link) n
    (3 ≤ n → exec (.linkTraining link revs false) s = .next (s2.post (.linkFailed link))) ∧
    (n < 3 → ∃ ok, exec (.linkTraining link revs false) s =
      .next ((s2.setLinkStatus link (setBits (setBits (s2.linkStatus link) 2 0 1) 23 8 0)).post (.linkTraining link revs ok)))) ∧
  (∀ (link m width : Nat) (s : State), link < 32 → link % 8 < 4 → m < 4 → s.linkUp link = true →
    let s1 := s.narrow link m width
    (bits (s.linkStatus link) (17 + 2 * m) (16 + 2 * m) ≤ width → exec (.moduleRetrain link m width) s = .next s) ∧
    (width < bits (s.linkStatus link) (17 + 2 * m) (16 + 2 * m) →
      (link % 8 ≠ link / 8 → s1.linkUp (otherEnd link) = true →
        exec (.moduleRetrain link m width) s = .next ((s1.narrow (otherEnd link) m width).measure7)) ∧
      (link % 8 = link / 8 ∨ s1.linkUp (otherEnd link) = false → exec (.moduleRetrain link m width) s = .next s1.measure7))) ∧
  (∀ (link m width : Nat) (s : State), let w := setBits (bits (s.linkStatus link) 23 16) (2 * m + 1) (2 * m) width
    (w = 0 → s.narrow link m width = (s.countRetrain link).post (.linkFailed link)) ∧
    (w ≠ 0 → s.narrow link m width = (s.countRetrain link).linkChange link 3 w (bits ((s.countRetrain link).linkStatus link) 15 8))) ∧
  (∀ (link : Nat) (s : State), link < 32 → link % 8 < 6 →
    let s1 := (s.linkChange link 4 0 0).measure7
    (4 ≤ link % 8 ∨ link % 8 = link / 8 → exec (.linkFailed link) s = .next s1) ∧
    (∀ x, link % 8 < 4 → link % 8 ≠ link / 8 →
      let twin := 8 * (link % 8) + link / 8
      let s2 := if bits (s1.linkStatus twin) 2 0 = 4 then s1 else s1.linkChange twin 4 0 0
      s2.partOfDie (link / 8) = some x →
      (x.dies.contains (link % 8) = false → exec (.linkFailed link) s = .next s2.reroute) ∧
      (x.dies.contains (link % 8) = true → ∀ e r, s2.severed x = e :: r →
        exec (.linkFailed link) s = .next (((s2.busyQueues x.id).filter (fun q => (e :: r).any (fun y => s2.worksOn q y))).foldl (fun (t : State) q => t.teardown q 4 e) s2.reroute)))) ∧
  (∀ (link st w rev : Nat) (s : State), st < 8 → w < 256 → rev < 256 → ∃ (v part : Nat) (e : EventInfo),
    s.linkChange link st w rev = (s.setLinkStatus link v).event part e ∧ e.typ = 0x07 ∧ bits v 2 0 = st ∧ bits v 23 16 = w ∧ bits v 15 8 = rev) ∧
  (∀ (port flit : Nat) (s : State), exec (.axsisFlitRetry port flit) s = .next s) ∧
  (∀ (port lanes : Nat) (s : State), let link := 8 * (port / 2) + 4 + port % 2
    port < 8 → s.linkUp link = true →
    (lanes = 4 ∨ lanes = 8 → exec (.axsisPortRetrain port lanes) s = .next ((((s.countRetrain link).linkChange link
      (if lanes = 8 then 2 else 3) lanes (bits (s.linkStatus link) 15 8)).measure7).axPumpPort port)) ∧
    (lanes ≠ 4 → lanes ≠ 8 → exec (.axsisPortRetrain port lanes) s = .next ((s.linkChange link 4 0 0).measure7))) ∧
  (∀ (p : AxPkt) (s : State), let k := axFlow p.dstGw p.srcPeer p.srcGw p.cls
    let left := s.net.axSent.filter (fun x =>
      !(decide (axFlow x.pkt.srcGw x.pkt.dstPeer x.pkt.dstGw x.pkt.cls = k) && x.left && ackedBy x.pkt.seq p.seq))
    axReserved p = false → exec (.flowAcknowledgement p) s = .next (State.axPump { s with net := { s.net with axSent := left } } k)) ∧
  (∀ (gw dst seq : Nat) (s : State) (x : SentPkt), (s.axUnacked (gw * 2 ^ 17 + dst)).find? (fun y => y.pkt.seq = seq) = some x →
    x.left = true → x.since + 0x100000 ≤ s.now (gw / 2) →
    (4 ≤ x.resends → exec (.axsisResendTimeout gw dst seq) s =
      .next (State.undeliverable { s with net := { s.net with axSent := s.net.axSent.filter (fun y => y ≠ x) } } x.pkt)) ∧
    (x.resends < 4 → s.portUp gw = true → s.resealFull x.pkt = false → ∃ (t : State) (p : AxPkt), exec (.axsisResendTimeout gw dst seq) s =
      .next (t.post (.axsisResendTimeout gw dst seq)) ∧ p.seq = x.pkt.seq ∧ p.data = x.pkt.data ∧ p.elems = x.pkt.elems ∧
      t.net.axOut = s.net.axOut ++ [p]))

/-- COLL posts its contribution, the root combines one per rank and completes, and its time-outs, notices and rekeys
take effect. COLL with its pointers checked and translated, cp below 63, nothing earlier in conflict and no buffered
line held is accepted: the buffer commits, the source's dirty lines go back, cp rises and the contribution is posted
or refused with DESCRIPTOR. A contribution or partial under the job's epoch joins its reduction's slot at the root,
or a switch's once it has left its gateway; the last rank completes it. An integer sum is the sum of all ranks modulo
its width, AND and OR bit by bit. A completion gives every waiting COLL of its ranks (all of them, when cancelled)
its record and lowers cp; a notice those it names. A reduction's timeout completes it PARTIAL, a retention ends, a
switch's slot is flushed after 2,048 cycles, and a rekey raises the epoch and starts every counter at 0, before what
waited for it is sealed. A packet under another epoch, or of another package whose tag does not check, is discarded.
-/
def Obligations.CollectivesReduceAndComplete : Prop :=
  (∀ (f : Word0) (w : Word1) (v : Word) (s : State) (u : Issue) (g : Group), Issues (.coll f w v) s u g →
    let i := Instr.coll f w v
    let x := issueCtx i u g
    let c := begunCrew i u g
    let h := begunGroup i u g
    let t := begunState i s u g
    let q : CollReq := { recd := ptrOf (c.squad f.d.toNat), src := ptrOf (x.a c 0), dst := ptrOf (x.b c 0), desc := x.c c 0, op := w.sub.toNat }
    let core := h.loc.flat
    x.act ≠ 0 → c.cp < 63 →
    (∀ cause a, collChecks h q = some (cause, a) →
      exec i s = .next ((trapped i s u g cause (lowest x.act) 0 a).settleAt u.gid u.addr)) ∧
    (∀ src dst recd, collChecks h q = none → collRange t (t.viewOf h) core h.ctx h.param 0 q.src = .ok src →
      collRange t (t.viewOf h) core h.ctx h.param 1 q.dst = .ok dst → collRange t (t.viewOf h) core h.ctx h.param 1 q.recd = .ok recd →
      let k := q.cmd (decide (v.toNat % 2 = 1)) src.1 dst.1 recd.1 (some core)
      let cmd : Cmd := { id := t.nextId, unit := u.unit, addr := u.addr, kind := .coll k }
      cmdReady h cmd = true → t.commitHeld h = false →
      let t2 := ((src.2 ++ dst.2 ++ recd.2).foldl (fun (y : State) l => y.fillTlb core h.ctx l) t).commitAll h.id
      let t3 := ((src.1.filter (fun y => decide (y.1 < cellMark))).map (fun y => y.1 % 2 ^ 45 / 192)).eraseDups.foldl
        (fun (y : State) line => y.writeBackLine (t.viewOf h) core line) t2
      let t4 := { t3.onGroup h.id (fun m => { m.setUnit u.unit ((m.unit u.unit).count 2 true) with cmds := m.cmds ++ [cmd] }) with
        nextId := t.nextId + 1 }
      exec i s = .next ((t4.beginColl { gid := h.id, cid := t.nextId, graph := 0, node := 0, unit := u.unit, addr := u.addr, queue := h.queue
                                        part := h.part, die := h.loc.die, job := 0, inst := h.launch, cmd := k } q h.ctx src.1 true).settleAt
        u.gid u.addr))) ∧
  (∀ (p : AxPkt) (s : State), 0 < p.tag → p.tag < 2 ^ 32 →
    let mine := fun (x : SentPkt) => decide (x.pkt.srcGw = p.srcGw ∧ x.pkt.dstPeer = p.dstPeer ∧ x.pkt.dstGw = p.dstGw ∧ x.pkt.cls = p.cls ∧ x.pkt.seq = p.seq)
    let both := fun (t : (AxPkt → Ev) → State) => exec (.contribution p) s = .next (t .contribution) ∧ exec (.partialArrival p) s = .next (t .partialArrival)
    (s.net.axSent.find? mine = none → both (fun _ => s)) ∧
    (∀ x, s.net.axSent.find? mine = some x →
      (x.left = true → both (fun _ => { s with net := { s.net with axSent := s.net.axSent.filter (fun y => !mine y) } }.atSwitch (p.tag - 1) p)) ∧
      (x.left = false → both (fun ev => s.post (ev p))))) ∧
  (∀ (p : AxPkt) (s : State), p.srcPeer ≠ s.peer → (p.enc && p.tagOk) = false → p.tag = 0 →
    ∀ i ∈ [Instr.contribution p, .partialArrival p, .completion p, .notice p], exec i s = .next (s.axDiscard p.dstGw)) ∧
  (∀ (p : AxPkt) (s : State) (j : JobEntry), p.srcPeer = s.peer → axReserved p = false → s.jobOf p.jobTag = some j →
    ((p.epoch = j.epoch ∨ (p.epoch + 1) % 256 = j.epoch) →
      (p.tag = 0 → exec (.contribution p) s = .next (s.atRoot p .contribution) ∧
        exec (.partialArrival p) s = .next (s.atRoot p .partialArrival)) ∧
      exec (.completion p) s = .next ((s.waitersAt p.dstGw p.jobTag p.ident).foldl (fun (y : State) w =>
        if p.status = 5 ∨ p.bitmap.contains w.cmd.rank then y.finishColl w p.status p.bitmap p.nanSeen p.viaSwitch p.elems else y) s) ∧
      exec (.notice p) s = .next ((s.waitersAt p.dstGw p.jobTag p.ident).foldl (fun (y : State) w =>
        if p.bitmap.contains w.cmd.rank then y.finishColl w (if p.status = 1 then 2 else if p.status = 2 then 4 else 6) p.bitmap2 false false []
        else y) s)) ∧
    (p.epoch ≠ j.epoch → (p.epoch + 1) % 256 ≠ j.epoch → p.tag = 0 → ∀ i ∈ [Instr.contribution p, .partialArrival p, .completion p, .notice p],
      exec i s = .next (s.axDiscard p.dstGw))) ∧
  (∀ (s : State) (gw : Nat) (p : AxPkt) (r : RootSlot), r.op = p.op → r.fmt = p.fmt → r.count = p.count → r.len = elemBytesOf p →
    r.parts.any (fun y => ((heldBy p).map (fun z => z.rank)).contains y.rank) = false →
    let r1 := { r with parts := addParts r.parts (heldBy p), viaSwitch := r.viaSwitch || p.viaSwitch }
    (r.count ≤ r1.parts.length → s.joinSlot gw p r = s.endReduction r1 0) ∧ r1.parts.length = r.parts.length + (heldBy p).length) ∧
  (∀ (t : Nat) (xs : List Nat), t < 10 →
    collElem 0 t xs = xs.sum % 2 ^ tyBits (BitVec.ofNat 5 t) ∧
    (∀ n, xs ≠ [] → (collElem 5 t xs).testBit n = xs.all (fun y => y.testBit n)) ∧
    (∀ n, (collElem 6 t xs).testBit n = xs.any (fun y => y.testBit n))) ∧
  (∀ (job ident : Nat) (s : State) (r : RootSlot), s.rootSlot? job ident = some r → r.expired (s.now (r.gw / 2)) = true →
    exec (.reductionTimeout job ident) s = .next (s.endReduction r 1)) ∧
  (∀ (job ident : Nat) (s : State) (r : Retained), s.retained? job ident = some r → r.over (s.now (r.gw / 2)) = true →
    ∃ t : State, exec (.retentionExpiry job ident) s = .next t ∧ t.retained? job ident = none) ∧
  (∀ (sw job ident : Nat) (s : State) (y : SwitchSlot), s.switchSlot? sw job ident = some y → y.since + 2048 ≤ s.now 0 →
    exec (.switchSlotTimeout sw job ident) s = .next (s.flushSwitch y)) ∧
  (∀ (job holder : Nat) (s : State) (j : JobEntry), s.jobOf job = some j → ∃ (t : State) (k : JobEntry),
    exec (.rekeyRequest job holder) s = .next t ∧ t.jobOf job = some k ∧ k.epoch = (j.epoch + 1) % 256 ∧ k.gateways = j.gateways ∧
      (s.net.unsealed.any (fun x => decide (x.2.2.jobTag = job)) = false → k.counters = []))

/-- Peers, the host and importing partitions are served where a window admits them, and answered with an error where
none does. A packet of another package is served when its number is the one its flow expects, acknowledged again when
behind it, held when ahead while the gateway has room, and discarded when a field of it is reserved: a read, write or
atomic is performed at the home, or refused with error 6 where the gateway's partition does not own the address; a
reply gives the request it answers its bytes or its error. An inbound write, read or AtomicOp that passes IDE and an
open window, no earlier write of its requester still on its way to a replicated page, is performed at its homes, or
of a replicated page at the sequencer, and completed with what was there; outside a window a write is counted and
changes no byte of memory, and a read ends Unsupported; an AtomicOp of another size ends Completer Abort; a TLP that
IDE discards has no effect of its own. A host completion or its time-out answers the request. A request of an
importer that an open window and a link admit goes to its home, else it is answered with error 8; a closed window
drains. -/
def Obligations.OutsideRequestsAreServedOrRefused : Prop :=
  (∀ (p : AxPkt) (s : State), p.srcPeer ≠ s.peer → axReserved p = false → ¬ (2 ^ 32 ≤ p.tag ∧ p.cls = 2) →
    let e := nget (fun _ => 0) s.net.axExpect (axFlowIn p)
    let t := State.axAck { s with net := { s.net with axExpect := nset (fun _ => 0) s.net.axExpect (axFlowIn p) ((e + 1) % 65536) } } p
    let ans := if p.bad then Except.error 0x21 else if p.err then Except.error 6 else Except.ok p.data
    (p.seq = e →
      exec (.axsisRead p) s = .next (t.servePeer { p with typ := 1 }) ∧ exec (.axsisWrite p) s = .next (t.servePeer { p with typ := 3 }) ∧
      exec (.axsisAtomic p) s = .next (t.servePeer { p with typ := 5 }) ∧ exec (.readReply p) s = .next (t.answerRemote p.tag ans) ∧
      exec (.writeAcknowledgement p) s = .next (t.answerRemote p.tag ans) ∧ exec (.atomicReply p) s = .next (t.answerRemote p.tag ans)) ∧
    (p.seq ≠ e → (p.seq + 65536 - e) % 65536 < 32768 →
      exec (.axsisWrite p) s = .next (if s.axHeld p.dstGw < 4096 then s.post (.axsisWrite p) else s)) ∧
    (p.seq ≠ e → 32768 ≤ (p.seq + 65536 - e) % 65536 → exec (.axsisWrite p) s = .next (s.axAck p))) ∧
  (∀ (p : AxPkt) (s : State), axReserved p = true → ∀ i ∈ [Instr.axsisRead p, .axsisWrite p, .axsisAtomic p, .readReply p, .writeAcknowledgement p,
    .atomicReply p, .flowAcknowledgement p], exec i s = .next (s.axDiscard p.dstGw)) ∧
  (∀ (p : AxPkt) (s : State), p.typ = 1 → (p.addr / 2 ^ 45 ≠ s.peer ∨ s.ownsBytes (s.partIx (p.dstGw / 2)) (p.addr % 2 ^ 45) p.count = false) →
    s.servePeer p = s.peerReply p 2 (.error 6)) ∧
  (∀ (q : Tlp) (s : State), (s.ideGate q).2 = .pass → q.off < 2 ^ 40 →
    let s1 := (s.ideGate q).1
    (∀ x bs, s1.inAddrs q q.off q.data.length true = some (x, bs) → s1.unaccepted (tlpOwner q) = false →
      exec (.inboundPostedWrite q) s = .next (s1.homeWriteAll (s1.view x.id) (tlpOwner q) (bs.zip q.data))) ∧
    (s1.inAddrs q q.off q.data.length true = none → exec (.inboundPostedWrite q) s = .next (s1.refuseIn q.port) ∧
      ∀ a, (s1.refuseIn q.port).byteAt a = s.byteAt a) ∧
    (∀ x bs, s1.inAddrs q q.off q.len false = some (x, bs) →
      let s2 := s1.settleHomes (s1.view x.id) bs
      let as := bs.map (fun b => storage (s1.view x.id) (s2.hwPlace (s1.view x.id) b))
      s1.unaccepted (tlpOwner q) = false →
      exec (.inboundRead q) s = .next (s2.completeIn q 0 (as.any s2.poisoned) (as.map s2.byteAt))) ∧
    (s1.inAddrs q q.off q.len false = none → exec (.inboundRead q) s = .next (s1.completeIn q 1 false [])) ∧
    let n := if q.op = 2 then q.data.length / 2 else q.data.length
    (∀ x bs old y, (n = 4 ∨ n = 8) → q.off % n = 0 → q.op ≤ 2 → s1.inAddrs q q.off n true = some (x, bs) →
      bs.all (fun b => decide (b.share = 2)) = true → s1.unaccepted (tlpOwner q) = false →
      let v := s1.view x.id
      let size := (bs.map (fun b => b.repl)).headD 0
      let pa := (bs.map (fun b => b.pa % 2 ^ 45)).headD 0
      let r : HomeReq := { id := 0, addr := pa, op := tlpOp q, len := n, data := q.data, core := none, coherent := true, part := x.id }
      (size ≠ 0 → s1.pageHeld v (pa / size * size) = false) →
      (if size = 0 then (s1.catchUp v (lineOf r)).performAt v r else s1.atomReplica v (64 * v.dies.headD 0) r size) = (y, some old) →
      exec (.inboundAtomicop q) s = .next (y.completeIn q 0 false old)) ∧
    (n ≠ 4 → n ≠ 8 → exec (.inboundAtomicop q) s = .next (s1.completeIn q 2 false []))) ∧
  (∀ (q : Tlp) (s : State), (s.ideGate q).2 = .discard → ∀ i ∈ [Instr.inboundPostedWrite q, .inboundRead q, .inboundAtomicop q],
    exec i s = .next (s.ideGate q).1) ∧
  (∀ (q : Tlp) (s : State) (o : Nat), q.off = 2 ^ 40 + o → o < 0x100000 → windowShape o q.len = true → (s.ideGate q).2 = .pass →
    (s.ideGate q).1.unaccepted (tlpOwner q) = false →
    exec (.inboundRead q) s = .next ((s.ideGate q).1.completeIn q 0 false
      (leBytes q.len ((s.ideGate q).1.windowRead q.port (o / 8 * 8) / 2 ^ (8 * (o % 8)))))) ∧
  (∀ (tag : Nat) (ok : Bool) (bs : List Byte) (s : State),
    exec (.hostReadCompletion tag ok bs) s = .next (s.answerRemote tag (if ok then .ok bs else .error 7))) ∧
  (∀ (tag : Nat) (s : State) (r : RemoteReq), s.remote.find? (fun y => y.tag = tag) = some r →
    let cto := bits (s.reg (16 + hostPort r.pa) 0x3008) 31 0
    (s.now (r.core / 96) < r.since + cto → exec (.hostCompletionTimeout tag) s = .next (s.post (.hostCompletionTimeout tag))) ∧
    (r.since + cto ≤ s.now (r.core / 96) → exec (.hostCompletionTimeout tag) s = .next (s.answerRemote tag (.error 7)))) ∧
  (∀ (importer exporter : Nat) (r : HomeReq) (s : State),
    (s.linked importer r = false → exec (.xpartRequest importer exporter r) s = .next (s.answerRemote r.id (.error 8))) ∧
    (s.admits importer exporter r = none → exec (.xpartRequest importer exporter r) s = .next (s.answerRemote r.id (.error 8))) ∧
    (∀ k, s.linked importer r = true → s.admits importer exporter r = some k → exec (.xpartRequest importer exporter r) s =
      .next (State.toHome { s with net := { s.net with admitted := s.net.admitted ++ [(r.id, exporter, k)] } }
        { r with part := exporter, core := none, coherent := true })) ∧
    (∀ k, s.admits importer exporter r = some k → s.resetting exporter = false ∧ s.xwinOpen exporter k importer = true ∧
      (s.xwinRange exporter k).1 ≤ r.addr ∧ r.addr + homeSize r ≤ (s.xwinRange exporter k).1 + (s.xwinRange exporter k).2)) ∧
  (∀ (part k : Nat) (s : State), let off := 0x60000 + 0x40 * k
    bit (s.reg part off) 63 = false → s.net.admitted.any (fun y => decide (y.2 = (part, k))) = false →
    exec (.xwinDrained part k) s = .next (s.setReg part off (setBits (s.reg part off) 62 62 0)))

/-- Register writes keep the writable bits; the governor moves clock steps one at a time; heat drops a die to step 0
or resets its partition. A write of a control register with no behaviour of its own stores its writable bits and no
other register changes; a write of an unassigned offset, of another partition's context, or through a recovery
function outside the mailbox changes nothing; a root write that enables a context clears its save slots. EVT_RIDX
written clears the pending state. A PWR_LIMIT write sets each die's MAX, at most 20, and lowers a die above it. A
governor window above the cap lowers every die of the partition one step, and sets UNMET with every die at 0; below
95 % every die below its MAX rises one, but not a throttled one, which is the model's reading of R521; between, no
die moves. At 100 °C the die drops to step 0 and is HOT until it recovers. A thermal trip holds the partition, sets
TRIP and starts a reset with a WAIT of 0. The bring-up die's port having trained, service is reduced and the next die
follows. -/
def Obligations.RegisterWritesPowerAndHeatTakeEffect : Prop :=
  (∀ (part port off : Nat) (v : Dword) (s : State) (x : Part), s.part? part = some x →
    off ∈ [0x20, 0x1008, 0x2000, 0x2008, 0x2010, 0x3000, 0x3008, 0x5000, 0x5008, 0x5010, 0x5018, 0x9000, 0x40008, 0x60008] →
    ∃ t : State, exec (.registerWrite part port off v) s = .next t ∧ t.reg (regOwner part port off) off = v.toNat &&& plainMask off ∧
      ∀ p o, o < 0x100000 → (p ≠ regOwner part port off ∨ o ≠ off) → t.reg p o = s.reg p o) ∧
  (∀ (part port off : Nat) (v : Dword) (s : State) (x : Part), s.part? part = some x →
    (off < 0x10 ∨ (0x5040 ≤ off ∧ off < 0x6000) ∨ 0x60200 ≤ off) → exec (.registerWrite part port off v) s = .next s) ∧
  (∀ (part port off : Nat) (v : Dword) (s : State), s.part? part = none → off ≠ 0x9000 → off ≠ 0x9008 →
    exec (.registerWrite part port off v) s = .next s) ∧
  (∀ (part port c r : Nat) (v : Dword) (s : State) (x : Part), s.part? part = some x → c < 64 →
    let off := 0x10000 + 0x40 * c + r
    (s.ownsCtx part c = false → r < 0x40 → exec (.registerWrite part port off v) s = .next s) ∧
    (s.ownsCtx part c = true → r ∈ [8, 0x10, 0x18, 0x20, 0x28] →
      exec (.registerWrite part port off v) s = .next (s.setReg 0 off (v.toNat &&& plainMask off))) ∧
    (s.ownsCtx part c = true → r ∈ [0x30, 0x38] → exec (.registerWrite part port off v) s =
      .next (if s.ctxQueued c then s else s.setReg 0 off (v.toNat &&& plainMask off))) ∧
    (s.ownsCtx part c = true → r = 0 → exec (.registerWrite part port off v) s = exec (.ctxRootWrite c v) s)) ∧
  (∀ (c : Nat) (v : Dword) (s : State), ∃ t : State, exec (.ctxRootWrite c v) s = .next t ∧
    t.ctxReg c 0 = v.toNat &&& (maskOf 56 12 + 1) ∧
    t.slots = if bit v.toNat 0 = true ∧ bit (s.ctxReg c 0) 0 = false then s.slots.filter (fun y => decide (y.ctx ≠ c)) else s.slots) ∧
  (∀ (part : Nat) (v : Dword) (s : State), ∃ t : State, exec (.evtRidxWrite part v) s = .next t ∧
    t.reg part 0x5020 = v.toNat ∧ t.reg part 0x5038 = 0) ∧
  (∀ (part : Nat) (v : Dword) (s : State), (s.part? part = none → exec (.pwrLimitWrite part v) s = .next s) ∧
    ∀ x, s.part? part = some x → ∃ t : State, exec (.pwrLimitWrite part v) s = .next t ∧
      ∀ d ∈ x.dies, t.maxStep part d = min 20 (stepOf v.toNat d) ∧ t.curStep part d = min (s.curStep part d) (min 20 (stepOf v.toNat d))) ∧
  (∀ (part mw : Nat) (s : State), (s.part? part = none → exec (.governorWindow part mw) s = .next s) ∧
    ∀ x, s.part? part = some x → x.dies.Nodup → ∃ t : State, exec (.governorWindow part mw) s = .next t ∧
      t.reg part 0x8018 = mw % 0x100000000 ∧
      (s.capOf x < mw → (∀ d ∈ x.dies, t.curStep part d = s.curStep part d - 1) ∧
        bit (t.reg part 0x8020) 3 = x.dies.all (fun d => decide (s.curStep part d = 0))) ∧
      (mw ≤ s.capOf x → bit (t.reg part 0x8020) 3 = false) ∧
      (mw ≤ s.capOf x → s.capOf x * 95 ≤ mw * 100 → ∀ d, t.curStep part d = s.curStep part d) ∧
      (mw * 100 < s.capOf x * 95 → ∀ d ∈ x.dies, t.curStep part d =
        if s.curStep part d < s.maxStep part d ∧ s.hot part d = false then s.curStep part d + 1 else s.curStep part d)) ∧
  (∀ (die : Nat) (s : State), (s.partOfDie die = none → exec (.thermalThrottle die) s = .next s ∧ exec (.thermalRecover die) s = .next s) ∧
    ∀ x, s.partOfDie die = some x →
      (∃ t : State, exec (.thermalThrottle die) s = .next t ∧ t.curStep x.id die = 0 ∧ t.hot x.id die = true ∧
        ∀ d, d ≠ die → t.curStep x.id d = s.curStep x.id d ∧ t.hot x.id d = s.hot x.id d) ∧
      (∃ t : State, exec (.thermalRecover die) s = .next t ∧ t.hot x.id die = false ∧ ∀ d, t.curStep x.id d = s.curStep x.id d)) ∧
  (∀ (die : Nat) (s : State), (s.partOfDie die = none → exec (.thermalTrip die) s = .next s) ∧
    ∀ x, s.partOfDie die = some x → ∃ t : State, exec (.thermalTrip die) s = .next t ∧ x.id ∈ t.trust.held ∧
      bit (t.reg x.id 0x8020) 2 = true ∧ bit (t.reg x.id resetNote) 1 = true ∧
      (s.part? x.id = some x → x.state ≠ 1 → Ev.resetWaitExpiry x.id ∈ t.due ∧ ∀ y ∈ t.parts, y.id = x.id → y.state = 1)) ∧
  (∀ (die : Nat) (s : State),
    ((4 ≤ die ∨ s.trust.trained.contains die = true) → exec (.pciExpressPortTraining die) s = .next s) ∧
    (die < 4 → s.trust.trained.contains die = false → ∃ t : State, exec (.pciExpressPortTraining die) s = .next t ∧
      t.trust.trained = s.trust.trained ++ [die] ∧
      t.trust.service = (if s.trust.service = 0 ∧ s.trust.released.head? = some die then 1 else s.trust.service) ∧
      t.due = if s.trust.service = 0 ∧ s.trust.released.head? = some die ∧ die < 3 then s.due ++ [Ev.dieRelease (die + 1)] else s.due))

/-- A partition reset pre-empts every group and then ends all it held; bring-up measures and releases dies in order;
FULL forms the layout. PART_RESET sets STATE to 1 and gives every group of the partition a reset pre-emption, memory
untouched; one asked for while STATE is 1 is merged, and has the reset under way scrub where it asks for that (the
model's reading of a merge: log entry 51); a Function Level Reset is a reset without SCRUB of the port's partition.
The wait goes on until every group has stopped or WAIT cycles have passed, and then the reset finishes: no group,
instance or launch of the partition is left, its queues, contexts and windows are disabled, and STATE reads 2 where
the partition is not held; with SCRUB no byte of its dies is listed and each die's memory key is a new one, one above
that when its requests had been cut. Power-on keeps the layout, the record and the fuses, measures the trust die's
image and begins with die 0; on the recovery image no die is released and every port presents the recovery function.
A die whose image verifies is measured and released, the first one as a partition of its own; another is FAILED and
the next follows. FULL is taken in reduced service once every die is released or refused; the reset that it starts,
when it finishes, forms every partition of the layout without a refused die and leaves the recovery function to the
other dies' ports. -/
def Obligations.ResetsAndBringUpFollowTheirSteps : Prop :=
  (∀ (p : Nat) (s : State),
    let begun := fun (scrub : Bool) (t : State) => (∀ y ∈ t.parts, y.id = p → y.state = 1) ∧ bit (t.reg p resetNote) 0 = scrub ∧
      bit (t.reg p resetNote) 1 = false ∧ t.reg p resetSince = s.now (s.leadDie p) ∧ Ev.resetWaitExpiry p ∈ t.due ∧
      (∀ g ∈ s.groups, g.part = p → Ev.preemptRequest g.id true ∈ t.due) ∧ ∀ a, t.byteAt a = s.byteAt a
    (s.part? p = none → exec (.partReset p) s = .next s ∧ exec (.partResetScrub p) s = .next s) ∧
    ∀ x, s.part? p = some x →
      (x.state = 1 → exec (.partReset p) s = .next s ∧
        exec (.partResetScrub p) s = .next (s.setReg p resetNote (setBits (s.reg p resetNote) 0 0 1))) ∧
      (x.state ≠ 1 → (∃ t, exec (.partReset p) s = .next t ∧ begun false t) ∧ ∃ t, exec (.partResetScrub p) s = .next t ∧ begun true t)) ∧
  (∀ (die : Nat) (s : State), (s.partOfDie die = none → exec (.functionLevelReset die) s = .next s) ∧
    ∀ x, s.partOfDie die = some x → ∃ t : State, exec (.functionLevelReset die) s = .next t ∧ exec (.partReset x.id) s = .next t) ∧
  (∀ (p : Nat) (s : State), (s.part? p = none → exec (.resetWaitExpiry p) s = .next s) ∧ ∀ x, s.part? p = some x →
    let wait := if bit (s.reg p resetNote) 1 then 0 else bits (s.reg p 0x20) 31 0
    let quiet := (s.groups.filter (fun (g : Group) => g.part = p)).all Group.stopped
    (x.state ≠ 1 → exec (.resetWaitExpiry p) s = .next s) ∧
    (x.state = 1 → quiet = false → s.now (s.leadDie p) < s.reg p resetSince + wait →
      exec (.resetWaitExpiry p) s = .next (s.post (.resetWaitExpiry p))) ∧
    (x.state = 1 → (quiet = true ∨ s.reg p resetSince + wait ≤ s.now (s.leadDie p)) → ∃ t : State,
      exec (.resetWaitExpiry p) s = .next t ∧ (∀ g ∈ t.groups, g.part ≠ p) ∧ (∀ i ∈ t.insts, i.part ≠ p) ∧ (∀ l ∈ t.launches, l.part ≠ p) ∧
      (∀ k, k / 64 ∈ x.dies → bit (t.queue k).ctl 63 = false ∧ (t.queue k).state = 0 ∧ (t.queue k).cmds = []) ∧
      (∀ c, c < 64 → c / 16 ∈ x.dies → bit (t.ctxReg c 0) 0 = false) ∧
      ((∀ d ∈ x.dies, d < 4) → ∀ k, k < 8 → bit (t.reg p (0x60000 + 0x40 * k)) 63 = false ∧
        ∀ d ∈ x.dies, bit (t.reg (16 + d) (0x2000 + 0x20 * k)) 63 = false) ∧
      (bit (s.reg p resetNote) 0 = true → (∀ y ∈ t.mem, dieOfStorage y.1 ∉ x.dies) ∧
        (x.dies.Nodup → ∀ d ∈ x.dies, nget (fun _ => 0) t.memKey d = nget (fun _ => 0) ((s.cutAll x).cutRequests p).memKey d + 1)) ∧
      (s.trust.held.contains p = false → s.trust.forming = false → ∀ y ∈ t.parts, y.id = p → y.state = 2) ∧
      (s.trust.held.contains p = false → s.trust.forming = true → t.trust.service = 2 ∧ t.trust.forming = false ∧
        (∀ y ∈ t.parts, ∀ d ∈ y.dies, d ∉ t.trust.failed) ∧
        (∀ l ∈ layoutDies t.trust.layout, (∀ d ∈ l, d ∉ t.trust.failed) → ∃ y ∈ t.parts, y.dies = l ∧ y.id = l.headD 0 / l.length) ∧
        ∀ d, d ∈ t.trust.recoveryPorts ↔ d < 4 ∧ ∀ y ∈ t.parts, d ∉ y.dies))) ∧
  (∀ s : State, ∃ t : State, exec .packagePowerOn s = .next t ∧ t.groups = [] ∧ t.parts = [] ∧ t.queues = State.reset.queues ∧
    t.trust.service = 0 ∧ t.trust.layout = s.trust.layout ∧ t.trust.record = s.trust.record ∧ t.trust.fuses = s.trust.fuses ∧
    t.trust.images = s.trust.staged ++ s.trust.images.filter (fun x => !s.trust.staged.any (fun y => decide (y.target = x.target))) ∧
    (t.trust.verifies 4 = true → t.due = [Ev.dieRelease 0] ∧ nfind? t.trust.measured 6 = some t.trust.digest6 ∧
      ∀ x, t.trust.image? 4 = some x → nfind? t.trust.measured 1 = some x.digest) ∧
    (t.trust.verifies 4 = false → t.trust.recovery = true ∧ t.trust.released = [] ∧ t.trust.recoveryPorts = [0, 1, 2, 3] ∧
      t.due = [Ev.pciExpressPortTraining 0, .pciExpressPortTraining 1, .pciExpressPortTraining 2, .pciExpressPortTraining 3])) ∧
  (∀ (d : Nat) (s : State),
    ((4 ≤ d ∨ d ∈ s.trust.released ∨ d ∈ s.trust.failed ∨ s.trust.recovery = true) → exec (.dieRelease d) s = .next s) ∧
    (d < 4 → d ∉ s.trust.released → d ∉ s.trust.failed → s.trust.recovery = false →
      (∀ x, s.trust.image? d = some x → s.trust.accepts x = true → ∃ t : State, exec (.dieRelease d) s = .next t ∧
        t.trust.released = s.trust.released ++ [d] ∧ nfind? t.trust.measured (2 + d) = some x.digest ∧
        Ev.pciExpressPortTraining d ∈ t.due ∧
        (s.trust.released = [] → ∃ y : Part, t.parts = [y] ∧ y.id = d ∧ y.dies = [d] ∧ y.state = 0) ∧
        (s.trust.released ≠ [] → t.parts = s.parts ∧ (d < 3 → Ev.dieRelease (d + 1) ∈ t.due))) ∧
      (s.trust.verifies d = false → ∃ t : State, exec (.dieRelease d) s = .next t ∧ t.trust.failed = s.trust.failed ++ [d] ∧
        t.trust.released = s.trust.released ∧ (d < 3 → t.due = s.due ++ [Ev.dieRelease (d + 1)]) ∧
        (d = 3 → s.trust.released = [] → t.trust.recoveryPorts = [0, 1, 2, 3])))) ∧
  (∀ (s : State) (x : Part),
    let all := ∀ d, d < 4 → d ∈ s.trust.released ∨ d ∈ s.trust.failed
    ((s.trust.service ≠ 1 ∨ ¬ all ∨ (s.trust.layout = 0 ∧ s.trust.failed ≠ [])) → exec .fullService s = .next s) ∧
    (s.trust.service = 1 → s.trust.forming = false → all → ¬ (s.trust.layout = 0 ∧ s.trust.failed ≠ []) →
      s.trust.released.head?.bind s.partOfDie = some x → s.part? x.id = some x → x.state ≠ 1 → ∃ t : State, exec .fullService s = .next t ∧
        t.trust.forming = true ∧ (∀ y ∈ t.parts, y.id = x.id → y.state = 1) ∧ bit (t.reg x.id resetNote) 0 = false))

/-- The mailbox keys, rekeys and clears jobs and stages images; the responder answers the SPDM requests, at most four
sessions a port. A mailbox request ends with GO 0 and its STATUS: 1 through a recovery function for all but FW_STAGE,
2 for a context the partition does not own. JOB_KEY writes a valid entry with the listed gateways and the switches
that pass attestation, answers those refused, gives the job's entries of other contexts the same lists, and leaves
the entries of other tags. JOB_REKEY raises the job's epoch by 1 mod 256. JOB_CLEAR leaves no valid entry for the
context. FW_STAGE keeps an accepted image for the next bring-up and refuses another with STATUS 1. Each SPDM request
is answered on its port, GET_MEASUREMENTS with the block asked for, or with none where it is absent. A key exchange
opens a session under a fresh key; the fifth of a port is refused. FINISH, KEY_UPDATE, HEARTBEAT, END_SESSION and
IDE_KM act in a session that the port has, and are refused otherwise; IDE_KM gives a stream its key and makes it
secure. The codes of answers and the numbers of keys are the model's own. -/
def Obligations.TrustDieAnswersItsRequests : Prop :=
  (∀ (part cmd st : Nat) (body : List Nat) (s : State), (s.mailDone part cmd st body).reg part 0x9008 = 0 ∧
    (s.mailDone part cmd st body).reg part 0x9010 = st ∧
    (s.mailDone part cmd st body).trust.answers = s.trust.answers ++ [{ port := part, code := 0x100 + cmd, body := st :: body }]) ∧
  (∀ (part ctx : Nat) (tag : Nat) (gws : List GwRef) (sws : List SwitchRef) (s : State),
    let st := if (s.part? part).isNone = true then 1 else 2
    ((s.part? part).isNone = true ∨ s.ownsCtx part ctx = false) →
      exec (.jobKey part ctx tag gws sws) s = .next (s.mailDone part 1 st []) ∧
      exec (.jobRekey part ctx) s = .next (s.mailDone part 2 st []) ∧ exec (.jobClear part ctx) s = .next (s.mailDone part 3 st [])) ∧
  (∀ (part ctx : Nat) (tag : Nat) (gws : List GwRef) (sws : List SwitchRef) (s : State),
    s.mailBar part ctx = none → gws ≠ [] → gws.length ≤ 32768 → ∃ t : State, exec (.jobKey part ctx tag gws sws) s = .next t ∧
      (∃ e : JobEntry, t.jobOfCtx ctx = some e ∧ e.tag = tag ∧ e.valid = true ∧ e.gateways = gws ∧
        e.switches = (sws.filter (fun y => y.chainOk && y.measured)).map (fun (y : SwitchRef) => y.id) ∧
        ∀ j ∈ s.net.jobs, j.ctx ≠ ctx → j.tag = tag →
          { j with epoch := e.epoch, gateways := gws, switches := e.switches, counters := [] } ∈ t.net.jobs) ∧
      (∀ j ∈ s.net.jobs, j.ctx ≠ ctx → j.tag ≠ tag → j ∈ t.net.jobs) ∧ t.reg part 0x9010 = 0 ∧
      t.trust.answers = s.trust.answers ++ [{ port := part, code := 0x101, body :=
        0 :: (sws.filter (fun y => !(y.chainOk && y.measured))).map (fun (y : SwitchRef) => y.id) }]) ∧
  (∀ (part ctx : Nat) (s : State) (j : JobEntry), s.mailBar part ctx = none → s.jobOfCtx ctx = some j →
    (∃ t : State, exec (.jobRekey part ctx) s = .next t ∧ t.reg part 0x9010 = 0 ∧
      (∀ k ∈ t.net.jobs, k.tag = j.tag → ∃ k0 ∈ s.net.jobs, k0.tag = j.tag ∧ k.ctx = k0.ctx ∧ k.epoch = (k0.epoch + 1) % 256)) ∧
    (∃ t : State, exec (.jobClear part ctx) s = .next t ∧ t.reg part 0x9010 = 0 ∧ t.jobOfCtx ctx = none)) ∧
  (∀ (part : Nat) (img : FwImage) (s : State),
    (img.target ≤ 4 → s.trust.accepts img = true → ∃ t : State, exec (.fwStage part img) s = .next t ∧ t.reg part 0x9010 = 0 ∧
      t.trust.staged = s.trust.staged.filter (fun (x : FwImage) => decide (x.target ≠ img.target)) ++ [img]) ∧
    ((4 < img.target ∨ s.trust.accepts img = false) → exec (.fwStage part img) s = .next (s.mailDone part 4 1 []))) ∧
  (∀ (port : Nat) (s : State), ∀ i code body, (i, code, body) ∈
      [(Instr.getVersion port, 1, [0x13]), (.getCapabilities port, 2, ([] : List Nat)), (.negotiateAlgorithms port, 3, []),
       (.getDigests port, 4, [Config.digest (deviceKey * 2 ^ 512 + s.aliasKey)]), (.getCertificate port, 5, [deviceKey, s.aliasKey])] →
    exec i s = .next { s with trust := { s.trust with answers := s.trust.answers ++ [{ port := port, code := code, body := body }] } }) ∧
  (∀ (port nonce : Nat) (s : State), exec (.challenge port nonce) s = .next (s.answer port 6 ([nonce, s.aliasKey] ++ s.trust.measured.map (fun y => y.2)))) ∧
  (∀ (port index : Nat) (s : State),
    (∀ v, nfind? s.trust.measured index = some v → exec (.getMeasurements port index) s = .next (s.answer port 7 [index, v])) ∧
    (nfind? s.trust.measured index = none → exec (.getMeasurements port index) s = .next (s.answer port 7 [index]))) ∧
  (∀ (port : Nat) (s : State),
    let n := (s.trust.sessions.filter (fun x => decide (x.port = port))).length
    (4 ≤ n → exec (.keyExchange port) s = .next (s.answer port 0 [1])) ∧
    (n < 4 → ∃ (t : State) (x : Session), exec (.keyExchange port) s = .next t ∧ t.trust.sessions = s.trust.sessions ++ [x] ∧
      x.port = port ∧ x.finished = false ∧ x.key = s.trust.draws + 1 ∧ t.trust.draws = s.trust.draws + 1)) ∧
  (∀ (port id stream key : Nat) (s : State),
    (s.session? port id false = none → exec (.finish port id) s = .next (s.answer port 0 [2])) ∧
    (s.session? port id true = none → ∀ i ∈ [Instr.keyUpdate port id, .heartbeat port id, .endSession port id, .ideKm port id stream key],
      exec i s = .next (s.answer port 0 [2])) ∧
    (s.session? port id false ≠ none → ∃ t : State, exec (.finish port id) s = .next t ∧
      ∀ y ∈ t.trust.sessions, y.port = port → y.id = id → y.finished = true) ∧
    (s.session? port id true ≠ none → exec (.heartbeat port id) s = .next (s.answer port 11 [id]) ∧
      (∃ t : State, exec (.keyUpdate port id) s = .next t ∧
        ∀ y ∈ t.trust.sessions, y.port = port → y.id = id → y.key = s.trust.draws + 1) ∧
      (∃ t : State, exec (.endSession port id) s = .next t ∧ t.session? port id false = none ∧
        ∀ y ∈ s.trust.sessions, ¬ (y.port = port ∧ y.id = id) → y ∈ t.trust.sessions) ∧
      (stream < 8 → ∃ t : State, exec (.ideKm port id stream key) s = .next t ∧ nfind? t.trust.ideKeys (8 * port + stream) = some key ∧
        8 * port + stream ∉ t.trust.insecure ∧ bit (t.reg (16 + port) 0x4000) stream = true)))
end

