-- ==== Sys2Proof/Laws/Map.lean ====
section
/-! SUPPORT. Laws of the sparse maps and of the small list operations that every register and memory access goes through. -/
namespace Sys2Proof.Machine

variable {α : Type}

@[simp] theorem nget_nil (d : Nat → α) (k : Nat) : nget d [] k = d k := rfl

theorem nget_ninsert (d : Nat → α) (m : NMap α) (k j : Nat) (v : α) :
    nget d (ninsert m k v) j = if j = k then v else nget d m j := by
  induction m with
  | nil => simp [ninsert, nget]
  | cons p m ih =>
    obtain ⟨k', v'⟩ := p
    unfold ninsert
    split
    · next h => subst h; simp only [nget]; split <;> rfl
    · split
      · simp [nget]
      · next h1 h2 =>
        simp only [nget, ih]
        by_cases hj : j = k'
        · subst hj; simp [Ne.symm h1]
        · simp [hj]

theorem nget_nerase (d : Nat → α) (m : NMap α) (k j : Nat) :
    nget d (nerase m k) j = if j = k then d k else nget d m j := by
  induction m with
  | nil => simp only [nerase, nget]; split <;> simp_all
  | cons p m ih =>
    obtain ⟨k', v'⟩ := p
    unfold nerase
    split
    · next h =>
      subst h; rw [ih]; by_cases hj : j = k <;> simp [nget, hj]
    · next h =>
      simp only [nget, ih]
      by_cases hj : j = k'
      · subst hj; simp [Ne.symm h]
      · simp [hj]

/-- A read after a write gives what was written at the key, and what was there elsewhere; the map need not be canonical. -/
theorem nget_nset [DecidableEq α] (d : Nat → α) (m : NMap α) (k j : Nat) (v : α) :
    nget d (nset d m k v) j = if j = k then v else nget d m j := by
  unfold nset
  split
  · next h => rw [nget_nerase, h]
  · exact nget_ninsert d m k j v

@[simp] theorem nget_nset_self [DecidableEq α] (d : Nat → α) (m : NMap α) (k : Nat) (v : α) :
    nget d (nset d m k v) k = v := by simp [nget_nset]

theorem nget_nset_ne [DecidableEq α] (d : Nat → α) (m : NMap α) {k j : Nat} (v : α) (h : j ≠ k) :
    nget d (nset d m k v) j = nget d m j := by simp [nget_nset, h]

/-! ### The canonical form -/

theorem nwfFrom_mono [DecidableEq α] (d : Nat → α) {lo lo' : Nat} (h : lo' ≤ lo) :
    ∀ m : NMap α, nwfFrom d lo m = true → nwfFrom d lo' m = true
  | [], _ => rfl
  | (k, v) :: m, hm => by
    simp only [nwfFrom, Bool.and_eq_true, decide_eq_true_eq] at hm ⊢
    exact ⟨⟨by omega, hm.1.2⟩, hm.2⟩

theorem nwfFrom_nerase [DecidableEq α] (d : Nat → α) (k : Nat) :
    ∀ (m : NMap α) (lo : Nat), nwfFrom d lo m = true → nwfFrom d lo (nerase m k) = true
  | [], _, _ => rfl
  | (k', v) :: m, lo, hm => by
    simp only [nwfFrom, Bool.and_eq_true, decide_eq_true_eq] at hm
    unfold nerase
    split
    · exact nwfFrom_nerase d k m lo (nwfFrom_mono d (by omega) m hm.2)
    · simp only [nwfFrom, Bool.and_eq_true, decide_eq_true_eq]
      exact ⟨hm.1, nwfFrom_nerase d k m _ hm.2⟩

theorem nwfFrom_ninsert [DecidableEq α] (d : Nat → α) (k : Nat) (v : α) (hv : v ≠ d k) :
    ∀ (m : NMap α) (lo : Nat), lo ≤ k → nwfFrom d lo m = true → nwfFrom d lo (ninsert m k v) = true
  | [], lo, hk, _ => by simp [ninsert, nwfFrom, hk, hv]
  | (k', v') :: m, lo, hk, hm => by
    simp only [nwfFrom, Bool.and_eq_true, decide_eq_true_eq] at hm
    unfold ninsert
    split
    · next h => subst h; simp [nwfFrom, hk, hv, hm.2]
    · split
      · next h1 h2 =>
        have := hm.1.2
        simp only [nwfFrom, Bool.and_eq_true, decide_eq_true_eq, hm.2, and_true]
        exact ⟨⟨hk, by simpa using hv⟩, by omega, this⟩
      · next h1 h2 =>
        simp only [nwfFrom, Bool.and_eq_true, decide_eq_true_eq]
        exact ⟨hm.1, nwfFrom_ninsert d k v hv m _ (by omega) hm.2⟩

/-- A write keeps the canonical form. -/
theorem nwf_nset [DecidableEq α] (d : Nat → α) (m : NMap α) (k : Nat) (v : α) (h : nwf d m = true) :
    nwf d (nset d m k v) = true := by
  unfold nset
  split
  · exact nwfFrom_nerase d k m 0 h
  · next hv => exact nwfFrom_ninsert d k v hv m 0 (Nat.zero_le _) h

/-! ### Lists by place -/

theorem lget_lset (d : α) : ∀ (l : List α) (i j : Nat) (x : α),
    lget d (lset l i x) j = if j = i ∧ i < l.length then x else lget d l j
  | [], i, j, x => by simp [lset, lget]
  | y :: l, 0, j, x => by cases j <;> simp [lset, lget]
  | y :: l, i + 1, j, x => by
    cases j with
    | zero => simp [lset, lget]
    | succ j => simp [lset, lget, lget_lset d l i j x]

@[simp] theorem lset_length : ∀ (l : List α) (i : Nat) (x : α), (lset l i x).length = l.length
  | [], _, _ => rfl
  | _ :: _, 0, _ => rfl
  | _ :: l, i + 1, x => by simp [lset, lset_length l i x]

theorem mem_natsFrom : ∀ (n a k : Nat), k ∈ natsFrom a n ↔ a ≤ k ∧ k < a + n
  | 0, a, k => by simp [natsFrom]
  | n + 1, a, k => by simp only [natsFrom, List.mem_cons, mem_natsFrom n]; omega

@[simp] theorem leBytes_length : ∀ n w : Nat, (leBytes n w).length = n
  | 0, _ => rfl
  | n + 1, w => by simp [leBytes, leBytes_length n]

/-- Little-endian bytes read back as the number they were written from (R8). -/
theorem ofLeBytes_leBytes : ∀ n w : Nat, ofLeBytes (leBytes n w) = w % 256 ^ n
  | 0, w => by simp [leBytes, ofLeBytes, Nat.mod_one]
  | n + 1, w => by
    simp only [leBytes, ofLeBytes, ofLeBytes_leBytes n, BitVec.toNat_ofNat]
    rw [show (256 : Nat) ^ (n + 1) = 256 * 256 ^ n from Nat.pow_succ', Nat.mod_mul]

end Sys2Proof.Machine
end

