-- ==== Sys2Proof/Laws/State.lean ====
section
/-! SUPPORT. What each update of the state, a group and a crew leaves as it was, one lemma per field. -/
namespace Sys2Proof.Machine
open Sys2Proof


/-! ### `State.setGroup` -/

@[simp] theorem State.setGroup_cur (s : State) (g : Group) : (s.setGroup g).cur = s.cur := rfl
@[simp] theorem State.setGroup_free (s : State) (g : Group) : (s.setGroup g).free = s.free := rfl
@[simp] theorem State.setGroup_due (s : State) (g : Group) : (s.setGroup g).due = s.due := rfl
@[simp] theorem State.setGroup_inputs (s : State) (g : Group) : (s.setGroup g).inputs = s.inputs := rfl
@[simp] theorem State.setGroup_cycle (s : State) (g : Group) : (s.setGroup g).cycle = s.cycle := rfl
@[simp] theorem State.setGroup_peer (s : State) (g : Group) : (s.setGroup g).peer = s.peer := rfl
@[simp] theorem State.setGroup_parts (s : State) (g : Group) : (s.setGroup g).parts = s.parts := rfl
@[simp] theorem State.setGroup_nextId (s : State) (g : Group) : (s.setGroup g).nextId = s.nextId := rfl
@[simp] theorem State.setGroup_cores (s : State) (g : Group) : (s.setGroup g).cores = s.cores := rfl
@[simp] theorem State.setGroup_mem (s : State) (g : Group) : (s.setGroup g).mem = s.mem := rfl
@[simp] theorem State.setGroup_memKey (s : State) (g : Group) : (s.setGroup g).memKey = s.memKey := rfl
@[simp] theorem State.setGroup_poison (s : State) (g : Group) : (s.setGroup g).poison = s.poison := rfl
@[simp] theorem State.setGroup_dir (s : State) (g : Group) : (s.setGroup g).dir = s.dir := rfl
@[simp] theorem State.setGroup_l2 (s : State) (g : Group) : (s.setGroup g).l2 = s.l2 := rfl
@[simp] theorem State.setGroup_listed (s : State) (g : Group) : (s.setGroup g).listed = s.listed := rfl
@[simp] theorem State.setGroup_ingress (s : State) (g : Group) : (s.setGroup g).ingress = s.ingress := rfl
@[simp] theorem State.setGroup_replies (s : State) (g : Group) : (s.setGroup g).replies = s.replies := rfl
@[simp] theorem State.setGroup_xlate (s : State) (g : Group) : (s.setGroup g).xlate = s.xlate := rfl
@[simp] theorem State.setGroup_creg (s : State) (g : Group) : (s.setGroup g).creg = s.creg := rfl
@[simp] theorem State.setGroup_insts (s : State) (g : Group) : (s.setGroup g).insts = s.insts := rfl
@[simp] theorem State.setGroup_launches (s : State) (g : Group) : (s.setGroup g).launches = s.launches := rfl
@[simp] theorem State.setGroup_gangs (s : State) (g : Group) : (s.setGroup g).gangs = s.gangs := rfl
@[simp] theorem State.setGroup_queues (s : State) (g : Group) : (s.setGroup g).queues = s.queues := rfl
@[simp] theorem State.setGroup_graphs (s : State) (g : Group) : (s.setGroup g).graphs = s.graphs := rfl
@[simp] theorem State.setGroup_copies (s : State) (g : Group) : (s.setGroup g).copies = s.copies := rfl
@[simp] theorem State.setGroup_slots (s : State) (g : Group) : (s.setGroup g).slots = s.slots := rfl
@[simp] theorem State.setGroup_launchCount (s : State) (g : Group) : (s.setGroup g).launchCount = s.launchCount := rfl
@[simp] theorem State.setGroup_onlyLaunch (s : State) (g : Group) : (s.setGroup g).onlyLaunch = s.onlyLaunch := rfl
@[simp] theorem State.setGroup_served (s : State) (g : Group) : (s.setGroup g).served = s.served := rfl
@[simp] theorem State.setGroup_hostOut (s : State) (g : Group) : (s.setGroup g).hostOut = s.hostOut := rfl
@[simp] theorem State.setGroup_remote (s : State) (g : Group) : (s.setGroup g).remote = s.remote := rfl
@[simp] theorem State.setGroup_upsets (s : State) (g : Group) : (s.setGroup g).upsets = s.upsets := rfl
@[simp] theorem State.setGroup_damage (s : State) (g : Group) : (s.setGroup g).damage = s.damage := rfl
@[simp] theorem State.setGroup_net (s : State) (g : Group) : (s.setGroup g).net = s.net := rfl
@[simp] theorem State.setGroup_trust (s : State) (g : Group) : (s.setGroup g).trust = s.trust := rfl

/-! ### `State.setUnit` -/

@[simp] theorem State.setUnit_cur (s : State) (g : Group) (u : Nat) (c : Crew) : (s.setUnit g u c).cur = s.cur := rfl
@[simp] theorem State.setUnit_free (s : State) (g : Group) (u : Nat) (c : Crew) : (s.setUnit g u c).free = s.free := rfl
@[simp] theorem State.setUnit_due (s : State) (g : Group) (u : Nat) (c : Crew) : (s.setUnit g u c).due = s.due := rfl
@[simp] theorem State.setUnit_inputs (s : State) (g : Group) (u : Nat) (c : Crew) : (s.setUnit g u c).inputs = s.inputs := rfl
@[simp] theorem State.setUnit_cycle (s : State) (g : Group) (u : Nat) (c : Crew) : (s.setUnit g u c).cycle = s.cycle := rfl
@[simp] theorem State.setUnit_peer (s : State) (g : Group) (u : Nat) (c : Crew) : (s.setUnit g u c).peer = s.peer := rfl
@[simp] theorem State.setUnit_parts (s : State) (g : Group) (u : Nat) (c : Crew) : (s.setUnit g u c).parts = s.parts := rfl
@[simp] theorem State.setUnit_nextId (s : State) (g : Group) (u : Nat) (c : Crew) : (s.setUnit g u c).nextId = s.nextId := rfl
@[simp] theorem State.setUnit_cores (s : State) (g : Group) (u : Nat) (c : Crew) : (s.setUnit g u c).cores = s.cores := rfl
@[simp] theorem State.setUnit_mem (s : State) (g : Group) (u : Nat) (c : Crew) : (s.setUnit g u c).mem = s.mem := rfl
@[simp] theorem State.setUnit_memKey (s : State) (g : Group) (u : Nat) (c : Crew) : (s.setUnit g u c).memKey = s.memKey := rfl
@[simp] theorem State.setUnit_poison (s : State) (g : Group) (u : Nat) (c : Crew) : (s.setUnit g u c).poison = s.poison := rfl
@[simp] theorem State.setUnit_dir (s : State) (g : Group) (u : Nat) (c : Crew) : (s.setUnit g u c).dir = s.dir := rfl
@[simp] theorem State.setUnit_l2 (s : State) (g : Group) (u : Nat) (c : Crew) : (s.setUnit g u c).l2 = s.l2 := rfl
@[simp] theorem State.setUnit_listed (s : State) (g : Group) (u : Nat) (c : Crew) : (s.setUnit g u c).listed = s.listed := rfl
@[simp] theorem State.setUnit_ingress (s : State) (g : Group) (u : Nat) (c : Crew) : (s.setUnit g u c).ingress = s.ingress := rfl
@[simp] theorem State.setUnit_replies (s : State) (g : Group) (u : Nat) (c : Crew) : (s.setUnit g u c).replies = s.replies := rfl
@[simp] theorem State.setUnit_xlate (s : State) (g : Group) (u : Nat) (c : Crew) : (s.setUnit g u c).xlate = s.xlate := rfl
@[simp] theorem State.setUnit_creg (s : State) (g : Group) (u : Nat) (c : Crew) : (s.setUnit g u c).creg = s.creg := rfl
@[simp] theorem State.setUnit_insts (s : State) (g : Group) (u : Nat) (c : Crew) : (s.setUnit g u c).insts = s.insts := rfl
@[simp] theorem State.setUnit_launches (s : State) (g : Group) (u : Nat) (c : Crew) : (s.setUnit g u c).launches = s.launches := rfl
@[simp] theorem State.setUnit_gangs (s : State) (g : Group) (u : Nat) (c : Crew) : (s.setUnit g u c).gangs = s.gangs := rfl
@[simp] theorem State.setUnit_queues (s : State) (g : Group) (u : Nat) (c : Crew) : (s.setUnit g u c).queues = s.queues := rfl
@[simp] theorem State.setUnit_graphs (s : State) (g : Group) (u : Nat) (c : Crew) : (s.setUnit g u c).graphs = s.graphs := rfl
@[simp] theorem State.setUnit_copies (s : State) (g : Group) (u : Nat) (c : Crew) : (s.setUnit g u c).copies = s.copies := rfl
@[simp] theorem State.setUnit_slots (s : State) (g : Group) (u : Nat) (c : Crew) : (s.setUnit g u c).slots = s.slots := rfl
@[simp] theorem State.setUnit_launchCount (s : State) (g : Group) (u : Nat) (c : Crew) : (s.setUnit g u c).launchCount = s.launchCount := rfl
@[simp] theorem State.setUnit_onlyLaunch (s : State) (g : Group) (u : Nat) (c : Crew) : (s.setUnit g u c).onlyLaunch = s.onlyLaunch := rfl
@[simp] theorem State.setUnit_served (s : State) (g : Group) (u : Nat) (c : Crew) : (s.setUnit g u c).served = s.served := rfl
@[simp] theorem State.setUnit_hostOut (s : State) (g : Group) (u : Nat) (c : Crew) : (s.setUnit g u c).hostOut = s.hostOut := rfl
@[simp] theorem State.setUnit_remote (s : State) (g : Group) (u : Nat) (c : Crew) : (s.setUnit g u c).remote = s.remote := rfl
@[simp] theorem State.setUnit_upsets (s : State) (g : Group) (u : Nat) (c : Crew) : (s.setUnit g u c).upsets = s.upsets := rfl
@[simp] theorem State.setUnit_damage (s : State) (g : Group) (u : Nat) (c : Crew) : (s.setUnit g u c).damage = s.damage := rfl
@[simp] theorem State.setUnit_net (s : State) (g : Group) (u : Nat) (c : Crew) : (s.setUnit g u c).net = s.net := rfl
@[simp] theorem State.setUnit_trust (s : State) (g : Group) (u : Nat) (c : Crew) : (s.setUnit g u c).trust = s.trust := rfl

/-! ### `State.setInst` -/

@[simp] theorem State.setInst_cur (s : State) (i : Inst) : (s.setInst i).cur = s.cur := rfl
@[simp] theorem State.setInst_free (s : State) (i : Inst) : (s.setInst i).free = s.free := rfl
@[simp] theorem State.setInst_due (s : State) (i : Inst) : (s.setInst i).due = s.due := rfl
@[simp] theorem State.setInst_inputs (s : State) (i : Inst) : (s.setInst i).inputs = s.inputs := rfl
@[simp] theorem State.setInst_cycle (s : State) (i : Inst) : (s.setInst i).cycle = s.cycle := rfl
@[simp] theorem State.setInst_peer (s : State) (i : Inst) : (s.setInst i).peer = s.peer := rfl
@[simp] theorem State.setInst_parts (s : State) (i : Inst) : (s.setInst i).parts = s.parts := rfl
@[simp] theorem State.setInst_groups (s : State) (i : Inst) : (s.setInst i).groups = s.groups := rfl
@[simp] theorem State.setInst_nextId (s : State) (i : Inst) : (s.setInst i).nextId = s.nextId := rfl
@[simp] theorem State.setInst_cores (s : State) (i : Inst) : (s.setInst i).cores = s.cores := rfl
@[simp] theorem State.setInst_mem (s : State) (i : Inst) : (s.setInst i).mem = s.mem := rfl
@[simp] theorem State.setInst_memKey (s : State) (i : Inst) : (s.setInst i).memKey = s.memKey := rfl
@[simp] theorem State.setInst_poison (s : State) (i : Inst) : (s.setInst i).poison = s.poison := rfl
@[simp] theorem State.setInst_dir (s : State) (i : Inst) : (s.setInst i).dir = s.dir := rfl
@[simp] theorem State.setInst_l2 (s : State) (i : Inst) : (s.setInst i).l2 = s.l2 := rfl
@[simp] theorem State.setInst_listed (s : State) (i : Inst) : (s.setInst i).listed = s.listed := rfl
@[simp] theorem State.setInst_ingress (s : State) (i : Inst) : (s.setInst i).ingress = s.ingress := rfl
@[simp] theorem State.setInst_replies (s : State) (i : Inst) : (s.setInst i).replies = s.replies := rfl
@[simp] theorem State.setInst_xlate (s : State) (i : Inst) : (s.setInst i).xlate = s.xlate := rfl
@[simp] theorem State.setInst_creg (s : State) (i : Inst) : (s.setInst i).creg = s.creg := rfl
@[simp] theorem State.setInst_launches (s : State) (i : Inst) : (s.setInst i).launches = s.launches := rfl
@[simp] theorem State.setInst_gangs (s : State) (i : Inst) : (s.setInst i).gangs = s.gangs := rfl
@[simp] theorem State.setInst_queues (s : State) (i : Inst) : (s.setInst i).queues = s.queues := rfl
@[simp] theorem State.setInst_graphs (s : State) (i : Inst) : (s.setInst i).graphs = s.graphs := rfl
@[simp] theorem State.setInst_copies (s : State) (i : Inst) : (s.setInst i).copies = s.copies := rfl
@[simp] theorem State.setInst_slots (s : State) (i : Inst) : (s.setInst i).slots = s.slots := rfl
@[simp] theorem State.setInst_launchCount (s : State) (i : Inst) : (s.setInst i).launchCount = s.launchCount := rfl
@[simp] theorem State.setInst_onlyLaunch (s : State) (i : Inst) : (s.setInst i).onlyLaunch = s.onlyLaunch := rfl
@[simp] theorem State.setInst_served (s : State) (i : Inst) : (s.setInst i).served = s.served := rfl
@[simp] theorem State.setInst_hostOut (s : State) (i : Inst) : (s.setInst i).hostOut = s.hostOut := rfl
@[simp] theorem State.setInst_remote (s : State) (i : Inst) : (s.setInst i).remote = s.remote := rfl
@[simp] theorem State.setInst_upsets (s : State) (i : Inst) : (s.setInst i).upsets = s.upsets := rfl
@[simp] theorem State.setInst_damage (s : State) (i : Inst) : (s.setInst i).damage = s.damage := rfl
@[simp] theorem State.setInst_net (s : State) (i : Inst) : (s.setInst i).net = s.net := rfl
@[simp] theorem State.setInst_trust (s : State) (i : Inst) : (s.setInst i).trust = s.trust := rfl

/-! ### `State.setLaunch` -/

@[simp] theorem State.setLaunch_cur (s : State) (l : Launch) : (s.setLaunch l).cur = s.cur := rfl
@[simp] theorem State.setLaunch_free (s : State) (l : Launch) : (s.setLaunch l).free = s.free := rfl
@[simp] theorem State.setLaunch_due (s : State) (l : Launch) : (s.setLaunch l).due = s.due := rfl
@[simp] theorem State.setLaunch_inputs (s : State) (l : Launch) : (s.setLaunch l).inputs = s.inputs := rfl
@[simp] theorem State.setLaunch_cycle (s : State) (l : Launch) : (s.setLaunch l).cycle = s.cycle := rfl
@[simp] theorem State.setLaunch_peer (s : State) (l : Launch) : (s.setLaunch l).peer = s.peer := rfl
@[simp] theorem State.setLaunch_parts (s : State) (l : Launch) : (s.setLaunch l).parts = s.parts := rfl
@[simp] theorem State.setLaunch_groups (s : State) (l : Launch) : (s.setLaunch l).groups = s.groups := rfl
@[simp] theorem State.setLaunch_nextId (s : State) (l : Launch) : (s.setLaunch l).nextId = s.nextId := rfl
@[simp] theorem State.setLaunch_cores (s : State) (l : Launch) : (s.setLaunch l).cores = s.cores := rfl
@[simp] theorem State.setLaunch_mem (s : State) (l : Launch) : (s.setLaunch l).mem = s.mem := rfl
@[simp] theorem State.setLaunch_memKey (s : State) (l : Launch) : (s.setLaunch l).memKey = s.memKey := rfl
@[simp] theorem State.setLaunch_poison (s : State) (l : Launch) : (s.setLaunch l).poison = s.poison := rfl
@[simp] theorem State.setLaunch_dir (s : State) (l : Launch) : (s.setLaunch l).dir = s.dir := rfl
@[simp] theorem State.setLaunch_l2 (s : State) (l : Launch) : (s.setLaunch l).l2 = s.l2 := rfl
@[simp] theorem State.setLaunch_listed (s : State) (l : Launch) : (s.setLaunch l).listed = s.listed := rfl
@[simp] theorem State.setLaunch_ingress (s : State) (l : Launch) : (s.setLaunch l).ingress = s.ingress := rfl
@[simp] theorem State.setLaunch_replies (s : State) (l : Launch) : (s.setLaunch l).replies = s.replies := rfl
@[simp] theorem State.setLaunch_xlate (s : State) (l : Launch) : (s.setLaunch l).xlate = s.xlate := rfl
@[simp] theorem State.setLaunch_creg (s : State) (l : Launch) : (s.setLaunch l).creg = s.creg := rfl
@[simp] theorem State.setLaunch_insts (s : State) (l : Launch) : (s.setLaunch l).insts = s.insts := rfl
@[simp] theorem State.setLaunch_gangs (s : State) (l : Launch) : (s.setLaunch l).gangs = s.gangs := rfl
@[simp] theorem State.setLaunch_queues (s : State) (l : Launch) : (s.setLaunch l).queues = s.queues := rfl
@[simp] theorem State.setLaunch_graphs (s : State) (l : Launch) : (s.setLaunch l).graphs = s.graphs := rfl
@[simp] theorem State.setLaunch_copies (s : State) (l : Launch) : (s.setLaunch l).copies = s.copies := rfl
@[simp] theorem State.setLaunch_slots (s : State) (l : Launch) : (s.setLaunch l).slots = s.slots := rfl
@[simp] theorem State.setLaunch_launchCount (s : State) (l : Launch) : (s.setLaunch l).launchCount = s.launchCount := rfl
@[simp] theorem State.setLaunch_onlyLaunch (s : State) (l : Launch) : (s.setLaunch l).onlyLaunch = s.onlyLaunch := rfl
@[simp] theorem State.setLaunch_served (s : State) (l : Launch) : (s.setLaunch l).served = s.served := rfl
@[simp] theorem State.setLaunch_hostOut (s : State) (l : Launch) : (s.setLaunch l).hostOut = s.hostOut := rfl
@[simp] theorem State.setLaunch_remote (s : State) (l : Launch) : (s.setLaunch l).remote = s.remote := rfl
@[simp] theorem State.setLaunch_upsets (s : State) (l : Launch) : (s.setLaunch l).upsets = s.upsets := rfl
@[simp] theorem State.setLaunch_damage (s : State) (l : Launch) : (s.setLaunch l).damage = s.damage := rfl
@[simp] theorem State.setLaunch_net (s : State) (l : Launch) : (s.setLaunch l).net = s.net := rfl
@[simp] theorem State.setLaunch_trust (s : State) (l : Launch) : (s.setLaunch l).trust = s.trust := rfl

/-! ### `State.setGang` -/

@[simp] theorem State.setGang_cur (s : State) (g : Gang) : (s.setGang g).cur = s.cur := rfl
@[simp] theorem State.setGang_free (s : State) (g : Gang) : (s.setGang g).free = s.free := rfl
@[simp] theorem State.setGang_due (s : State) (g : Gang) : (s.setGang g).due = s.due := rfl
@[simp] theorem State.setGang_inputs (s : State) (g : Gang) : (s.setGang g).inputs = s.inputs := rfl
@[simp] theorem State.setGang_cycle (s : State) (g : Gang) : (s.setGang g).cycle = s.cycle := rfl
@[simp] theorem State.setGang_peer (s : State) (g : Gang) : (s.setGang g).peer = s.peer := rfl
@[simp] theorem State.setGang_parts (s : State) (g : Gang) : (s.setGang g).parts = s.parts := rfl
@[simp] theorem State.setGang_groups (s : State) (g : Gang) : (s.setGang g).groups = s.groups := rfl
@[simp] theorem State.setGang_nextId (s : State) (g : Gang) : (s.setGang g).nextId = s.nextId := rfl
@[simp] theorem State.setGang_cores (s : State) (g : Gang) : (s.setGang g).cores = s.cores := rfl
@[simp] theorem State.setGang_mem (s : State) (g : Gang) : (s.setGang g).mem = s.mem := rfl
@[simp] theorem State.setGang_memKey (s : State) (g : Gang) : (s.setGang g).memKey = s.memKey := rfl
@[simp] theorem State.setGang_poison (s : State) (g : Gang) : (s.setGang g).poison = s.poison := rfl
@[simp] theorem State.setGang_dir (s : State) (g : Gang) : (s.setGang g).dir = s.dir := rfl
@[simp] theorem State.setGang_l2 (s : State) (g : Gang) : (s.setGang g).l2 = s.l2 := rfl
@[simp] theorem State.setGang_listed (s : State) (g : Gang) : (s.setGang g).listed = s.listed := rfl
@[simp] theorem State.setGang_ingress (s : State) (g : Gang) : (s.setGang g).ingress = s.ingress := rfl
@[simp] theorem State.setGang_replies (s : State) (g : Gang) : (s.setGang g).replies = s.replies := rfl
@[simp] theorem State.setGang_xlate (s : State) (g : Gang) : (s.setGang g).xlate = s.xlate := rfl
@[simp] theorem State.setGang_creg (s : State) (g : Gang) : (s.setGang g).creg = s.creg := rfl
@[simp] theorem State.setGang_insts (s : State) (g : Gang) : (s.setGang g).insts = s.insts := rfl
@[simp] theorem State.setGang_launches (s : State) (g : Gang) : (s.setGang g).launches = s.launches := rfl
@[simp] theorem State.setGang_queues (s : State) (g : Gang) : (s.setGang g).queues = s.queues := rfl
@[simp] theorem State.setGang_graphs (s : State) (g : Gang) : (s.setGang g).graphs = s.graphs := rfl
@[simp] theorem State.setGang_copies (s : State) (g : Gang) : (s.setGang g).copies = s.copies := rfl
@[simp] theorem State.setGang_slots (s : State) (g : Gang) : (s.setGang g).slots = s.slots := rfl
@[simp] theorem State.setGang_launchCount (s : State) (g : Gang) : (s.setGang g).launchCount = s.launchCount := rfl
@[simp] theorem State.setGang_onlyLaunch (s : State) (g : Gang) : (s.setGang g).onlyLaunch = s.onlyLaunch := rfl
@[simp] theorem State.setGang_served (s : State) (g : Gang) : (s.setGang g).served = s.served := rfl
@[simp] theorem State.setGang_hostOut (s : State) (g : Gang) : (s.setGang g).hostOut = s.hostOut := rfl
@[simp] theorem State.setGang_remote (s : State) (g : Gang) : (s.setGang g).remote = s.remote := rfl
@[simp] theorem State.setGang_upsets (s : State) (g : Gang) : (s.setGang g).upsets = s.upsets := rfl
@[simp] theorem State.setGang_damage (s : State) (g : Gang) : (s.setGang g).damage = s.damage := rfl
@[simp] theorem State.setGang_net (s : State) (g : Gang) : (s.setGang g).net = s.net := rfl
@[simp] theorem State.setGang_trust (s : State) (g : Gang) : (s.setGang g).trust = s.trust := rfl

/-! ### `State.setQueue` -/

@[simp] theorem State.setQueue_cur (s : State) (k : Nat) (q : Queue) : (s.setQueue k q).cur = s.cur := rfl
@[simp] theorem State.setQueue_free (s : State) (k : Nat) (q : Queue) : (s.setQueue k q).free = s.free := rfl
@[simp] theorem State.setQueue_due (s : State) (k : Nat) (q : Queue) : (s.setQueue k q).due = s.due := rfl
@[simp] theorem State.setQueue_inputs (s : State) (k : Nat) (q : Queue) : (s.setQueue k q).inputs = s.inputs := rfl
@[simp] theorem State.setQueue_cycle (s : State) (k : Nat) (q : Queue) : (s.setQueue k q).cycle = s.cycle := rfl
@[simp] theorem State.setQueue_peer (s : State) (k : Nat) (q : Queue) : (s.setQueue k q).peer = s.peer := rfl
@[simp] theorem State.setQueue_parts (s : State) (k : Nat) (q : Queue) : (s.setQueue k q).parts = s.parts := rfl
@[simp] theorem State.setQueue_groups (s : State) (k : Nat) (q : Queue) : (s.setQueue k q).groups = s.groups := rfl
@[simp] theorem State.setQueue_nextId (s : State) (k : Nat) (q : Queue) : (s.setQueue k q).nextId = s.nextId := rfl
@[simp] theorem State.setQueue_cores (s : State) (k : Nat) (q : Queue) : (s.setQueue k q).cores = s.cores := rfl
@[simp] theorem State.setQueue_mem (s : State) (k : Nat) (q : Queue) : (s.setQueue k q).mem = s.mem := rfl
@[simp] theorem State.setQueue_memKey (s : State) (k : Nat) (q : Queue) : (s.setQueue k q).memKey = s.memKey := rfl
@[simp] theorem State.setQueue_poison (s : State) (k : Nat) (q : Queue) : (s.setQueue k q).poison = s.poison := rfl
@[simp] theorem State.setQueue_dir (s : State) (k : Nat) (q : Queue) : (s.setQueue k q).dir = s.dir := rfl
@[simp] theorem State.setQueue_l2 (s : State) (k : Nat) (q : Queue) : (s.setQueue k q).l2 = s.l2 := rfl
@[simp] theorem State.setQueue_listed (s : State) (k : Nat) (q : Queue) : (s.setQueue k q).listed = s.listed := rfl
@[simp] theorem State.setQueue_ingress (s : State) (k : Nat) (q : Queue) : (s.setQueue k q).ingress = s.ingress := rfl
@[simp] theorem State.setQueue_replies (s : State) (k : Nat) (q : Queue) : (s.setQueue k q).replies = s.replies := rfl
@[simp] theorem State.setQueue_xlate (s : State) (k : Nat) (q : Queue) : (s.setQueue k q).xlate = s.xlate := rfl
@[simp] theorem State.setQueue_creg (s : State) (k : Nat) (q : Queue) : (s.setQueue k q).creg = s.creg := rfl
@[simp] theorem State.setQueue_insts (s : State) (k : Nat) (q : Queue) : (s.setQueue k q).insts = s.insts := rfl
@[simp] theorem State.setQueue_launches (s : State) (k : Nat) (q : Queue) : (s.setQueue k q).launches = s.launches := rfl
@[simp] theorem State.setQueue_gangs (s : State) (k : Nat) (q : Queue) : (s.setQueue k q).gangs = s.gangs := rfl
@[simp] theorem State.setQueue_graphs (s : State) (k : Nat) (q : Queue) : (s.setQueue k q).graphs = s.graphs := rfl
@[simp] theorem State.setQueue_copies (s : State) (k : Nat) (q : Queue) : (s.setQueue k q).copies = s.copies := rfl
@[simp] theorem State.setQueue_slots (s : State) (k : Nat) (q : Queue) : (s.setQueue k q).slots = s.slots := rfl
@[simp] theorem State.setQueue_launchCount (s : State) (k : Nat) (q : Queue) : (s.setQueue k q).launchCount = s.launchCount := rfl
@[simp] theorem State.setQueue_onlyLaunch (s : State) (k : Nat) (q : Queue) : (s.setQueue k q).onlyLaunch = s.onlyLaunch := rfl
@[simp] theorem State.setQueue_served (s : State) (k : Nat) (q : Queue) : (s.setQueue k q).served = s.served := rfl
@[simp] theorem State.setQueue_hostOut (s : State) (k : Nat) (q : Queue) : (s.setQueue k q).hostOut = s.hostOut := rfl
@[simp] theorem State.setQueue_remote (s : State) (k : Nat) (q : Queue) : (s.setQueue k q).remote = s.remote := rfl
@[simp] theorem State.setQueue_upsets (s : State) (k : Nat) (q : Queue) : (s.setQueue k q).upsets = s.upsets := rfl
@[simp] theorem State.setQueue_damage (s : State) (k : Nat) (q : Queue) : (s.setQueue k q).damage = s.damage := rfl
@[simp] theorem State.setQueue_net (s : State) (k : Nat) (q : Queue) : (s.setQueue k q).net = s.net := rfl
@[simp] theorem State.setQueue_trust (s : State) (k : Nat) (q : Queue) : (s.setQueue k q).trust = s.trust := rfl

/-! ### `State.setCore` -/

@[simp] theorem State.setCore_cur (s : State) (k : Nat) (c : Core) : (s.setCore k c).cur = s.cur := rfl
@[simp] theorem State.setCore_free (s : State) (k : Nat) (c : Core) : (s.setCore k c).free = s.free := rfl
@[simp] theorem State.setCore_due (s : State) (k : Nat) (c : Core) : (s.setCore k c).due = s.due := rfl
@[simp] theorem State.setCore_inputs (s : State) (k : Nat) (c : Core) : (s.setCore k c).inputs = s.inputs := rfl
@[simp] theorem State.setCore_cycle (s : State) (k : Nat) (c : Core) : (s.setCore k c).cycle = s.cycle := rfl
@[simp] theorem State.setCore_peer (s : State) (k : Nat) (c : Core) : (s.setCore k c).peer = s.peer := rfl
@[simp] theorem State.setCore_parts (s : State) (k : Nat) (c : Core) : (s.setCore k c).parts = s.parts := rfl
@[simp] theorem State.setCore_groups (s : State) (k : Nat) (c : Core) : (s.setCore k c).groups = s.groups := rfl
@[simp] theorem State.setCore_nextId (s : State) (k : Nat) (c : Core) : (s.setCore k c).nextId = s.nextId := rfl
@[simp] theorem State.setCore_mem (s : State) (k : Nat) (c : Core) : (s.setCore k c).mem = s.mem := rfl
@[simp] theorem State.setCore_memKey (s : State) (k : Nat) (c : Core) : (s.setCore k c).memKey = s.memKey := rfl
@[simp] theorem State.setCore_poison (s : State) (k : Nat) (c : Core) : (s.setCore k c).poison = s.poison := rfl
@[simp] theorem State.setCore_dir (s : State) (k : Nat) (c : Core) : (s.setCore k c).dir = s.dir := rfl
@[simp] theorem State.setCore_l2 (s : State) (k : Nat) (c : Core) : (s.setCore k c).l2 = s.l2 := rfl
@[simp] theorem State.setCore_listed (s : State) (k : Nat) (c : Core) : (s.setCore k c).listed = s.listed := rfl
@[simp] theorem State.setCore_ingress (s : State) (k : Nat) (c : Core) : (s.setCore k c).ingress = s.ingress := rfl
@[simp] theorem State.setCore_replies (s : State) (k : Nat) (c : Core) : (s.setCore k c).replies = s.replies := rfl
@[simp] theorem State.setCore_xlate (s : State) (k : Nat) (c : Core) : (s.setCore k c).xlate = s.xlate := rfl
@[simp] theorem State.setCore_creg (s : State) (k : Nat) (c : Core) : (s.setCore k c).creg = s.creg := rfl
@[simp] theorem State.setCore_insts (s : State) (k : Nat) (c : Core) : (s.setCore k c).insts = s.insts := rfl
@[simp] theorem State.setCore_launches (s : State) (k : Nat) (c : Core) : (s.setCore k c).launches = s.launches := rfl
@[simp] theorem State.setCore_gangs (s : State) (k : Nat) (c : Core) : (s.setCore k c).gangs = s.gangs := rfl
@[simp] theorem State.setCore_queues (s : State) (k : Nat) (c : Core) : (s.setCore k c).queues = s.queues := rfl
@[simp] theorem State.setCore_graphs (s : State) (k : Nat) (c : Core) : (s.setCore k c).graphs = s.graphs := rfl
@[simp] theorem State.setCore_copies (s : State) (k : Nat) (c : Core) : (s.setCore k c).copies = s.copies := rfl
@[simp] theorem State.setCore_slots (s : State) (k : Nat) (c : Core) : (s.setCore k c).slots = s.slots := rfl
@[simp] theorem State.setCore_launchCount (s : State) (k : Nat) (c : Core) : (s.setCore k c).launchCount = s.launchCount := rfl
@[simp] theorem State.setCore_onlyLaunch (s : State) (k : Nat) (c : Core) : (s.setCore k c).onlyLaunch = s.onlyLaunch := rfl
@[simp] theorem State.setCore_served (s : State) (k : Nat) (c : Core) : (s.setCore k c).served = s.served := rfl
@[simp] theorem State.setCore_hostOut (s : State) (k : Nat) (c : Core) : (s.setCore k c).hostOut = s.hostOut := rfl
@[simp] theorem State.setCore_remote (s : State) (k : Nat) (c : Core) : (s.setCore k c).remote = s.remote := rfl
@[simp] theorem State.setCore_upsets (s : State) (k : Nat) (c : Core) : (s.setCore k c).upsets = s.upsets := rfl
@[simp] theorem State.setCore_damage (s : State) (k : Nat) (c : Core) : (s.setCore k c).damage = s.damage := rfl
@[simp] theorem State.setCore_net (s : State) (k : Nat) (c : Core) : (s.setCore k c).net = s.net := rfl
@[simp] theorem State.setCore_trust (s : State) (k : Nat) (c : Core) : (s.setCore k c).trust = s.trust := rfl

/-! ### `State.post` -/

@[simp] theorem State.post_cur (s : State) (e : Ev) : (s.post e).cur = s.cur := rfl
@[simp] theorem State.post_free (s : State) (e : Ev) : (s.post e).free = s.free := rfl
@[simp] theorem State.post_inputs (s : State) (e : Ev) : (s.post e).inputs = s.inputs := rfl
@[simp] theorem State.post_cycle (s : State) (e : Ev) : (s.post e).cycle = s.cycle := rfl
@[simp] theorem State.post_peer (s : State) (e : Ev) : (s.post e).peer = s.peer := rfl
@[simp] theorem State.post_parts (s : State) (e : Ev) : (s.post e).parts = s.parts := rfl
@[simp] theorem State.post_groups (s : State) (e : Ev) : (s.post e).groups = s.groups := rfl
@[simp] theorem State.post_nextId (s : State) (e : Ev) : (s.post e).nextId = s.nextId := rfl
@[simp] theorem State.post_cores (s : State) (e : Ev) : (s.post e).cores = s.cores := rfl
@[simp] theorem State.post_mem (s : State) (e : Ev) : (s.post e).mem = s.mem := rfl
@[simp] theorem State.post_memKey (s : State) (e : Ev) : (s.post e).memKey = s.memKey := rfl
@[simp] theorem State.post_poison (s : State) (e : Ev) : (s.post e).poison = s.poison := rfl
@[simp] theorem State.post_dir (s : State) (e : Ev) : (s.post e).dir = s.dir := rfl
@[simp] theorem State.post_l2 (s : State) (e : Ev) : (s.post e).l2 = s.l2 := rfl
@[simp] theorem State.post_listed (s : State) (e : Ev) : (s.post e).listed = s.listed := rfl
@[simp] theorem State.post_ingress (s : State) (e : Ev) : (s.post e).ingress = s.ingress := rfl
@[simp] theorem State.post_replies (s : State) (e : Ev) : (s.post e).replies = s.replies := rfl
@[simp] theorem State.post_xlate (s : State) (e : Ev) : (s.post e).xlate = s.xlate := rfl
@[simp] theorem State.post_creg (s : State) (e : Ev) : (s.post e).creg = s.creg := rfl
@[simp] theorem State.post_insts (s : State) (e : Ev) : (s.post e).insts = s.insts := rfl
@[simp] theorem State.post_launches (s : State) (e : Ev) : (s.post e).launches = s.launches := rfl
@[simp] theorem State.post_gangs (s : State) (e : Ev) : (s.post e).gangs = s.gangs := rfl
@[simp] theorem State.post_queues (s : State) (e : Ev) : (s.post e).queues = s.queues := rfl
@[simp] theorem State.post_graphs (s : State) (e : Ev) : (s.post e).graphs = s.graphs := rfl
@[simp] theorem State.post_copies (s : State) (e : Ev) : (s.post e).copies = s.copies := rfl
@[simp] theorem State.post_slots (s : State) (e : Ev) : (s.post e).slots = s.slots := rfl
@[simp] theorem State.post_launchCount (s : State) (e : Ev) : (s.post e).launchCount = s.launchCount := rfl
@[simp] theorem State.post_onlyLaunch (s : State) (e : Ev) : (s.post e).onlyLaunch = s.onlyLaunch := rfl
@[simp] theorem State.post_served (s : State) (e : Ev) : (s.post e).served = s.served := rfl
@[simp] theorem State.post_hostOut (s : State) (e : Ev) : (s.post e).hostOut = s.hostOut := rfl
@[simp] theorem State.post_remote (s : State) (e : Ev) : (s.post e).remote = s.remote := rfl
@[simp] theorem State.post_upsets (s : State) (e : Ev) : (s.post e).upsets = s.upsets := rfl
@[simp] theorem State.post_damage (s : State) (e : Ev) : (s.post e).damage = s.damage := rfl
@[simp] theorem State.post_net (s : State) (e : Ev) : (s.post e).net = s.net := rfl
@[simp] theorem State.post_trust (s : State) (e : Ev) : (s.post e).trust = s.trust := rfl

/-! ### `State.setReg` -/

@[simp] theorem State.setReg_cur (s : State) (p o v : Nat) : (s.setReg p o v).cur = s.cur := rfl
@[simp] theorem State.setReg_free (s : State) (p o v : Nat) : (s.setReg p o v).free = s.free := rfl
@[simp] theorem State.setReg_due (s : State) (p o v : Nat) : (s.setReg p o v).due = s.due := rfl
@[simp] theorem State.setReg_inputs (s : State) (p o v : Nat) : (s.setReg p o v).inputs = s.inputs := rfl
@[simp] theorem State.setReg_cycle (s : State) (p o v : Nat) : (s.setReg p o v).cycle = s.cycle := rfl
@[simp] theorem State.setReg_peer (s : State) (p o v : Nat) : (s.setReg p o v).peer = s.peer := rfl
@[simp] theorem State.setReg_parts (s : State) (p o v : Nat) : (s.setReg p o v).parts = s.parts := rfl
@[simp] theorem State.setReg_groups (s : State) (p o v : Nat) : (s.setReg p o v).groups = s.groups := rfl
@[simp] theorem State.setReg_nextId (s : State) (p o v : Nat) : (s.setReg p o v).nextId = s.nextId := rfl
@[simp] theorem State.setReg_cores (s : State) (p o v : Nat) : (s.setReg p o v).cores = s.cores := rfl
@[simp] theorem State.setReg_mem (s : State) (p o v : Nat) : (s.setReg p o v).mem = s.mem := rfl
@[simp] theorem State.setReg_memKey (s : State) (p o v : Nat) : (s.setReg p o v).memKey = s.memKey := rfl
@[simp] theorem State.setReg_poison (s : State) (p o v : Nat) : (s.setReg p o v).poison = s.poison := rfl
@[simp] theorem State.setReg_dir (s : State) (p o v : Nat) : (s.setReg p o v).dir = s.dir := rfl
@[simp] theorem State.setReg_l2 (s : State) (p o v : Nat) : (s.setReg p o v).l2 = s.l2 := rfl
@[simp] theorem State.setReg_listed (s : State) (p o v : Nat) : (s.setReg p o v).listed = s.listed := rfl
@[simp] theorem State.setReg_ingress (s : State) (p o v : Nat) : (s.setReg p o v).ingress = s.ingress := rfl
@[simp] theorem State.setReg_replies (s : State) (p o v : Nat) : (s.setReg p o v).replies = s.replies := rfl
@[simp] theorem State.setReg_xlate (s : State) (p o v : Nat) : (s.setReg p o v).xlate = s.xlate := rfl
@[simp] theorem State.setReg_insts (s : State) (p o v : Nat) : (s.setReg p o v).insts = s.insts := rfl
@[simp] theorem State.setReg_launches (s : State) (p o v : Nat) : (s.setReg p o v).launches = s.launches := rfl
@[simp] theorem State.setReg_gangs (s : State) (p o v : Nat) : (s.setReg p o v).gangs = s.gangs := rfl
@[simp] theorem State.setReg_queues (s : State) (p o v : Nat) : (s.setReg p o v).queues = s.queues := rfl
@[simp] theorem State.setReg_graphs (s : State) (p o v : Nat) : (s.setReg p o v).graphs = s.graphs := rfl
@[simp] theorem State.setReg_copies (s : State) (p o v : Nat) : (s.setReg p o v).copies = s.copies := rfl
@[simp] theorem State.setReg_slots (s : State) (p o v : Nat) : (s.setReg p o v).slots = s.slots := rfl
@[simp] theorem State.setReg_launchCount (s : State) (p o v : Nat) : (s.setReg p o v).launchCount = s.launchCount := rfl
@[simp] theorem State.setReg_onlyLaunch (s : State) (p o v : Nat) : (s.setReg p o v).onlyLaunch = s.onlyLaunch := rfl
@[simp] theorem State.setReg_served (s : State) (p o v : Nat) : (s.setReg p o v).served = s.served := rfl
@[simp] theorem State.setReg_hostOut (s : State) (p o v : Nat) : (s.setReg p o v).hostOut = s.hostOut := rfl
@[simp] theorem State.setReg_remote (s : State) (p o v : Nat) : (s.setReg p o v).remote = s.remote := rfl
@[simp] theorem State.setReg_upsets (s : State) (p o v : Nat) : (s.setReg p o v).upsets = s.upsets := rfl
@[simp] theorem State.setReg_damage (s : State) (p o v : Nat) : (s.setReg p o v).damage = s.damage := rfl
@[simp] theorem State.setReg_net (s : State) (p o v : Nat) : (s.setReg p o v).net = s.net := rfl
@[simp] theorem State.setReg_trust (s : State) (p o v : Nat) : (s.setReg p o v).trust = s.trust := rfl

/-! ### `State.setXlate` -/

@[simp] theorem State.setXlate_cur (s : State) (d : Nat) (x : DieXlate) : (s.setXlate d x).cur = s.cur := rfl
@[simp] theorem State.setXlate_free (s : State) (d : Nat) (x : DieXlate) : (s.setXlate d x).free = s.free := rfl
@[simp] theorem State.setXlate_due (s : State) (d : Nat) (x : DieXlate) : (s.setXlate d x).due = s.due := rfl
@[simp] theorem State.setXlate_inputs (s : State) (d : Nat) (x : DieXlate) : (s.setXlate d x).inputs = s.inputs := rfl
@[simp] theorem State.setXlate_cycle (s : State) (d : Nat) (x : DieXlate) : (s.setXlate d x).cycle = s.cycle := rfl
@[simp] theorem State.setXlate_peer (s : State) (d : Nat) (x : DieXlate) : (s.setXlate d x).peer = s.peer := rfl
@[simp] theorem State.setXlate_parts (s : State) (d : Nat) (x : DieXlate) : (s.setXlate d x).parts = s.parts := rfl
@[simp] theorem State.setXlate_groups (s : State) (d : Nat) (x : DieXlate) : (s.setXlate d x).groups = s.groups := rfl
@[simp] theorem State.setXlate_nextId (s : State) (d : Nat) (x : DieXlate) : (s.setXlate d x).nextId = s.nextId := rfl
@[simp] theorem State.setXlate_cores (s : State) (d : Nat) (x : DieXlate) : (s.setXlate d x).cores = s.cores := rfl
@[simp] theorem State.setXlate_mem (s : State) (d : Nat) (x : DieXlate) : (s.setXlate d x).mem = s.mem := rfl
@[simp] theorem State.setXlate_memKey (s : State) (d : Nat) (x : DieXlate) : (s.setXlate d x).memKey = s.memKey := rfl
@[simp] theorem State.setXlate_poison (s : State) (d : Nat) (x : DieXlate) : (s.setXlate d x).poison = s.poison := rfl
@[simp] theorem State.setXlate_dir (s : State) (d : Nat) (x : DieXlate) : (s.setXlate d x).dir = s.dir := rfl
@[simp] theorem State.setXlate_l2 (s : State) (d : Nat) (x : DieXlate) : (s.setXlate d x).l2 = s.l2 := rfl
@[simp] theorem State.setXlate_listed (s : State) (d : Nat) (x : DieXlate) : (s.setXlate d x).listed = s.listed := rfl
@[simp] theorem State.setXlate_ingress (s : State) (d : Nat) (x : DieXlate) : (s.setXlate d x).ingress = s.ingress := rfl
@[simp] theorem State.setXlate_replies (s : State) (d : Nat) (x : DieXlate) : (s.setXlate d x).replies = s.replies := rfl
@[simp] theorem State.setXlate_creg (s : State) (d : Nat) (x : DieXlate) : (s.setXlate d x).creg = s.creg := rfl
@[simp] theorem State.setXlate_insts (s : State) (d : Nat) (x : DieXlate) : (s.setXlate d x).insts = s.insts := rfl
@[simp] theorem State.setXlate_launches (s : State) (d : Nat) (x : DieXlate) : (s.setXlate d x).launches = s.launches := rfl
@[simp] theorem State.setXlate_gangs (s : State) (d : Nat) (x : DieXlate) : (s.setXlate d x).gangs = s.gangs := rfl
@[simp] theorem State.setXlate_queues (s : State) (d : Nat) (x : DieXlate) : (s.setXlate d x).queues = s.queues := rfl
@[simp] theorem State.setXlate_graphs (s : State) (d : Nat) (x : DieXlate) : (s.setXlate d x).graphs = s.graphs := rfl
@[simp] theorem State.setXlate_copies (s : State) (d : Nat) (x : DieXlate) : (s.setXlate d x).copies = s.copies := rfl
@[simp] theorem State.setXlate_slots (s : State) (d : Nat) (x : DieXlate) : (s.setXlate d x).slots = s.slots := rfl
@[simp] theorem State.setXlate_launchCount (s : State) (d : Nat) (x : DieXlate) : (s.setXlate d x).launchCount = s.launchCount := rfl
@[simp] theorem State.setXlate_onlyLaunch (s : State) (d : Nat) (x : DieXlate) : (s.setXlate d x).onlyLaunch = s.onlyLaunch := rfl
@[simp] theorem State.setXlate_served (s : State) (d : Nat) (x : DieXlate) : (s.setXlate d x).served = s.served := rfl
@[simp] theorem State.setXlate_hostOut (s : State) (d : Nat) (x : DieXlate) : (s.setXlate d x).hostOut = s.hostOut := rfl
@[simp] theorem State.setXlate_remote (s : State) (d : Nat) (x : DieXlate) : (s.setXlate d x).remote = s.remote := rfl
@[simp] theorem State.setXlate_upsets (s : State) (d : Nat) (x : DieXlate) : (s.setXlate d x).upsets = s.upsets := rfl
@[simp] theorem State.setXlate_damage (s : State) (d : Nat) (x : DieXlate) : (s.setXlate d x).damage = s.damage := rfl
@[simp] theorem State.setXlate_net (s : State) (d : Nat) (x : DieXlate) : (s.setXlate d x).net = s.net := rfl
@[simp] theorem State.setXlate_trust (s : State) (d : Nat) (x : DieXlate) : (s.setXlate d x).trust = s.trust := rfl

/-! ### `State.setListed` -/

@[simp] theorem State.setListed_cur (s : State) (a : Nat) (l : List Listed) : (s.setListed a l).cur = s.cur := rfl
@[simp] theorem State.setListed_free (s : State) (a : Nat) (l : List Listed) : (s.setListed a l).free = s.free := rfl
@[simp] theorem State.setListed_due (s : State) (a : Nat) (l : List Listed) : (s.setListed a l).due = s.due := rfl
@[simp] theorem State.setListed_inputs (s : State) (a : Nat) (l : List Listed) : (s.setListed a l).inputs = s.inputs := rfl
@[simp] theorem State.setListed_cycle (s : State) (a : Nat) (l : List Listed) : (s.setListed a l).cycle = s.cycle := rfl
@[simp] theorem State.setListed_peer (s : State) (a : Nat) (l : List Listed) : (s.setListed a l).peer = s.peer := rfl
@[simp] theorem State.setListed_parts (s : State) (a : Nat) (l : List Listed) : (s.setListed a l).parts = s.parts := rfl
@[simp] theorem State.setListed_groups (s : State) (a : Nat) (l : List Listed) : (s.setListed a l).groups = s.groups := rfl
@[simp] theorem State.setListed_nextId (s : State) (a : Nat) (l : List Listed) : (s.setListed a l).nextId = s.nextId := rfl
@[simp] theorem State.setListed_cores (s : State) (a : Nat) (l : List Listed) : (s.setListed a l).cores = s.cores := rfl
@[simp] theorem State.setListed_mem (s : State) (a : Nat) (l : List Listed) : (s.setListed a l).mem = s.mem := rfl
@[simp] theorem State.setListed_memKey (s : State) (a : Nat) (l : List Listed) : (s.setListed a l).memKey = s.memKey := rfl
@[simp] theorem State.setListed_poison (s : State) (a : Nat) (l : List Listed) : (s.setListed a l).poison = s.poison := rfl
@[simp] theorem State.setListed_dir (s : State) (a : Nat) (l : List Listed) : (s.setListed a l).dir = s.dir := rfl
@[simp] theorem State.setListed_l2 (s : State) (a : Nat) (l : List Listed) : (s.setListed a l).l2 = s.l2 := rfl
@[simp] theorem State.setListed_ingress (s : State) (a : Nat) (l : List Listed) : (s.setListed a l).ingress = s.ingress := rfl
@[simp] theorem State.setListed_replies (s : State) (a : Nat) (l : List Listed) : (s.setListed a l).replies = s.replies := rfl
@[simp] theorem State.setListed_xlate (s : State) (a : Nat) (l : List Listed) : (s.setListed a l).xlate = s.xlate := rfl
@[simp] theorem State.setListed_creg (s : State) (a : Nat) (l : List Listed) : (s.setListed a l).creg = s.creg := rfl
@[simp] theorem State.setListed_insts (s : State) (a : Nat) (l : List Listed) : (s.setListed a l).insts = s.insts := rfl
@[simp] theorem State.setListed_launches (s : State) (a : Nat) (l : List Listed) : (s.setListed a l).launches = s.launches := rfl
@[simp] theorem State.setListed_gangs (s : State) (a : Nat) (l : List Listed) : (s.setListed a l).gangs = s.gangs := rfl
@[simp] theorem State.setListed_queues (s : State) (a : Nat) (l : List Listed) : (s.setListed a l).queues = s.queues := rfl
@[simp] theorem State.setListed_graphs (s : State) (a : Nat) (l : List Listed) : (s.setListed a l).graphs = s.graphs := rfl
@[simp] theorem State.setListed_copies (s : State) (a : Nat) (l : List Listed) : (s.setListed a l).copies = s.copies := rfl
@[simp] theorem State.setListed_slots (s : State) (a : Nat) (l : List Listed) : (s.setListed a l).slots = s.slots := rfl
@[simp] theorem State.setListed_launchCount (s : State) (a : Nat) (l : List Listed) : (s.setListed a l).launchCount = s.launchCount := rfl
@[simp] theorem State.setListed_onlyLaunch (s : State) (a : Nat) (l : List Listed) : (s.setListed a l).onlyLaunch = s.onlyLaunch := rfl
@[simp] theorem State.setListed_served (s : State) (a : Nat) (l : List Listed) : (s.setListed a l).served = s.served := rfl
@[simp] theorem State.setListed_hostOut (s : State) (a : Nat) (l : List Listed) : (s.setListed a l).hostOut = s.hostOut := rfl
@[simp] theorem State.setListed_remote (s : State) (a : Nat) (l : List Listed) : (s.setListed a l).remote = s.remote := rfl
@[simp] theorem State.setListed_upsets (s : State) (a : Nat) (l : List Listed) : (s.setListed a l).upsets = s.upsets := rfl
@[simp] theorem State.setListed_damage (s : State) (a : Nat) (l : List Listed) : (s.setListed a l).damage = s.damage := rfl
@[simp] theorem State.setListed_net (s : State) (a : Nat) (l : List Listed) : (s.setListed a l).net = s.net := rfl
@[simp] theorem State.setListed_trust (s : State) (a : Nat) (l : List Listed) : (s.setListed a l).trust = s.trust := rfl

/-! ### `State.setGraph` -/

@[simp] theorem State.setGraph_cur (s : State) (g : Graph) : (s.setGraph g).cur = s.cur := rfl
@[simp] theorem State.setGraph_free (s : State) (g : Graph) : (s.setGraph g).free = s.free := rfl
@[simp] theorem State.setGraph_due (s : State) (g : Graph) : (s.setGraph g).due = s.due := rfl
@[simp] theorem State.setGraph_inputs (s : State) (g : Graph) : (s.setGraph g).inputs = s.inputs := rfl
@[simp] theorem State.setGraph_cycle (s : State) (g : Graph) : (s.setGraph g).cycle = s.cycle := rfl
@[simp] theorem State.setGraph_peer (s : State) (g : Graph) : (s.setGraph g).peer = s.peer := rfl
@[simp] theorem State.setGraph_parts (s : State) (g : Graph) : (s.setGraph g).parts = s.parts := rfl
@[simp] theorem State.setGraph_groups (s : State) (g : Graph) : (s.setGraph g).groups = s.groups := rfl
@[simp] theorem State.setGraph_nextId (s : State) (g : Graph) : (s.setGraph g).nextId = s.nextId := rfl
@[simp] theorem State.setGraph_cores (s : State) (g : Graph) : (s.setGraph g).cores = s.cores := rfl
@[simp] theorem State.setGraph_mem (s : State) (g : Graph) : (s.setGraph g).mem = s.mem := rfl
@[simp] theorem State.setGraph_memKey (s : State) (g : Graph) : (s.setGraph g).memKey = s.memKey := rfl
@[simp] theorem State.setGraph_poison (s : State) (g : Graph) : (s.setGraph g).poison = s.poison := rfl
@[simp] theorem State.setGraph_dir (s : State) (g : Graph) : (s.setGraph g).dir = s.dir := rfl
@[simp] theorem State.setGraph_l2 (s : State) (g : Graph) : (s.setGraph g).l2 = s.l2 := rfl
@[simp] theorem State.setGraph_listed (s : State) (g : Graph) : (s.setGraph g).listed = s.listed := rfl
@[simp] theorem State.setGraph_ingress (s : State) (g : Graph) : (s.setGraph g).ingress = s.ingress := rfl
@[simp] theorem State.setGraph_replies (s : State) (g : Graph) : (s.setGraph g).replies = s.replies := rfl
@[simp] theorem State.setGraph_xlate (s : State) (g : Graph) : (s.setGraph g).xlate = s.xlate := rfl
@[simp] theorem State.setGraph_creg (s : State) (g : Graph) : (s.setGraph g).creg = s.creg := rfl
@[simp] theorem State.setGraph_insts (s : State) (g : Graph) : (s.setGraph g).insts = s.insts := rfl
@[simp] theorem State.setGraph_launches (s : State) (g : Graph) : (s.setGraph g).launches = s.launches := rfl
@[simp] theorem State.setGraph_gangs (s : State) (g : Graph) : (s.setGraph g).gangs = s.gangs := rfl
@[simp] theorem State.setGraph_queues (s : State) (g : Graph) : (s.setGraph g).queues = s.queues := rfl
@[simp] theorem State.setGraph_copies (s : State) (g : Graph) : (s.setGraph g).copies = s.copies := rfl
@[simp] theorem State.setGraph_slots (s : State) (g : Graph) : (s.setGraph g).slots = s.slots := rfl
@[simp] theorem State.setGraph_launchCount (s : State) (g : Graph) : (s.setGraph g).launchCount = s.launchCount := rfl
@[simp] theorem State.setGraph_onlyLaunch (s : State) (g : Graph) : (s.setGraph g).onlyLaunch = s.onlyLaunch := rfl
@[simp] theorem State.setGraph_served (s : State) (g : Graph) : (s.setGraph g).served = s.served := rfl
@[simp] theorem State.setGraph_hostOut (s : State) (g : Graph) : (s.setGraph g).hostOut = s.hostOut := rfl
@[simp] theorem State.setGraph_remote (s : State) (g : Graph) : (s.setGraph g).remote = s.remote := rfl
@[simp] theorem State.setGraph_upsets (s : State) (g : Graph) : (s.setGraph g).upsets = s.upsets := rfl
@[simp] theorem State.setGraph_damage (s : State) (g : Graph) : (s.setGraph g).damage = s.damage := rfl
@[simp] theorem State.setGraph_net (s : State) (g : Graph) : (s.setGraph g).net = s.net := rfl
@[simp] theorem State.setGraph_trust (s : State) (g : Graph) : (s.setGraph g).trust = s.trust := rfl

/-! ### `State.putByte` -/

@[simp] theorem State.putByte_cur (s : State) (a : Nat) (x : Byte) : (s.putByte a x).cur = s.cur := rfl
@[simp] theorem State.putByte_free (s : State) (a : Nat) (x : Byte) : (s.putByte a x).free = s.free := rfl
@[simp] theorem State.putByte_due (s : State) (a : Nat) (x : Byte) : (s.putByte a x).due = s.due := rfl
@[simp] theorem State.putByte_inputs (s : State) (a : Nat) (x : Byte) : (s.putByte a x).inputs = s.inputs := rfl
@[simp] theorem State.putByte_cycle (s : State) (a : Nat) (x : Byte) : (s.putByte a x).cycle = s.cycle := rfl
@[simp] theorem State.putByte_peer (s : State) (a : Nat) (x : Byte) : (s.putByte a x).peer = s.peer := rfl
@[simp] theorem State.putByte_parts (s : State) (a : Nat) (x : Byte) : (s.putByte a x).parts = s.parts := rfl
@[simp] theorem State.putByte_groups (s : State) (a : Nat) (x : Byte) : (s.putByte a x).groups = s.groups := rfl
@[simp] theorem State.putByte_nextId (s : State) (a : Nat) (x : Byte) : (s.putByte a x).nextId = s.nextId := rfl
@[simp] theorem State.putByte_cores (s : State) (a : Nat) (x : Byte) : (s.putByte a x).cores = s.cores := rfl
@[simp] theorem State.putByte_memKey (s : State) (a : Nat) (x : Byte) : (s.putByte a x).memKey = s.memKey := rfl
@[simp] theorem State.putByte_poison (s : State) (a : Nat) (x : Byte) : (s.putByte a x).poison = s.poison := rfl
@[simp] theorem State.putByte_dir (s : State) (a : Nat) (x : Byte) : (s.putByte a x).dir = s.dir := rfl
@[simp] theorem State.putByte_l2 (s : State) (a : Nat) (x : Byte) : (s.putByte a x).l2 = s.l2 := rfl
@[simp] theorem State.putByte_listed (s : State) (a : Nat) (x : Byte) : (s.putByte a x).listed = s.listed := rfl
@[simp] theorem State.putByte_ingress (s : State) (a : Nat) (x : Byte) : (s.putByte a x).ingress = s.ingress := rfl
@[simp] theorem State.putByte_replies (s : State) (a : Nat) (x : Byte) : (s.putByte a x).replies = s.replies := rfl
@[simp] theorem State.putByte_xlate (s : State) (a : Nat) (x : Byte) : (s.putByte a x).xlate = s.xlate := rfl
@[simp] theorem State.putByte_creg (s : State) (a : Nat) (x : Byte) : (s.putByte a x).creg = s.creg := rfl
@[simp] theorem State.putByte_insts (s : State) (a : Nat) (x : Byte) : (s.putByte a x).insts = s.insts := rfl
@[simp] theorem State.putByte_launches (s : State) (a : Nat) (x : Byte) : (s.putByte a x).launches = s.launches := rfl
@[simp] theorem State.putByte_gangs (s : State) (a : Nat) (x : Byte) : (s.putByte a x).gangs = s.gangs := rfl
@[simp] theorem State.putByte_queues (s : State) (a : Nat) (x : Byte) : (s.putByte a x).queues = s.queues := rfl
@[simp] theorem State.putByte_graphs (s : State) (a : Nat) (x : Byte) : (s.putByte a x).graphs = s.graphs := rfl
@[simp] theorem State.putByte_copies (s : State) (a : Nat) (x : Byte) : (s.putByte a x).copies = s.copies := rfl
@[simp] theorem State.putByte_slots (s : State) (a : Nat) (x : Byte) : (s.putByte a x).slots = s.slots := rfl
@[simp] theorem State.putByte_launchCount (s : State) (a : Nat) (x : Byte) : (s.putByte a x).launchCount = s.launchCount := rfl
@[simp] theorem State.putByte_onlyLaunch (s : State) (a : Nat) (x : Byte) : (s.putByte a x).onlyLaunch = s.onlyLaunch := rfl
@[simp] theorem State.putByte_served (s : State) (a : Nat) (x : Byte) : (s.putByte a x).served = s.served := rfl
@[simp] theorem State.putByte_hostOut (s : State) (a : Nat) (x : Byte) : (s.putByte a x).hostOut = s.hostOut := rfl
@[simp] theorem State.putByte_remote (s : State) (a : Nat) (x : Byte) : (s.putByte a x).remote = s.remote := rfl
@[simp] theorem State.putByte_upsets (s : State) (a : Nat) (x : Byte) : (s.putByte a x).upsets = s.upsets := rfl
@[simp] theorem State.putByte_damage (s : State) (a : Nat) (x : Byte) : (s.putByte a x).damage = s.damage := rfl
@[simp] theorem State.putByte_net (s : State) (a : Nat) (x : Byte) : (s.putByte a x).net = s.net := rfl
@[simp] theorem State.putByte_trust (s : State) (a : Nat) (x : Byte) : (s.putByte a x).trust = s.trust := rfl

/-! ### `Group.setUnit` -/

@[simp] theorem Group.setUnit_id (g : Group) (u : Nat) (c : Crew) : (g.setUnit u c).id = g.id := by
  unfold Group.setUnit; split <;> rfl
@[simp] theorem Group.setUnit_launch (g : Group) (u : Nat) (c : Crew) : (g.setUnit u c).launch = g.launch := by
  unfold Group.setUnit; split <;> rfl
@[simp] theorem Group.setUnit_g (g : Group) (u : Nat) (c : Crew) : (g.setUnit u c).g = g.g := by
  unfold Group.setUnit; split <;> rfl
@[simp] theorem Group.setUnit_ctx (g : Group) (u : Nat) (c : Crew) : (g.setUnit u c).ctx = g.ctx := by
  unfold Group.setUnit; split <;> rfl
@[simp] theorem Group.setUnit_queue (g : Group) (u : Nat) (c : Crew) : (g.setUnit u c).queue = g.queue := by
  unfold Group.setUnit; split <;> rfl
@[simp] theorem Group.setUnit_prio (g : Group) (u : Nat) (c : Crew) : (g.setUnit u c).prio = g.prio := by
  unfold Group.setUnit; split <;> rfl
@[simp] theorem Group.setUnit_part (g : Group) (u : Nat) (c : Crew) : (g.setUnit u c).part = g.part := by
  unfold Group.setUnit; split <;> rfl
@[simp] theorem Group.setUnit_pos (g : Group) (u : Nat) (c : Crew) : (g.setUnit u c).pos = g.pos := by
  unfold Group.setUnit; split <;> rfl
@[simp] theorem Group.setUnit_loc (g : Group) (u : Nat) (c : Crew) : (g.setUnit u c).loc = g.loc := by
  unfold Group.setUnit; split <;> rfl
@[simp] theorem Group.setUnit_desc (g : Group) (u : Nat) (c : Crew) : (g.setUnit u c).desc = g.desc := by
  unfold Group.setUnit; split <;> rfl
@[simp] theorem Group.setUnit_launchId (g : Group) (u : Nat) (c : Crew) : (g.setUnit u c).launchId = g.launchId := by
  unfold Group.setUnit; split <;> rfl
@[simp] theorem Group.setUnit_gid (g : Group) (u : Nat) (c : Crew) : (g.setUnit u c).gid = g.gid := by
  unfold Group.setUnit; split <;> rfl
@[simp] theorem Group.setUnit_ngroups (g : Group) (u : Nat) (c : Crew) : (g.setUnit u c).ngroups = g.ngroups := by
  unfold Group.setUnit; split <;> rfl
@[simp] theorem Group.setUnit_param (g : Group) (u : Nat) (c : Crew) : (g.setUnit u c).param = g.param := by
  unfold Group.setUnit; split <;> rfl
@[simp] theorem Group.setUnit_paramLen (g : Group) (u : Nat) (c : Crew) : (g.setUnit u c).paramLen = g.paramLen := by
  unfold Group.setUnit; split <;> rfl
@[simp] theorem Group.setUnit_fq (g : Group) (u : Nat) (c : Crew) : (g.setUnit u c).fq = g.fq := by
  unfold Group.setUnit; split <;> rfl
@[simp] theorem Group.setUnit_bq (g : Group) (u : Nat) (c : Crew) : (g.setUnit u c).bq = g.bq := by
  unfold Group.setUnit; split <;> rfl
@[simp] theorem Group.setUnit_handles (g : Group) (u : Nat) (c : Crew) : (g.setUnit u c).handles = g.handles := by
  unfold Group.setUnit; split <;> rfl
@[simp] theorem Group.setUnit_bars (g : Group) (u : Nat) (c : Crew) : (g.setUnit u c).bars = g.bars := by
  unfold Group.setUnit; split <;> rfl
@[simp] theorem Group.setUnit_bsb (g : Group) (u : Nat) (c : Crew) : (g.setUnit u c).bsb = g.bsb := by
  unfold Group.setUnit; split <;> rfl
@[simp] theorem Group.setUnit_flights (g : Group) (u : Nat) (c : Crew) : (g.setUnit u c).flights = g.flights := by
  unfold Group.setUnit; split <;> rfl
@[simp] theorem Group.setUnit_cmds (g : Group) (u : Nat) (c : Crew) : (g.setUnit u c).cmds = g.cmds := by
  unfold Group.setUnit; split <;> rfl
@[simp] theorem Group.setUnit_scrBase (g : Group) (u : Nat) (c : Crew) : (g.setUnit u c).scrBase = g.scrBase := by
  unfold Group.setUnit; split <;> rfl
@[simp] theorem Group.setUnit_scratch (g : Group) (u : Nat) (c : Crew) : (g.setUnit u c).scratch = g.scratch := by
  unfold Group.setUnit; split <;> rfl
@[simp] theorem Group.setUnit_committed (g : Group) (u : Nat) (c : Crew) : (g.setUnit u c).committed = g.committed := by
  unfold Group.setUnit; split <;> rfl
@[simp] theorem Group.setUnit_chain (g : Group) (u : Nat) (c : Crew) : (g.setUnit u c).chain = g.chain := by
  unfold Group.setUnit; split <;> rfl
@[simp] theorem Group.setUnit_retired (g : Group) (u : Nat) (c : Crew) : (g.setUnit u c).retired = g.retired := by
  unfold Group.setUnit; split <;> rfl
@[simp] theorem Group.setUnit_phase (g : Group) (u : Nat) (c : Crew) : (g.setUnit u c).phase = g.phase := by
  unfold Group.setUnit; split <;> rfl
@[simp] theorem Group.setUnit_pend (g : Group) (u : Nat) (c : Crew) : (g.setUnit u c).pend = g.pend := by
  unfold Group.setUnit; split <;> rfl
@[simp] theorem Group.setUnit_slot (g : Group) (u : Nat) (c : Crew) : (g.setUnit u c).slot = g.slot := by
  unfold Group.setUnit; split <;> rfl
@[simp] theorem Group.setUnit_gang (g : Group) (u : Nat) (c : Crew) : (g.setUnit u c).gang = g.gang := by
  unfold Group.setUnit; split <;> rfl
@[simp] theorem Group.setUnit_order (g : Group) (u : Nat) (c : Crew) : (g.setUnit u c).order = g.order := by
  unfold Group.setUnit; split <;> rfl
@[simp] theorem Group.setUnit_since (g : Group) (u : Nat) (c : Crew) : (g.setUnit u c).since = g.since := by
  unfold Group.setUnit; split <;> rfl
@[simp] theorem Group.setUnit_coupled (g : Group) (u : Nat) (c : Crew) : (g.setUnit u c).coupled = g.coupled := by
  unfold Group.setUnit; split <;> rfl
@[simp] theorem Group.setUnit_wanted (g : Group) (u : Nat) (c : Crew) : (g.setUnit u c).wanted = g.wanted := by
  unfold Group.setUnit; split <;> rfl
@[simp] theorem Group.setUnit_qreplays (g : Group) (u : Nat) (c : Crew) : (g.setUnit u c).qreplays = g.qreplays := by
  unfold Group.setUnit; split <;> rfl
@[simp] theorem Group.setUnit_told (g : Group) (u : Nat) (c : Crew) : (g.setUnit u c).told = g.told := by
  unfold Group.setUnit; split <;> rfl

/-! ### Crews -/

@[simp] theorem Crew.setPc_v (c : Crew) (l a : Nat) : (c.setPc l a).v = c.v := rfl
@[simp] theorem Crew.setPc_s (c : Crew) (l a : Nat) : (c.setPc l a).s = c.s := rfl
@[simp] theorem Crew.setPc_p (c : Crew) (l a : Nat) : (c.setPc l a).p = c.p := rfl
@[simp] theorem Crew.setPc_t (c : Crew) (l a : Nat) : (c.setPc l a).t = c.t := rfl
@[simp] theorem Crew.setPc_acc (c : Crew) (l a : Nat) : (c.setPc l a).acc = c.acc := rfl
@[simp] theorem Crew.setPc_exited (c : Crew) (l a : Nat) : (c.setPc l a).exited = c.exited := rfl
@[simp] theorem Crew.setPc_wait (c : Crew) (l a : Nat) : (c.setPc l a).wait = c.wait := rfl
@[simp] theorem Crew.setPc_pass (c : Crew) (l a : Nat) : (c.setPc l a).pass = c.pass := rfl
@[simp] theorem Crew.setPc_aside (c : Crew) (l a : Nat) : (c.setPc l a).aside = c.aside := rfl
@[simp] theorem Crew.setPc_ld (c : Crew) (l a : Nat) : (c.setPc l a).ld = c.ld := rfl
@[simp] theorem Crew.setPc_st (c : Crew) (l a : Nat) : (c.setPc l a).st = c.st := rfl
@[simp] theorem Crew.setPc_cp (c : Crew) (l a : Nat) : (c.setPc l a).cp = c.cp := rfl
@[simp] theorem Crew.setPc_tl (c : Crew) (l a : Nat) : (c.setPc l a).tl = c.tl := rfl
@[simp] theorem Crew.setPc_partw (c : Crew) (l a : Nat) : (c.setPc l a).partw = c.partw := rfl
@[simp] theorem Crew.setPc_parks (c : Crew) (l a : Nat) : (c.setPc l a).parks = c.parks := rfl
@[simp] theorem Crew.setPc_hmode (c : Crew) (l a : Nat) : (c.setPc l a).hmode = c.hmode := rfl
@[simp] theorem Crew.setPc_tcause (c : Crew) (l a : Nat) : (c.setPc l a).tcause = c.tcause := rfl
@[simp] theorem Crew.setPc_tfirst (c : Crew) (l a : Nat) : (c.setPc l a).tfirst = c.tfirst := rfl
@[simp] theorem Crew.setPc_tfaddr (c : Crew) (l a : Nat) : (c.setPc l a).tfaddr = c.tfaddr := rfl
@[simp] theorem Crew.setPc_latch (c : Crew) (l a : Nat) : (c.setPc l a).latch = c.latch := rfl
@[simp] theorem Crew.setPc_log (c : Crew) (l a : Nat) : (c.setPc l a).log = c.log := rfl
@[simp] theorem Crew.setPc_qlog (c : Crew) (l a : Nat) : (c.setPc l a).qlog = c.qlog := rfl
@[simp] theorem Crew.setPc_stall (c : Crew) (l a : Nat) : (c.setPc l a).stall = c.stall := rfl
@[simp] theorem Crew.setPc_hungry (c : Crew) (l a : Nat) : (c.setPc l a).hungry = c.hungry := rfl
@[simp] theorem Crew.setPc_age (c : Crew) (l a : Nat) : (c.setPc l a).age = c.age := rfl
@[simp] theorem Crew.setPc_ripe (c : Crew) (l a : Nat) : (c.setPc l a).ripe = c.ripe := rfl
@[simp] theorem Crew.setPc_readySince (c : Crew) (l a : Nat) : (c.setPc l a).readySince = c.readySince := rfl
@[simp] theorem Crew.setPc_yielded (c : Crew) (l a : Nat) : (c.setPc l a).yielded = c.yielded := rfl
@[simp] theorem Crew.setPc_quadrant (c : Crew) (l a : Nat) : (c.setPc l a).quadrant = c.quadrant := rfl
@[simp] theorem Crew.setPc_waitCp (c : Crew) (l a : Nat) : (c.setPc l a).waitCp = c.waitCp := rfl
@[simp] theorem Crew.setPc_collTraps (c : Crew) (l a : Nat) : (c.setPc l a).collTraps = c.collTraps := rfl
@[simp] theorem Crew.setPc_unwatched (c : Crew) (l a : Nat) : (c.setPc l a).unwatched = c.unwatched := rfl
@[simp] theorem Crew.setPc_pendBar (c : Crew) (l a : Nat) : (c.setPc l a).pendBar = c.pendBar := rfl
@[simp] theorem Crew.setWait_v (c : Crew) (l : Nat) (w : LaneWait) : (c.setWait l w).v = c.v := rfl
@[simp] theorem Crew.setWait_s (c : Crew) (l : Nat) (w : LaneWait) : (c.setWait l w).s = c.s := rfl
@[simp] theorem Crew.setWait_p (c : Crew) (l : Nat) (w : LaneWait) : (c.setWait l w).p = c.p := rfl
@[simp] theorem Crew.setWait_t (c : Crew) (l : Nat) (w : LaneWait) : (c.setWait l w).t = c.t := rfl
@[simp] theorem Crew.setWait_acc (c : Crew) (l : Nat) (w : LaneWait) : (c.setWait l w).acc = c.acc := rfl
@[simp] theorem Crew.setWait_pc (c : Crew) (l : Nat) (w : LaneWait) : (c.setWait l w).pc = c.pc := rfl
@[simp] theorem Crew.setWait_exited (c : Crew) (l : Nat) (w : LaneWait) : (c.setWait l w).exited = c.exited := rfl
@[simp] theorem Crew.setWait_pass (c : Crew) (l : Nat) (w : LaneWait) : (c.setWait l w).pass = c.pass := rfl
@[simp] theorem Crew.setWait_aside (c : Crew) (l : Nat) (w : LaneWait) : (c.setWait l w).aside = c.aside := rfl
@[simp] theorem Crew.setWait_ld (c : Crew) (l : Nat) (w : LaneWait) : (c.setWait l w).ld = c.ld := rfl
@[simp] theorem Crew.setWait_st (c : Crew) (l : Nat) (w : LaneWait) : (c.setWait l w).st = c.st := rfl
@[simp] theorem Crew.setWait_cp (c : Crew) (l : Nat) (w : LaneWait) : (c.setWait l w).cp = c.cp := rfl
@[simp] theorem Crew.setWait_tl (c : Crew) (l : Nat) (w : LaneWait) : (c.setWait l w).tl = c.tl := rfl
@[simp] theorem Crew.setWait_partw (c : Crew) (l : Nat) (w : LaneWait) : (c.setWait l w).partw = c.partw := rfl
@[simp] theorem Crew.setWait_parks (c : Crew) (l : Nat) (w : LaneWait) : (c.setWait l w).parks = c.parks := rfl
@[simp] theorem Crew.setWait_hmode (c : Crew) (l : Nat) (w : LaneWait) : (c.setWait l w).hmode = c.hmode := rfl
@[simp] theorem Crew.setWait_tcause (c : Crew) (l : Nat) (w : LaneWait) : (c.setWait l w).tcause = c.tcause := rfl
@[simp] theorem Crew.setWait_tfirst (c : Crew) (l : Nat) (w : LaneWait) : (c.setWait l w).tfirst = c.tfirst := rfl
@[simp] theorem Crew.setWait_tfaddr (c : Crew) (l : Nat) (w : LaneWait) : (c.setWait l w).tfaddr = c.tfaddr := rfl
@[simp] theorem Crew.setWait_latch (c : Crew) (l : Nat) (w : LaneWait) : (c.setWait l w).latch = c.latch := rfl
@[simp] theorem Crew.setWait_log (c : Crew) (l : Nat) (w : LaneWait) : (c.setWait l w).log = c.log := rfl
@[simp] theorem Crew.setWait_qlog (c : Crew) (l : Nat) (w : LaneWait) : (c.setWait l w).qlog = c.qlog := rfl
@[simp] theorem Crew.setWait_stall (c : Crew) (l : Nat) (w : LaneWait) : (c.setWait l w).stall = c.stall := rfl
@[simp] theorem Crew.setWait_hungry (c : Crew) (l : Nat) (w : LaneWait) : (c.setWait l w).hungry = c.hungry := rfl
@[simp] theorem Crew.setWait_age (c : Crew) (l : Nat) (w : LaneWait) : (c.setWait l w).age = c.age := rfl
@[simp] theorem Crew.setWait_ripe (c : Crew) (l : Nat) (w : LaneWait) : (c.setWait l w).ripe = c.ripe := rfl
@[simp] theorem Crew.setWait_readySince (c : Crew) (l : Nat) (w : LaneWait) : (c.setWait l w).readySince = c.readySince := rfl
@[simp] theorem Crew.setWait_yielded (c : Crew) (l : Nat) (w : LaneWait) : (c.setWait l w).yielded = c.yielded := rfl
@[simp] theorem Crew.setWait_quadrant (c : Crew) (l : Nat) (w : LaneWait) : (c.setWait l w).quadrant = c.quadrant := rfl
@[simp] theorem Crew.setWait_waitCp (c : Crew) (l : Nat) (w : LaneWait) : (c.setWait l w).waitCp = c.waitCp := rfl
@[simp] theorem Crew.setWait_collTraps (c : Crew) (l : Nat) (w : LaneWait) : (c.setWait l w).collTraps = c.collTraps := rfl
@[simp] theorem Crew.setWait_unwatched (c : Crew) (l : Nat) (w : LaneWait) : (c.setWait l w).unwatched = c.unwatched := rfl
@[simp] theorem Crew.setWait_pendBar (c : Crew) (l : Nat) (w : LaneWait) : (c.setWait l w).pendBar = c.pendBar := rfl
@[simp] theorem Crew.vset_s (c : Crew) (k l : Nat) (x : Word) : (c.vset k l x).s = c.s := by
  unfold Crew.vset; split <;> rfl
@[simp] theorem Crew.vset_p (c : Crew) (k l : Nat) (x : Word) : (c.vset k l x).p = c.p := by
  unfold Crew.vset; split <;> rfl
@[simp] theorem Crew.vset_t (c : Crew) (k l : Nat) (x : Word) : (c.vset k l x).t = c.t := by
  unfold Crew.vset; split <;> rfl
@[simp] theorem Crew.vset_acc (c : Crew) (k l : Nat) (x : Word) : (c.vset k l x).acc = c.acc := by
  unfold Crew.vset; split <;> rfl
@[simp] theorem Crew.vset_pc (c : Crew) (k l : Nat) (x : Word) : (c.vset k l x).pc = c.pc := by
  unfold Crew.vset; split <;> rfl
@[simp] theorem Crew.vset_exited (c : Crew) (k l : Nat) (x : Word) : (c.vset k l x).exited = c.exited := by
  unfold Crew.vset; split <;> rfl
@[simp] theorem Crew.vset_wait (c : Crew) (k l : Nat) (x : Word) : (c.vset k l x).wait = c.wait := by
  unfold Crew.vset; split <;> rfl
@[simp] theorem Crew.vset_pass (c : Crew) (k l : Nat) (x : Word) : (c.vset k l x).pass = c.pass := by
  unfold Crew.vset; split <;> rfl
@[simp] theorem Crew.vset_aside (c : Crew) (k l : Nat) (x : Word) : (c.vset k l x).aside = c.aside := by
  unfold Crew.vset; split <;> rfl
@[simp] theorem Crew.vset_ld (c : Crew) (k l : Nat) (x : Word) : (c.vset k l x).ld = c.ld := by
  unfold Crew.vset; split <;> rfl
@[simp] theorem Crew.vset_st (c : Crew) (k l : Nat) (x : Word) : (c.vset k l x).st = c.st := by
  unfold Crew.vset; split <;> rfl
@[simp] theorem Crew.vset_cp (c : Crew) (k l : Nat) (x : Word) : (c.vset k l x).cp = c.cp := by
  unfold Crew.vset; split <;> rfl
@[simp] theorem Crew.vset_tl (c : Crew) (k l : Nat) (x : Word) : (c.vset k l x).tl = c.tl := by
  unfold Crew.vset; split <;> rfl
@[simp] theorem Crew.vset_partw (c : Crew) (k l : Nat) (x : Word) : (c.vset k l x).partw = c.partw := by
  unfold Crew.vset; split <;> rfl
@[simp] theorem Crew.vset_parks (c : Crew) (k l : Nat) (x : Word) : (c.vset k l x).parks = c.parks := by
  unfold Crew.vset; split <;> rfl
@[simp] theorem Crew.vset_hmode (c : Crew) (k l : Nat) (x : Word) : (c.vset k l x).hmode = c.hmode := by
  unfold Crew.vset; split <;> rfl
@[simp] theorem Crew.vset_tcause (c : Crew) (k l : Nat) (x : Word) : (c.vset k l x).tcause = c.tcause := by
  unfold Crew.vset; split <;> rfl
@[simp] theorem Crew.vset_tfirst (c : Crew) (k l : Nat) (x : Word) : (c.vset k l x).tfirst = c.tfirst := by
  unfold Crew.vset; split <;> rfl
@[simp] theorem Crew.vset_tfaddr (c : Crew) (k l : Nat) (x : Word) : (c.vset k l x).tfaddr = c.tfaddr := by
  unfold Crew.vset; split <;> rfl
@[simp] theorem Crew.vset_latch (c : Crew) (k l : Nat) (x : Word) : (c.vset k l x).latch = c.latch := by
  unfold Crew.vset; split <;> rfl
@[simp] theorem Crew.vset_log (c : Crew) (k l : Nat) (x : Word) : (c.vset k l x).log = c.log := by
  unfold Crew.vset; split <;> rfl
@[simp] theorem Crew.vset_qlog (c : Crew) (k l : Nat) (x : Word) : (c.vset k l x).qlog = c.qlog := by
  unfold Crew.vset; split <;> rfl
@[simp] theorem Crew.vset_stall (c : Crew) (k l : Nat) (x : Word) : (c.vset k l x).stall = c.stall := by
  unfold Crew.vset; split <;> rfl
@[simp] theorem Crew.vset_hungry (c : Crew) (k l : Nat) (x : Word) : (c.vset k l x).hungry = c.hungry := by
  unfold Crew.vset; split <;> rfl
@[simp] theorem Crew.vset_age (c : Crew) (k l : Nat) (x : Word) : (c.vset k l x).age = c.age := by
  unfold Crew.vset; split <;> rfl
@[simp] theorem Crew.vset_ripe (c : Crew) (k l : Nat) (x : Word) : (c.vset k l x).ripe = c.ripe := by
  unfold Crew.vset; split <;> rfl
@[simp] theorem Crew.vset_readySince (c : Crew) (k l : Nat) (x : Word) : (c.vset k l x).readySince = c.readySince := by
  unfold Crew.vset; split <;> rfl
@[simp] theorem Crew.vset_yielded (c : Crew) (k l : Nat) (x : Word) : (c.vset k l x).yielded = c.yielded := by
  unfold Crew.vset; split <;> rfl
@[simp] theorem Crew.vset_quadrant (c : Crew) (k l : Nat) (x : Word) : (c.vset k l x).quadrant = c.quadrant := by
  unfold Crew.vset; split <;> rfl
@[simp] theorem Crew.vset_waitCp (c : Crew) (k l : Nat) (x : Word) : (c.vset k l x).waitCp = c.waitCp := by
  unfold Crew.vset; split <;> rfl
@[simp] theorem Crew.vset_collTraps (c : Crew) (k l : Nat) (x : Word) : (c.vset k l x).collTraps = c.collTraps := by
  unfold Crew.vset; split <;> rfl
@[simp] theorem Crew.vset_unwatched (c : Crew) (k l : Nat) (x : Word) : (c.vset k l x).unwatched = c.unwatched := by
  unfold Crew.vset; split <;> rfl
@[simp] theorem Crew.vset_pendBar (c : Crew) (k l : Nat) (x : Word) : (c.vset k l x).pendBar = c.pendBar := by
  unfold Crew.vset; split <;> rfl
@[simp] theorem Crew.sset_v (c : Crew) (k : Nat) (x : Word) : (c.sset k x).v = c.v := by
  unfold Crew.sset; split <;> rfl
@[simp] theorem Crew.sset_p (c : Crew) (k : Nat) (x : Word) : (c.sset k x).p = c.p := by
  unfold Crew.sset; split <;> rfl
@[simp] theorem Crew.sset_t (c : Crew) (k : Nat) (x : Word) : (c.sset k x).t = c.t := by
  unfold Crew.sset; split <;> rfl
@[simp] theorem Crew.sset_acc (c : Crew) (k : Nat) (x : Word) : (c.sset k x).acc = c.acc := by
  unfold Crew.sset; split <;> rfl
@[simp] theorem Crew.sset_pc (c : Crew) (k : Nat) (x : Word) : (c.sset k x).pc = c.pc := by
  unfold Crew.sset; split <;> rfl
@[simp] theorem Crew.sset_exited (c : Crew) (k : Nat) (x : Word) : (c.sset k x).exited = c.exited := by
  unfold Crew.sset; split <;> rfl
@[simp] theorem Crew.sset_wait (c : Crew) (k : Nat) (x : Word) : (c.sset k x).wait = c.wait := by
  unfold Crew.sset; split <;> rfl
@[simp] theorem Crew.sset_pass (c : Crew) (k : Nat) (x : Word) : (c.sset k x).pass = c.pass := by
  unfold Crew.sset; split <;> rfl
@[simp] theorem Crew.sset_aside (c : Crew) (k : Nat) (x : Word) : (c.sset k x).aside = c.aside := by
  unfold Crew.sset; split <;> rfl
@[simp] theorem Crew.sset_ld (c : Crew) (k : Nat) (x : Word) : (c.sset k x).ld = c.ld := by
  unfold Crew.sset; split <;> rfl
@[simp] theorem Crew.sset_st (c : Crew) (k : Nat) (x : Word) : (c.sset k x).st = c.st := by
  unfold Crew.sset; split <;> rfl
@[simp] theorem Crew.sset_cp (c : Crew) (k : Nat) (x : Word) : (c.sset k x).cp = c.cp := by
  unfold Crew.sset; split <;> rfl
@[simp] theorem Crew.sset_tl (c : Crew) (k : Nat) (x : Word) : (c.sset k x).tl = c.tl := by
  unfold Crew.sset; split <;> rfl
@[simp] theorem Crew.sset_partw (c : Crew) (k : Nat) (x : Word) : (c.sset k x).partw = c.partw := by
  unfold Crew.sset; split <;> rfl
@[simp] theorem Crew.sset_parks (c : Crew) (k : Nat) (x : Word) : (c.sset k x).parks = c.parks := by
  unfold Crew.sset; split <;> rfl
@[simp] theorem Crew.sset_hmode (c : Crew) (k : Nat) (x : Word) : (c.sset k x).hmode = c.hmode := by
  unfold Crew.sset; split <;> rfl
@[simp] theorem Crew.sset_tcause (c : Crew) (k : Nat) (x : Word) : (c.sset k x).tcause = c.tcause := by
  unfold Crew.sset; split <;> rfl
@[simp] theorem Crew.sset_tfirst (c : Crew) (k : Nat) (x : Word) : (c.sset k x).tfirst = c.tfirst := by
  unfold Crew.sset; split <;> rfl
@[simp] theorem Crew.sset_tfaddr (c : Crew) (k : Nat) (x : Word) : (c.sset k x).tfaddr = c.tfaddr := by
  unfold Crew.sset; split <;> rfl
@[simp] theorem Crew.sset_latch (c : Crew) (k : Nat) (x : Word) : (c.sset k x).latch = c.latch := by
  unfold Crew.sset; split <;> rfl
@[simp] theorem Crew.sset_log (c : Crew) (k : Nat) (x : Word) : (c.sset k x).log = c.log := by
  unfold Crew.sset; split <;> rfl
@[simp] theorem Crew.sset_qlog (c : Crew) (k : Nat) (x : Word) : (c.sset k x).qlog = c.qlog := by
  unfold Crew.sset; split <;> rfl
@[simp] theorem Crew.sset_stall (c : Crew) (k : Nat) (x : Word) : (c.sset k x).stall = c.stall := by
  unfold Crew.sset; split <;> rfl
@[simp] theorem Crew.sset_hungry (c : Crew) (k : Nat) (x : Word) : (c.sset k x).hungry = c.hungry := by
  unfold Crew.sset; split <;> rfl
@[simp] theorem Crew.sset_age (c : Crew) (k : Nat) (x : Word) : (c.sset k x).age = c.age := by
  unfold Crew.sset; split <;> rfl
@[simp] theorem Crew.sset_ripe (c : Crew) (k : Nat) (x : Word) : (c.sset k x).ripe = c.ripe := by
  unfold Crew.sset; split <;> rfl
@[simp] theorem Crew.sset_readySince (c : Crew) (k : Nat) (x : Word) : (c.sset k x).readySince = c.readySince := by
  unfold Crew.sset; split <;> rfl
@[simp] theorem Crew.sset_yielded (c : Crew) (k : Nat) (x : Word) : (c.sset k x).yielded = c.yielded := by
  unfold Crew.sset; split <;> rfl
@[simp] theorem Crew.sset_quadrant (c : Crew) (k : Nat) (x : Word) : (c.sset k x).quadrant = c.quadrant := by
  unfold Crew.sset; split <;> rfl
@[simp] theorem Crew.sset_waitCp (c : Crew) (k : Nat) (x : Word) : (c.sset k x).waitCp = c.waitCp := by
  unfold Crew.sset; split <;> rfl
@[simp] theorem Crew.sset_collTraps (c : Crew) (k : Nat) (x : Word) : (c.sset k x).collTraps = c.collTraps := by
  unfold Crew.sset; split <;> rfl
@[simp] theorem Crew.sset_unwatched (c : Crew) (k : Nat) (x : Word) : (c.sset k x).unwatched = c.unwatched := by
  unfold Crew.sset; split <;> rfl
@[simp] theorem Crew.sset_pendBar (c : Crew) (k : Nat) (x : Word) : (c.sset k x).pendBar = c.pendBar := by
  unfold Crew.sset; split <;> rfl
@[simp] theorem Crew.psetAll_v (c : Crew) (k : Nat) (x : Word) : (c.psetAll k x).v = c.v := by
  unfold Crew.psetAll; split <;> rfl
@[simp] theorem Crew.psetAll_s (c : Crew) (k : Nat) (x : Word) : (c.psetAll k x).s = c.s := by
  unfold Crew.psetAll; split <;> rfl
@[simp] theorem Crew.psetAll_t (c : Crew) (k : Nat) (x : Word) : (c.psetAll k x).t = c.t := by
  unfold Crew.psetAll; split <;> rfl
@[simp] theorem Crew.psetAll_acc (c : Crew) (k : Nat) (x : Word) : (c.psetAll k x).acc = c.acc := by
  unfold Crew.psetAll; split <;> rfl
@[simp] theorem Crew.psetAll_pc (c : Crew) (k : Nat) (x : Word) : (c.psetAll k x).pc = c.pc := by
  unfold Crew.psetAll; split <;> rfl
@[simp] theorem Crew.psetAll_exited (c : Crew) (k : Nat) (x : Word) : (c.psetAll k x).exited = c.exited := by
  unfold Crew.psetAll; split <;> rfl
@[simp] theorem Crew.psetAll_wait (c : Crew) (k : Nat) (x : Word) : (c.psetAll k x).wait = c.wait := by
  unfold Crew.psetAll; split <;> rfl
@[simp] theorem Crew.psetAll_pass (c : Crew) (k : Nat) (x : Word) : (c.psetAll k x).pass = c.pass := by
  unfold Crew.psetAll; split <;> rfl
@[simp] theorem Crew.psetAll_aside (c : Crew) (k : Nat) (x : Word) : (c.psetAll k x).aside = c.aside := by
  unfold Crew.psetAll; split <;> rfl
@[simp] theorem Crew.psetAll_ld (c : Crew) (k : Nat) (x : Word) : (c.psetAll k x).ld = c.ld := by
  unfold Crew.psetAll; split <;> rfl
@[simp] theorem Crew.psetAll_st (c : Crew) (k : Nat) (x : Word) : (c.psetAll k x).st = c.st := by
  unfold Crew.psetAll; split <;> rfl
@[simp] theorem Crew.psetAll_cp (c : Crew) (k : Nat) (x : Word) : (c.psetAll k x).cp = c.cp := by
  unfold Crew.psetAll; split <;> rfl
@[simp] theorem Crew.psetAll_tl (c : Crew) (k : Nat) (x : Word) : (c.psetAll k x).tl = c.tl := by
  unfold Crew.psetAll; split <;> rfl
@[simp] theorem Crew.psetAll_partw (c : Crew) (k : Nat) (x : Word) : (c.psetAll k x).partw = c.partw := by
  unfold Crew.psetAll; split <;> rfl
@[simp] theorem Crew.psetAll_parks (c : Crew) (k : Nat) (x : Word) : (c.psetAll k x).parks = c.parks := by
  unfold Crew.psetAll; split <;> rfl
@[simp] theorem Crew.psetAll_hmode (c : Crew) (k : Nat) (x : Word) : (c.psetAll k x).hmode = c.hmode := by
  unfold Crew.psetAll; split <;> rfl
@[simp] theorem Crew.psetAll_tcause (c : Crew) (k : Nat) (x : Word) : (c.psetAll k x).tcause = c.tcause := by
  unfold Crew.psetAll; split <;> rfl
@[simp] theorem Crew.psetAll_tfirst (c : Crew) (k : Nat) (x : Word) : (c.psetAll k x).tfirst = c.tfirst := by
  unfold Crew.psetAll; split <;> rfl
@[simp] theorem Crew.psetAll_tfaddr (c : Crew) (k : Nat) (x : Word) : (c.psetAll k x).tfaddr = c.tfaddr := by
  unfold Crew.psetAll; split <;> rfl
@[simp] theorem Crew.psetAll_latch (c : Crew) (k : Nat) (x : Word) : (c.psetAll k x).latch = c.latch := by
  unfold Crew.psetAll; split <;> rfl
@[simp] theorem Crew.psetAll_log (c : Crew) (k : Nat) (x : Word) : (c.psetAll k x).log = c.log := by
  unfold Crew.psetAll; split <;> rfl
@[simp] theorem Crew.psetAll_qlog (c : Crew) (k : Nat) (x : Word) : (c.psetAll k x).qlog = c.qlog := by
  unfold Crew.psetAll; split <;> rfl
@[simp] theorem Crew.psetAll_stall (c : Crew) (k : Nat) (x : Word) : (c.psetAll k x).stall = c.stall := by
  unfold Crew.psetAll; split <;> rfl
@[simp] theorem Crew.psetAll_hungry (c : Crew) (k : Nat) (x : Word) : (c.psetAll k x).hungry = c.hungry := by
  unfold Crew.psetAll; split <;> rfl
@[simp] theorem Crew.psetAll_age (c : Crew) (k : Nat) (x : Word) : (c.psetAll k x).age = c.age := by
  unfold Crew.psetAll; split <;> rfl
@[simp] theorem Crew.psetAll_ripe (c : Crew) (k : Nat) (x : Word) : (c.psetAll k x).ripe = c.ripe := by
  unfold Crew.psetAll; split <;> rfl
@[simp] theorem Crew.psetAll_readySince (c : Crew) (k : Nat) (x : Word) : (c.psetAll k x).readySince = c.readySince := by
  unfold Crew.psetAll; split <;> rfl
@[simp] theorem Crew.psetAll_yielded (c : Crew) (k : Nat) (x : Word) : (c.psetAll k x).yielded = c.yielded := by
  unfold Crew.psetAll; split <;> rfl
@[simp] theorem Crew.psetAll_quadrant (c : Crew) (k : Nat) (x : Word) : (c.psetAll k x).quadrant = c.quadrant := by
  unfold Crew.psetAll; split <;> rfl
@[simp] theorem Crew.psetAll_waitCp (c : Crew) (k : Nat) (x : Word) : (c.psetAll k x).waitCp = c.waitCp := by
  unfold Crew.psetAll; split <;> rfl
@[simp] theorem Crew.psetAll_collTraps (c : Crew) (k : Nat) (x : Word) : (c.psetAll k x).collTraps = c.collTraps := by
  unfold Crew.psetAll; split <;> rfl
@[simp] theorem Crew.psetAll_unwatched (c : Crew) (k : Nat) (x : Word) : (c.psetAll k x).unwatched = c.unwatched := by
  unfold Crew.psetAll; split <;> rfl
@[simp] theorem Crew.psetAll_pendBar (c : Crew) (k : Nat) (x : Word) : (c.psetAll k x).pendBar = c.pendBar := by
  unfold Crew.psetAll; split <;> rfl
@[simp] theorem Crew.pset_v (c : Crew) (k l : Nat) (b : Bool) : (c.pset k l b).v = c.v := by
  simp [Crew.pset]
@[simp] theorem Crew.pset_s (c : Crew) (k l : Nat) (b : Bool) : (c.pset k l b).s = c.s := by
  simp [Crew.pset]
@[simp] theorem Crew.pset_t (c : Crew) (k l : Nat) (b : Bool) : (c.pset k l b).t = c.t := by
  simp [Crew.pset]
@[simp] theorem Crew.pset_acc (c : Crew) (k l : Nat) (b : Bool) : (c.pset k l b).acc = c.acc := by
  simp [Crew.pset]
@[simp] theorem Crew.pset_pc (c : Crew) (k l : Nat) (b : Bool) : (c.pset k l b).pc = c.pc := by
  simp [Crew.pset]
@[simp] theorem Crew.pset_exited (c : Crew) (k l : Nat) (b : Bool) : (c.pset k l b).exited = c.exited := by
  simp [Crew.pset]
@[simp] theorem Crew.pset_wait (c : Crew) (k l : Nat) (b : Bool) : (c.pset k l b).wait = c.wait := by
  simp [Crew.pset]
@[simp] theorem Crew.pset_pass (c : Crew) (k l : Nat) (b : Bool) : (c.pset k l b).pass = c.pass := by
  simp [Crew.pset]
@[simp] theorem Crew.pset_aside (c : Crew) (k l : Nat) (b : Bool) : (c.pset k l b).aside = c.aside := by
  simp [Crew.pset]
@[simp] theorem Crew.pset_ld (c : Crew) (k l : Nat) (b : Bool) : (c.pset k l b).ld = c.ld := by
  simp [Crew.pset]
@[simp] theorem Crew.pset_st (c : Crew) (k l : Nat) (b : Bool) : (c.pset k l b).st = c.st := by
  simp [Crew.pset]
@[simp] theorem Crew.pset_cp (c : Crew) (k l : Nat) (b : Bool) : (c.pset k l b).cp = c.cp := by
  simp [Crew.pset]
@[simp] theorem Crew.pset_tl (c : Crew) (k l : Nat) (b : Bool) : (c.pset k l b).tl = c.tl := by
  simp [Crew.pset]
@[simp] theorem Crew.pset_partw (c : Crew) (k l : Nat) (b : Bool) : (c.pset k l b).partw = c.partw := by
  simp [Crew.pset]
@[simp] theorem Crew.pset_parks (c : Crew) (k l : Nat) (b : Bool) : (c.pset k l b).parks = c.parks := by
  simp [Crew.pset]
@[simp] theorem Crew.pset_hmode (c : Crew) (k l : Nat) (b : Bool) : (c.pset k l b).hmode = c.hmode := by
  simp [Crew.pset]
@[simp] theorem Crew.pset_tcause (c : Crew) (k l : Nat) (b : Bool) : (c.pset k l b).tcause = c.tcause := by
  simp [Crew.pset]
@[simp] theorem Crew.pset_tfirst (c : Crew) (k l : Nat) (b : Bool) : (c.pset k l b).tfirst = c.tfirst := by
  simp [Crew.pset]
@[simp] theorem Crew.pset_tfaddr (c : Crew) (k l : Nat) (b : Bool) : (c.pset k l b).tfaddr = c.tfaddr := by
  simp [Crew.pset]
@[simp] theorem Crew.pset_latch (c : Crew) (k l : Nat) (b : Bool) : (c.pset k l b).latch = c.latch := by
  simp [Crew.pset]
@[simp] theorem Crew.pset_log (c : Crew) (k l : Nat) (b : Bool) : (c.pset k l b).log = c.log := by
  simp [Crew.pset]
@[simp] theorem Crew.pset_qlog (c : Crew) (k l : Nat) (b : Bool) : (c.pset k l b).qlog = c.qlog := by
  simp [Crew.pset]
@[simp] theorem Crew.pset_stall (c : Crew) (k l : Nat) (b : Bool) : (c.pset k l b).stall = c.stall := by
  simp [Crew.pset]
@[simp] theorem Crew.pset_hungry (c : Crew) (k l : Nat) (b : Bool) : (c.pset k l b).hungry = c.hungry := by
  simp [Crew.pset]
@[simp] theorem Crew.pset_age (c : Crew) (k l : Nat) (b : Bool) : (c.pset k l b).age = c.age := by
  simp [Crew.pset]
@[simp] theorem Crew.pset_ripe (c : Crew) (k l : Nat) (b : Bool) : (c.pset k l b).ripe = c.ripe := by
  simp [Crew.pset]
@[simp] theorem Crew.pset_readySince (c : Crew) (k l : Nat) (b : Bool) : (c.pset k l b).readySince = c.readySince := by
  simp [Crew.pset]
@[simp] theorem Crew.pset_yielded (c : Crew) (k l : Nat) (b : Bool) : (c.pset k l b).yielded = c.yielded := by
  simp [Crew.pset]
@[simp] theorem Crew.pset_quadrant (c : Crew) (k l : Nat) (b : Bool) : (c.pset k l b).quadrant = c.quadrant := by
  simp [Crew.pset]
@[simp] theorem Crew.pset_waitCp (c : Crew) (k l : Nat) (b : Bool) : (c.pset k l b).waitCp = c.waitCp := by
  simp [Crew.pset]
@[simp] theorem Crew.pset_collTraps (c : Crew) (k l : Nat) (b : Bool) : (c.pset k l b).collTraps = c.collTraps := by
  simp [Crew.pset]
@[simp] theorem Crew.pset_unwatched (c : Crew) (k l : Nat) (b : Bool) : (c.pset k l b).unwatched = c.unwatched := by
  simp [Crew.pset]
@[simp] theorem Crew.pset_pendBar (c : Crew) (k l : Nat) (b : Bool) : (c.pset k l b).pendBar = c.pendBar := by
  simp [Crew.pset]
@[simp] theorem Crew.setPcs_v (a : Nat) : ∀ (ls : List Nat) (c : Crew), (c.setPcs ls a).v = c.v
  | [], _ => rfl
  | l :: ls, c => (Crew.setPcs_v a ls (c.setPc l a)).trans rfl
@[simp] theorem Crew.setPcs_s (a : Nat) : ∀ (ls : List Nat) (c : Crew), (c.setPcs ls a).s = c.s
  | [], _ => rfl
  | l :: ls, c => (Crew.setPcs_s a ls (c.setPc l a)).trans rfl
@[simp] theorem Crew.setPcs_p (a : Nat) : ∀ (ls : List Nat) (c : Crew), (c.setPcs ls a).p = c.p
  | [], _ => rfl
  | l :: ls, c => (Crew.setPcs_p a ls (c.setPc l a)).trans rfl
@[simp] theorem Crew.setPcs_t (a : Nat) : ∀ (ls : List Nat) (c : Crew), (c.setPcs ls a).t = c.t
  | [], _ => rfl
  | l :: ls, c => (Crew.setPcs_t a ls (c.setPc l a)).trans rfl
@[simp] theorem Crew.setPcs_acc (a : Nat) : ∀ (ls : List Nat) (c : Crew), (c.setPcs ls a).acc = c.acc
  | [], _ => rfl
  | l :: ls, c => (Crew.setPcs_acc a ls (c.setPc l a)).trans rfl
@[simp] theorem Crew.setPcs_exited (a : Nat) : ∀ (ls : List Nat) (c : Crew), (c.setPcs ls a).exited = c.exited
  | [], _ => rfl
  | l :: ls, c => (Crew.setPcs_exited a ls (c.setPc l a)).trans rfl
@[simp] theorem Crew.setPcs_wait (a : Nat) : ∀ (ls : List Nat) (c : Crew), (c.setPcs ls a).wait = c.wait
  | [], _ => rfl
  | l :: ls, c => (Crew.setPcs_wait a ls (c.setPc l a)).trans rfl
@[simp] theorem Crew.setPcs_pass (a : Nat) : ∀ (ls : List Nat) (c : Crew), (c.setPcs ls a).pass = c.pass
  | [], _ => rfl
  | l :: ls, c => (Crew.setPcs_pass a ls (c.setPc l a)).trans rfl
@[simp] theorem Crew.setPcs_aside (a : Nat) : ∀ (ls : List Nat) (c : Crew), (c.setPcs ls a).aside = c.aside
  | [], _ => rfl
  | l :: ls, c => (Crew.setPcs_aside a ls (c.setPc l a)).trans rfl
@[simp] theorem Crew.setPcs_ld (a : Nat) : ∀ (ls : List Nat) (c : Crew), (c.setPcs ls a).ld = c.ld
  | [], _ => rfl
  | l :: ls, c => (Crew.setPcs_ld a ls (c.setPc l a)).trans rfl
@[simp] theorem Crew.setPcs_st (a : Nat) : ∀ (ls : List Nat) (c : Crew), (c.setPcs ls a).st = c.st
  | [], _ => rfl
  | l :: ls, c => (Crew.setPcs_st a ls (c.setPc l a)).trans rfl
@[simp] theorem Crew.setPcs_cp (a : Nat) : ∀ (ls : List Nat) (c : Crew), (c.setPcs ls a).cp = c.cp
  | [], _ => rfl
  | l :: ls, c => (Crew.setPcs_cp a ls (c.setPc l a)).trans rfl
@[simp] theorem Crew.setPcs_tl (a : Nat) : ∀ (ls : List Nat) (c : Crew), (c.setPcs ls a).tl = c.tl
  | [], _ => rfl
  | l :: ls, c => (Crew.setPcs_tl a ls (c.setPc l a)).trans rfl
@[simp] theorem Crew.setPcs_partw (a : Nat) : ∀ (ls : List Nat) (c : Crew), (c.setPcs ls a).partw = c.partw
  | [], _ => rfl
  | l :: ls, c => (Crew.setPcs_partw a ls (c.setPc l a)).trans rfl
@[simp] theorem Crew.setPcs_parks (a : Nat) : ∀ (ls : List Nat) (c : Crew), (c.setPcs ls a).parks = c.parks
  | [], _ => rfl
  | l :: ls, c => (Crew.setPcs_parks a ls (c.setPc l a)).trans rfl
@[simp] theorem Crew.setPcs_hmode (a : Nat) : ∀ (ls : List Nat) (c : Crew), (c.setPcs ls a).hmode = c.hmode
  | [], _ => rfl
  | l :: ls, c => (Crew.setPcs_hmode a ls (c.setPc l a)).trans rfl
@[simp] theorem Crew.setPcs_tcause (a : Nat) : ∀ (ls : List Nat) (c : Crew), (c.setPcs ls a).tcause = c.tcause
  | [], _ => rfl
  | l :: ls, c => (Crew.setPcs_tcause a ls (c.setPc l a)).trans rfl
@[simp] theorem Crew.setPcs_tfirst (a : Nat) : ∀ (ls : List Nat) (c : Crew), (c.setPcs ls a).tfirst = c.tfirst
  | [], _ => rfl
  | l :: ls, c => (Crew.setPcs_tfirst a ls (c.setPc l a)).trans rfl
@[simp] theorem Crew.setPcs_tfaddr (a : Nat) : ∀ (ls : List Nat) (c : Crew), (c.setPcs ls a).tfaddr = c.tfaddr
  | [], _ => rfl
  | l :: ls, c => (Crew.setPcs_tfaddr a ls (c.setPc l a)).trans rfl
@[simp] theorem Crew.setPcs_latch (a : Nat) : ∀ (ls : List Nat) (c : Crew), (c.setPcs ls a).latch = c.latch
  | [], _ => rfl
  | l :: ls, c => (Crew.setPcs_latch a ls (c.setPc l a)).trans rfl
@[simp] theorem Crew.setPcs_log (a : Nat) : ∀ (ls : List Nat) (c : Crew), (c.setPcs ls a).log = c.log
  | [], _ => rfl
  | l :: ls, c => (Crew.setPcs_log a ls (c.setPc l a)).trans rfl
@[simp] theorem Crew.setPcs_qlog (a : Nat) : ∀ (ls : List Nat) (c : Crew), (c.setPcs ls a).qlog = c.qlog
  | [], _ => rfl
  | l :: ls, c => (Crew.setPcs_qlog a ls (c.setPc l a)).trans rfl
@[simp] theorem Crew.setPcs_stall (a : Nat) : ∀ (ls : List Nat) (c : Crew), (c.setPcs ls a).stall = c.stall
  | [], _ => rfl
  | l :: ls, c => (Crew.setPcs_stall a ls (c.setPc l a)).trans rfl
@[simp] theorem Crew.setPcs_hungry (a : Nat) : ∀ (ls : List Nat) (c : Crew), (c.setPcs ls a).hungry = c.hungry
  | [], _ => rfl
  | l :: ls, c => (Crew.setPcs_hungry a ls (c.setPc l a)).trans rfl
@[simp] theorem Crew.setPcs_age (a : Nat) : ∀ (ls : List Nat) (c : Crew), (c.setPcs ls a).age = c.age
  | [], _ => rfl
  | l :: ls, c => (Crew.setPcs_age a ls (c.setPc l a)).trans rfl
@[simp] theorem Crew.setPcs_ripe (a : Nat) : ∀ (ls : List Nat) (c : Crew), (c.setPcs ls a).ripe = c.ripe
  | [], _ => rfl
  | l :: ls, c => (Crew.setPcs_ripe a ls (c.setPc l a)).trans rfl
@[simp] theorem Crew.setPcs_readySince (a : Nat) : ∀ (ls : List Nat) (c : Crew), (c.setPcs ls a).readySince = c.readySince
  | [], _ => rfl
  | l :: ls, c => (Crew.setPcs_readySince a ls (c.setPc l a)).trans rfl
@[simp] theorem Crew.setPcs_yielded (a : Nat) : ∀ (ls : List Nat) (c : Crew), (c.setPcs ls a).yielded = c.yielded
  | [], _ => rfl
  | l :: ls, c => (Crew.setPcs_yielded a ls (c.setPc l a)).trans rfl
@[simp] theorem Crew.setPcs_quadrant (a : Nat) : ∀ (ls : List Nat) (c : Crew), (c.setPcs ls a).quadrant = c.quadrant
  | [], _ => rfl
  | l :: ls, c => (Crew.setPcs_quadrant a ls (c.setPc l a)).trans rfl
@[simp] theorem Crew.setPcs_waitCp (a : Nat) : ∀ (ls : List Nat) (c : Crew), (c.setPcs ls a).waitCp = c.waitCp
  | [], _ => rfl
  | l :: ls, c => (Crew.setPcs_waitCp a ls (c.setPc l a)).trans rfl
@[simp] theorem Crew.setPcs_collTraps (a : Nat) : ∀ (ls : List Nat) (c : Crew), (c.setPcs ls a).collTraps = c.collTraps
  | [], _ => rfl
  | l :: ls, c => (Crew.setPcs_collTraps a ls (c.setPc l a)).trans rfl
@[simp] theorem Crew.setPcs_unwatched (a : Nat) : ∀ (ls : List Nat) (c : Crew), (c.setPcs ls a).unwatched = c.unwatched
  | [], _ => rfl
  | l :: ls, c => (Crew.setPcs_unwatched a ls (c.setPc l a)).trans rfl
@[simp] theorem Crew.setPcs_pendBar (a : Nat) : ∀ (ls : List Nat) (c : Crew), (c.setPcs ls a).pendBar = c.pendBar
  | [], _ => rfl
  | l :: ls, c => (Crew.setPcs_pendBar a ls (c.setPc l a)).trans rfl

end Sys2Proof.Machine
end

