-- ==== Sys2Proof/Laws/Issue.lean ====
section
/-! SUPPORT. What issuing an instruction does, said once: every outcome of `issue` and of `settled`. -/
namespace Sys2Proof.Machine
open Sys2Proof

/-- An instruction that issues has its effect on the state in which it has begun. -/
theorem issue_of_issues {i : Instr} {s : State} {u : Issue} {g : Group} (h : Issues i s u g) (k : Ctx → Group → Crew → State → Res) :
    issue i s k = s.finish (issueCtx i u g) (k (issueCtx i u g) (begunGroup i u g) (begunCrew i u g) (begunState i s u g)) := by
  have hs := h.sound
  simp only [issue, h.cur, h.group, h.legal, h.ready, hs, issueCtx, begunCrew, begunGroup, begunState, Bool.false_eq_true, if_false]

/-- Every outcome of an issue: no issue group; a trap, a stall or a contained error before any effect; or the effect. -/
theorem issue_cases (i : Instr) (s : State) (k : Ctx → Group → Crew → State → Res) :
    issue i s k = .fault .noIssueGroup ∨ ∃ (u : Issue) (g : Group), s.cur = some u ∧ s.group? u.gid = some g ∧
      ((∃ d, illegalDetail i (issueCtx i u g) g (g.unit u.unit) = some d ∧
          issue i s k = .next (trapped i s u g 0x01 (lowest (issueCtx i u g).issued) d (issueCtx i u g).addr)) ∨
       (interlocked i (issueCtx i u g) g = true ∧ issue i s k = .next (s.noteStall (issueCtx i u g) .other)) ∨
       (s.upsets.contains s.free = true ∧ issue i s k = .next (s.contain (issueCtx i u g).gid 0x20)) ∨
       (illegalDetail i (issueCtx i u g) g (g.unit u.unit) = none ∧ interlocked i (issueCtx i u g) g = false ∧ s.upsets.contains s.free = false ∧
          issue i s k = s.finish (issueCtx i u g) (k (issueCtx i u g) (begunGroup i u g) (begunCrew i u g) (begunState i s u g)))) := by
  unfold issue
  cases hc : s.cur with
  | none => exact .inl rfl
  | some u =>
    dsimp only
    cases hg : s.group? u.gid with
    | none => exact .inl rfl
    | some g =>
      refine .inr ⟨u, g, rfl, hg, ?_⟩
      cases hd : illegalDetail i (issueCtx i u g) g (g.unit u.unit) with
      | some d => exact .inl ⟨d, rfl, by simp only [issueCtx] at hd; simp only [hd]; rfl⟩
      | none =>
        cases hi : interlocked i (issueCtx i u g) g with
        | true => exact .inr (.inl ⟨rfl, by simp only [issueCtx] at hd hi; simp only [hd, hi]; rfl⟩)
        | false =>
          cases hu : s.upsets.contains s.free with
          | true => exact .inr (.inr (.inl ⟨rfl, by simp only [issueCtx] at hd hi; simp only [hd, hi]; rfl⟩))
          | false => exact .inr (.inr (.inr ⟨rfl, rfl, rfl, by simp only [issueCtx] at hd hi; simp only [hd, hi]; rfl⟩))

/-- An instruction never answers a refusal. -/
theorem State.finish_next (s : State) (x : Ctx) (r : Res) : ∃ t : State, s.finish x r = .next t := by
  cases r <;> exact ⟨_, rfl⟩

/-- Where an instruction issues it completes: some next state follows. -/
theorem issue_next {i : Instr} {s : State} {u : Issue} {g : Group} (h : Issues i s u g) (k : Ctx → Group → Crew → State → Res) :
    ∃ t : State, issue i s k = .next t := by rw [issue_of_issues h]; exact s.finish_next _ _

/-- An instruction whose whole effect is on its unit leaves that unit and nothing else changed. -/
theorem issueCrew_of_issues {i : Instr} {s : State} {u : Issue} {g : Group} (h : Issues i s u g) (f : Ctx → Crew → Crew) :
    issueCrew i s f = .next (leaves i s u g (f (issueCtx i u g) (begunCrew i u g))) := by
  rw [issueCrew, issue_of_issues h]; rfl

theorem issueD_of_issues {i : Instr} {s : State} {u : Issue} {g : Group} (h : Issues i s u g) (f : Ctx → Crew → Nat → Nat) :
    issueD i s f = .next (leaves i s u g ((issueCtx i u g).eachD (begunCrew i u g) (f (issueCtx i u g) (begunCrew i u g)))) :=
  issueCrew_of_issues h _

/-- The memory and its keys of the state in which an instruction has begun, and after an effect on its unit alone. -/
@[simp] theorem begunState_mem (i : Instr) (s : State) (u : Issue) (g : Group) : (begunState i s u g).mem = s.mem := rfl
@[simp] theorem begunState_memKey (i : Instr) (s : State) (u : Issue) (g : Group) : (begunState i s u g).memKey = s.memKey := rfl
@[simp] theorem leaves_byteAt (i : Instr) (s : State) (u : Issue) (g : Group) (c : Crew) (a : Nat) :
    (leaves i s u g c).byteAt a = s.byteAt a := rfl

/-- Settling changes a next state only. -/
theorem settled_next {s t : State} {u : Issue} (h : s.cur = some u) : settled s (.next t) = .next (t.settleAt u.gid u.addr) := by
  simp only [settled, h]
theorem settled_fault (s : State) (f : Fault) : settled s (.fault f) = .fault f := rfl

end Sys2Proof.Machine
end

