-- ==== Sys2Proof/Laws/Memory.lean ====
section
/-! SUPPORT. Memory: every operation over it keeps its canonical form, and a byte written reads back and leaves every other byte alone. -/
namespace Sys2Proof.Machine
open Sys2Proof

/-! ### One byte and a run of bytes -/

theorem State.memWf_putByte (s : State) (a : Nat) (x : Byte) (h : s.memWf = true) : (s.putByte a x).memWf = true :=
  nwf_nset _ s.mem a x h

theorem State.byteAt_putByte (s : State) (a b : Nat) (x : Byte) :
    (s.putByte a x).byteAt b = if b = a then x else s.byteAt b := nget_nset _ s.mem a b x

@[simp] theorem State.putBytes_memKey : ∀ (bs : List Byte) (s : State) (a : Nat), (s.putBytes a bs).memKey = s.memKey
  | [], _, _ => rfl
  | x :: xs, s, a => State.putBytes_memKey xs (s.putByte a x) (a + 1)

theorem State.memWf_putBytes : ∀ (bs : List Byte) (s : State) (a : Nat), s.memWf = true → (s.putBytes a bs).memWf = true
  | [], _, _, h => h
  | x :: xs, s, a, h => State.memWf_putBytes xs (s.putByte a x) (a + 1) (s.memWf_putByte a x h)

/-- A byte outside the run reads as before. -/
theorem State.byteAt_putBytes_outside : ∀ (bs : List Byte) (s : State) (a b : Nat), (b < a ∨ a + bs.length ≤ b) →
    (s.putBytes a bs).byteAt b = s.byteAt b
  | [], _, _, _, _ => rfl
  | x :: xs, s, a, b, h => by
    simp only [List.length_cons] at h
    show ((s.putByte a x).putBytes (a + 1) xs).byteAt b = _
    rw [State.byteAt_putBytes_outside xs _ _ b (by omega), State.byteAt_putByte, if_neg (by omega)]

/-- A byte of the run reads as it was written. -/
theorem State.byteAt_putBytes : ∀ (bs : List Byte) (s : State) (a k : Nat) (hk : k < bs.length),
    (s.putBytes a bs).byteAt (a + k) = bs[k]
  | x :: xs, s, a, 0, _ => by
    show ((s.putByte a x).putBytes (a + 1) xs).byteAt a = _
    rw [State.byteAt_putBytes_outside xs _ _ a (by omega), State.byteAt_putByte, if_pos rfl]; rfl
  | x :: xs, s, a, k + 1, hk => by
    show ((s.putByte a x).putBytes (a + 1) xs).byteAt (a + (k + 1)) = _
    rw [show a + (k + 1) = a + 1 + k by omega, State.byteAt_putBytes xs _ _ k (by simpa using hk)]; rfl

/-- A run written reads back. -/
theorem State.bytesAt_putBytes (bs : List Byte) : ∀ (s : State) (a : Nat), (s.putBytes a bs).bytesAt a bs.length = bs := by
  have h : ∀ (l : List Byte) (t : State) (a : Nat), (∀ k (hk : k < l.length), t.byteAt (a + k) = l[k]) → t.bytesAt a l.length = l := by
    intro l
    induction l with
    | nil => intros; rfl
    | cons x xs ih =>
      intro t a hl
      have h0 := hl 0 (by simp)
      show t.byteAt a :: t.bytesAt (a + 1) xs.length = _
      rw [ih t (a + 1) (fun k hk => by have := hl (k + 1) (by simpa using hk); simpa [Nat.add_assoc, Nat.add_comm 1 k] using this)]
      simpa using h0
  exact fun s a => h bs _ a (fun k hk => State.byteAt_putBytes bs s a k hk)

/-! ### What writes no memory -/

/-- Memory and its keys are the same. -/
def SameMem (s t : State) : Prop := t.mem = s.mem ∧ t.memKey = s.memKey

theorem SameMem.refl (s : State) : SameMem s s := ⟨rfl, rfl⟩
theorem SameMem.trans {s t u : State} (h : SameMem s t) (k : SameMem t u) : SameMem s u := ⟨k.1.trans h.1, k.2.trans h.2⟩
theorem SameMem.byteAt {s t : State} (h : SameMem s t) (a : Nat) : t.byteAt a = s.byteAt a := by
  simp only [State.byteAt, h.1, h.2]
theorem SameMem.memWf {s t : State} (h : SameMem s t) (w : s.memWf = true) : t.memWf = true := by
  simpa only [State.memWf, h.1, h.2] using w
theorem SameMem.foldl {α : Type} {f : State → α → State} (h : ∀ s x, SameMem s (f s x)) : ∀ (l : List α) (s : State), SameMem s (l.foldl f s)
  | [], s => .refl s
  | x :: l, s => (h s x).trans (SameMem.foldl h l (f s x))

theorem State.sameMem_setCore (s : State) (c : Nat) (x : Core) : SameMem s (s.setCore c x) := ⟨rfl, rfl⟩
theorem State.sameMem_setGroup (s : State) (g : Group) : SameMem s (s.setGroup g) := ⟨rfl, rfl⟩

theorem State.sameMem_addSharer (s : State) (key c : Nat) : SameMem s (s.addSharer key c) := ⟨rfl, rfl⟩
theorem State.sameMem_setListed (s : State) (key : Nat) (l : List Listed) : SameMem s (s.setListed key l) := ⟨rfl, rfl⟩
theorem State.sameMem_l1Use (s : State) (c line : Nat) (l : L1Line) : SameMem s (s.l1Use c line l) := ⟨rfl, rfl⟩

theorem State.sameMem_l2Touch (s : State) (v : View) (line m : Nat) : SameMem s (s.l2Touch v line m) := by
  unfold State.l2Touch
  dsimp only
  repeat' split
  all_goals exact ⟨rfl, rfl⟩

theorem State.sameMem_invalidateSharers (s : State) (key : Nat) (w : Option Nat) : SameMem s (s.invalidateSharers key w) := by
  have h := SameMem.foldl (f := fun (t : State) c => t.setCore c ((t.core c).dropLine (keyLine key) true)) (fun t c => t.sameMem_setCore c _)
    ((s.sharers key).cores.filter (fun c => decide (some c ≠ w))) s
  exact ⟨h.1, h.2⟩

theorem State.sameMem_updateCopy (s : State) (c line o : Nat) (bs : List Byte) : SameMem s (s.updateCopy c line o bs) := by
  unfold State.updateCopy; split
  · exact .refl s
  · exact s.sameMem_setCore _ _

/-! ### Writes at the home -/

/-- The same memory, and the same run of bytes written over it. -/
theorem SameMem.putBytes : ∀ (bs : List Byte) {s t : State} (a : Nat), SameMem s t → SameMem (s.putBytes a bs) (t.putBytes a bs)
  | [], _, _, _, h => h
  | _ :: xs, _, _, a, h => SameMem.putBytes xs (a + 1) ⟨by simp only [State.putByte, h.1, h.2], h.2⟩

/-- A write at the home is a write of its bytes at their storage address, and nothing else that is seen in memory. -/
theorem State.sameMem_homeWrite (s : State) (v : View) (a : Nat) (bs : List Byte) (w : Option Nat) (co : Bool) :
    SameMem (s.putBytes (storage v a) bs) (s.homeWrite v a bs w co) := by
  have last : ∀ u : State, SameMem (s.putBytes (storage v a) bs) u → SameMem (s.putBytes (storage v a) bs)
      (match w with
        | some c => u.updateCopy c (a / 192) (a % 192) bs
        | none => u) := by
    intro u h
    cases w with
    | none => exact h
    | some c => exact h.trans (u.sameMem_updateCopy c _ _ _)
  have h1 : SameMem s (if co then s.invalidateSharers (homeKey v (a / 192)) w else s) := by
    split
    · exact s.sameMem_invalidateSharers _ _
    · exact .refl s
  have h2 := SameMem.putBytes bs (storage v a) h1
  refine last _ (SameMem.trans ?_ (State.sameMem_l2Touch _ v _ _))
  exact ⟨h2.1, h2.2⟩

theorem State.memWf_homeWrite (s : State) (v : View) (a : Nat) (bs : List Byte) (w : Option Nat) (co : Bool) (h : s.memWf = true) :
    (s.homeWrite v a bs w co).memWf = true :=
  (s.sameMem_homeWrite v a bs w co).memWf (State.memWf_putBytes bs s _ h)

theorem State.byteAt_homeWrite_outside (s : State) (v : View) (a b : Nat) (bs : List Byte) (w : Option Nat) (co : Bool)
    (h : b < storage v a ∨ storage v a + bs.length ≤ b) : (s.homeWrite v a bs w co).byteAt b = s.byteAt b := by
  rw [(s.sameMem_homeWrite v a bs w co).byteAt, State.byteAt_putBytes_outside bs s _ b h]

theorem State.byteAt_homeWrite (s : State) (v : View) (a k : Nat) (bs : List Byte) (w : Option Nat) (co : Bool) (h : k < bs.length) :
    (s.homeWrite v a bs w co).byteAt (storage v a + k) = bs[k] := by
  rw [(s.sameMem_homeWrite v a bs w co).byteAt, State.byteAt_putBytes bs s _ k h]

/-- A request performed at its home keeps the form of memory. -/
theorem State.memWf_performAt (s : State) (v : View) (r : HomeReq) (h : s.memWf = true) : (s.performAt v r).1.memWf = true := by
  have h0 := (s.sameMem_l2Touch v (lineOf r) 0).memWf h
  unfold State.performAt
  dsimp only
  split
  · split
    · exact SameMem.memWf (s := s.homeWrite v r.addr r.data r.core r.coherent) ⟨rfl, rfl⟩ (s.memWf_homeWrite v _ _ _ _ h)
    · exact s.memWf_homeWrite v _ _ _ _ h
  · split
    · exact h0
    · split
      · dsimp only
        split
        · split
          · exact (State.sameMem_addSharer _ _ _).memWf h0
          · exact h0
        · exact h0
      · dsimp only
        split
        · exact s.memWf_homeWrite v _ _ _ _ h
        · exact h0

theorem State.memWf_performListed (v : View) : ∀ (l : List Listed) (s : State), s.memWf = true → (s.performListed v l).1.memWf = true
  | [], _, h => h
  | x :: l, s, h => by
    unfold State.performListed
    split
    · exact State.memWf_performListed v l s h
    · exact State.memWf_performListed v l _ (s.memWf_performAt v x.req h)

/-- What is listed at a line, and what waits to be, is performed; the form of memory stays. -/
theorem State.memWf_catchUp (s : State) (v : View) (line : Nat) (h : s.memWf = true) : (s.catchUp v line).memWf = true := by
  unfold State.catchUp
  dsimp only
  split
  · exact h
  · have k := State.memWf_performListed v (s.listedAt (homeKey v line) ++ (s.waitingAt v line).map (fun r => { req := r, acks := [] }))
      (s.takeWaiting v line) (SameMem.memWf (s := s) ⟨rfl, rfl⟩ h)
    split
    all_goals exact SameMem.memWf ⟨rfl, rfl⟩ k

/-- At a line with nothing listed and nothing waiting an access finds nothing to wait for. -/
theorem State.catchUp_nothing (s : State) (v : View) (line : Nat) (h : s.listedAt (homeKey v line) = []) (hw : s.waitingAt v line = []) :
    s.catchUp v line = s := by
  unfold State.catchUp; simp only [h, hw]

theorem State.memWf_homePut (s : State) (v : View) (a : Nat) (bs : List Byte) (w : Option Nat) (co : Bool) (h : s.memWf = true) :
    (s.homePut v a bs w co).memWf = true := State.memWf_homeWrite _ v a bs w co (s.memWf_catchUp v _ h)

theorem foldl_memWf {α : Type} {f : State → α → State} (h : ∀ (s : State) x, s.memWf = true → (f s x).memWf = true) :
    ∀ (l : List α) (s : State), s.memWf = true → (l.foldl f s).memWf = true
  | [], _, w => w
  | x :: l, s, w => foldl_memWf h l (f s x) (h s x w)

/-! ### The L1 cache -/

theorem State.memWf_writeBackLine (s : State) (v : View) (c line : Nat) (w : s.memWf = true) : (s.writeBackLine v c line).memWf = true := by
  unfold State.writeBackLine
  split
  · exact w
  · next l _ =>
    split
    · exact w
    · have k := foldl_memWf (f := fun (t : State) (x : Nat × List Byte) => t.homeWrite v (line * 192 + x.1) x.2 none false)
        (fun s x h => s.memWf_homeWrite v _ _ none false h) (byteRuns l.dirtyBytes) _ (s.memWf_catchUp v line w)
      exact SameMem.memWf ⟨rfl, rfl⟩ k

theorem State.memWf_evictLine (s : State) (v : View) (c line : Nat) (w : s.memWf = true) : (s.evictLine v c line).memWf = true :=
  (State.sameMem_setCore _ _ _).memWf (s.memWf_writeBackLine v c line w)

theorem State.memWf_l1Place (s : State) (v : View) (c line : Nat) (tr : Bool) (w : s.memWf = true) : (s.l1Place v c line tr).memWf = true := by
  unfold State.l1Place
  split
  · exact w
  · dsimp only
    split
    · exact w
    · refine (State.sameMem_setCore _ _ _).memWf ?_
      repeat' split
      all_goals first
        | exact w
        | exact s.memWf_evictLine v c _ w

theorem State.memWf_l1Fill {s t : State} {v : View} {c line o n : Nat} (h : s.l1Fill v c line o n = some t) (w : s.memWf = true) : t.memWf = true := by
  simp only [State.l1Fill] at h
  split at h
  · cases h; exact w
  · split at h
    · cases h; exact w
    · split at h
      · cases h
      · cases h
        exact (State.sameMem_setCore _ _ _).memWf ((State.sameMem_l2Touch _ v line 0).memWf (s.memWf_catchUp v line w))

theorem State.memWf_l1Store (s : State) (v : View) (c a : Nat) (x : Byte) (w : s.memWf = true) : (s.l1Store v c a x).memWf = true := by
  have h := s.memWf_l1Place v c (a / 192) false w
  unfold State.l1Store
  dsimp only
  split
  · exact State.memWf_homePut _ v _ _ _ _ h
  · split
    · exact SameMem.memWf (t := { (State.setCore _ _ _) with due := _ }) ⟨rfl, rfl⟩ h
    · exact (State.sameMem_setCore _ _ _).memWf h

theorem State.memWf_coreReadUnit {s t : State} {v : View} {c a n : Nat} {p : Policy} {xs : List Byte}
    (h : s.coreReadUnit v c p a n = some (t, xs)) (w : s.memWf = true) : t.memWf = true := by
  cases p <;> simp only [State.coreReadUnit] at h
  case home =>
    simp only [Option.map_eq_some_iff] at h
    obtain ⟨_, _, h⟩ := h
    cases h
    exact (State.sameMem_l2Touch _ v _ 0).memWf (s.memWf_catchUp v _ w)
  all_goals
    split at h
    · cases h
    · next s2 hf =>
      have k : s2.memWf = true := by
        refine State.memWf_l1Fill hf (State.memWf_l1Place _ _ _ _ _ ?_)
        first
          | exact w
          | (split
             · split
               · exact w
               · exact s.memWf_evictLine v c _ w
             · exact w)
      split at h
      · split at h
        · simp at h
        · simp only [Option.some.injEq, Prod.mk.injEq] at h
          rw [← h.1]
          refine SameMem.memWf (s := s2) ?_ k
          split <;> exact ⟨rfl, rfl⟩
      · simp only [Option.map_eq_some_iff, Prod.mk.injEq] at h
        obtain ⟨_, _, h, _⟩ := h
        rw [← h]
        refine SameMem.memWf (s := s2) ?_ k
        split <;> exact ⟨rfl, rfl⟩

theorem State.memWf_coreReadRuns {v : View} {c : Nat} {p : Policy} : ∀ {rs : List (Nat × Nat)} {s t : State} {xs : List Byte},
    s.coreReadRuns v c p rs = some (t, xs) → s.memWf = true → t.memWf = true
  | [], _, _, _, h, w => by simp only [State.coreReadRuns, Option.some.injEq, Prod.mk.injEq] at h; exact h.1 ▸ w
  | (a, n) :: rs, s, t, xs, h, w => by
    simp only [State.coreReadRuns] at h
    split at h
    · cases h
    · next h1 =>
      split at h
      · cases h
      · next h2 => cases h; exact State.memWf_coreReadRuns h2 (State.memWf_coreReadUnit h1 w)

theorem State.memWf_coreRead {v : View} {c : Nat} {p : Policy} {as : List Nat} {s t : State} {xs : List Byte}
    (h : s.coreRead v c p as = some (t, xs)) (w : s.memWf = true) : t.memWf = true := State.memWf_coreReadRuns h w

theorem State.sameMem_l1Clear (s : State) (c a n : Nat) : SameMem s (s.l1Clear c a n) := by
  unfold State.l1Clear
  split
  · exact .refl s
  · split
    · exact .refl s
    · exact s.sameMem_setCore _ _

theorem State.memWf_coreWrite (s : State) (v : View) (c : Nat) (p : Policy) (share a : Nat) (bs : List Byte) (w : s.memWf = true) :
    (s.coreWrite v c p share a bs).memWf = true := by
  cases p
  case untracked => exact foldl_memWf (fun s x h => s.memWf_l1Store v c _ _ h) _ _ ((s.sameMem_l1Clear c a _).memWf w)
  all_goals exact s.memWf_homePut v a bs _ _ w

/-! ### Reset and scrubbing -/

/-- The memory of the reset state is in canonical form, and lists nothing. -/
theorem State.memWf_reset : State.reset.memWf = true := rfl

/-- Taking out every entry of some dies and changing what unlisted bytes of those dies read as keeps the canonical form. -/
theorem nwfFrom_filter (d e : Nat → Byte) (p : Nat → Bool) (h : ∀ k, p k = true → e k = d k) : ∀ (m : NMap Byte) (lo : Nat),
    nwfFrom d lo m = true → nwfFrom e lo (m.filter (fun y => p y.1)) = true
  | [], _, _ => rfl
  | (k, x) :: m, lo, w => by
    simp only [nwfFrom, Bool.and_eq_true, decide_eq_true_eq, Bool.not_eq_true', decide_eq_false_iff_not] at w
    have ih := nwfFrom_filter d e p h m (k + 1) w.2
    by_cases hp : p k = true
    · simp only [List.filter_cons, hp, if_true, nwfFrom, Bool.and_eq_true, decide_eq_true_eq, Bool.not_eq_true', decide_eq_false_iff_not]
      exact ⟨⟨w.1.1, by rw [h k hp]; exact w.1.2⟩, ih⟩
    · simp only [List.filter_cons, hp]
      exact nwfFrom_mono e (by omega) _ ih

/-- A die that is not in the list keeps its memory key. -/
theorem bumped_key (d : Nat) : ∀ (l : List Nat) (m : NMap Nat), d ∉ l →
    nget (fun _ => 0) (l.foldl (fun (m : NMap Nat) d => nset (fun _ => 0) m d (nget (fun _ => 0) m d + 1)) m) d = nget (fun _ => 0) m d
  | [], _, _ => rfl
  | x :: l, m, h => by
    simp only [List.mem_cons, not_or] at h
    rw [List.foldl_cons, bumped_key d l _ h.2, nget_nset_ne _ _ _ h.1]

theorem State.memWf_flushL1 (s : State) (v : View) (cs : List Nat) (w : s.memWf = true) : (s.flushL1 v cs).memWf = true :=
  foldl_memWf (fun s c h => foldl_memWf (fun s x k => s.memWf_writeBackLine v c x.1 k) _ s h) cs s w

/-- Step 5 of a partition reset, scrubbing or not. -/
theorem State.memWf_cutCaches (s : State) (x : Part) (scrub : Bool) (w : s.memWf = true) : (s.cutCaches x scrub).memWf = true := by
  let v := s.view x.id
  let f := fun (t : State) (c : Nat) => if (t.core c).l1.isEmpty ∧ (t.core c).plru.isEmpty then t else t.setCore c { t.core c with l1 := [], plru := [] }
  have hf : ∀ t c, SameMem t (f t c) := by
    intro t c; dsimp only [f]; split
    · exact .refl t
    · exact t.sameMem_setCore c _
  cases scrub with
  | false => exact SameMem.memWf (s := v.cores.foldl f (s.flushL1 v v.cores)) ⟨rfl, rfl⟩ ((SameMem.foldl hf _ _).memWf (s.memWf_flushL1 v _ w))
  | true =>
    have h := (SameMem.foldl hf v.cores s).memWf w
    refine nwfFrom_filter (memByte0 (v.cores.foldl f s).memKey) _ (fun a => !x.dies.contains (dieOfStorage a)) (fun a ha => ?_) _ 0 h
    have hn : dieOfStorage a ∉ x.dies := by simpa using ha
    simp only [memByte0]
    rw [show nget (fun _ => 0) (s.cutCaches x true).memKey (dieOfStorage a) = nget (fun _ => 0) (v.cores.foldl f s).memKey (dieOfStorage a) from
      bumped_key _ x.dies _ hn]

end Sys2Proof.Machine
end

