-- ==== Sys2Proof/Laws/Registers.lean ====
section
/-! SUPPORT. Reading back what was put into a group or a crew: registers, predicates, program counters, waits, units, groups. -/
namespace Sys2Proof.Machine
open Sys2Proof

/-! ### Registers of a crew (R22, R23) -/

theorem Crew.vget_vset (c : Crew) (k l j m : Nat) (x : Word) (hl : l < 32) (hm : m < 32) :
    (c.vset k l x).vget j m = if j = k ∧ m = l ∧ k ≠ 255 then x else c.vget j m := by
  unfold Crew.vset Crew.vget wget wset
  by_cases hk : k = 255
  · simp [hk]
  · by_cases hj : j = 255
    · have hjk : ¬ (j = k ∧ m = l ∧ k ≠ 255) := fun h => hk (h.1 ▸ hj)
      simp [hj, Ne.symm (fun h : k = 255 => hk h)]
    · simp only [hk, hj, if_false, nget_nset]
      by_cases h : j = k ∧ m = l
      · obtain ⟨rfl, rfl⟩ := h; simp [hk]
      · have : 32 * j + m ≠ 32 * k + l := by omega
        simp [this, hk, h]

theorem Crew.sget_sset (c : Crew) (k j : Nat) (x : Word) :
    (c.sset k x).sget j = if j = k ∧ k ≠ 63 then x else c.sget j := by
  unfold Crew.sset Crew.sget wget wset
  by_cases hk : k = 63 <;> by_cases hj : j = 63 <;> by_cases h : j = k <;> simp_all [nget_nset]

theorem Crew.pget_psetAll (c : Crew) (k j : Nat) (x : Word) :
    (c.psetAll k x).pget j = if j = k ∧ k ≠ 15 then x else c.pget j := by
  unfold Crew.psetAll Crew.pget wget wset
  by_cases hk : k = 15 <;> by_cases hj : j = 15 <;> by_cases h : j = k <;> simp_all [nget_nset]

/-- `v255`, `s63` and `p15` read as constants in every crew. -/
@[simp] theorem Crew.vget_255 (c : Crew) (l : Nat) : c.vget 255 l = 0 := rfl
@[simp] theorem Crew.sget_63 (c : Crew) : c.sget 63 = 0 := rfl
@[simp] theorem Crew.pget_15 (c : Crew) : c.pget 15 = BitVec.allOnes 32 := rfl

@[simp] theorem Crew.sget_vset (c : Crew) (k l j : Nat) (x : Word) : (c.vset k l x).sget j = c.sget j := by simp [Crew.sget]
@[simp] theorem Crew.pget_vset (c : Crew) (k l j : Nat) (x : Word) : (c.vset k l x).pget j = c.pget j := by simp [Crew.pget]
@[simp] theorem Crew.vget_sset (c : Crew) (k j m : Nat) (x : Word) : (c.sset k x).vget j m = c.vget j m := by simp [Crew.vget]
@[simp] theorem Crew.pget_sset (c : Crew) (k j : Nat) (x : Word) : (c.sset k x).pget j = c.pget j := by simp [Crew.pget]
@[simp] theorem Crew.vget_psetAll (c : Crew) (k j m : Nat) (x : Word) : (c.psetAll k x).vget j m = c.vget j m := by
  simp [Crew.vget]
@[simp] theorem Crew.sget_psetAll (c : Crew) (k j : Nat) (x : Word) : (c.psetAll k x).sget j = c.sget j := by simp [Crew.sget]
@[simp] theorem Crew.vget_setPc (c : Crew) (l a j m : Nat) : (c.setPc l a).vget j m = c.vget j m := rfl
@[simp] theorem Crew.sget_setPc (c : Crew) (l a j : Nat) : (c.setPc l a).sget j = c.sget j := rfl
@[simp] theorem Crew.pget_setPc (c : Crew) (l a j : Nat) : (c.setPc l a).pget j = c.pget j := rfl
@[simp] theorem Crew.vget_setPcs (c : Crew) (ls : List Nat) (a j m : Nat) : (c.setPcs ls a).vget j m = c.vget j m := by
  simp [Crew.vget]
@[simp] theorem Crew.sget_setPcs (c : Crew) (ls : List Nat) (a j : Nat) : (c.setPcs ls a).sget j = c.sget j := by simp [Crew.sget]
@[simp] theorem Crew.pget_setPcs (c : Crew) (ls : List Nat) (a j : Nat) : (c.setPcs ls a).pget j = c.pget j := by simp [Crew.pget]

/-! ### Program counters and waits (R18) -/

theorem Crew.pcOf_setPc (c : Crew) (l a m : Nat) : (c.setPc l a).pcOf m = if m = l then a % 2 ^ 57 else c.pcOf m := by
  simp [Crew.setPc, Crew.pcOf, nget_nset]

theorem Crew.pcOf_setPcs (a m : Nat) : ∀ (ls : List Nat) (c : Crew),
    (c.setPcs ls a).pcOf m = if m ∈ ls then a % 2 ^ 57 else c.pcOf m
  | [], c => by simp [Crew.setPcs]
  | l :: ls, c => by
    have h := Crew.pcOf_setPcs a m ls (c.setPc l a)
    rw [Crew.pcOf_setPc] at h
    show ((c.setPc l a).setPcs ls a).pcOf m = _
    rw [h]
    by_cases h1 : m ∈ ls <;> by_cases h2 : m = l <;> simp [h1, h2]

theorem Crew.waitOf_setWait (c : Crew) (l m : Nat) (w : LaneWait) :
    (c.setWait l w).waitOf m = if m = l then w else c.waitOf m := by
  simp [Crew.setWait, Crew.waitOf, nget_nset]

/-! ### The crew that an issue leaves: its registers are those before -/

@[simp] theorem Ctx.advance_vget (x : Ctx) (c : Crew) (k l : Nat) : (x.advance c).vget k l = c.vget k l :=
  Crew.vget_setPcs c (lanesOf x.issued) (x.addr + x.ilen) k l
@[simp] theorem Ctx.advance_sget (x : Ctx) (c : Crew) (k : Nat) : (x.advance c).sget k = c.sget k :=
  Crew.sget_setPcs c (lanesOf x.issued) (x.addr + x.ilen) k
@[simp] theorem Ctx.advance_pget (x : Ctx) (c : Crew) (k : Nat) : (x.advance c).pget k = c.pget k :=
  Crew.pget_setPcs c (lanesOf x.issued) (x.addr + x.ilen) k

/-- After an issue the lanes issued stand after the instruction, the others where they stood (R18). -/
theorem Ctx.advance_pcOf (x : Ctx) (c : Crew) (l : Nat) :
    (x.advance c).pcOf l = if l ∈ lanesOf x.issued then (x.addr + x.ilen) % 2 ^ 57 else c.pcOf l :=
  Crew.pcOf_setPcs (x.addr + x.ilen) l (lanesOf x.issued) c

/-! ### Units of a group and groups of the state -/

/-- Of the units that exist, exactly the one put back differs. -/
theorem Group.unit_setUnit (g : Group) (u w : Nat) (c : Crew) (h : g.hasUnit w = true) :
    (g.setUnit u c).unit w = if w = u then c else g.unit w := by
  unfold Group.setUnit Group.unit
  simp only [Group.hasUnit, Bool.or_eq_true, decide_eq_true_eq] at h
  by_cases hu : u = 32
  · by_cases hw : w = 32
    · simp [hu, hw]
    · have hl : ∀ (l : List Crew) (i : Nat) (d e : Crew), i < l.length → lget d l i = lget e l i := by
        intro l
        induction l with
        | nil => intro i d e hi; simp at hi
        | cons y l ih => intro i d e hi; cases i with
          | zero => rfl
          | succ i => exact ih i d e (by simpa using hi)
      have hw' : w < g.crews.length := by omega
      simp [hu, hw, hl g.crews w c g.slice hw']
  · by_cases hw : w = 32
    · have : ¬ (w = u) := fun h => hu (h ▸ hw)
      simp [hu, hw, Ne.symm (fun h : u = 32 => hu h)]
    · have hw' : w < g.crews.length := by omega
      by_cases h : w = u
      · subst h; simp [hu, lget_lset, hw']
      · simp [hu, hw, h, lget_lset]

@[simp] theorem Group.hasUnit_setUnit (g : Group) (u w : Nat) (c : Crew) : (g.setUnit u c).hasUnit w = g.hasUnit w := by
  unfold Group.setUnit Group.hasUnit; split <;> simp

theorem State.group?_setGroup (s : State) (g : Group) (n : Nat) :
    (s.setGroup g).group? n = if n = g.id then (s.group? n).map (fun _ => g) else s.group? n := by
  unfold State.setGroup State.group?
  induction s.groups with
  | nil => simp
  | cons y l ih =>
    by_cases hy : y.id = g.id
    · by_cases hn : n = g.id
      · subst hn; simp [hy]
      · have : ¬ g.id = n := fun h => hn h.symm
        have hy' : ¬ y.id = n := fun h => hn (h ▸ hy)
        simp only [List.map_cons, hy, if_true, List.find?_cons, this, decide_false, hn, if_false] at ih ⊢
        simpa [hy, this] using ih
    · by_cases hyn : y.id = n
      · have hn : ¬ n = g.id := fun h => hy (hyn.trans h)
        simp [hyn, hn]
      · simpa [List.map_cons, hy, List.find?_cons, hyn] using ih

/-- A group put back where one of its number stands is read back. -/
theorem State.group?_setGroup_self (s : State) (g h : Group) (hg : s.group? g.id = some h) :
    (s.setGroup g).group? g.id = some g := by simp [State.group?_setGroup, hg]

theorem State.group?_id {s : State} {n : Nat} {g : Group} (h : s.group? n = some g) : g.id = n := by
  simpa [State.group?] using List.find?_some h

end Sys2Proof.Machine
end

