-- ==== Sys2Proof/Tests/Slice0.lean ====
section
/-! SUPPORT. Tests: ill-formed instructions that the check refuses, words written out from the spec's encodings, a few results worked
out from the spec, and for each statement a state and operands that meet its hypotheses. -/
namespace Sys2Proof.Tests
/- One theorem after the other: side by side, the evaluations hold many threads and their stacks at once. -/
set_option Elab.async false
open Sys2Proof Sys2Proof.Machine

/-! ### The words of the encoding (spec 03, Tables 03-1, 03-2, 03-3, 03-6, 03-9): the fields from the highest bit down

Word 0: AU, A, D, GN, GP, OPC, LEN; word 1: SUB, TYP, SAT, FZO, FZI, RND, CU, BU, C, B. The words in hexadecimal are the spec's own
(R93, R98, R102, R106, R148, R190). -/

def reads (a b c : Nat) (i : Instr) : Bool := match decodeWords a b c with
  | .ok j => decide (j = i)
  | .error _ => false
theorem test_decode_control : (
    reads 0xFFFB3C08 0 0 (.bra 15 false 0x1FFF6) &&
    reads 0b00000000000000000100110000000100 0 0 (.nop ⟨3, true, 0, 0, false⟩) &&
    reads 0b00000000000000100000100000001110 0b00000000000000000000000000000000 0xfffffff0 (.bral ⟨2, false, 4, 0, false⟩ ⟨0, 0, false, false, 0, false, false, false, 0, 0⟩ 0xfffffff0) &&
    reads 0b10000011000000000011110000010000 0 0 (.jmpi ⟨15, false, 0, 6, true⟩) &&
    reads 0b00000000000000000000000000011000 0 0 (.exit ⟨0, false, 0, 0, false⟩) &&
    reads 0b00000000000001001011110000011110 0b00000000000000000000000000000000 0xffffff00 (.dbnz ⟨15, false, 9, 0, false⟩ ⟨0, 0, false, false, 0, false, false, false, 0, 0⟩ 0xffffff00) &&
    reads 0b00000100100000101011110000100010 0b00010000000000000000000000000000 0x10 (.brq ⟨15, false, 5, 9, false⟩ ⟨0, 0, false, false, 0, false, false, false, 0, 1⟩ 16) &&
    reads 0b00000000000000000011110000101010 0b00000000000000000000000000000000 0x3e8 (.sleepc12 ⟨15, false, 0, 0, false⟩ ⟨0, 0, false, false, 0, false, false, false, 0, 0⟩ 0x3e8)) = true := by decide +kernel
theorem test_decode_integer : (
    reads 0x02050C82 0x03000000 0x000003E8 (.iadd12 ⟨3, false, 10, 4, false⟩ ⟨0, 0, false, false, 0, false, false, false, 6, 0⟩ 1000) &&
    reads 0b01111111100000111011110010010000 0 0 (.ineg ⟨15, false, 7, 255, false⟩) &&
    reads 0b10000001000001000011110010011101 0b00000011000000100000011000000101 0 (.imad ⟨15, false, 8, 2, true⟩ ⟨5, 6, false, true, 0, false, false, false, 6, 0⟩) &&
    reads 0b00000001000000110011110011010110 0b00000010100000000000100000000100 0xe8 (.lut3 ⟨15, false, 6, 2, false⟩ ⟨4, 8, false, false, 0, false, false, false, 5, 0⟩ 232) &&
    reads 0b00000000100000011011110100000001 0b00110011000000001000111100000010 0 (.isetp ⟨15, false, 3, 1, false⟩ ⟨2, 143, false, false, 0, false, false, false, 6, 3⟩) &&
    reads 0b00000000011001000011110100001110 0b00000011000000000000000000000000 0x12345678 (.movi ⟨15, false, 200, 0, false⟩ ⟨0, 0, false, false, 0, false, false, false, 6, 0⟩ 0x12345678) &&
    reads 0b00000011100000101011110100100001 0b00010011000000010000000000000011 0 (.v2s ⟨15, false, 5, 7, false⟩ ⟨3, 0, true, false, 0, false, false, false, 6, 1⟩)) = true := by decide +kernel
theorem test_decode_float : (
    reads 0b00000001000000001011110110000001 0b00000101000110010000000000000011 0 (.fadd ⟨15, false, 1, 2, false⟩ ⟨3, 0, true, false, 2, true, false, false, 10, 0⟩) &&
    reads 0b00000001000000001011110111101001 0b00100101111001000000010000000011 0 (.hfma2 ⟨15, false, 1, 2, false⟩ ⟨3, 4, false, false, 1, false, true, true, 11, 2⟩) &&
    reads 0b00000010000000010011110111000001 0b00010100100011000000000000000110 0 (.dadd ⟨15, false, 2, 4, false⟩ ⟨6, 0, false, false, 3, false, false, false, 9, 1⟩) &&
    reads 0b00000001000000001011111000000001 0b00000101000000000000101100000001 0 (.fcvt ⟨15, false, 1, 2, false⟩ ⟨1, 11, false, false, 0, false, false, false, 10, 0⟩) &&
    reads 0b00000001000000001011111000100000 0 0 (.frcp ⟨15, false, 1, 2, false⟩)) = true := by decide +kernel
theorem test_decode_crosslane : (
    reads 0b01000010100000011011111010000001 0b00100000000000000000011100000000 0 (.vote ⟨15, false, 3, 133, false⟩ ⟨0, 7, false, false, 0, false, false, false, 0, 2⟩) &&
    reads 0b00000010000000011011111010001001 0b00000011000000000000011100000000 0 (.redux ⟨15, false, 3, 4, false⟩ ⟨0, 7, false, false, 0, false, false, false, 6, 0⟩) &&
    reads 0x00083E98 0 0 (.part ⟨15, false, 16, 0, false⟩)) = true := by decide +kernel
theorem test_decode_memory : (
    reads 0b00000010000001000011111011000001 0b00000010100000000000000000000011 0 (.ld ⟨15, false, 8, 4, false⟩ ⟨3, 0, false, false, 0, false, false, false, 5, 0⟩) &&
    reads 0b00000000000000000011111011000110 0b00000010100000000000001000000001 0x40 (.st12 ⟨15, false, 0, 0, false⟩ ⟨1, 2, false, false, 0, false, false, false, 5, 0⟩ 64) &&
    reads 0b10000010000001000011111011001001 0b00100011000000000000100100000011 0 (.atom ⟨15, false, 8, 4, true⟩ ⟨3, 9, false, false, 0, false, false, false, 6, 2⟩) &&
    reads 0b00000010000001000011111011001101 0b01110010100000000000101000000011 0 (.cas ⟨15, false, 8, 4, false⟩ ⟨3, 10, false, false, 0, false, false, false, 5, 7⟩) &&
    reads 0b00000010000001000011111011101010 0b00000010100000000000000000000000 0x100 (.padv12 ⟨15, false, 8, 4, false⟩ ⟨0, 0, false, false, 0, false, false, false, 5, 0⟩ 0x100) &&
    reads 0b00000110000000000011111100000001 0b00000000000000000000000000000000 0 (.rwb ⟨15, false, 0, 12, false⟩ ⟨0, 0, false, false, 0, false, false, false, 0, 0⟩)) = true := by decide +kernel
theorem test_decode_queue : (
    reads 0b10000010000000011011111100010010 0b00010000000000110000001000000001 0x2 (.qld12 ⟨15, false, 3, 4, true⟩ ⟨1, 2, true, true, 0, false, false, false, 0, 1⟩ 2) &&
    reads 0b00000011100001001011111100011001 0b01000000000000000000000000000000 0 (.qpop8 ⟨15, false, 9, 7, false⟩ ⟨0, 0, false, false, 0, false, false, false, 0, 4⟩) &&
    reads 0b00000101100001001011111100100000 0 0 (.qbpop ⟨15, false, 9, 11, false⟩)) = true := by decide +kernel
theorem test_decode_matrix : (
    reads 0b10000000100000101011111101000001 0b00000000000000110000001100000010 0 (.oph ⟨15, false, 5, 1, true⟩ ⟨2, 3, true, true, 0, false, false, false, 0, 0⟩) &&
    reads 0b00000000000000111011111101001100 0 0 (.azero ⟨15, false, 7, 0, false⟩) &&
    reads 0b00000001100001001011111101010001 0b00010000000000000000000000011111 0 (.amov ⟨15, false, 9, 3, false⟩ ⟨31, 0, false, false, 0, false, false, false, 0, 1⟩) &&
    reads 0b10000010000001111011111101100101 0b00010000000000110000001000000001 0 (.tcopy ⟨15, false, 15, 4, true⟩ ⟨1, 2, true, true, 0, false, false, false, 0, 1⟩) &&
    reads 0b10000110000001000011111101101010 0b01100000000000110001010000010000 0x1 (.coll ⟨15, false, 8, 12, true⟩ ⟨16, 20, true, true, 0, false, false, false, 0, 6⟩ 1)) = true := by decide +kernel
theorem test_decode_system : (
    reads 0x17F83F7C 0 0 (.wait 15 false 2 15 15 0) &&
    reads 0b00001000000000011011110000111101 0b00000000000000000000000000000000 0 (.mfsr ⟨15, false, 3, 16, false⟩ ⟨0, 0, false, false, 0, false, false, false, 0, 0⟩) &&
    reads 0b00000001100100000011110001000001 0b00000000000000000000000000000000 0 (.mtsr ⟨15, false, 32, 3, false⟩ ⟨0, 0, false, false, 0, false, false, false, 0, 0⟩) &&
    reads 0b00000111100000000011110001000101 0b00000000000000000000000000000000 0 (.bar ⟨15, false, 0, 15, false⟩ ⟨0, 0, false, false, 0, false, false, false, 0, 0⟩) &&
    reads 0b00000000000000000011110001010001 0b01000000000000000000000000000000 0 (.cancel ⟨15, false, 0, 0, false⟩ ⟨0, 0, false, false, 0, false, false, false, 0, 4⟩) &&
    reads 0b00000000000000001011110000110000 0 0 (.tretEnd ⟨15, false, 1, 0, false⟩) &&
    reads 0b00000100000000000011110000111001 0b00000000000000000000000000000000 0 (.icinv ⟨15, false, 0, 8, false⟩ ⟨0, 0, false, false, 0, false, false, false, 0, 0⟩)) = true := by decide +kernel
theorem test_decode_pair : (
    reads 0x02010483 0x82818480 0 (.pairWord ⟨0x20, 4, 1, 2, false⟩ ⟨0, 9, 3, 5, true⟩)) = true := by decide +kernel

/-! ### Ill-formed instructions, one per check of Table 03-10 that reads the words alone -/

def w0 : Word0 := ⟨15, false, 2, 0, false⟩
def w1 : Word1 := ⟨4, 6, false, false, 0, false, false, false, 5, 0⟩
/-- Word 1 with B alone, with a type, with type and SUB. -/
def bOnly (b : BitVec 8) : Word1 := ⟨b, 0, false, false, 0, false, false, false, 0, 0⟩
def typed (b c : BitVec 8) (t : BitVec 5) (sub : BitVec 4) : Word1 := ⟨b, c, false, false, 0, false, false, false, t, sub⟩

def refuses (i : Instr) (step : Nat) : Bool := !i.wf && (match encCheck i with
  | some w => decide (w.1.step = step)
  | none => false)

/-- A step of the hardware has no encoding. -/
theorem test_wf_no_encoding : (Instr.packagePowerOn).wf = false ∧ (Instr.loadComplete 1 1).wf = false := by decide +kernel
/-- Step 4: a field not used (C of IADD; the U bit of a predicate; D of NOP; word 1 of a displaced B) is not zero. -/
theorem test_wf_unused : (refuses (.iadd w0 w1) 4 && refuses (.nop w0) 4 && refuses (.iadd12 w0 (typed 4 0 6 0) 1) 4 &&
    refuses (.azero ⟨15, false, 1, 0, true⟩) 4) = true := by decide +kernel
/-- Step 5: SUB or TYP not accepted. -/
theorem test_wf_type : (refuses (.iadd w0 (typed 4 0 0 0)) 5 && refuses (.isetp w0 (typed 4 0 6 6)) 5 && refuses (.dadd w0 (typed 4 0 10 0)) 5) = true := by
  decide +kernel
/-- Step 6: an operand outside its range: a uniform register above 63, PART 3, accumulator 8, a back queue as a forward queue. -/
theorem test_wf_operand : (refuses (.iadd ⟨15, false, 2, 64, true⟩ (typed 4 0 6 0)) 6 && refuses (.part ⟨15, false, 3, 0, false⟩) 6 &&
    refuses (.azero ⟨15, false, 8, 0, false⟩) 6 && refuses (.qpop ⟨15, false, 2, 8, false⟩) 6) = true := by decide +kernel
/-- Step 8: the spec's illegal pair (three sources in bank 1, both destinations in bank 0); step 1: a reserved PSUB. -/
theorem test_wf_pair : (Instr.pairWord ⟨0x20, 4, 1, 5, false⟩ ⟨0, 8, 9, 2, false⟩).wf = false ∧
    (Instr.pairWord ⟨0x20, 4, 1, 2, false⟩ ⟨0x1A, 9, 3, 5, true⟩).wf = false ∧
    (Instr.pairWord ⟨0x20, 4, 1, 2, false⟩ ⟨0, 9, 3, 5, true⟩).wf = true := by decide +kernel
/-- OPC 0xFF and 0x00, a LEN not among the opcode's, a reserved opcode, and too few bytes are refused. -/
theorem test_refused_words : (decodeWords 0x3FC 0 0).toOption = none ∧ (decodeWords 0 0 0).toOption = none ∧
    (decodeWords 0x3C80 0 0).toOption = none ∧ (decodeWords 0x3C54 0 0).toOption = none ∧ (decode [0x04, 0x3C]).toOption = none := by decide +kernel

/-! ### For each statement, a state and operands that meet its hypotheses -/

/-- An instruction issues, as a computation. -/
def issuesB (i : Instr) (s : State) (u : Issue) (g : Group) : Bool :=
  decide (s.cur = some u) && decide (s.group? u.gid = some g) && g.hasUnit u.unit &&
    decide (illegalDetail i (mkCtx i u (g.unit u.unit)) g (g.unit u.unit) = none) &&
    !(interlocked i (mkCtx i u (g.unit u.unit)) g) && !(s.upsets.contains s.free)
theorem issues_of_issuesB {i : Instr} {s : State} {u : Issue} {g : Group} (h : issuesB i s u g = true) : Issues i s u g := by
  simp only [issuesB, Bool.and_eq_true, decide_eq_true_eq, Bool.not_eq_true'] at h
  obtain ⟨⟨⟨⟨⟨a, b⟩, c⟩, d⟩, e⟩, f⟩ := h
  exact ⟨a, b, c, d, e, f⟩

/-- A crew's issue group, all 32 lanes or lane 0; the access slice's; a group before the placed instruction in a crew or in the slice. -/
def uc : Issue := ⟨1, 0, BitVec.allOnes 32, 0x1000, 8⟩
def u1 : Issue := ⟨1, 0, 1, 0x1000, 8⟩
def us : Issue := ⟨1, 32, 1, 0x1000, 8⟩
def gc : Group := placeGroup 1 false
def gs : Group := placeGroup 1 true
/-- A state with page tables in which one group issues. -/
def live (g : Group) (u : Issue) : State := { State.reset.withTables with groups := [g], nextId := 2, cur := some u, due := [] }
/-- Changes the only crew, the slice. -/
def crewed (g : Group) (f : Crew → Crew) : Group := { g with crews := g.crews.map f }
def sliced (g : Group) (f : Crew → Crew) : Group := { g with slice := f g.slice }
/-- The four words of a pointer in v4 to v7 of lane 0, or in s4 to s7. -/
def words (p : Ptr) (k : Nat) : Word := BitVec.ofNat 32 (p.pack / 2 ^ (32 * k))
def inV (p : Ptr) (c : Crew) : Crew := { c with v := [(128, words p 0), (160, words p 1), (192, words p 2), (224, words p 3)] }
def inS (p : Ptr) (c : Crew) : Crew := { c with s := [(4, words p 0), (5, words p 1), (6, words p 2), (7, words p 3)] }
/-- A pointer to `n32` at 0x3000, core scope, 4 KiB; the same with nothing in it. -/
def p0 : Ptr := ⟨true, 0, ⟨0, 0, 0⟩, 0, 0, 0, 0, 0x05, 0x1000, 0x3000⟩
def pNone : Ptr := { p0 with len := 0 }
def viaA (d a : BitVec 8) : Word0 := ⟨15, false, d, a, false⟩
def viaU (d a : BitVec 8) : Word0 := ⟨15, false, d, a, true⟩
def uOnly (b c : BitVec 8) (sub : BitVec 4) : Word1 := ⟨b, c, true, true, 0, false, false, false, 0, sub⟩

def addI : Instr := .iadd w0 (typed 4 0 6 0)
theorem witness_EncodedInstructionDecodesBack : addI.wf = true ∧ (Instr.pairWord ⟨0x20, 4, 1, 2, false⟩ ⟨0, 9, 3, 5, true⟩).wf = true := by
  decide +kernel
theorem witness_DecodedBytesAreTheirEncoding : decode (encode addI ++ [0xFF]) = .ok addI := by rfl
/-- One instruction for each of the four outcomes. -/
theorem witness_RefusedEncodings : (rowOf addI).len ≠ 0 ∧ (∀ f, addI ≠ .tret f) ∧ (∀ f, addI ≠ .tretEnd f) ∧ (∀ a b, addI ≠ .pairWord a b) ∧
    fails4 (rowOf (.iadd w0 w1)) (fieldsOf (.iadd w0 w1)) = true ∧
    fails4 (rowOf (.iadd w0 (typed 4 0 0 0))) (fieldsOf (.iadd w0 (typed 4 0 0 0))) = false ∧
    fails5 (rowOf (.iadd w0 (typed 4 0 0 0))) (fieldsOf (.iadd w0 (typed 4 0 0 0))) = true ∧
    fails5 (rowOf (.part (viaA 3 0))) (fieldsOf (.part (viaA 3 0))) = false ∧ fails6 (rowOf (.part (viaA 3 0))) (fieldsOf (.part (viaA 3 0))) = true ∧
    fails4 (rowOf addI) (fieldsOf addI) = false ∧ fails5 (rowOf addI) (fieldsOf addI) = false ∧ fails6 (rowOf addI) (fieldsOf addI) = false := by
  refine ⟨by decide +kernel, nofun, nofun, nofun, ?_⟩
  decide +kernel

/-- What comes next is an issue group, and whether its bytes decode, are refused, or cannot be fetched: 0, 1, 2. -/
def turnsTo (s : State) : Option Nat := match s.turn with
  | some (.unit c) => (s.group? c.gid).map (fun g => match s.fetch g c with
    | .ok (bs, _) => (match decode bs with
      | .ok _ => 0
      | .error _ => 1)
    | .error _ => 2)
  | _ => none
theorem witness_StepRunsTheDecodedInstruction : turnsTo (State.reset.withFetchWord 64 0x0300000400013C81) = some 0 := by decide +kernel
theorem witness_StepTrapsWhatDoesNotDecode : turnsTo (State.reset.withFetchWord 32 0x3FC) = some 1 ∧
    turnsTo { State.reset with groups := [gc], parts := [placePart], due := [] } = some 2 := by decide +kernel
/-- Reset's one posted step comes next; an input alone; nothing. -/
theorem witness_StepTakesPostedStepsAndInputs : State.reset.turn = some (.due 0) ∧ State.reset.due[0]? = some .packagePowerOn ∧
    { State.reset with due := [], inputs := [.dieRelease 0] }.turn = some .input ∧ { State.reset with due := [] }.turn = none := by
  decide +kernel
theorem witness_CanonicalMemoryIsKept : Inv State.reset ∧ (match step State.reset with
    | .next _ => true
    | _ => false) = true := ⟨⟨by decide +kernel, rfl⟩, by decide +kernel⟩

/-- One of each form of the register instructions, all of which issue in a crew. -/
def valueSamples : List Instr :=
  [addI, .isub12 w0 w1 7, .ineg w0, .imul w0 w1, .imulh w0 w1, .imad w0 w1, .imin w0 w1, .imax w0 w1, .iabs w0, .iadif w0 w1, .shl w0 w1,
   .shr w0 w1, .sar w0 w1, .dsh w0 w1, .rot w0 w1, .lut3 w0 w1 0xE8, .popc w0, .clz w0, .ctz w0, .brev w0, .bfx w0 w1, .bfi w0 w1, .bsel w0 w1,
   .isel w0 w1, .mov w0, .movi w0 w1 5, .p2v w0, .s2v w0, .lea w0 w1, .fadd w0 w1, .fsub w0 w1, .fmul w0 w1, .ffma w0 w1, .fmin w0 w1,
   .fmaxp w0 w1, .fsel w0 w1, .fclass w0 w1, .fscale w0 w1, .frnd w0, .dadd w0 w1, .dmul w0 w1, .dfma w0 w1, .hadd2 w0 w1, .hmul2 w0 w1,
   .hfma2 w0 w1, .fdot2 w0 w1, .fdot4 w0 w1, .fcvt w0 w1, .fcvti w0 w1, .icvtf w0 w1, .frcp w0, .frsq w0, .fsqrt w0, .fex2 w0, .flg2 w0, .fsin w0,
   .fcos w0, .ftanh w0, .fdivf w0 w1]
def effectSamples : List Instr :=
  [.iaddc w0 w1, .isubc w0 w1, .imadw w0 w1, .isetp w0 w1, .fsetp w0 w1, .dsetp w0 w1, .plop w0 w1 0x96, .v2p w0 w1, .v2s w0 w1,
   .pairWord ⟨0x20, 4, 1, 2, false⟩ ⟨0, 9, 3, 5, true⟩]
theorem witness_ValueInstructions : valueSamples.all (fun i => ((integerValue i).isSome || (floatValue i).isSome) &&
    issuesB i (live gc uc) uc gc) = true := by decide +kernel
theorem witness_ValueInstructions_slice : issuesB (.iadd (viaU 2 0) ⟨4, 0, true, false, 0, false, false, false, 6, 0⟩) (live gs us) us gs = true := by
  decide +kernel
theorem witness_CompareCarryAndPredicate : effectSamples.all (fun i => (predicateEffect i).isSome && issuesB i (live gc uc) uc gc) = true := by
  decide +kernel
/-- The active lanes of a crew and the one of a slice. -/
theorem witness_DestinationWritesReadBack : (issueCtx addI uc gc).access = false ∧ (issueCtx addI us gs).access = true ∧
    (issueCtx addI us gs).lanes = [0] ∧ (issueCtx addI uc gc).row.d.count = 1 := by decide +kernel
theorem witness_RegisterInstructionsChangeNothingElse : registerOnly addI = true ∧ issuesB addI (live gc uc) uc gc = true ∧
    (match exec addI (live gc uc) with
    | .next _ => true
    | _ => false) = true := by decide +kernel
/-- The greatest patterns, the least negative number, and 0. -/
theorem witness_IntegerResults : (0xFFFFFFFF : Nat) < 2 ^ 32 ∧ (0x8000000000000000 : Nat) < 2 ^ 64 ∧ intResult 6 true (2 ^ 31) = 2 ^ 31 - 1 ∧
    intResult 6 false (2 ^ 31) = 2 ^ 31 ∧ asInt 6 0x80000000 = -(2 : Int) ^ 31 := by decide +kernel
theorem witness_ShiftsAndBitCounts : shlV 32 1 31 = 0x80000000 ∧ shlV 32 1 32 = 0 ∧ sarV 64 0x8000000000000000 64 = 2 ^ 64 - 1 ∧
    clzV 32 0 = 32 ∧ clzV 64 1 = 63 ∧ ctzV 32 0x80000000 = 31 := by decide +kernel
theorem witness_CarryChainsAddExactly : let x := issueCtx (.iaddc w0 w1) uc gc
    x.row.a.count = 1 ∧ x.row.b.count = 1 ∧ (issueCtx (.imadw w0 w1) uc gc).row.c.count = 1 := by decide +kernel

/-- Branches, jumps (aligned; a pair of 2 is not), no-operations and sleeps issue. -/
theorem witness_Branches : ([.bra 15 false 0x1FFF6, .bra12 w0 w1 64, .bral w0 w1 64, .dbnz w0 w1 64] : List Instr).all (fun i =>
    issuesB i (live gc uc) uc gc) = true := by decide +kernel
theorem witness_Jumps : issuesB (.jmpi (viaA 0 4)) (live gc uc) uc gc = true ∧
    (issueCtx (.jmpi (viaA 0 4)) uc gc).lanes.all (fun l => decide ((issueCtx (.jmpi (viaA 0 4)) uc gc).a (gc.unit 0) l % 4 = 0)) = true ∧
    (let g := crewed gc (fun c => { c with v := [(128, 2)] })
     issuesB (.ret (viaA 0 4)) (live g uc) uc g && decide ((issueCtx (.ret (viaA 0 4)) uc g).a (g.unit 0) 0 % 4 = 2)) = true := by decide +kernel
theorem witness_NoOperations : ([.nop (viaA 0 0), .nop8 (viaA 0 0) (bOnly 0), .nop12 (viaA 0 0) (bOnly 0) 0, .yield (viaA 0 0)] : List Instr).all (fun i =>
    issuesB i (live gc uc) uc gc) = true ∧
    (let y := crewed gc (fun c => { c with yielded := true })
     (y.unit 0).yielded && !(gc.unit 0).yielded && decide ((y.unit 0).hmode = (gc.unit 0).hmode ∧ (y.unit 0).age < 64)) = true ∧
    (sliced gs (fun c => { c with yielded := true })).slice.yielded = true := by decide +kernel
/-- A wake-up that comes at its time, and one cycle before. -/
theorem witness_Sleeps : issuesB (.sleepc12 w0 w1 1000) (live gc uc) uc gc = true ∧ issuesB (.sleepc (viaA 0 4)) (live gc uc) uc gc = true ∧
    (let g := crewed gc (fun c => { c with wait := [(0, .asleep 7 0x1000)] })
     decide ((live g uc).group? 1 = some g ∧ g.hasUnit 0 = true ∧ (g.unit 0).waitOf 0 = .asleep 7 0x1000 ∧
       { live g uc with cycle := [(0, 7)] }.now g.loc.die = 7 ∧ { live g uc with cycle := [(0, 6)] }.now g.loc.die = 6)) = true := by decide +kernel
theorem witness_SpecialRegisters : issuesB (.mfsr (viaA 3 0x10) (bOnly 0)) (live gc uc) uc gc = true ∧
    (let g := crewed gc (fun c => { c with hmode := true })
     issuesB (.mtsr (viaA 0x20 3) (bOnly 0)) (live g uc) uc g) = true := by decide +kernel
/-- Thresholds just met and just exceeded. -/
theorem witness_Wait : (let g := crewed gc (fun c => { c with cp := 2 })
    issuesB (.wait8 15 false 63 2 63 0) (live g uc) uc g && issuesB (.wait 15 false 2 1 15 0) (live g uc) uc g &&
    decide ((issueCtx (.wait8 15 false 63 2 63 0) uc g).act ≠ 0 ∧ (g.unit 0).collTraps = [] ∧ (g.unit 0).cp ≤ 2 ∧ 1 < (g.unit 0).cp)) = true := by
  decide +kernel
def trap0 : Trap := { cause := 0x18, lane := 0, detail := 0, addr := 0x1000, first := 0x1000 }
def gh : Group := { crewed gc (fun c => { c with hmode := true }) with phase := .handler 0 trap0, slot := some 0 }
theorem witness_ExitsTrapsAndCancels : ([.exit (viaA 0 0), .cancel (viaA 0 0) (bOnly 0), .trap (viaA 0x12 0), .bkpt (viaA 0 0)] : List Instr).all (fun i =>
    issuesB i (live gc uc) uc gc && decide ((issueCtx i uc gc).act ≠ 0)) = true ∧
    issuesB (.tretEnd (viaA 1 0)) (live gh uc) uc gh = true ∧ gh.phase = .handler 0 trap0 := by decide +kernel
/-- A mask of the lane alone, and one that lacks it; the whole-crew instructions. -/
theorem witness_CrossLane : (let g := crewed gc (fun c => { c with v := [(224, 1)] })
    issuesB (.vote (viaA 3 5) (typed 0 7 0 2)) (live g u1) u1 g &&
    (let c := begunCrew (.vote (viaA 3 5) (typed 0 7 0 2)) u1 g
     decide (maskBad c.partw 0 1 = none) && decide ((issueCtx (.vote (viaA 3 5) (typed 0 7 0 2)) u1 g).lanes = [0]) && (maskBad c.partw 0 2).isSome)) = true ∧
    ([.part (viaA 16 0), .bar (viaA 0 0) (bOnly 0), .bara12 (viaA 0 0) (bOnly 0) 3] : List Instr).all (fun i =>
      (wholeToken i).isSome && issuesB i (live gc uc) uc gc) = true := by decide +kernel

/-! #### Memory -/

def ldI : Instr := .ld (viaA 8 4) (typed 255 0 5 0)
def stI : Instr := .st (viaA 0 4) (typed 255 9 5 0)
def atomI : Instr := .atom (viaA 8 4) (typed 255 9 5 0)
def gP (p : Ptr) : Group := crewed gc (inV p)
/-- The premises of a memory instruction's completion: 0 they hold, 1 a check fails, none otherwise. -/
def memReady (i : Instr) (p : Ptr) (k : Kind) (need : Need) (sub : Nat) (waits : State → Group → Ctx → List LaneAcc → Option Stall) : Option Nat :=
  let g := gP p
  let s := live g u1
  let x := issueCtx i u1 g
  let c := begunCrew i u1 g
  let h := begunGroup i u1 g
  if !(issuesB i s u1 g && decide (x.act ≠ 0 ∧ c.ld < 63 ∧ c.st < 63 ∧ logUse h c 0 < 16)) then none
  else match lanePtr x h c (begunState i s u1 g) with
    | .error _ => none
    | .ok (t1, ps) =>
      if (rawWide x ps).isSome || x.lanes.any (fun l => atomBad (ps l) sub x.fl.h.typ) then none
      else match formLanes x h c t1 ps (fun l => x.b c l % 2 ^ 32) k need with
        | .ok t2 as => if (waits t2 h x as).isSome then none else some 0
        | .trap _ => some 1
        | _ => none
theorem witness_LoadsAreSent : memReady ldI p0 .load 0 0 loadWaits = some 0 ∧ memReady ldI pNone .load 0 0 loadWaits = some 1 := by decide +kernel
theorem witness_StoresAreSent : memReady stI p0 .store 1 0 storeWaits = some 0 := by decide +kernel
theorem witness_AtomicsArePerformedInLaneOrder : memReady atomI p0 .atomic 1 0 atomWaits = some 0 := by decide +kernel
/-- A synchronising load of the home, under way. -/
def acc0 : LaneAcc :=
  { lane := 0, va := 0x3000, n := 4, bitOff := 0, pa := [0x3000, 0x3001, 0x3002, 0x3003], share := 2, repl := 0, edge := false, value := 0
    space := 0, cls := 2, scope := 3, fmt := 5, swz := 0 }
def fl0 : Flight := newFlight ldI (issueCtx ldI u1 gc) 7 .load [acc0]
def under (f : Flight) : Group := { gc with flights := [f] }
theorem witness_LoadsReturn : let g := under fl0
    let s := live g u1
    s.flight? g.id 7 = some (g, fl0) ∧ g.dead = false ∧ fl0.away = false ∧ fl0.fault = none ∧ acc0.remote s (s.viewOf g) = false ∧
      policyOf acc0.cls acc0.share acc0.edge = .home ∧ g.hasUnit fl0.unit = true ∧ g.olderLoad 0 7 fl0.lanes = false ∧ fl0.lanes = [acc0] ∧
      acc0.pa = natsFrom 0x3000 4 ∧ acc0.pa.all (fun pa => !(s.poisoned (storage (s.viewOf g) (pa % 2 ^ 45))) &&
        (s.listedAt (homeKey (s.viewOf g) (pa % 2 ^ 45 / 192))).isEmpty && (s.waitingAt (s.viewOf g) (pa % 2 ^ 45 / 192)).isEmpty) = true ∧
      s.homeWaits g false fl0.lanes = false := by decide +kernel
/-- The last byte of a sector; a sector's 48 bytes. -/
theorem witness_BufferedStore : (live gc u1).group? gc.id = some gc ∧ (0x302F : Nat) % 48 + 1 ≤ 48 ∧ (0x3000 : Nat) % 48 + 48 ≤ 48 ∧
    gc.bsb.length < 32 * gc.desc.bsbg := by decide +kernel
theorem witness_HashedLines : let v := (live gc u1).view 0
    v.dies.length = 1 ∧ v.dies.Nodup ∧ (∀ d ∈ v.dies, d < 4) ∧ v.lines ≤ dieLines ∧ 0 < v.dies.length * v.lines * 192 := by decide +kernel
/-- The last word of the largest allocation in each mode's range. -/
theorem witness_Swizzle : (2048 * 64 - 1 : Nat) < 2048 * 64 ∧ cellOf 0 (4 * (2048 * 64 - 1)) / 4 / 64 = 2047 ∧ cellOf 7 4 = 4 * 32 := by decide +kernel
theorem witness_AtomicOperations : atomNew 0 5 0xFFFFFFFF 1 = 0 ∧ atomNew 2 6 0 0xFFFFFFFF = 0xFFFFFFFF ∧ atomNew 2 5 0 0xFFFFFFFF = 0 ∧
    atomNew 8 8 1 (2 ^ 64 - 1) = 2 ^ 64 - 1 := by decide +kernel
theorem witness_Prefetches : let i := Instr.pref (viaA 0 4) (typed 255 0 5 0)
    issuesB i (live (gP p0) u1) u1 (gP p0) = true ∧ (issueCtx i u1 (gP p0)).act ≠ 0 ∧
      (lanePtr (issueCtx i u1 (gP p0)) (begunGroup i u1 (gP p0)) (begunCrew i u1 (gP p0)) (begunState i (live (gP p0) u1) u1 (gP p0))).toOption.isSome = true ∧
      issuesB (.pchk (viaA 3 4) (bOnly 0)) (live (gP p0) u1) u1 (gP p0) = true ∧
      (issueCtx (.pref ⟨15, true, 0, 4, false⟩ (typed 255 0 5 0)) u1 gc).act = 0 := by decide +kernel
/-- PSUB of the whole range, and one byte past it. -/
theorem witness_PointerInstructions : let g := crewed (gP p0) (fun c => { c with v := c.v ++ [(288, 0x1000), (320, 0x1001)] })
    let i := Instr.psub (viaA 8 4) (typed 9 255 0 0)
    let j := Instr.psub (viaA 8 4) (typed 10 255 0 0)
    issuesB i (live g u1) u1 g = true ∧ (psubLane (issueCtx i u1 g) (begunGroup i u1 g) (begunCrew i u1 g) 0).toOption.isSome = true ∧
      issuesB j (live g u1) u1 g = true ∧ (psubLane (issueCtx j u1 g) (begunGroup j u1 g) (begunCrew j u1 g) 0).toOption = none ∧
      (issueCtx j u1 g).ptrLanes = [0] ∧ (ptrOf ((issueCtx i u1 g).a (begunCrew i u1 g) 0)).formBad = false := by decide +kernel
theorem witness_PointersPackAndUnpack : ({ p0 with len := 2 ^ 40 - 1, base := 2 ^ 57 - 1 } : Ptr).pack < 2 ^ 128 ∧ ptrOf p0.pack = p0 := by decide +kernel
theorem witness_ScopeAndRange : let g := gP p0
    let x := fun i => issueCtx i u1 g
    ([.pwiden (viaA 8 4) (typed 0 0 0 2), .rwb (viaA 0 4) (bOnly 0), .rinv (viaA 0 4) (bOnly 0), .icinv (viaA 0 4) (bOnly 0)] : List Instr).all (fun i =>
      issuesB i (live g u1) u1 g && decide ((x i).act ≠ 0 ∧ (begunCrew i u1 g).st < 63)) = true ∧
    (scopeLane true (x (.pwiden (viaA 8 4) (typed 0 0 0 2))) g (g.unit 0) 0).toOption.isSome = true ∧
    (let n := gP { p0 with scope := 1 }
     let i := Instr.pnarrow (viaA 8 4) (typed 0 0 0 0)
     issuesB i (live n u1) u1 n && (scopeLane false (issueCtx i u1 n) n (n.unit 0) 0).toOption.isSome) = true ∧
    (rangePtrs (x (.rwb (viaA 0 4) (bOnly 0))) g (g.unit 0)).toOption.isSome = true ∧
    (let n := gP { p0 with valid := false }
     (rangePtrs (issueCtx (.rinv (viaA 0 4) (bOnly 0)) u1 n) n (n.unit 0)).toOption.isNone) = true := by decide +kernel

/-! #### Queues -/

def entry0 (st : QState) : QEntry := ⟨1, [(0, 5)], st, 0, 9⟩
def qrec0 : QRec :=
  { addr := 0x1000, ptr := BitVec.ofNat 128 p0.pack, index := 0, cstride := 0, lstride := 1, crews := 1, fcode := 0x10, clip := false, queue := 2
    replay := true, faddr := [(0, 0x3000)] }
def gq (st : QState) : Group := sliced { gc with fq := [(64, [entry0 st])] } (fun c => { c with qlog := [qrec0] })
def gb (seen : Bool) : Group := { gs with bq := [(8, [⟨5, 0, seen⟩])] }
theorem witness_QueueInstructions : (let i := Instr.qpush (viaU 2 0) (bOnly 0)
    issuesB i (live gs us) us gs && decide ((issueCtx i us gs).act ≠ 0) &&
      !(pushWaits (begunState i (live gs us) us gs) (begunGroup i us gs) 2)) = true ∧
    ([.ready, .poisoned] : List QState).all (fun st => issuesB (.qpop (viaA 9 2)) (live (gq st) uc) uc (gq st) &&
      decide ((begunGroup (.qpop (viaA 9 2)) uc (gq st)).sub 2 0 = [entry0 st] ∧ (begunGroup (.qpop (viaA 9 2)) uc (gq st)).qlogFor 2 0 = some qrec0)) = true ∧
    issuesB (.qbpush (viaA 8 3)) (live gc uc) uc gc = true ∧ (gc.back 8).length < gc.queueDepth 8 ∧
    ([.qbpop (viaA 9 8), .brq (viaA 9 8) (bOnly 0) 64] : List Instr).all (fun i => issuesB i (live (gb true) us) us (gb true)) = true ∧
    (gb true).back 8 = [⟨5, 0, true⟩] := by decide +kernel
def qldI : Instr := .qld (viaU 2 4) (uOnly 1 2 1)
theorem witness_QueueLoads : (let g := sliced gs (inS p0)
    let s := live g us
    let x := issueCtx qldI us g
    let c := begunCrew qldI us g
    let h := begunGroup qldI us g
    let t := begunState qldI s us g
    let r : QRec := { addr := us.addr, ptr := BitVec.ofNat 128 (x.a c 0), index := BitVec.ofNat 32 (x.b c 0), cstride := BitVec.ofNat 32 (x.c c 0)
                      lstride := 1, crews := 0, fcode := 0, clip := true, queue := 2, replay := true, faddr := [] }
    issuesB qldI s us g && decide (x.act ≠ 0) && !(pushWaits t h 2) &&
      (match allLanesOk (fun w => qldCrew x h r w) h.running with
       | .ok plan =>
         let q := (plan.map (fun y => qldXlate x h t r y.1 y.2)).foldl QldXlate.join ⟨[], [], []⟩
         (t.missesWait (t.viewOf h) h.loc.flat h.ctx (plan.flatMap (fun y => y.2.map (fun z => z.2)))).isNone && !(cmdsHold h 32 (accFoot q.accs false)) &&
           !(lineHeld t h (q.accs.flatMap (fun a => a.pa))) && !(q.accs.any (fun a => a.remote t (t.viewOf h)) && h.olderLoad 32 t.nextId q.accs) &&
           t.ottFree h.loc.flat 1 32 false (t.qldFirst h q.accs) &&
           (watchHit t h c x false (q.accs.map (fun a => { a with lane := 0 }))).isNone
       | .error _ => false)) = true ∧
    (let f := { newFlight qldI (issueCtx qldI us gs) 9 .qload [acc0] with aux := 2, qrec := some qrec0, done := 1 }
     let g := { gq .filling with flights := [f] }
     let new := { gq .filling with flights := [{ f with done := 0 }] }
     let s := live g us
     s.flight? 1 9 = some (g, f) ∧ 0 < f.done ∧ f.qrec = some qrec0 ∧ (s.readLanes 1 f [acc0]).isSome = true ∧
       s.laneAwaits 1 9 acc0 = false ∧ g.olderLoad 32 9 [acc0] = false ∧ s.homeWaits g false [acc0] = false ∧
       (live new us).flight? 1 9 = some (new, { f with done := 0 }) ∧
       (((live new us).expandCrew 1 9 0).flight? 1 9).all (fun y => decide (0 < y.2.done)) = true) ∧
    (gb false).back 8 = [] ++ ⟨5, 0, false⟩ :: [] := by decide +kernel

/-! #### Engines -/

/-- Handle 5 bound as fp16 rows in the first bytes of the scratchpad. -/
def gE : Group := { gc with handles := [(5, ⟨true, 0, 1024, 0x12, rowWords 0x12, 0⟩)] }
theorem witness_Handles : (let g := crewed gc (fun c => { c with s := [(1, 0), (2, 1024), (3, 0x12), (10, 64), (11, 3)] })
    let bind := Instr.oph (viaU 5 1) (uOnly 2 3 0)
    let unbind := Instr.oph (viaA 5 0) (typed 0 0 0 1)
    let x := issueCtx bind uc g
    let c := begunCrew bind uc g
    issuesB bind (live g uc) uc g && issuesB unbind (live g uc) uc g &&
      decide (x.act ≠ 0 ∧ rowWords (x.c c 0 % 64) ≠ 0 ∧ x.c c 0 < 64 ∧ x.a c 0 % 4 = 0 ∧ x.b c 0 % 4 = 0 ∧ x.b c 0 ≠ 0 ∧ x.a c 0 + x.b c 0 ≤ g.desc.scr256 * 256) &&
      issuesB (.oph (viaU 5 1) (uOnly 2 10 0)) (live g uc) uc g && decide (64 ≤ (issueCtx (.oph (viaU 5 1) (uOnly 2 10 0)) uc g).c c 0) &&
      issuesB (.oph (viaU 5 1) (uOnly 11 3 0)) (live g uc) uc g && decide ((issueCtx (.oph (viaU 5 1) (uOnly 11 3 0)) uc g).b c 0 % 4 = 3)) = true := by
  decide +kernel
theorem witness_TileInstructions : ([.azero (viaA 7 0), .amov (viaA 9 3) (typed 31 0 0 0), .amov (viaA 9 3) (typed 31 0 0 1), .amov (viaA 3 9) (typed 31 0 0 2),
      .tldv (viaA 0 9) (typed 31 0 0 0), .tldv (viaA 0 9) (typed 31 0 0x0B 0), .tstv (viaA 9 0) (typed 0 0 0 0), .park (viaA 3 9) (typed 2 31 0 1),
      .park (viaA 3 9) (typed 2 7 0 0)] : List Instr).all (fun i => issuesB i (live gc uc) uc gc && decide ((issueCtx i uc gc).act ≠ 0)) = true ∧
    matrixHolds gc 0 [7] [0] = false ∧
    (let g := crewed gc (fun c => { c with parks := [(3, ⟨true, 2, 31, 9⟩)] })
     issuesB (.unpark (viaA 3 0) (bOnly 0)) (live g uc) uc g && decide (nfind? (g.unit 0).parks 3 = some ⟨true, 2, 31, 9⟩)) = true := by decide +kernel
def mmaI : Instr := .mma (viaA 1 0) ⟨5, 0, false, false, 0, false, false, false, 0x0B, 1⟩
def mma0 : MmaCmd := mmaCmd (issueCtx mmaI uc gE) gE false
/-- The command before it begins to read, and once it has begun. -/
def cmd0 : Cmd := ⟨9, 0, 0x1000, .mma mma0⟩
def cmd1 : Cmd := ⟨9, 0, 0x1000, .mma { mma0 with snap := some [] }⟩
def ordered (k : Cmd) : Group := { gE with cmds := [k] }
/-- All lanes with a bound handle, lane 0 alone, and a handle that is not bound. -/
theorem witness_MatrixCommands : issuesB mmaI (live gE uc) uc gE = true ∧ (issueCtx mmaI uc gE).act = BitVec.allOnes 32 ∧
    mmaReason (issueCtx mmaI uc gE) gE false = none ∧ (begunCrew mmaI uc gE).tl < 63 ∧ matrixHolds gE 0 (mmaNames mma0).1 (mmaNames mma0).2 = false ∧
    issuesB mmaI (live gE u1) u1 gE = true ∧ (issueCtx mmaI u1 gE).act = 1 ∧ (mmaReason (issueCtx mmaI uc gc) gc false).isSome = true ∧
    (live (ordered cmd0) uc).cmd? 1 9 = some (ordered cmd0, cmd0) ∧ cmdReady (ordered cmd0) cmd0 = true ∧
    (live (ordered cmd0) uc).quadrantBusy (ordered cmd0) cmd0 = false ∧ mma0.snap = none ∧ cmd1.kind = .mma { mma0 with snap := some [] } ∧
    (live (ordered cmd1) uc).cmd? 1 9 = some (ordered cmd1, cmd1) ∧ cmdReady (ordered cmd1) cmd1 = true ∧
    (live (ordered cmd1) uc).quadrantBusy (ordered cmd1) cmd1 = false ∧ (live (ordered cmd1) uc).upsets.contains 0 = false := by
  decide +kernel
def pRow : Ptr := { p0 with fmt := 0x12, base := 0x3000 }
def gT : Group := crewed gE (fun c => { inS pRow c with s := (inS pRow c).s ++ [(8, 32)] })
def copyI (sub : BitVec 4) : Instr := .tcopy12 (viaU 5 4) (uOnly 63 8 sub) 0
/-- An element that can be read can be read early, whether it then is or not. -/
theorem readEarly_one (s : State) (g : Group) (a : LaneAcc) (h : (s.readAcc g a).isSome = true) : (s.readEarly g [a]).isSome = true := by
  obtain ⟨x, hx⟩ := Option.isSome_iff_exists.mp h
  by_cases hc : (a.away || !Config.chance (s.free + 1 + a.lane)) = true
  · simp only [State.readEarly, hc, if_true, Option.map_some, Option.isSome_some]
  · simp only [State.readEarly, hc, hx, Option.map_some, Option.isSome_some, if_false, Bool.false_eq_true]
/-- One row in either direction; each of the checks that can fail. -/
theorem witness_TileCopies : ([0, 1] : List (BitVec 4)).all (fun sub =>
    let i := copyI sub
    let x := issueCtx i uc gT
    let c := begunCrew i uc gT
    let h := begunGroup i uc gT
    let t := begunState i (live gT uc) uc gT
    let p := ptrOf (x.a c 0)
    issuesB i (live gT uc) uc gT && decide (x.act ≠ 0) && !p.engineBad && (rowsCheck h p .store (x.b c 0) (x.c c 0) 31 [0]).isNone &&
      decide (x.b c 0 % rowStep p.fmt = 0 ∧ x.c c 0 % rowStep p.fmt = 0 ∧ copyRows x = (0, 1)) &&
      (copyReason (h.handle 5) p.fmt 0 1 (decide (sub = 1))).isNone && (match rowsXlate x h t p 1 (x.b c 0) (x.c c 0) 31 [0] with
        | .ok xs => !(runsMeet ((xs.map (fun r => r.map (fun y => y.1))).flatMap accWords) [(0, (h.handle 5).planes)]) && decide (c.cp < 63)
        | .error _ => false) && (t.missesWait (t.viewOf h) h.loc.flat h.ctx
          [elemVa h p (x.b c 0), elemVa h p (x.b c 0 + 31) + (fmtInfo p.fmt).unit - 1]).isNone) = true ∧
    (let tc : TcopyCmd := { out := true, hnum := 5, h := gE.handle 5, ptr := BitVec.ofNat 128 pRow.pack, e0 := 0, pitch := 32, row0 := 0, row := 0
                            remaining := 1, rows := [[acc0]], asked := false }
     let both := fun (o : Bool) => (⟨9, 0, 0x1000, .tcopy { tc with out := o }⟩ : Cmd)
     ([true, false] : List Bool).all (fun o =>
       let g := ordered (both o)
       let s := live g uc
       decide (s.cmd? 1 9 = some (g, both o)) && cmdReady g (both o) && (copyConv (ptrOf tc.ptr.toNat).fmt tc.h.fmt o).isSome && !(s.commitHeld g) &&
         !tc.stuck && !(s.homeWaits g false [acc0]) &&
         ((s.askLoads g 9 true ([acc0].map (s.awayLane g))).readAcc g (s.awayLane g acc0)).isSome && !(s.awaits 1 9) && (s.readRow 1 [acc0]).isSome && !(s.upsets.contains s.free))) = true ∧
    ({ pRow with space := 4, scope := 4 } : Ptr).engineBad = true ∧ (rowsCheck gc { pRow with len := 2 } .load 0 0 31 [0]).isSome = true ∧
    rowStep 0x1C = 2 ∧ copyReason (gc.handle 5) 0x12 0 1 false = some 3 := by decide +kernel

/-! #### Traps -/

/-- A handler at 0x4000, save slots of one page from 0x8000, two of them. -/
def withHandler (s : State) : State := ((s.setReg 0 0x10018 0x4000).setReg 0 0x10030 0x8000).setReg 0 0x10038 (0x1000 + 2)
def inPhase (p : Phase) : Group := { gc with phase := p }
theorem witness_Traps : (live gc uc).group? gc.id = some gc ∧ gc.hasUnit 0 = true ∧ gc.phase = .live ∧ trap0.cause ≠ 0x20 ∧ trap0.seq = 0 ∧
    (live (inPhase (.stopping 0 trap0)) uc).group? 1 = some (inPhase (.stopping 0 trap0)) ∧ gc.flights.any Flight.awaited = false ∧
    (under fl0).flights.any Flight.awaited = true ∧
    (let s := withHandler (live gc uc)
     decide (bits (s.ctxReg 0 0x18) 56 2 * 4 ≠ 0 ∧ s.freeSlot 0 = some 0 ∧ (frameBytes gc 0 trap0 false).length ≤ s.slotSize 0 ∧ gc.slot = none ∧
       s.slotBase 0 + 0x1000 ≤ 2 ^ 57) && (s.putVirtual gc 0x8000 [0, 0]).toOption.isSome) = true ∧
    bits ((live gc uc).ctxReg 0 0x18) 56 2 * 4 = 0 ∧ (live gc uc).freeSlot 0 = none := by decide +kernel
theorem witness_TrapReturn : (let s := withHandler (live gh uc)
    issuesB (.tret (viaA 0 0)) s uc gh && decide ((issueCtx (.tret (viaA 0 0)) uc gh).act ≠ 0 ∧ gh.phase = .handler 0 trap0 ∧ gh.slot = some 0) &&
      (s.getVirtual gh 0x8000 64).toOption.isSome) = true ∧
    (framePcs (List.replicate 0x680 (0 : Byte)) 0).all (fun p => decide (p % 4 = 0)) = true ∧
    (framePcs (List.replicate 0x540 (0 : Byte) ++ [2]) 0).headD 0 = 2 ∧
    (nextPending [((0 : Nat), trap0)]).isSome = true ∧ illegalDetail (.tret (viaA 0 0)) (issueCtx (.tret (viaA 0 0)) uc gc) gc (gc.unit 0) = some 3 ∧
    (gc.unit 0).hmode = false := by decide +kernel

/-! #### Accesses under way -/

/-- Flights of each kind that may complete, a faulted load, an entry to drain, a waiter for a free entry. -/
theorem witness_AccessSteps : ([{ fl0 with fault := some trap0 }, { fl0 with kind := .store }, { fl0 with kind := .release },
      { fl0 with kind := .release, done := 2 }, { fl0 with kind := .atomic, ins := atomI }, { fl0 with kind := .atomic, ins := atomI, done := 1 },
      { fl0 with kind := .writeback, aux := 0 }, { fl0 with kind := .icinv }] : List Flight).all (fun f =>
    let s := live (under f) u1
    decide (s.flight? 1 7 = some (under f, f)) && !(under f).dead && s.mayPerform (under f) f && !(s.awaits 1 7) && s.toStamp.isEmpty &&
      s.net.stamped.isEmpty && (s.heldLines 0 f.ranges).isEmpty) = true ∧ atomSub atomI ≠ 16 ∧
    (let f := { fl0 with kind := .store, ins := stI }
     let s := live (under f) u1
     (s.storeLanes 1 7 f [] f.lanes).isSome && (s.oldUnits (under f) f).isEmpty && !(f.farWrite s (under f)) &&
       ({ f with lanes := [{ acc0 with repl := 4096 }] } : Flight).farWrite s (under f)) = true ∧
    (let f := { fl0 with kind := .atomic, ins := atomI }
     ((live (under f) u1).performAtomic (under f) f).isSome) = true ∧
    (let e : WcbEntry := { line := 5, data := [], queue := 0, since := 0, id := 1, owners := [] }
     let w : OttWait := { gid := 1, unit := 0, sync := true, granted := false, n := 2 }
     let s : State := { live gc u1 with cores := [(0, { Core.empty with wcb := [e], ottWait := [w] })], cycle := [(0, 4096)] }
     decide ((s.core 0).wcb.find? (fun y => y.line = 5) = some e) && decide (0 + 4096 ≤ s.now 0) &&
       decide (({ s with cycle := [(0, 4095)] } : State).now 0 < 4096) &&
       ottRoom (s.ottUsed 0) 1 e.out && decide (nextWaiter (s.ottUsed 0) (s.core 0).ottWait = some w) && !(ottRoom 508 1 false) && ottRoom 508 4 true) = true := by
  decide +kernel

/-! #### Groups -/

def share0 (d : Nat) (b : List Nat) : Share :=
  { die := d, batches := b, cur := [], back := [], live := 0, done := 0, canc := 0, reported := false, bars := [], since := 0, asked := [] }
def launch0 (sh : List Share) : Launch :=
  { id := 3, queue := 0, ctx := 0, prio := 1, part := 0, desc := placeDesc, launchId := 1, ngroups := (2, 1, 1), crews := 1, gang := 0, param := 0
    paramLen := 0, shares := sh, vacated := [], relaunch := [] }
def ls (sh : List Share) : State := { live gc uc with groups := [], launches := [launch0 sh] }
/-- A group of lower priority that fills core 0 is the room there for a launch that has waited 4,096 cycles. -/
def big : Desc := { placeDesc with scr256 := 2048 }
def bigLaunch : Launch := { launch0 [share0 0 [0]] with desc := big }
def full : State := { live { gc with desc := big, prio := 0 } uc with launches := [bigLaunch], cycle := [(0, 4096)] }
def roomy : Bool := !(full.preempting (share0 0 [0])) && (full.now 0 == 4096) && (full.roomAt bigLaunch 0 [0] == some [1]) && full.wants bigLaunch 0
theorem witness_Distributors : (match (ls [share0 0 [0]]).choice 0 with
      | .fresh l n => ((ls [share0 0 [0]]).admitNext l 0 n none).isSome
      | _ => false) = true ∧
    (let s := { ls [share0 0 [0]] with launches := [{ launch0 [share0 0 [0]] with vacated := [(0, [])] }] }
     match s.choice 0 with
      | .inherit l c vals n => vals.isSome && (s.admitNext l 0 n (some (c, vals))).isSome
      | _ => false) = true ∧
    (ls [share0 0 [], share0 1 [0, 1]]).launch? 3 = some (launch0 [share0 0 [], share0 1 [0, 1]]) ∧
    (ls [share0 0 [], share0 1 [0, 1]]).stealing 0 3 = false ∧ (launch0 []).desc.cores ≠ 2 ∧
    (launch0 [share0 0 [], share0 1 [0, 1]]).shares.filter (fun y => decide (y.die ≠ 0) && !y.batches.isEmpty) = [share0 1 [0, 1]] ∧
    (ls [share0 0 [], share0 1 [0, 1]]).givenUp (launch0 [share0 0 [], share0 1 [0, 1]]) 1 0 = some 1 ∧
    (ls [share0 0 [], share0 1 []]).givenUp (launch0 [share0 0 [], share0 1 []]) 1 0 = none ∧
    (ls [{ share0 0 [] with coming := [1] }]).launch? 3 = some (launch0 [{ share0 0 [] with coming := [1] }]) ∧
    (let s := { ls [share0 0 [0]] with cycle := [(0, 65536)] }
     decide (s.waitingOn 0 = [launch0 [share0 0 [0]]] ∧ 65536 ≤ s.now 0 - (share0 0 [0]).since)) = true ∧
    roomy = true ∧
    (live (inPhase (.ended 0)) uc).group? 1 = some (inPhase (.ended 0)) ∧
    ((live (inPhase (.ended 0)) uc).drainEnded (inPhase (.ended 0))).groupDone (inPhase (.ended 0)) = true ∧ gc.desc.inh = none ∧
    ({ gc with desc := { placeDesc with inh := some (4, 8) } } : Group).legacy.isSome = true ∧
    (let s := { (live gc uc).setReg 0 0x10008 1000 with cycle := [(0, 1000)] }
     decide (gc.over = false ∧ gc.resident = true ∧ bits (s.ctxReg 0 0x08) 31 0 = 1000 ∧ 1000 ≤ s.now 0 - gc.since)) = true := by decide +kernel
/-- A saved group whose image is small: one crew, one of each register, empty queues. -/
def gSmall : Group :=
  { inPhase (.saved 0) with desc := { placeDesc with nv := 8, ns := 8, nsa := 8, nt := 0, na := 0, scr256 := 0, fq := [] } }
theorem witness_Preemption : (let s := withHandler (live gc uc)
    decide (s.group? 1 = some gc ∧ (s.companions gc).any Group.trapping = false ∧ (s.companions gc).any Group.icinvOpen = false ∧ s.companions gc = [gc])) = true ∧
    ({ gc with wanted := some false } : Group).wanted = some false ∧ (inPhase (.handler 0 trap0)).trapping = true ∧
    (inPhase (.drain 0)).retired = 0 ∧ ((live (inPhase (.saving 0)) uc).group? 1) = some (inPhase (.saving 0)) ∧ (inPhase (.saving 0)).saveWaits = false ∧ (live (inPhase (.saving 0)) uc).unaccepted 1 = false ∧
    (live gc uc).restartable gc = true := by decide +kernel

/-- Where nothing is listed a read finds what memory holds. -/
theorem homeGet_eq {s : State} (h : s.listed = []) (hi : s.ingress = []) (v : View) (a n : Nat) : s.homeGet v a n = s.homeRead v a n := by
  simp [State.homeGet, State.catchUp, State.listedAt, State.waitingAt, h, hi, nget]
/-- A walk that meets a table pointer goes on below it. -/
theorem walkFrom_table {s : State} {v : View} {va f lv tb nx : Nat} {bs : List Byte} (hr : regionOf v tb = .hashed) (ha : v.admits tb false = true)
    (hb : s.homeGet v (tb + 8 * bits va (20 + 9 * lv) (12 + 9 * lv)) 8 = some bs) (he : readEntry s.peer lv va (ofLeBytes bs) = .table nx) :
    s.walkFrom v va (f + 1) lv tb = s.walkFrom v va f (lv - 1) nx := by
  simp only [State.walkFrom, hr, ha, hb, he, Bool.not_true, Bool.false_eq_true, if_false]
/-- A walk that meets a leaf ends with it. -/
theorem walkFrom_leaf {s : State} {v : View} {va f lv tb : Nat} {bs : List Byte} {l : Leaf} (hr : regionOf v tb = .hashed) (ha : v.admits tb false = true)
    (hb : s.homeGet v (tb + 8 * bits va (20 + 9 * lv) (12 + 9 * lv)) 8 = some bs) (he : readEntry s.peer lv va (ofLeBytes bs) = .leaf l) :
    s.walkFrom v va (f + 1) lv tb = .ok l := by
  simp only [State.walkFrom, hr, ha, hb, he, Bool.not_true, Bool.false_eq_true, if_false]
/-- A range of which every byte translates is read, where no codeword is poisoned. -/
theorem hwAddrs_isSome (s : State) (v : View) (ctx : Nat) (n va : Nat)
    (h : ∀ a, va ≤ a → a < va + n → ∃ x, s.xbyte v hwCore ctx a 0 0 7 = .ok x) : (s.hwAddrs v ctx 0 va n).isSome = true := by
  induction n generalizing va with
  | zero => rfl
  | succ n ih =>
    obtain ⟨⟨b, l⟩, hx⟩ := h va (Nat.le_refl _) (by omega)
    obtain ⟨bs, hb⟩ := Option.isSome_iff_exists.mp (ih (va + 1) (fun a h1 h2 => h a (by omega) (by omega)))
    simp [State.hwAddrs, hx, hb]
theorem hwRead_isSome (s : State) (p ctx va n : Nat) (hp : s.poison = []) (hl : s.listed = []) (hi : s.ingress = [])
    (h : ∀ a, va ≤ a → a < va + n → ∃ x, s.xbyte (s.view p) hwCore ctx a 0 0 7 = .ok x) : (s.hwRead p ctx va n).isSome = true := by
  obtain ⟨bs, hb⟩ := Option.isSome_iff_exists.mp (hwAddrs_isSome s (s.view p) ctx n va h)
  have hq : ∀ a, s.poisoned a = false := by intro a; simp [State.poisoned, hp, nget]
  have hg : ∀ l : List Nat, (s.homeBytes (s.view p) l).isSome = true := by
    intro l
    induction l with
    | nil => rfl
    | cons a l ih =>
      obtain ⟨xs, hx⟩ := Option.isSome_iff_exists.mp ih
      simp [State.homeBytes, homeGet_eq hl hi, State.homeRead, hq, hx]
  simp [State.hwRead, hb, hg]

/-- Its launch has nothing else to admit. -/
def oneLeft : Launch := { launch0 [share0 0 []] with id := gSmall.launch }
def sSaved : State := { withHandler (live gSmall uc) with launches := [oneLeft] }
def vSaved : View := sSaved.view 0
def lowLeaf (va : Nat) : Leaf :=
  { frame := 0, va := 0, size := 2 ^ 34, share := 2, repl := false, aflag := false, r := true, w := true, x := true, asked := va }
theorem saved_walk (va : Nat) (h : va < 2 ^ 30) : sSaved.walk vSaved 0 va = .ok (lowLeaf va) := by
  have hz : ∀ lv, 2 ≤ lv → bits va (20 + 9 * lv) (12 + 9 * lv) = 0 := by
    intro lv hl
    have : 2 ^ 30 ≤ 2 ^ (12 + 9 * lv) := Nat.pow_le_pow_right (by omega) (by omega)
    simp [bits, Nat.shiftRight_eq_div_pow, Nat.div_eq_of_lt (Nat.lt_of_lt_of_le h this)]
  have hl : va / 2 ^ 34 = 0 := Nat.div_eq_of_lt (by omega)
  have none' : sSaved.listed = [] := by decide +kernel
  have none2 : sSaved.ingress = [] := by decide +kernel
  have b4 : sSaved.homeGet vSaved 65536 8 = some (leBytes 8 (placeTable + 0x1000 + 1)) := by rw [homeGet_eq none' none2]; decide +kernel
  have b3 : sSaved.homeGet vSaved 69632 8 = some (leBytes 8 (placeTable + 0x2000 + 1)) := by rw [homeGet_eq none' none2]; decide +kernel
  have b2 : sSaved.homeGet vSaved 73728 8 = some (leBytes 8 (7 * 2 ^ 61 + 0x81F)) := by rw [homeGet_eq none' none2]; decide +kernel
  have e2 : readEntry sSaved.peer 2 va (ofLeBytes (leBytes 8 (7 * 2 ^ 61 + 0x81F))) = .leaf (lowLeaf va) := by
    have : ofLeBytes (leBytes 8 (7 * 2 ^ 61 + 0x81F)) = 7 * 2 ^ 61 + 0x81F := by decide +kernel
    have hp : sSaved.peer = 0 := by decide +kernel
    rw [this, hp]
    simp [readEntry, bits, bit, pageLevel, pageSize, lowLeaf, Nat.testBit, Nat.shiftRight_eq_div_pow]
    have hl' : va / 17179869184 = 0 := by omega
    simp [hl']
  have root : bits (sSaved.ctxReg 0 0) 56 12 * 4096 = 65536 := by decide +kernel
  have cold : walkCached (sSaved.dieXlate (vSaved.sliceDie va)).wcache 0 va = none := by
    have hx : sSaved.xlate = [] := by decide +kernel
    simp [State.dieXlate, hx, nget, walkCached]
  rw [State.walk, cold]
  show sSaved.walkFrom vSaved va 5 4 (bits (sSaved.ctxReg 0 0) 56 12 * 4096) = .ok (lowLeaf va)
  rw [root, walkFrom_table (nx := 69632) (by decide +kernel) (by decide +kernel) (by rw [hz 4 (by omega)]; exact b4) (by rfl),
    walkFrom_table (nx := 73728) (by decide +kernel) (by decide +kernel) (by rw [hz 3 (by omega)]; exact b3) (by rfl)]
  exact walkFrom_leaf (by decide +kernel) (by decide +kernel) (by rw [hz 2 (by omega)]; exact b2) e2
theorem saved_xbyte (va : Nat) (h : va < 2 ^ 30) : ∃ x, sSaved.xbyte vSaved hwCore 0 va 0 0 7 = .ok x := by
  have hleaf : sSaved.leafOf vSaved hwCore 0 va = .ok (lowLeaf va) := by
    have he : bit (sSaved.ctxReg 0 0) 0 = true := by decide +kernel
    have ht : (sSaved.core hwCore).tlb = [] := by decide +kernel
    have hx : sSaved.xlate = [] := by decide +kernel
    simp [State.leafOf, he, ht, State.dieXlate, hx, nget, tlbFind, saved_walk va h]
  have hm : va % 2 ^ 45 = va := Nat.mod_eq_of_lt (by omega)
  have hd : va / 2 ^ 45 = 0 := Nat.div_eq_of_lt (by omega)
  have hr : regionOf vSaved va = .hashed := by
    have : vSaved.dies.length * vSaved.lines * 192 = 137438945280 := by decide +kernel
    rw [regionOf, this, if_pos (by omega)]
  have hc : leafCheck vSaved sSaved.peer (lowLeaf va) va 0 0 7 = none := by
    have hp : sSaved.peer = 0 := by decide +kernel
    have h0 : (lowLeaf va).frame + (va - (lowLeaf va).va) = va := Nat.zero_add va
    rw [hp]
    simp only [leafCheck, h0, hm, hd, hr]
    simp [lowLeaf]
  have ha : ∀ a, vSaved.admits a false = true := by
    intro a
    have hi : vSaved.imports = [] := by decide +kernel
    simp [View.admits, View.imported, hi]
  simp only [State.xbyte, hleaf, hc, ha, Bool.not_true, Bool.and_false, Bool.false_eq_true, if_false, decide_false, Nat.zero_ne_one]
  exact ⟨_, rfl⟩
theorem imageOf_isSome (s : State) (g : Group) (k : Nat) (hg : g.phase = .saved k) (hp : s.poison = []) (hl : s.listed = []) (hi : s.ingress = []) (hn : s.slotBase g.ctx + k * s.slotSize g.ctx + (s.imageBytes g true).length ≤ 2 ^ 30)
    (h : ∀ va, va < 2 ^ 30 → ∃ x, s.xbyte (s.view g.part) hwCore g.ctx va 0 0 7 = .ok x) : (s.imageOf g).isSome = true := by
  rw [State.imageOf, hg]
  exact hwRead_isSome s _ _ _ _ hp hl hi (fun a _ h2 => h a (Nat.lt_of_lt_of_le h2 hn))
/-- The group's whole image is in readable storage. -/
theorem saved_readable : (sSaved.imageOf gSmall).isSome = true :=
  imageOf_isSome sSaved gSmall 0 rfl (by decide +kernel) (by decide +kernel) (by decide +kernel) (by decide +kernel) saved_xbyte
/-- The saved group can be restored, as the statement about restoring asks. -/
theorem saved_choice : sSaved.choice 0 = .restore 1 := by
  have h0 : sSaved.parts.any (fun x => decide (x.state = 1) && x.dies.contains 0) = false := by decide +kernel
  have h1 : sSaved.servable 0 = [oneLeft] := by decide +kernel
  have h2 : sSaved.inheritOffer 0 [oneLeft] = none := by decide +kernel
  have h3 : sSaved.savedOf oneLeft 0 = [gSmall] := by decide +kernel
  have h4 : (sSaved.restorePlan gSmall).isSome = true := by decide +kernel
  simp only [State.choice, h0, h1, h2, List.findSome?_cons, State.offer, h3, h4, if_true, Bool.false_eq_true, if_false, Option.getD_some]
  rfl
theorem saved_plan : gSmall.pos.die = 0 ∧ sSaved.group? 1 = some gSmall ∧ (sSaved.restorePlan gSmall).map (fun ps => ps.map Prod.fst) = some [1] := by
  decide +kernel
theorem witness_Restore : sSaved.group? 1 = some gSmall ∧ gSmall.phase = .saved 0 ∧ sSaved.choice gSmall.pos.die = .restore 1 ∧
    ∃ ps, sSaved.restorePlan gSmall = some ps ∧ ps.find? (fun p => ((sSaved.group? p.1).bind sSaved.imageOf).isNone) = none := by
  obtain ⟨hd, hg, hm⟩ := saved_plan
  obtain ⟨ps, hp, he⟩ := Option.map_eq_some_iff.mp hm
  refine ⟨hg, rfl, by rw [hd]; exact saved_choice, ps, hp, ?_⟩
  · obtain ⟨p, rfl, h1⟩ := List.map_eq_singleton_iff.mp he
    have h2 : ((sSaved.group? p.1).bind sSaved.imageOf).isNone = false := by
      rw [h1, hg, Option.bind_some, ← Option.not_isSome, saved_readable]
      rfl
    simp only [List.find?_cons, List.find?_nil, h2]

/-! #### The front-end -/

def word8 (ws : List Nat) : List Byte := (ws ++ List.replicate (8 - ws.length) 0).flatMap (leBytes 8)
def ring (ws : List Nat) : State :=
  let s := live gc uc
  { s.putBytes (storage (s.view 0) 0x5040) (word8 ws) with
    groups := [], queues := [(0, { Queue.empty with base := 0x5000, ctl := 2 ^ 63 + 4, state := 2, prevW := 1 })] }
/-- The packet at the read index is consumed: well formed and joined, with RIDX writable, or malformed. -/
def consumes (ws : List Nat) : Option Bool :=
  let s := ring ws
  let k := s.queue 0
  let s0 := { s with served := nset (fun _ => 0) s.served (bits k.ctl 62 61) 1 }.hwTouch 0 0 (s.packetAt 0) 64
  if !(k.ready && !s.resetting 0) then none
  else match s0.readPacket 0 with
    | none => none
    | some bs => if bs ≠ word8 ws then none
      else if !packetOk bs then some false
      else match s0.joinLevel 0 (packetOpc bs) with
        | none => none
        | some (s1, _) => if (s1.hwWrite 0 0 (k.base + 8) (leBytes 8 1)).isSome then some true else none
/-- Every kind of packet at the ends of its ranges is well formed; one is consumed whole, one malformed. -/
theorem witness_CommandPackets : ([[1, 0x6000, 1], [2, 0x6000, 0xFFFFFFFF], [3, 0x6000, 0, 0, 1], [4, 0x6000, 0], [5, 0, 0, 0, 1], [6, 0x6000, 1, 0], [7, 0x6000, 0, 0, 0],
      [8, 0x6000, 4], [9]] : List (List Nat)).all (fun ws => packetOk (word8 ws)) = true ∧ packetOk (word8 [1, 0x6000, 0]) = false ∧
    consumes [9] = some true ∧ consumes [9, 1] = some false := by decide +kernel
def atHead (ws : List Nat) (since : Nat) : State :=
  let s := ring ws
  s.setQueue 0 { s.queue 0 with head := some (word8 ws), waitSince := since }
def inst0 : Inst :=
  { id := 5, level := .graph, queue := 0, ctx := 0, part := 0, parent := none, recd := 0, expected := some 1, children := 1, done := 0, canc := 0, gdone := 0
    gcanc := 0, launchId := 0, closed := true, finished := false, cancelled := false, torn := false, special := 0, node := 0 }
def copy0 : CopyOp := ⟨6, 0, 0, 0x6000, 0x7000, 16, 0, false, false⟩
theorem witness_CommandsGoOn : (atHead [9] 0).lastCancelled 0 = false ∧ (ring [9]).signalHeld 0 0 0x6000 0 = false ∧ ((ring [9]).signal 0 0 0 0 0x6000 7 0).isSome = true ∧ (atHead [9] 0).mayBegin 0 (word8 [9]) = true ∧
    ((atHead [7, 0x6000, 0, 0, 0] 1).syncRead 0 0 0x6000 8 = some 0 ∧ waitHolds (word8 [7, 0x6000, 0, 0, 0]) 0 = true) ∧
    waitHolds (word8 [7, 0x6000, 1, 1, 0]) 0 = false ∧ (atHead [7, 0x6000, 1, 1, 2 ^ 32] 1).waitTimedOut 0 (word8 [7, 0x6000, 1, 1, 2 ^ 32]) = false ∧
    { atHead [7, 0x6000, 1, 1, 2 ^ 32] 1 with cycle := [(0, 1)] }.waitTimedOut 0 (word8 [7, 0x6000, 1, 1, 2 ^ 32]) = true ∧
    (let s := { ring [9] with insts := [inst0, { inst0 with id := 6, level := .copy, parent := some 5, finished := true }], copies := [copy0]
                              graphs := [⟨5, 0, 0, 0x7000, 0x6000, 1, [(0, 6)], [], false, false⟩] }
     decide (s.copies.find? (fun y => y.inst = 6) = some copy0 ∧ (s.inst? 6).isSome = true ∧ (s.graph? 5).isSome = true ∧ (s.inst? 5) = some inst0 ∧
       (s.inst? 6).all (fun x => !x.cancelled) = true ∧ s.unaccepted 6 = false)) = true ∧
    ((ring [9]).hwRead 0 0 0x5000 8).isSome = true ∧
    (let s := ring [9]
     let off := s.setQueue 0 { s.queue 0 with state := 0, ctl := 0 }
     decide ((off.queue 0).state = 0 ∧ bit (off.queue 0).ctl 63 = false ∧ off.ownsCtx 0 0 = true ∧ bit (off.ctxReg 0 0) 0 = true)) = true ∧
    (((ring [9]).setQueue 0 { (ring [9]).queue 0 with state := 0 }).hwWrite 0 0 0x5008 (leBytes 8 3)).isSome = true := by decide +kernel

/-! #### Translation, homes, mesh and links -/

def tlb0 : TlbEntry := ⟨0, 0x3000, 4096, 1⟩
def walk0 (started : Bool) : Walk := ⟨4, 0, 0, 0x3000, started, 4, placeTable⟩
def xs (x : DieXlate) : State := { live gc uc with groups := [], xlate := [(0, x)] }
theorem witness_Translation : tlbFind ((xs ⟨[tlb0], [], []⟩).dieXlate 0).tlb 0 0x3000 = some tlb0 ∧ tlbFind [] 0 0x3000 = none ∧
    ((xs ⟨[], [], [walk0 false]⟩).dieXlate 0).walks.find? (fun y => !y.started) = some (walk0 false) ∧ bit ((xs ⟨[], [], []⟩).ctxReg 0 0) 0 = true ∧
    (let s := xs ⟨[], [], [walk0 true]⟩
     let v := s.viewOfCore 0 0
     let r := (s.catchUp v (placeTable / 192)).l2Touch v (placeTable / 192) 0
     (match r.homeRead v (placeTable + 8 * bits 0x3000 56 48) 8 with
      | some bs => (match readEntry s.peer 4 0x3000 (ofLeBytes bs) with
        | .table t => decide (t = placeTable + 0x1000)
        | _ => false)
      | none => false) && (match readEntry 0 2 0x3000 (7 * 2 ^ 61 + 0x81F) with
        | .leaf _ => true
        | _ => false) && decide (regionOf v placeTable = .hashed)) = true ∧ bit (0 : Nat) 0 = false := by decide +kernel
theorem witness_TranslationInvalidations : (xs ⟨[tlb0], [], []⟩).olderAccess 0 ((xs ⟨[tlb0], [], []⟩).reg 0 0x1010) = false := by decide +kernel
def req0 : HomeReq := ⟨1, 0x3000, 0, 4, [], none, true, 0, false⟩
/-- The storage line of the request's address. -/
def homeName : Nat := homeKey ((live gc uc).view 0) 64
def hs (l : List Listed) : State := { live gc uc with groups := [], listed := if l.isEmpty then [] else [(homeName, l)] }
def listed0 (acks : List Nat) : Listed := { req := req0, acks := acks }
/-- A slice of which nothing waits, one in whose ingress queue a request to the line waits; a line in flight, one present, one neither;
probes answered by one of two, and by the last. -/
theorem witness_Homes : (hs []).keyOf req0 = homeName ∧ (hs []).listedAt homeName = [] ∧ (hs []).l2Has ((hs []).view 0) 64 = false ∧
    ((hs []).l2Touch ((hs []).view 0) 64 0).l2Has ((hs []).view 0) 64 = true ∧ (needSectors req0).1 = [0] ∧
    (let k := ((hs []).sliceOf ((hs []).view 0) 64).1
     decide ((hs []).missesOf k < 64 ∧ (hs []).ingressOf k = []) && ((hs []).takeIn req0).isSome && decide (((hs []).setIngress k [req0]).ingressOf k = [req0]) &&
       decide ((((hs []).setIngress k (List.replicate 48 req0)).ingressOf k).length = 48) && (hs []).l2Room ((hs []).view 0) 64) = true ∧ (listed0 []).ans = none ∧
    (hs [listed0 []]).listedAt homeName = [listed0 []] ∧ ((hs [listed0 []]).takeIn req0).isSome = true ∧ (hs []).mustAck req0 = [] ∧
    ((hs (List.replicate 32 (listed0 []))).takeIn req0).isNone = true ∧ homeKey ((hs []).viewOfDie 0) 64 = homeName ∧
    (hs [listed0 [0]]).listedAt homeName = [listed0 [0]] ∧ ([0] : List Nat).filter (fun c => decide (c ≠ 0)) = [] ∧
    ([0, 1] : List Nat).filter (fun c => decide (c ≠ 0)) = [1] ∧ (hs []).isHeld 0 64 = false ∧ (hs []).upsets.contains (hs []).free = false := by decide +kernel
def stamped0 : StampedWrite := { w := { frame := 0x4000, size := 4096, off := 8, bytes := [5], queue := 0, owner := 1, id := 2 }, stamp := 0, left := [0, 1] }
theorem witness_Replicas : (hs []).pageHeld ((hs []).view 0) 0x4000 = false ∧
    ([stamped0] : List StampedWrite).find? (fun y => decide (y.w.frame = 0x4000) && y.left.contains 1) = some stamped0 ∧
    (hs []).cutOff (((hs []).view 0).sequencer 0x4000 4096) 0 = false ∧ (hs []).cutOff 0 1 = true ∧
    bits (((hs []).setReg 32 0 (2 ^ 62)).diverged 0 0) 63 62 = 1 ∧ bits (((hs []).setReg 32 8 (2 ^ 63)).diverged 0 1) 63 62 = 2 ∧
    ({ hs [] with upsets := [0] }).upsets.contains (hs []).free = true := by decide +kernel
def pkt0 (arrived : Bool) : MeshPkt :=
  { id := 2, src := 0, dst := 12, cls := 0, seq := 0, credit := false, flits := 1, prio := 0, die := 0, router := 0, inPort := 4
    level := 3, crossings := 0, link := 0, chan := 0, age := 0, arrived := arrived, payload := .l2Fill 64 }
def ms (n : Net) : State := { live gc uc with groups := [], net := n }
theorem witness_MeshPackets : (let s := ms { Net.empty with packets := [pkt0 false] }
    (natsFrom 0 5).any (fun o => (s.granted 0 (pkt0 false).router o).isSome && !(s.grants 0 (pkt0 false).router).contains o) &&
    (let t := s.setGrants 0 (pkt0 false).router [0, 1, 2, 3, 4]
     (natsFrom 0 5).any (fun o => ((t.nextCycle 0 (pkt0 false).router).granted 0 (pkt0 false).router o).isSome)) &&
    decide ((s.net.packets.map (fun p => p.id)).Nodup)) = true ∧
    (let s := ms { Net.empty with packets := [pkt0 true] }
     decide (s.net.packets.find? (fun q => decide (q.id = 2) && q.arrived) = some (pkt0 true) ∧ (s.flow (pkt0 true).src (pkt0 true).dst 0).expect = 0)) = true ∧
    (let s := ms { Net.empty with reorder := [(16, ⟨31, [7, 3]⟩)] }
     decide ((s.reorderPort 5 1).asking = [7, 3] ∧ (s.reorderPort 5 1).granted = 31)) = true := by decide +kernel
/-- Audits by phase: due, marker at the receiver, permits that add up or not, stopped and empty. -/
def ch0 (phase p o : Nat) (stopped : Bool) : Channel := { Channel.empty with phase := phase, p := p, o := o, stopped := stopped }
theorem witness_Audits : (let s := ms { Net.empty with channels := [(33, ch0 0 0 0 false)] }
    decide ((s.channel 1 1).collect = ch0 0 0 0 false ∧ s.auditPeriod 1 ≠ 0 ∧ (ch0 0 0 0 false).nextAudit ≤ s.now (dieOfLink 1))) = true ∧
    (ch0 1 16 0 false).collect.phase = 1 ∧ (ch0 2 16 0 false).collect.p + (ch0 2 16 0 false).collect.o + (ch0 2 16 0 false).collect.c = channelSlots 1 ∧
    (ch0 2 15 0 false).collect.phase = 2 ∧ 15 ≠ channelSlots 1 ∧ (ch0 0 0 0 true).collect.stopped = true ∧ (ch0 0 0 0 true).collect.occupied = 0 := by decide +kernel
def pk0 : AxPkt :=
  { typ := 0x10, srcPeer := 0, srcGw := 0, dstPeer := 0, dstGw := 0, cls := 2, seq := 0, addr := 0, jobTag := 4, epoch := 0, cmp := false, enc := true, ident := 1
    rank := 0, count := 1, op := 0, fmt := 5, timeout := 0, status := 0, nanSeen := false, viaSwitch := false, err := false, tag := 0, mask := 0
    data := leBytes 4 7, elems := [7], parts := [], bitmap := [0], bitmap2 := [] }
/-- The own revisions are free: a peer with none has none in common, and with all of them any own one is in common. -/
theorem witness_Links_revisions (k : Nat) (hk : k < 8) (own : bit (Config.linkRevs 0) k = true) :
    ((natsFrom 0 8).filter (fun k => bit (Config.linkRevs 0 &&& 0) k) = []) ∧
    (∃ m, ((natsFrom 0 8).filter (fun k => bit (Config.linkRevs 0 &&& 255) k)).getLast? = some m) := by
  have h255 : ∀ j, j < 8 → bit 255 j = true := by decide
  have mem8 : ∀ j, j < 8 → j ∈ natsFrom 0 8 := by decide
  have hz : ∀ j, bit 0 j = false := fun j => by simp [bit]
  refine ⟨by simp [hz], ?_⟩
  have hm : k ∈ (natsFrom 0 8).filter (fun k => bit (Config.linkRevs 0 &&& 255) k) := by
    simp only [List.mem_filter]
    refine ⟨mem8 k hk, ?_⟩
    have := h255 k hk
    simp only [bit] at own this ⊢
    simp_all [Nat.testBit_and]
  cases h : ((natsFrom 0 8).filter (fun k => bit (Config.linkRevs 0 &&& 255) k)).getLast? with
  | none => rw [List.getLast?_eq_none_iff] at h; simp [h] at hm
  | some m => exact ⟨m, rfl⟩
def upLinks (s : State) (ks : List Nat) : State := ks.foldl (fun t k => t.setLinkStatus k (0xFF0002)) s
theorem witness_Links : (1 : Nat) < 32 ∧ 1 % 8 < 6 ∧ (upLinks (live gc uc) [1]).linkUp 1 = true ∧
    setBits (bits ((upLinks (live gc uc) [1]).linkStatus 1) 23 16) 7 6 0 ≠ 0 ∧ setBits 0xC0 7 6 0 = 0 ∧
    (let s := upLinks (live gc uc) [1, 8]
     decide (otherEnd 1 = 8 ∧ (1 : Nat) % 8 ≠ 1 / 8 ∧ 0 < bits (s.linkStatus 1) 23 22) && (s.narrow 1 3 0).linkUp (otherEnd 1) &&
       !(((upLinks (live gc uc) [1]).narrow 1 3 0).linkUp 8)) = true ∧
    ({ upLinks (live gc uc) [4] with trust := { Trust.reset with service := 2 } } : State).portUp 0 = true ∧ axReserved pk0 = false ∧ (live gc uc).resealFull pk0 = false ∧
    ((live gc uc).reg pkgRegs (failCount 1) + 1 < 3) ∧ (3 ≤ ((live gc uc).setReg pkgRegs (failCount 1) 2).reg pkgRegs (failCount 1) + 1) ∧
    (let two : Part := { id := 0, dies := [0, 1], state := 0, channels := [64, 64] }
     let s : State := { live gc uc with parts := [two] }
     decide (s.partOfDie 0 = some two) && !(s.severed two).isEmpty) = true ∧ ((live gc uc).partOfDie 0).isSome = true ∧
    (let x : SentPkt := ⟨{ pk0 with seq := 9, dstPeer := 1 }, true, 0, 4⟩
     let s := { ms { Net.empty with axSent := [x] } with cycle := [(0, 0x100000)] }
     decide (x.left = true ∧ x.since + 0x100000 ≤ s.now 0) && s.net.axSent.any (fun y => decide (y.pkt.seq = 9))) = true := by decide +kernel

/-! #### Collectives and the outside -/

def collI : Instr := .coll (viaU 4 4) ⟨4, 8, true, true, 0, false, false, false, 0, 0⟩ 0
/-- One pointer for source, result and record, in the scratchpad, 64 bytes aligned. -/
def pScr : Ptr := { p0 with space := 2, base := 0, len := 64 }
theorem witness_Collectives : (let g := sliced (crewed gc (inS pScr)) id
    let x := issueCtx collI uc g
    let c := begunCrew collI uc g
    let h := begunGroup collI uc g
    let t := begunState collI (live g uc) uc g
    let q : CollReq := { recd := ptrOf (c.squad 4), src := ptrOf (x.a c 0), dst := ptrOf (x.b c 0), desc := x.c c 0, op := 0 }
    issuesB collI (live g uc) uc g && decide (x.act ≠ 0 ∧ collChecks h q = none ∧ c.cp < 63) &&
      (collRange t (t.viewOf h) 0 h.ctx h.param 0 q.src).toOption.isSome && (collRange t (t.viewOf h) 0 h.ctx h.param 1 q.dst).toOption.isSome &&
      (collRange t (t.viewOf h) 0 h.ctx h.param 1 q.recd).toOption.isSome && !t.commitHeld h &&
      cmdReady h { id := t.nextId, unit := uc.unit, addr := uc.addr, kind := .coll (q.cmd true [] [] [] (some 0)) } &&
      (collChecks h { q with src := { q.src with valid := false } }).isSome) = true ∧
    (let j : JobEntry := ⟨0, 0, 4, true, 5, [⟨0, 0⟩], [], []⟩
     let s := ms { Net.empty with jobs := [j] }
     let p := { pk0 with tag := 3 }
     let x : SentPkt := ⟨p, true, 0, 0⟩
     let mine := fun (y : SentPkt) => decide (y.pkt.srcGw = p.srcGw ∧ y.pkt.dstPeer = p.dstPeer ∧ y.pkt.dstGw = p.dstGw ∧ y.pkt.cls = p.cls ∧ y.pkt.seq = p.seq)
     decide ((ms { Net.empty with axSent := [x] }).net.axSent.find? mine = some x ∧ s.net.axSent.find? mine = none) && !axReserved pk0 &&
       !(({ pk0 with srcPeer := 1, enc := false }).enc && pk0.tagOk) && decide (({ pk0 with srcPeer := 1 } : AxPkt).srcPeer ≠ s.peer) &&
     decide (s.jobOf 4 = some j ∧ ({ pk0 with epoch := 4 }.epoch + 1) % 256 = j.epoch ∧ pk0.srcPeer = s.peer ∧ pk0.epoch ≠ j.epoch ∧ (pk0.epoch + 1) % 256 ≠ j.epoch ∧ pk0.tag = 0)) = true ∧
    (let r : RootSlot := ⟨4, 1, 0, 0, 5, 1, 4, 10, 0, [], [], false⟩
     decide (r.expired 10 = true ∧ r.expired 9 = false) && decide ((ms { Net.empty with roots := [r] }).rootSlot? 4 1 = some r) &&
       decide (r.op = pk0.op ∧ r.fmt = pk0.fmt ∧ r.count = pk0.count ∧ r.len = elemBytesOf pk0) &&
       decide (r.count ≤ (addParts r.parts (heldBy pk0)).length)) = true ∧
    (let r : Retained := ⟨4, 1, 0, 0, [0], [], 1, 0, 0⟩
     decide (r.over 0x100000 = true ∧ (ms { Net.empty with retained := [r] }).retained? 4 1 = some r)) = true ∧
    (let y : SwitchSlot := ⟨2, 4, 1, pk0, [], 0⟩
     decide ((ms { Net.empty with switchSlots := [y] }).switchSlot? 2 4 1 = some y)) = true := by decide +kernel
def tlp0 : Tlp := { port := 0, requester := 9, off := 0x3000, len := 8, data := leBytes 8 5, op := 0, secure := false, intact := true, stream := 0 }
/-- A window of 2 MiB onto the first virtual addresses of context 0, both directions. -/
def win (s : State) : State := (s.setReg 16 0x2000 (2 ^ 63 + 3 * 2 ^ 61 + 21 * 2 ^ 8)).setReg 16 0x2010 0
theorem witness_Outside : (let p := { pk0 with srcPeer := 1, cls := 0 }
    let s := live gc uc
    !axReserved p && axReserved { p with cls := 3 } && decide (s.axHeld p.dstGw < 4096) && decide (p.tag < 2 ^ 32) &&
    decide (p.srcPeer ≠ s.peer ∧ p.seq = nget (fun _ => 0) s.net.axExpect (axFlowIn p)) &&
      decide (({ p with seq := 1 }.seq + 65536 - 0) % 65536 < 4096 ∧ 4096 ≤ ({ p with seq := 65535 }.seq + 65536 - 0) % 65536)) = true ∧
    (let s := win (live gc uc)
     decide ((s.ideGate tlp0).2 = .pass ∧ tlp0.off < 2 ^ 40) && ((s.ideGate tlp0).1.inAddrs tlp0 0x3000 8 true).isSome &&
       ((s.ideGate tlp0).1.inAddrs tlp0 0x3000 8 false).isSome && ((live gc uc).inAddrs tlp0 0x3000 8 true).isNone &&
       decide ((s.ideGate { tlp0 with secure := true, intact := false }).2 = .discard) && !(s.ideGate tlp0).1.unaccepted (tlpOwner tlp0) &&
       (match (s.ideGate tlp0).1.inAddrs tlp0 0x3000 8 true with
        | some (x, bs) => bs.all (fun b => decide (b.share = 2 ∧ b.repl = 0)) &&
          (let s1 := (s.ideGate tlp0).1
           let v := s1.view x.id
           let r : HomeReq := { id := 0, addr := (bs.map (fun b => b.pa % 2 ^ 45)).headD 0, op := tlpOp tlp0, len := 8, data := tlp0.data
                                core := none, coherent := true, part := x.id }
           ((s1.catchUp v (lineOf r)).performAt v r).2.isSome)
        | none => false)) = true ∧
    windowShape 0xFFFF8 8 = true ∧ windowShape 4 4 = true ∧
    (let r : RemoteReq := { tag := 5, gid := 0, fid := 0, lane := 0, op := 0, pa := 0, len := 8, data := [], mask := 0, queue := 0, part := 0, since := 0, core := 0 }
     decide (({ live gc uc with remote := [r] }).remote.find? (fun y => y.tag = 5) = some r)) = true ∧
    (let a : Part := { id := 0, dies := [0], state := 0, channels := [64] }
     let b : Part := { id := 1, dies := [1], state := 0, channels := [64] }
     let s := { upLinks (live gc uc) [1, 8] with parts := [a, b] }
     let r : HomeReq := ⟨1, dieBase 1, 0, 8, [], none, true, 0, false⟩
     let open' := (s.setReg 1 0x60000 (2 ^ 63 + 21 + 1 * 2 ^ 8)).setReg 1 0x60008 (dieBase 1)
     s.linked 0 r && (s.admits 0 1 r).isNone && (open'.admits 0 1 r).isSome) = true ∧
    (let s := live gc uc
     decide (bit (s.reg 0 0x60000) 63 = false ∧ s.net.admitted.any (fun y => decide (y.2 = (0, 0))) = false)) = true := by decide +kernel

/-! #### Registers, resets, the trust die -/

theorem witness_RegisterWrites : (live gc uc).part? 0 = some placePart ∧ (live gc uc).part? 1 = none ∧ (live gc uc).ownsCtx 0 15 = true ∧
    (live gc uc).ownsCtx 0 16 = false ∧ placePart.dies.Nodup ∧ (live gc uc).capOf placePart = 487500 ∧ 487500 * 95 ≤ 463125 * 100 ∧ 463124 * 100 < 487500 * 95 ∧
    (live gc uc).partOfDie 0 = some placePart ∧ (live gc uc).partOfDie 1 = none ∧ placePart.state ≠ 1 ∧
    (live gc uc).trust.trained.contains 3 = false := by decide +kernel
theorem witness_Resets : (let r : Part := { placePart with state := 1 }
    let s : State := { live gc uc with parts := [r] }
    decide (s.part? 0 = some r) && !((s.groups.filter (fun (g : Group) => decide (g.part = 0))).all Group.stopped) &&
      decide (s.now (s.leadDie 0) < s.reg 0 resetSince + bits (s.reg 0 0x20) 31 0)) = true ∧
    [inPhase (.ended 1)].all Group.stopped = true ∧ State.reset.trust.verifies 4 = true ∧
    ({ State.reset.trust with images := [] }).verifies 4 = false ∧ (State.reset.trust.image? 3).isSome = true ∧ (3 : Nat) ∉ State.reset.trust.released ∧
    (let t : Trust := { Trust.reset with service := 1, released := [0, 1, 2], failed := [3], layout := 1 }
     let s : State := { live gc uc with trust := t }
     (natsFrom 0 4).all (fun d => t.released.contains d || t.failed.contains d) && decide (t.layout ≠ 0 ∧ t.forming = false) &&
       decide (t.released.head?.bind s.partOfDie = some placePart) && decide (s.part? 0 = some placePart) && (layoutDies t.layout).contains [0, 1]) = true := by decide +kernel
theorem witness_TrustDie : ((live gc uc).part? 1).isNone = true ∧ (live gc uc).mailBar 0 0 = none ∧ (live gc uc).mailBar 0 16 = some 2 ∧
    (let j : JobEntry := ⟨0, 0, 4, true, 255, [⟨0, 0⟩], [], []⟩
     decide ((ms { Net.empty with jobs := [j] }).jobOfCtx 0 = some j)) = true ∧
    Trust.reset.accepts ⟨4, 1, 0, true⟩ = true ∧ Trust.reset.accepts ⟨4, 1, 0, false⟩ = false ∧ nfind? Trust.reset.measured 8 = none ∧
    (let four := (natsFrom 1 4).map (fun k => (⟨0, k, k, decide (k = 4)⟩ : Session))
     let s : State := { live gc uc with trust := { Trust.reset with sessions := four } }
     decide ((s.trust.sessions.filter (fun x => decide (x.port = 0))).length = 4) && (s.session? 0 5 false).isNone && (s.session? 0 3 false).isSome &&
       (s.session? 0 3 true).isNone && (s.session? 0 4 true).isSome) = true := by decide +kernel

/-! ### Results worked out in the spec (R77, R79, R80, R105, R143, R146, R178) -/

/-- What register `d` of lane 0 holds after one issue with some registers of lane 0 set. -/
def result (i : Instr) (regs : List (Nat × Nat)) (d : Nat) : Option Nat :=
  let g := crewed gc (fun c => regs.foldl (fun c r => c.vset r.1 0 (BitVec.ofNat 32 r.2)) c)
  match exec i (live g uc) with
  | .next t => (t.group? 1).map (fun h => ((h.unit 0).vget d 0).toNat)
  | _ => none
def three (t : BitVec 5) (sat : Bool) (sub : BitVec 4) : Word1 := ⟨2, 3, false, false, 0, false, false, sat, t, sub⟩
def one0 : Word0 := viaA 9 1

/-- `bf16` sums in one rounding: 1 + 2⁻²³, the even neighbour of a half-way sum, and an exact 2⁻⁹. -/
theorem test_fdot2_rounds_once :
    result (.fdot2 one0 (three 0x0C false 0)) [(1, 0x33803F80), (2, 0x3F803F80), (3, 0x33800000)] 9 = some 0x3F800001 ∧
    result (.fdot2 one0 (three 0x0C false 0)) [(1, 0x3B003F80), (2, 0x3F803F80), (3, 0x33800000)] 9 = some 0x3F804000 ∧
    result (.fdot2 one0 (three 0x0C false 0)) [(1, 0x3B003F80), (2, 0x3F803F80), (3, 0xBF800000)] 9 = some 0x3B000000 := by decide +kernel
theorem test_fdot4_of_e4m3 :
    result (.fdot4 one0 (three 0x0E false 0)) [(1, 0x0001FE7E), (2, 0x00387E7E), (3, 0x3F800000)] 9 = some 0x3F804000 ∧
    result (.fdot4 one0 { three 0x0E false 0 with fzi := true }) [(1, 0x0001FE7E), (2, 0x00387E7E), (3, 0x3F800000)] 9 = some 0x3F800000 := by
  decide +kernel
theorem test_saturation :
    result (.iadd one0 { three 0x06 true 0 with c := 0 }) [(1, 0x7FFFFFFF), (2, 1)] 9 = some 0x7FFFFFFF ∧
    result (.isub one0 { three 0x05 true 0 with c := 0 }) [(1, 1), (2, 2)] 9 = some 0 ∧
    result (.iadif one0 { three 0x06 true 0 with c := 0 }) [(1, 0x7FFFFFFF), (2, 0x80000000)] 9 = some 0x7FFFFFFF := by decide +kernel
/-- +∞ converted to `fp16`, from `fp16` and from `e5m2`, saturating and not. -/
theorem test_infinite_input_of_a_conversion :
    result (.fcvt one0 ⟨0, 0x0B, false, false, 0, false, false, true, 0x0B, 0⟩) [(1, 0x7C00)] 9 = some 0x7BFF ∧
    result (.fcvt one0 ⟨0, 0x0D, false, false, 0, false, false, true, 0x0B, 0⟩) [(1, 0x7C)] 9 = some 0x7BFF ∧
    result (.fcvt one0 ⟨0, 0x0D, false, false, 0, false, false, false, 0x0B, 0⟩) [(1, 0x7C)] 9 = some 0x7C00 := by decide +kernel
/-- The row 14.5, −3, 0.3, 1.25 in `mx4e2m1`; 0.3 is taken as the `fp32` value nearest to it. -/
theorem test_mx4_row : (quantMx 0x24 ([.fin false 29 (-1), .fin true 3 0, fp32F.read 0x3E99999A, .fin false 5 (-2)] ++
    List.replicate 28 (.fin false 0 0))) = (0x81, [8, 11, 0, 1] ++ List.replicate 28 0) := by decide +kernel
/-- The `DBNZ` of the spec's loop: s4 counts down and the branch is taken back by 32. -/
def loopOnce (n : Nat) : Option (Nat × Nat) :=
  match exec (.dbnz ⟨15, false, 4, 0, false⟩ (bOnly 0) (BitVec.ofInt 32 (-32))) (live (sliced gs (fun c => c.sset 4 (BitVec.ofNat 32 n))) { us with ilen := 12 }) with
  | .next t => (t.group? 1).map (fun h => ((h.unit 32).sget 4 |>.toNat, (h.unit 32).pcOf 0))
  | _ => none
theorem test_dbnz : loopOnce 3 = some (2, 0xFE0) ∧ loopOnce 2 = some (1, 0xFE0) ∧ loopOnce 1 = some (0, 0x100C) := by decide +kernel
/-- The spec's group of sixteen bf16 elements (R457): 185 bits compressed; written raw in 257 bits once element 5 is +0; both read back. -/
def sixteen (x5 : Dword) : List Dword := List.replicate 3 0x3F80 ++ [0xC020, 0x3F80, x5] ++ List.replicate 10 0x3F80
theorem test_exponent_compression : (packElems 0x0C (sixteen 0x3F80)).length = 185 ∧ (packElems 0x0C (sixteen 0)).length = 257 ∧
    unpackElems 0x0C 1 16 (packElems 0x0C (sixteen 0x3F80)) = sixteen 0x3F80 ∧ unpackElems 0x0C 1 16 (packElems 0x0C (sixteen 0)) = sixteen 0 := by
  decide +kernel
/-- The exact sum field (R463): 1.0 + 1.0 − 2^-149 with +∞ seen. -/
theorem test_exact_sum_field : exactField 0x0A [0x3F800000, 0x3F800000, 0x80000001, 0x7F800000] = 2 ^ 161 - 2 ^ 11 + 2 ^ 317 := by decide +kernel
/-- A crew's record and a sector read back are what was saved (Tables 15-9 and 15-10). -/
def rich : Crew :=
  { Crew.fresh (allLanes.map (fun l => (l, 0x1000 + 4 * l))) 0 0 with
    ld := 2, st := 3, cp := 1, tl := 4, partw := 8
    parks := [(31, ⟨false, 0, 7, 5⟩)], pass := [(4, 0x3000)], wait := [(2, .asleep 77 0x1008), (5, .counted 0 3 9 0x2220)] }
theorem test_record_reads_back : ({ rich with ld := 0, partw := 0, parks := [], exited := 1 } : Crew).fromRecord rich.record = rich := by decide +kernel
def sector : Sector := ⟨48 * 77, [(0, 1), (47, 4)], 1, 0, false, []⟩
theorem test_sector_reads_back : ({ sector with addr := 0, data := [] } : Sector).fromBytes sector.bytes = sector := by decide +kernel

end Sys2Proof.Tests
end

section
/-! What a write of D or of a predicate in the active lanes reads back as (R22 to R24, R131, R132, R134). -/
namespace Sys2Proof.Machine
open Sys2Proof

/-! ### Lanes of a mask -/

theorem lt_of_mem_lanesOf {m : Word} {l : Nat} (h : l ∈ lanesOf m) : l < 32 := by
  have h' : l ∈ allLanes := List.mem_of_mem_filter h
  have := (mem_natsFrom 32 0 l).1 h'
  omega

theorem getLsbD_laneBit (m l : Nat) (hl : l < 32) : (laneBit m).getLsbD l = decide (l = m) := by
  simp only [laneBit, BitVec.getLsbD_shiftLeft, hl, decide_true, Bool.true_and]
  by_cases h : l = m <;> simp [h]
  omega

theorem getLsbD_setLane (w : Word) (m l : Nat) (b : Bool) (hl : l < 32) :
    (setLane w m b).getLsbD l = if l = m then b else w.getLsbD l := by
  have hb := getLsbD_laneBit m l hl
  cases b with
  | true =>
    rw [setLane, if_pos rfl, BitVec.getLsbD_or, hb]
    by_cases h : l = m <;> simp [h]
  | false =>
    rw [setLane, if_neg Bool.false_ne_true, BitVec.getLsbD_and, BitVec.getLsbD_not, hb]
    by_cases h : l = m <;> simp [h, hl]

/-! ### One write, and the same write in each active lane

A read of a crew is any function of it; what a repeated write leaves follows from what one write leaves. -/

/-- Words of a number are counted one lower once its lowest word has been dropped (R24). -/
theorem word_of_rest {j k : Nat} (v : Nat) (h : k + 1 ≤ j) : v / 2 ^ 32 / 2 ^ (32 * (j - (k + 1))) = v / 2 ^ (32 * (j - k)) := by
  rw [Nat.div_div_eq_div_mul, ← pow_add]
  congr 2
  omega

/-- A write of `n` consecutive registers from `k` on, seen by a read that one write of register `j` reaches where `P` holds. -/
theorem Ctx.read_setN (x : Ctx) (m j : Nat) (read : Crew → Word) (P : Prop) [Decidable P]
    (h : ∀ c k w, read (if x.access then c.sset k w else c.vset k m w) = if j = k ∧ P then w else read c) :
    ∀ (n : Nat) (c : Crew) (k v : Nat), read (x.setN m c k n v) =
      if P ∧ k ≤ j ∧ j < k + n then BitVec.ofNat 32 (v / 2 ^ (32 * (j - k))) else read c
  | 0, c, k, v => by
    rw [if_neg (by omega)]
    rfl
  | n + 1, c, k, v => by
    show read (x.setN m _ (k + 1) n (v / 2 ^ 32)) = _
    rw [Ctx.read_setN x m j read P h n, h]
    by_cases hp : P
    · rcases Nat.lt_trichotomy j k with hj | rfl | hj
      · rw [if_neg (by omega), if_neg (by omega), if_neg (by omega)]
      · simp [hp]
      · have hjk : j ≠ k := by omega
        simp only [hp, true_and, hjk, false_and, if_false, word_of_rest v hj,
          show (k + 1 ≤ j ∧ j < k + 1 + n) ↔ (k ≤ j ∧ j < k + (n + 1)) by omega]
    · simp [hp]

/-- A step done in each active lane, seen by a read that the step of lane `m` sets to `new` where `p m` holds and leaves elsewhere. -/
theorem Ctx.read_each {β : Type} (x : Ctx) (step : Crew → Nat → Crew) (read : Crew → β) (new : β) (p : Nat → Prop) [DecidablePred p]
    (h : ∀ c, ∀ m ∈ x.lanes, read (step c m) = if p m then new else read c) (c : Crew) :
    read (x.each c step) = if ∃ m ∈ x.lanes, p m then new else read c := by
  unfold Ctx.each
  revert h
  generalize x.lanes = ls
  intro h
  induction ls generalizing c with
  | nil => simp
  | cons m ls ih =>
    rw [List.foldl_cons, ih _ (fun c k hk => h c k (List.mem_cons_of_mem m hk)), h c m List.mem_cons_self]
    by_cases hm : p m <;> simp [hm]

/-- What no single write of the destination class changes, writing D in the active lanes leaves. -/
theorem Ctx.read_eachD_of_keeps (x : Ctx) (f : Nat → Nat) (read : Crew → Word)
    (h : ∀ c k m w, read (if x.access then c.sset k w else c.vset k m w) = read c) (c : Crew) : read (x.eachD c f) = read c := by
  have hD : ∀ c, ∀ m ∈ x.lanes, read (x.setD c m (f m)) = if False then 0 else read c := by
    intro c m _
    have := x.read_setN m 0 read False (fun c k w => by simp [h]) x.row.d.count c x.fl.f.d.toNat (f m)
    simpa [Ctx.setD] using this
  simpa [Ctx.eachD] using x.read_each _ read 0 (fun _ => False) hD c

/-! ### D in a crew and in the access slice -/

theorem Ctx.vget_setD {x : Ctx} (hx : x.access = false) (c : Crew) (k v : Nat) {l m : Nat} (hl : l < 32) (hm : m < 32) :
    (x.setD c m v).vget k l =
      if (l = m ∧ k ≠ 255) ∧ x.fl.f.d.toNat ≤ k ∧ k < x.fl.f.d.toNat + x.row.d.count
      then BitVec.ofNat 32 (v / 2 ^ (32 * (k - x.fl.f.d.toNat))) else c.vget k l := by
  refine x.read_setN m k (fun c => c.vget k l) (l = m ∧ k ≠ 255) (fun c j w => ?_) x.row.d.count c x.fl.f.d.toNat v
  simp only [hx, Bool.false_eq_true, if_false, Crew.vget_vset c j m k l w hm hl]
  by_cases hk : k = j <;> simp [hk]

theorem Ctx.sget_setD {x : Ctx} (hx : x.access = true) (c : Crew) (k m v : Nat) :
    (x.setD c m v).sget k =
      if k ≠ 63 ∧ x.fl.f.d.toNat ≤ k ∧ k < x.fl.f.d.toNat + x.row.d.count
      then BitVec.ofNat 32 (v / 2 ^ (32 * (k - x.fl.f.d.toNat))) else c.sget k := by
  refine x.read_setN m k (fun c => c.sget k) (k ≠ 63) (fun c j w => ?_) x.row.d.count c x.fl.f.d.toNat v
  simp only [hx, if_true, Crew.sget_sset]
  by_cases hk : k = j <;> simp [hk]

theorem Ctx.vget_eachD {x : Ctx} (hx : x.access = false) (c : Crew) (f : Nat → Nat) (k : Nat) {l : Nat} (hl : l < 32) :
    (x.eachD c f).vget k l =
      if l ∈ x.lanes ∧ k ≠ 255 ∧ x.fl.f.d.toNat ≤ k ∧ k < x.fl.f.d.toNat + x.row.d.count
      then BitVec.ofNat 32 (f l / 2 ^ (32 * (k - x.fl.f.d.toNat))) else c.vget k l := by
  have h := x.read_each (fun d m => x.setD d m (f m)) (fun c => c.vget k l) (BitVec.ofNat 32 (f l / 2 ^ (32 * (k - x.fl.f.d.toNat))))
    (fun m => l = m ∧ k ≠ 255 ∧ x.fl.f.d.toNat ≤ k ∧ k < x.fl.f.d.toNat + x.row.d.count) (fun c m hm => ?_) c
  · simpa [Ctx.eachD] using h
  · rw [Ctx.vget_setD hx c k (f m) hl (lt_of_mem_lanesOf hm)]
    by_cases hlm : l = m <;> simp [hlm]

theorem Ctx.sget_eachD {x : Ctx} {l : Nat} (hx : x.access = true) (hl : x.lanes = [l]) (c : Crew) (f : Nat → Nat) (k : Nat) :
    (x.eachD c f).sget k =
      if k ≠ 63 ∧ x.fl.f.d.toNat ≤ k ∧ k < x.fl.f.d.toNat + x.row.d.count
      then BitVec.ofNat 32 (f l / 2 ^ (32 * (k - x.fl.f.d.toNat))) else c.sget k := by
  simp only [Ctx.eachD, Ctx.each, hl, List.foldl_cons, List.foldl_nil]
  exact Ctx.sget_setD hx c k l (f l)

/-- Writing D in a crew leaves its uniform registers, which are another class (R22). -/
theorem Ctx.sget_eachD_crew {x : Ctx} (hx : x.access = false) (c : Crew) (f : Nat → Nat) (k : Nat) : (x.eachD c f).sget k = c.sget k :=
  x.read_eachD_of_keeps f (fun c => c.sget k) (fun c j m w => by simp [hx]) c

/-- Writing D in the access slice leaves vector registers. -/
theorem Ctx.vget_eachD_slice {x : Ctx} (hx : x.access = true) (c : Crew) (f : Nat → Nat) (k l : Nat) :
    (x.eachD c f).vget k l = c.vget k l :=
  x.read_eachD_of_keeps f (fun c => c.vget k l) (fun c j m w => by simp [hx]) c

theorem Ctx.pget_eachD (x : Ctx) (c : Crew) (f : Nat → Nat) (k : Nat) : (x.eachD c f).pget k = c.pget k :=
  x.read_eachD_of_keeps f (fun c => c.pget k) (fun c j m w => by split <;> simp) c

/-! ### A predicate -/

theorem predAt_pset (c : Crew) (p m k : Nat) (b : Bool) {l : Nat} (hl : l < 32) :
    predAt (c.pset p m b) k l = if k = p ∧ p ≠ 15 ∧ l = m then b else predAt c k l := by
  simp only [predAt, Crew.pset, Crew.pget_psetAll]
  by_cases hk : k = p ∧ p ≠ 15
  · obtain ⟨rfl, hp⟩ := hk
    simp [hp, getLsbD_setLane _ _ _ _ hl]
  · rw [if_neg hk, if_neg (fun h => hk ⟨h.1, h.2.1⟩)]

theorem predAt_eachP (x : Ctx) (c : Crew) (p k : Nat) (f : Nat → Bool) {l : Nat} (hl : l < 32) :
    predAt (x.eachP c p f) k l = if k = p ∧ p ≠ 15 ∧ l ∈ x.lanes then f l else predAt c k l := by
  have h := x.read_each (fun d m => d.pset p m (f m)) (fun c => predAt c k l) (f l) (fun m => k = p ∧ p ≠ 15 ∧ l = m)
    (fun c m _ => ?_) c
  · have hex : (∃ m ∈ x.lanes, k = p ∧ p ≠ 15 ∧ l = m) ↔ k = p ∧ p ≠ 15 ∧ l ∈ x.lanes :=
      ⟨fun ⟨m, hm, hk, hp, hlm⟩ => ⟨hk, hp, hlm ▸ hm⟩, fun ⟨hk, hp, hm⟩ => ⟨l, hm, hk, hp, rfl⟩⟩
    simpa only [Ctx.eachP, hex] using h
  · rw [predAt_pset c p m k (f m) hl]
    by_cases hlm : l = m <;> simp [hlm]

/-- Settles O13, from what one write of D or of a predicate reads back as, carried over the active lanes. -/
theorem destinationWritesReadBack : Obligations.DestinationWritesReadBack := by
  refine ⟨fun x c f k l hx hl => Ctx.vget_eachD hx c f k hl, fun x c f k l hx hl => Ctx.sget_eachD hx hl c f k,
    fun x c f => ⟨fun k hx => Ctx.sget_eachD_crew hx c f k, fun k l hx => Ctx.vget_eachD_slice hx c f k l, Ctx.pget_eachD x c f⟩,
    fun x c p f k l hl => predAt_eachP x c p k f hl, fun c => ⟨c.vget_255, c.sget_63, c.pget_15⟩⟩

end Sys2Proof.Machine
end

section
/-! What a die distributor admits, steals and gives up, whom it makes wait or pre-empts, and what an ended group leaves
(R15, R16, R299, R407, R409 to R411, R427). -/
namespace Sys2Proof.Machine
open Sys2Proof

/-! ### A new group (R15) -/

@[simp] theorem placeCrews_length : ∀ (n : Nat) (load : List Nat), (placeCrews n load).length = n
  | 0, _ => rfl
  | n + 1, load => by simp [placeCrews, placeCrews_length n]

@[simp] theorem newGroup_crews_length (s : State) (l : Launch) (n gang core scr : Nat) (vals : Option (NMap Word)) :
    (newGroup s l n gang core scr vals).crews.length = l.crews := by simp [newGroup]

/-- A map that lists each key of a list with one value. -/
theorem nget_map_const {α : Type} (d : Nat → α) (a : α) {k : Nat} : ∀ {ls : List Nat}, k ∈ ls → nget d (ls.map (fun i => (i, a))) k = a
  | x :: ls, h => by
    by_cases hx : k = x
    · simp [nget, hx]
    · simpa [nget, hx] using nget_map_const d a ((List.mem_cons.1 h).resolve_left hx)

/-- The vector registers with which crew `u` of a new group starts: those inherited, or none (R15, R21). -/
def startRegs (vals : Option (NMap Word)) (u : Nat) : NMap Word :=
  match vals with
  | some m => inheritCrew m u
  | none => []

/-- Crew `u` of a new group: a fresh crew at the kernel's entry, on a quadrant, with its starting registers. -/
def startCrew (entry quadrant : Nat) (vals : Option (NMap Word)) (u : Nat) : Crew :=
  { Crew.fresh (allLanes.map (fun i => (i, entry))) 0 quadrant with v := startRegs vals u }

theorem pcOf_startCrew (entry q : Nat) (vals : Option (NMap Word)) (u : Nat) {k : Nat} (hk : k < 32) :
    (startCrew entry q vals u).pcOf k = entry := nget_map_const _ entry ((mem_natsFrom 32 0 k).2 (by omega))
theorem vget_startCrew_none (entry q u k l : Nat) : (startCrew entry q none u).vget k l = 0 := ite_self 0
theorem sget_startCrew (entry q : Nat) (vals : Option (NMap Word)) (u k : Nat) : (startCrew entry q vals u).sget k = 0 := ite_self 0
theorem pget_startCrew (entry q : Nat) (vals : Option (NMap Word)) (u : Nat) {k : Nat} (hk : k ≠ 15) :
    (startCrew entry q vals u).pget k = 0 := if_neg hk

theorem newGroup_crew {s : State} {l : Launch} {n gang core scr : Nat} {vals : Option (NMap Word)} {c : Crew} {u : Nat}
    (h : (c, u) ∈ (newGroup s l n gang core scr vals).crews.zipIdx) : ∃ q, c = startCrew l.desc.exec q vals u := by
  simp only [newGroup, List.mem_zipIdx_iff_getElem?, List.getElem?_map, List.getElem?_zipIdx, Option.map_eq_some_iff] at h
  obtain ⟨_, ⟨q, _, rfl⟩, rfl⟩ := h
  refine ⟨q, ?_⟩
  cases vals with
  | none => rfl
  | some m => simp [startCrew, startRegs]

/-! ### The best of a list -/

/-- Folding with a choice that is at least as good as both of what it chooses between gives one at least as good as all. -/
theorem foldl_best {α : Type} {R : α → α → Prop} {f : α → α → α} (refl : ∀ a, R a a) (trans : ∀ {a b c}, R a b → R b c → R a c)
    (left : ∀ a b, R (f a b) a) (right : ∀ a b, R (f a b) b) : ∀ (r : List α) (y : α), ∀ z ∈ y :: r, R (r.foldl f y) z
  | [], y, z, hz => by
    obtain rfl := List.mem_singleton.1 hz
    exact refl z
  | x :: r, y, z, hz => by
    have ih := foldl_best refl trans left right r (f y x)
    have hbest := ih (f y x) List.mem_cons_self
    rcases List.mem_cons.1 hz with rfl | hz
    · exact trans hbest (left _ _)
    · rcases List.mem_cons.1 hz with rfl | hz
      · exact trans hbest (right _ _)
      · exact ih z (List.mem_cons_of_mem _ hz)

/-- A die is asked for a batch rather than another: it has more batches not begun, or as many and the lower number (R407). -/
def Share.Preferred (v z : Share) : Prop := z.batches.length ≤ v.batches.length ∧ (z.batches.length = v.batches.length → v.die ≤ z.die)

theorem Share.Preferred.refl (v : Share) : v.Preferred v := ⟨Nat.le_refl _, fun _ => Nat.le_refl _⟩
theorem Share.Preferred.trans {a b c : Share} (h : a.Preferred b) (k : b.Preferred c) : a.Preferred c := by
  obtain ⟨h1, h2⟩ := h
  obtain ⟨k1, k2⟩ := k
  exact ⟨by omega, fun e => (h2 (by omega)).trans (k2 (by omega))⟩

theorem Share.richer_preferred_left (a b : Share) : (a.richer b).Preferred a := by
  unfold Share.richer Share.Preferred
  split <;> omega
theorem Share.richer_preferred_right (a b : Share) : (a.richer b).Preferred b := by
  unfold Share.richer Share.Preferred
  split <;> omega

/-- The die asked is preferred to every other that could be. -/
theorem Share.foldl_richer_preferred (r : List Share) (y : Share) : ∀ z ∈ y :: r, (r.foldl Share.richer y).Preferred z :=
  foldl_best Share.Preferred.refl Share.Preferred.trans Share.richer_preferred_left Share.richer_preferred_right r y

/-- The first of the shortest lists is no longer than any. -/
theorem foldl_shortest_le {α : Type} (r : List α) (rs : List (List α)) : ∀ y ∈ r :: rs,
    (rs.foldl (fun (b : List α) y => if y.length < b.length then y else b) r).length ≤ y.length :=
  foldl_best (R := fun a b : List α => a.length ≤ b.length) (fun _ => Nat.le_refl _) Nat.le_trans
    (fun a b => by split <;> omega) (fun a b => by split <;> omega) rs r

/-! ### Admitting, stealing and waiting -/

theorem exec_groupDispatch_fresh {die : Nat} {s s1 : State} {l : Launch} {n : Next} (hc : s.choice die = .fresh l n)
    (ha : s.admitNext l die n none = some s1) :
    exec (.groupDispatch die l.id) s = .next (((s1.backfillOn die l.id).kick die).askSteal die l.id) := by
  show execGroupDispatch die l.id s = _
  simp only [execGroupDispatch, hc, ha, if_true]

theorem exec_groupDispatch_inherit {die core : Nat} {s s1 : State} {l : Launch} {vals : Option (NMap Word)} {n : Next}
    (hc : s.choice die = .inherit l core vals n) (ha : s.admitNext l die n (some (core, vals)) = some s1) :
    exec (.groupDispatch die l.id) s = .next (((s1.backfillOn die l.id).kick die).askSteal die l.id) := by
  show execGroupDispatch die l.id s = _
  simp only [execGroupDispatch, hc, ha, if_true]

/-- A share with nothing left, which no batch is on its way to, asks the first preferred of the others that have some (R407). -/
theorem askSteal_of_empty {d launch : Nat} {s : State} {l : Launch} {x y : Share} {r : List Share} (hl : s.launch? launch = some l)
    (hx : l.share? d = some x) (hcores : l.desc.cores ≠ 2) (hbatches : x.batches = []) (hcur : x.cur = []) (hback : x.back = [])
    (hcoming : x.coming = []) (hreported : x.reported = false) (hasked : s.stealing d launch = false)
    (hothers : l.shares.filter (fun z => decide (z.die ≠ d) && !z.batches.isEmpty) = y :: r) :
    s.askSteal d launch = s.sendMesh (distributorPort d) (distributorPort (r.foldl Share.richer y).die) 0 l.prio
      (.stealRequest (r.foldl Share.richer y).die d launch) := by
  simp only [State.askSteal, hl, hx, hcores, ne_eq, not_false_eq_true, decide_true, hbatches, hcur, hback, hcoming, hreported, hasked, hothers,
    List.isEmpty_nil, Bool.not_false, Bool.and_self, if_true]

/-- A batch given up is the last of the share of the die asked. -/
theorem getLast_of_givenUp {s : State} {l : Launch} {victim thief b : Nat} (h : s.givenUp l victim thief = some b) :
    ∃ v, l.share? victim = some v ∧ v.batches.getLast? = some b := by
  unfold State.givenUp at h
  split at h
  · next v _ hv _ =>
    split at h
    · cases h
    · exact ⟨v, hv, h⟩
  · cases h

theorem exec_stealRequest_none {victim thief launch : Nat} {s : State} {l : Launch} (hl : s.launch? launch = some l)
    (hb : s.givenUp l victim thief = none) :
    exec (.stealRequest ⟨victim, thief⟩ launch) s =
      .next (s.sendMesh (distributorPort victim) (distributorPort thief) 1 l.prio (.stealReply victim thief launch)) := by
  show execStealRequest ⟨victim, thief⟩ launch s = _
  simp only [execStealRequest, hl, hb]

theorem exec_stealRequest_some {victim thief launch b : Nat} {s : State} {l : Launch} (hl : s.launch? launch = some l)
    (hb : s.givenUp l victim thief = some b) :
    exec (.stealRequest ⟨victim, thief⟩ launch) s =
      .next (((s.setLaunch { l with shares := l.shares.map (fun x =>
        if x.die = victim then { x with batches := x.batches.dropLast }
        else if x.die = thief then { x with coming := x.coming ++ [b] } else x) }).tryShare launch victim).sendMesh
          (distributorPort victim) (distributorPort thief) 1 l.prio (.stealReply victim thief launch)) := by
  show execStealRequest ⟨victim, thief⟩ launch s = _
  simp only [execStealRequest, hl, hb]

theorem exec_stealReply_of_coming {victim thief launch : Nat} {s : State} {l : Launch} {t : Share} (hl : s.launch? launch = some l)
    (ht : l.share? thief = some t) (hc : t.coming ≠ []) :
    exec (.stealReply victim thief launch) s = .next ((s.setLaunch { l with shares := l.shares.map (fun x =>
      if x.die = thief then { x with batches := x.batches ++ x.coming, coming := [], since := s.now thief } else x) }).kick thief) := by
  show execStealReply victim thief launch s = _
  have hc' : t.coming.isEmpty = false := by simpa using hc
  simp only [execStealReply, hl, ht, hc', Bool.false_eq_true, if_false]

theorem exec_backfillAgeLimit_of_aged {die : Nat} {s : State} {l : Launch} {r : List Launch} {x : Share} (hw : s.waitingOn die = l :: r)
    (hx : l.share? die = some x) (hage : 65536 ≤ s.now die - x.since) :
    exec (.backfillAgeLimit die) s = .next ({ s with onlyLaunch := ninsert s.onlyLaunch die l.id }.kick die) := by
  show execBackfillAgeLimit die s = _
  simp only [execBackfillAgeLimit, hw, hx, Option.map_some, Option.getD_some]
  exact if_neg (by omega)

theorem exec_priorityWaitExpiry_of_room {die launch : Nat} {s : State} {l : Launch} {x : Share} {r : List Nat} {rs : List (List Nat)}
    (hl : s.launch? launch = some l) (hwants : s.wants l die = true) (hx : l.share? die = some x) (hage : 4096 ≤ s.now die - x.since)
    (hpre : s.preempting x = false) (hrooms : (s.places l die).filterMap (s.roomAt l die) = r :: rs) :
    let best := rs.foldl (fun (b : List Nat) y => if y.length < b.length then y else b) r
    exec (.priorityWaitExpiry die launch) s = .next ((best.foldl (fun (t : State) g => t.postOnce (.preemptRequest g false))
      (s.setLaunch { l with shares := l.shares.map (fun y => if y.die = die then { y with asked := best } else y) })).postOnce
        (.priorityWaitExpiry die launch)) := by
  intro best
  show execPriorityWaitExpiry die launch s = _
  have hnow : ¬ (s.now die - x.since < 4096 ∨ s.preempting x = true) := by simp [hpre, hage]
  simp only [execPriorityWaitExpiry, hl, hwants, if_true, hx, hnow, if_false, hrooms]
  rfl

theorem exec_timeSliceExpiry_of_over {gid : Nat} {s : State} {g : Group} (hg : s.group? gid = some g) (hover : g.over = false)
    (hres : g.resident = true) (hslice : bits (s.ctxReg g.ctx 0x08) 31 0 ≠ 0)
    (hage : bits (s.ctxReg g.ctx 0x08) 31 0 ≤ s.now g.loc.die - g.since) :
    exec (.timeSliceExpiry gid) s = .next (s.postOnce (.preemptRequest gid false)) := by
  show execTimeSliceExpiry gid s = _
  have hend : ¬ (bits (s.ctxReg g.ctx 0x08) 31 0 = 0 ∨ s.now g.loc.die - g.since < bits (s.ctxReg g.ctx 0x08) 31 0) :=
    not_or.2 ⟨hslice, Nat.not_lt.2 hage⟩
  simp only [execTimeSliceExpiry, hg, hover, hres, Bool.not_true, Bool.or_self, Bool.false_eq_true, if_false, hend]

/-! ### The end of a group (R16, R21) -/

@[simp] theorem State.onLaunch_groups (s : State) (id : Nat) (f : Launch → Launch) : (s.onLaunch id f).groups = s.groups := by
  unfold State.onLaunch
  split <;> rfl

/-- A group leaves its core: it is no longer there, and after a normal end its inherited range waits for a successor. -/
def State.release (s : State) (g : Group) (how : Nat) : State :=
  let s1 := { s with groups := s.groups.filter (fun h => decide (h.id ≠ g.id)) }
  match g.legacy with
  | some vals => if how = 0 then s1.onLaunch g.launch (fun l => { l with vacated := l.vacated ++ [(g.loc.flat, vals)] }) else s1
  | none => s1

@[simp] theorem State.release_groups (s : State) (g : Group) (how : Nat) :
    (s.release g how).groups = s.groups.filter (fun h => decide (h.id ≠ g.id)) := by
  unfold State.release
  dsimp only
  split
  · split
    · exact State.onLaunch_groups _ _ _
    · rfl
  · rfl

theorem State.release_launches_of_nothing_left (s : State) (g : Group) {how : Nat} (h : how ≠ 0 ∨ g.desc.inh = none) :
    (s.release g how).launches = s.launches := by
  unfold State.release
  dsimp only
  split
  · next vals hv =>
    rcases h with h | h
    · rw [if_neg h]
    · simp [Group.legacy, h] at hv
  · rfl

theorem State.release_of_legacy (s : State) {g : Group} {vals : NMap Word} (h : g.legacy = some vals) :
    s.release g 0 = { s with groups := s.groups.filter (fun h => decide (h.id ≠ g.id)) }.onLaunch g.launch
      (fun l => { l with vacated := l.vacated ++ [(g.loc.flat, vals)] }) := by
  simp only [State.release, h, if_true]

/-- An ended group that has nothing under way is told, if it was not, and leaves its core. -/
theorem exec_groupResourcesReturn_of_done {gid how : Nat} {s : State} {g : Group} (hg : s.group? gid = some g) (hp : g.phase = .ended how)
    (hd : (s.drainEnded g).groupDone g = true) :
    exec (.groupResourcesReturn gid) s =
      .next ((((if g.told then s.drainEnded g else (s.drainEnded g).tellEnd g how).release g how).kick g.loc.die).askSteal g.loc.die g.launch) := by
  show execGroupResourcesReturn gid s = _
  obtain rfl := State.group?_id hg
  simp only [execGroupResourcesReturn, hg, hp, hd, Bool.not_true, Bool.false_eq_true, if_false]
  rfl

/-- Settles O47, from one lemma for each step of a distributor. -/
theorem distributorsAdmitAndReturnGroups : Obligations.DistributorsAdmitAndReturnGroups := by
  refine ⟨fun die s s1 l n => exec_groupDispatch_fresh, fun die core s s1 l vals n => exec_groupDispatch_inherit,
    ?newGroup, ?askSteal, ?stealRequest, fun victim thief launch s l t => exec_stealReply_of_coming,
    fun die s l r x => exec_backfillAgeLimit_of_aged, ?priorityWait, ?resourcesReturn, fun _ _ _ => rfl,
    fun gid s g hg ho hr hs ha => exec_timeSliceExpiry_of_over hg ho hr hs ha⟩
  case newGroup =>
    intro s l n gang core scr vals g
    refine ⟨newGroup_crews_length s l n gang core scr vals, rfl, rfl, rfl, rfl, rfl, fun c u hc => ?_⟩
    obtain ⟨q, rfl⟩ := newGroup_crew hc
    refine ⟨rfl, rfl, rfl, rfl, fun k hk => pcOf_startCrew _ q vals u hk, fun hv k j => ?_, fun m hv => ?_,
      sget_startCrew _ q vals u, fun k hk => pget_startCrew _ q vals u hk⟩
    · subst hv
      exact vget_startCrew_none _ q u k j
    · subst hv
      rfl
  case askSteal =>
    intro d launch s l x y r hl hx hcores hbatches hcur hback hcoming hreported hasked hothers
    exact ⟨askSteal_of_empty hl hx hcores hbatches hcur hback hcoming hreported hasked hothers, Share.foldl_richer_preferred r y⟩
  case stealRequest =>
    intro victim thief launch s l hl
    exact ⟨exec_stealRequest_none hl, fun b hb => ⟨exec_stealRequest_some hl hb, getLast_of_givenUp hb⟩⟩
  case priorityWait =>
    intro die launch s l x r rs hl hwants hx hage hpre hrooms
    exact ⟨exec_priorityWaitExpiry_of_room hl hwants hx hage hpre hrooms, foldl_shortest_le r rs⟩
  case resourcesReturn =>
    intro gid how s g hg hp hd s1
    have hid := State.group?_id hg
    refine ⟨s1.release g how, exec_groupResourcesReturn_of_done hg hp hd, by rw [State.release_groups, hid],
      s1.release_launches_of_nothing_left g, fun vals hh hv => ?_⟩
    subst hh
    rw [State.release_groups, s1.release_of_legacy hv]

end Sys2Proof.Machine
end

section
/-! Numbers and their fields: packing and reading words are inverse, and so are bytes and words (R8, R87, R88, R99). -/
namespace Sys2Proof.Machine
open Sys2Proof

/-! ### Fields of a number -/

theorem bits_eq (x hi lo : Nat) : bits x hi lo = x / 2 ^ lo % 2 ^ (hi + 1 - lo) := by
  rw [bits, Nat.shiftRight_eq_div_pow]

theorem toNat_bit (x i : Nat) : (bit x i).toNat = x / 2 ^ i % 2 := Nat.toNat_testBit x i

theorem flagAt_eq (b : Bool) (i : Nat) : flagAt b i = b.toNat * 2 ^ i := by
  cases b <;> simp [flagAt]

theorem bit_eq_of_toNat {x i : Nat} {b : Bool} (h : x / 2 ^ i % 2 = b.toNat) : bit x i = b := by
  rw [bit, Nat.testBit_eq_decide_div_mod_eq, h]
  cases b <;> rfl

theorem ofNat_eq_of_toNat {n x : Nat} {v : BitVec n} (h : x = v.toNat) : BitVec.ofNat n x = v := by
  rw [h, BitVec.ofNat_toNat, BitVec.setWidth_eq]

/-! ### The words (Tables 03-1, 03-2, 03-6): packing and reading are inverse -/

theorem pack_word0Of {x : Nat} (h : x < 2 ^ 32) : (word0Of x).pack (bits x 9 2) (x % 4) = x := by
  simp only [Word0.pack, word0Of, bits_eq, flagAt_eq, toNat_bit, BitVec.toNat_ofNat]
  omega

theorem pack_word1Of {x : Nat} (h : x < 2 ^ 32) : (word1Of x).pack = x := by
  simp only [Word1.pack, word1Of, bits_eq, flagAt_eq, toNat_bit, BitVec.toNat_ofNat]
  omega

theorem pack_slotOf {x : Nat} (h : x < 2 ^ 31) : (slotOf x).pack = x := by
  simp only [PairSlot.pack, slotOf, bits_eq, flagAt_eq, toNat_bit, BitVec.toNat_ofNat]
  omega

theorem word0_pack_lt (f : Word0) {opc c : Nat} (ho : opc < 256) (hc : c < 4) : f.pack opc c < 2 ^ 32 := by
  have := f.gp.isLt; have := f.d.isLt; have := f.a.isLt; have := f.gn.toNat_lt; have := f.au.toNat_lt
  simp only [Word0.pack, flagAt_eq]
  omega

theorem word0_pack_mod (f : Word0) (opc : Nat) {c : Nat} (hc : c < 4) : f.pack opc c % 4 = c := by
  simp only [Word0.pack, flagAt_eq]
  omega

theorem word0_pack_opcode (f : Word0) {opc c : Nat} (ho : opc < 256) (hc : c < 4) : bits (f.pack opc c) 9 2 = opc := by
  simp only [Word0.pack, flagAt_eq, bits_eq]
  omega

theorem word0Of_pack (f : Word0) {opc c : Nat} (ho : opc < 256) (hc : c < 4) : word0Of (f.pack opc c) = f := by
  obtain ⟨gp, gn, d, a, au⟩ := f
  have := gp.isLt; have := d.isLt; have := a.isLt; have := gn.toNat_lt; have := au.toNat_lt
  simp only [word0Of, Word0.pack, bits_eq, flagAt_eq, Word0.mk.injEq]
  refine ⟨ofNat_eq_of_toNat ?_, bit_eq_of_toNat ?_, ofNat_eq_of_toNat ?_, ofNat_eq_of_toNat ?_, bit_eq_of_toNat ?_⟩ <;> omega

theorem word1_pack_lt (h : Word1) : h.pack < 2 ^ 32 := by
  have := h.b.isLt; have := h.c.isLt; have := h.rnd.isLt; have := h.typ.isLt; have := h.sub.isLt
  have := h.bu.toNat_lt; have := h.cu.toNat_lt; have := h.fzi.toNat_lt; have := h.fzo.toNat_lt; have := h.sat.toNat_lt
  simp only [Word1.pack, flagAt_eq]
  omega

theorem word1Of_pack (h : Word1) : word1Of h.pack = h := by
  obtain ⟨b, c, bu, cu, rnd, fzi, fzo, sat, typ, sub⟩ := h
  have := b.isLt; have := c.isLt; have := rnd.isLt; have := typ.isLt; have := sub.isLt
  have := bu.toNat_lt; have := cu.toNat_lt; have := fzi.toNat_lt; have := fzo.toNat_lt; have := sat.toNat_lt
  simp only [word1Of, Word1.pack, bits_eq, flagAt_eq, Word1.mk.injEq]
  refine ⟨ofNat_eq_of_toNat ?_, ofNat_eq_of_toNat ?_, bit_eq_of_toNat ?_, bit_eq_of_toNat ?_, ofNat_eq_of_toNat ?_, bit_eq_of_toNat ?_,
    bit_eq_of_toNat ?_, bit_eq_of_toNat ?_, ofNat_eq_of_toNat ?_, ofNat_eq_of_toNat ?_⟩ <;> omega

theorem slot_pack_lt (p : PairSlot) : p.pack < 2 ^ 31 := by
  have := p.psub.isLt; have := p.d.isLt; have := p.a.isLt; have := p.b.isLt; have := p.f.toNat_lt
  simp only [PairSlot.pack, flagAt_eq]
  omega

theorem slotOf_pack (p : PairSlot) : slotOf p.pack = p := by
  obtain ⟨psub, d, a, b, f⟩ := p
  have := psub.isLt; have := d.isLt; have := a.isLt; have := b.isLt; have := f.toNat_lt
  simp only [slotOf, PairSlot.pack, bits_eq, flagAt_eq, PairSlot.mk.injEq]
  refine ⟨ofNat_eq_of_toNat ?_, ofNat_eq_of_toNat ?_, ofNat_eq_of_toNat ?_, ofNat_eq_of_toNat ?_, bit_eq_of_toNat ?_⟩ <;> omega

/-! ### Bytes and words (R8, R87) -/

theorem leBytes_ofLeBytes : ∀ bs : List Byte, leBytes bs.length (ofLeBytes bs) = bs
  | [] => rfl
  | b :: bs => by
    have hb := b.isLt
    have hdiv : (b.toNat + 256 * ofLeBytes bs) / 256 = ofLeBytes bs := by omega
    simp only [List.length_cons, leBytes, ofLeBytes, hdiv, leBytes_ofLeBytes bs, List.cons.injEq, and_true]
    exact BitVec.eq_of_toNat_eq (by rw [BitVec.toNat_ofNat]; omega)

theorem ofLeBytes_lt : ∀ bs : List Byte, ofLeBytes bs < 256 ^ bs.length
  | [] => by decide
  | b :: bs => by
    have hb := b.isLt
    have ih := ofLeBytes_lt bs
    simp only [ofLeBytes, List.length_cons, Nat.pow_succ]
    omega

/-- Word `k` of a list of bytes. -/
def wordAt (bs : List Byte) (k : Nat) : Nat := ofLeBytes ((bs.drop (4 * k)).take 4)

theorem wordAt_lt (bs : List Byte) (k : Nat) : wordAt bs k < 2 ^ 32 :=
  (ofLeBytes_lt _).trans_le (Nat.pow_le_pow_right (by decide : 256 > 0) (List.length_take_le 4 _))

theorem leBytes_wordAt {bs : List Byte} {k : Nat} (h : 4 * k + 4 ≤ bs.length) : leBytes 4 (wordAt bs k) = (bs.drop (4 * k)).take 4 := by
  have hlen : ((bs.drop (4 * k)).take 4).length = 4 := by simp; omega
  have := leBytes_ofLeBytes ((bs.drop (4 * k)).take 4)
  rwa [hlen] at this

theorem wordAt_zero_append (x : Nat) (bs : List Byte) : wordAt (leBytes 4 x ++ bs) 0 = x % 2 ^ 32 := by
  rw [wordAt, Nat.mul_zero, List.drop_zero, List.take_left' (leBytes_length 4 x), ofLeBytes_leBytes,
    show (256 : Nat) ^ 4 = 2 ^ 32 from rfl]

theorem wordAt_succ_append (x k : Nat) (bs : List Byte) : wordAt (leBytes 4 x ++ bs) (k + 1) = wordAt bs k := by
  simp only [wordAt, List.drop_append, leBytes_length]
  rw [List.drop_eq_nil_of_le (by rw [leBytes_length]; omega), List.nil_append]
  congr 3

theorem length_flatMap_leBytes (ws : List Nat) : (ws.flatMap (leBytes 4)).length = 4 * ws.length := by
  simp [List.length_flatMap, Nat.mul_comm]

/-- The first `n` words of enough bytes are those bytes. -/
theorem flatMap_leBytes_wordAt (bs : List Byte) : ∀ n : Nat, 4 * n ≤ bs.length →
    ((List.range n).map (wordAt bs)).flatMap (leBytes 4) = bs.take (4 * n)
  | 0, _ => by simp
  | n + 1, h => by
    simp only [List.range_succ, List.map_append, List.flatMap_append, flatMap_leBytes_wordAt bs n (by omega)]
    simp only [List.map_cons, List.map_nil, List.flatMap_cons, List.flatMap_nil, List.append_nil]
    rw [leBytes_wordAt (by omega), Nat.mul_succ, List.take_add]

/-- The first words of bytes that begin with some words are those words. -/
theorem map_wordAt_flatMap : ∀ (ws : List Nat) (rest : List Byte), (∀ w ∈ ws, w < 2 ^ 32) →
    (List.range ws.length).map (wordAt (ws.flatMap (leBytes 4) ++ rest)) = ws
  | [], _, _ => rfl
  | x :: ws, rest, h => by
    have hx : x % 2 ^ 32 = x := Nat.mod_eq_of_lt (h x List.mem_cons_self)
    have ih := map_wordAt_flatMap ws rest (fun w hw => h w (List.mem_cons_of_mem x hw))
    rw [List.length_cons, List.range_succ_eq_map]
    simp only [List.map_cons, List.map_map, List.flatMap_cons, List.append_assoc, wordAt_zero_append, hx]
    simpa only [Function.comp_def, wordAt_succ_append, List.cons.injEq, true_and] using ih

end Sys2Proof.Machine
end

section
/-! The opcode map and the rows of the encoding tables agree, and the words of an instruction read back as it (R87 to R93, R107, R108). -/
namespace Sys2Proof.Machine
open Sys2Proof

/-! ### The opcode map (Table 03-9) and the rows of the encoding tables -/

/-- The words of an instruction of a given opcode and length, from its fields (R87). -/
def fieldWords (opc len : Nat) (f : Word0) (h : Word1) (w : Word) : List Nat := [f.pack opc (len / 4 - 1), h.pack, w.toNat].take (len / 4)

/-- An instruction that the opcode map gives has the row of that opcode and length, and its fields are the words read. -/
theorem encodeWords_of_ofFields {opc len : Nat} {f : Word0} {h : Word1} {w : Word} {i : Instr} (hi : ofFields opc len f h w = some i) :
    encodeWords i = fieldWords opc len f h w := by
  unfold ofFields at hi
  split at hi
  all_goals
    repeat' split at hi
    all_goals
      cases hi
    all_goals
      subst len
      rfl

theorem ofFields_four (opc : Nat) (f : Word0) (h h' : Word1) (w w' : Word) : ofFields opc 4 f h w = ofFields opc 4 f h' w' := by
  unfold ofFields
  split <;> rfl

theorem ofFields_eight (opc : Nat) (f : Word0) (h : Word1) (w w' : Word) : ofFields opc 8 f h w = ofFields opc 8 f h w' := by
  unfold ofFields
  split <;> rfl

/-- The opcode map reads the instruction from its fields. `BRA` of the short layout, `WAIT` and pair words are read apart (Tables 03-3 and
03-6), and a step of the hardware has no encoding. -/
def mapped (i : Instr) : Bool :=
  match i with
  | .bra _ _ _ | .wait _ _ _ _ _ _ | .wait8 _ _ _ _ _ _ | .pairWord _ _ => false
  | i => decide ((rowOf i).len ≠ 0)

/-- D tells `TRET.end` from `TRET`: the two share an opcode and a length (R304). -/
def TretByD (i : Instr) : Prop := (∀ f, i = .tret f → f.d ≠ 1) ∧ (∀ f, i = .tretEnd f → f.d = 1)

/-- The rows of the encoding tables and the opcode map agree on every instruction that it reads. -/
theorem ofFields_of_mapped {i : Instr} (hm : mapped i = true) (ht : TretByD i) :
    ofFields (rowOf i).opc (rowOf i).len (fieldsOf i).f (fieldsOf i).h (fieldsOf i).w = some i := by
  obtain ⟨htret, hend⟩ := ht
  cases i
  case tret f => exact if_neg (htret f rfl)
  case tretEnd f => exact if_pos (hend f rfl)
  all_goals try cases hm
  all_goals
    dsimp only [rowOf, fieldsOf]
    rfl

theorem row_bounds (i : Instr) : (decide ((rowOf i).opc < 256) && [0, 4, 8, 12].contains (rowOf i).len) = true := by
  cases i <;> rfl

theorem rowOf_opc_lt (i : Instr) : (rowOf i).opc < 256 := of_decide_eq_true (Bool.and_eq_true_iff.1 (row_bounds i)).1

theorem rowOf_len {i : Instr} (h : (rowOf i).len ≠ 0) : (rowOf i).len = 4 ∨ (rowOf i).len = 8 ∨ (rowOf i).len = 12 := by
  have := (Bool.and_eq_true_iff.1 (row_bounds i)).2
  simpa [h] using this

/-! ### The checks of steps 4 to 6 -/

theorem encCheck_eq {i : Instr} (hp : ∀ a b, i ≠ .pairWord a b) : encCheck i =
    if (rowOf i).len = 0 then some (.reserved, false)
    else if fails4 (rowOf i) (fieldsOf i) then some (.unusedField, false)
    else if fails5 (rowOf i) (fieldsOf i) then some (.subOrType, false)
    else if fails6 (rowOf i) (fieldsOf i) then some (.operand, false)
    else none := by
  unfold encCheck
  split
  · next a b => exact absurd rfl (hp a b)
  · rfl

theorem checked_of_encCheck_none {i : Instr} (h : encCheck i = none) : checked i = .ok i := by
  simp only [checked, h]

theorem checked_of_encCheck_some {i : Instr} {y : Why} {b : Bool} (h : encCheck i = some (y, b)) : checked i = .error (rejectInstr i y b) := by
  simp only [checked, h]

theorem eq_of_checked {i j : Instr} (h : checked i = .ok j) : i = j := by
  unfold checked at h
  split at h
  · exact Except.ok.inj h
  · cases h

theorem rejectInstr_why (i : Instr) (y : Why) (b : Bool) : (rejectInstr i y b).why = y := by
  unfold rejectInstr
  split <;> rfl

/-- The fields of an instruction that has a guard and nothing more. -/
def guardOnly (gp : BitVec 4) (gn : Bool) : Fields := ⟨⟨gp, gn, 0, 0, false⟩, shortWord1 0, 0⟩

/-- A row without operands refuses no instruction that has a guard and nothing more. -/
theorem guardOnly_passes (opc len : Nat) (gp : BitVec 4) (gn : Bool) : fails4 { opc := opc, len := len } (guardOnly gp gn) = false ∧
    fails5 { opc := opc, len := len } (guardOnly gp gn) = false ∧ fails6 { opc := opc, len := len } (guardOnly gp gn) = false := by
  simp [guardOnly, shortWord1, fails4, fails5, fails6, satBad, Role.bad4, Role.badU, Role.bad5, Role.bad6, W2.bad4, W2.bad5, W2.bad6]

theorem checked_of_guardOnly {i : Instr} {opc len : Nat} {gp : BitVec 4} {gn : Bool} (hp : ∀ a b, i ≠ .pairWord a b) (hlen : len ≠ 0)
    (hr : rowOf i = { opc := opc, len := len }) (hf : fieldsOf i = guardOnly gp gn) : checked i = .ok i := by
  obtain ⟨h4, h5, h6⟩ := guardOnly_passes opc len gp gn
  exact checked_of_encCheck_none (by simp [encCheck_eq hp, hr, hf, hlen, h4, h5, h6])

theorem checked_bra (gp : BitVec 4) (gn : Bool) (off : BitVec 17) : checked (.bra gp gn off) = .ok (.bra gp gn off) :=
  checked_of_guardOnly nofun (by decide) rfl rfl
theorem checked_wait (gp : BitVec 4) (gn : Bool) (t c s l : BitVec 4) : checked (.wait gp gn t c s l) = .ok (.wait gp gn t c s l) :=
  checked_of_guardOnly nofun (by decide) rfl rfl
theorem checked_wait8 (gp : BitVec 4) (gn : Bool) (t c s l : BitVec 6) : checked (.wait8 gp gn t c s l) = .ok (.wait8 gp gn t c s l) :=
  checked_of_guardOnly nofun (by decide) rfl rfl

/-! ### The words of one instruction -/

theorem lengthOf_of_mod {x k : Nat} (h : x % 4 = k) (hk : k ≠ 3) : lengthOf x = 4 * (k + 1) := by
  unfold lengthOf
  split_ifs <;> omega

theorem decodeWords_bra {x : Nat} (hmod : x % 4 = 0) (hopc : bits x 9 2 = 0x02) (y z : Nat) :
    decodeWords x y z = .ok (.bra (word0Of x).gp (word0Of x).gn (BitVec.ofNat 17 (bits x 31 15))) := by
  simp [decodeWords, lengthOf, hmod, hopc]

theorem decodeWords_wait {x : Nat} (hmod : x % 4 = 0) (hopc : bits x 9 2 = 0xDF) (htop : bit x 31 = false) (y z : Nat) :
    decodeWords x y z = .ok (.wait (word0Of x).gp (word0Of x).gn (BitVec.ofNat 4 (bits x 30 27)) (BitVec.ofNat 4 (bits x 26 23))
      (BitVec.ofNat 4 (bits x 22 19)) (BitVec.ofNat 4 (bits x 18 15))) := by
  simp [decodeWords, lengthOf, hmod, hopc, htop]

theorem decodeWords_wait8 {x y : Nat} (hmod : x % 4 = 1) (hopc : bits x 9 2 = 0xDF) (hrest : bits x 31 15 = 0 ∧ bits y 31 24 = 0) (z : Nat) :
    decodeWords x y z = .ok (.wait8 (word0Of x).gp (word0Of x).gn (BitVec.ofNat 6 (bits y 23 18)) (BitVec.ofNat 6 (bits y 17 12))
      (BitVec.ofNat 6 (bits y 11 6)) (BitVec.ofNat 6 (bits y 5 0))) := by
  simp [decodeWords, lengthOf, hmod, hopc, hrest]

/-- What the opcode map reads is then held against the checks of steps 4 to 6. -/
theorem decodeWords_of_ofFields {x y z : Nat} {i : Instr} (h3 : x % 4 ≠ 3)
    (hi : ofFields (bits x 9 2) (lengthOf x) (word0Of x) (word1Of y) (BitVec.ofNat 32 z) = some i) : decodeWords x y z = checked i := by
  have hbra : ¬ (bits x 9 2 = 0x02 ∧ lengthOf x = 4) := fun ⟨ho, hl⟩ => by rw [ho, hl] at hi; cases hi
  have hwait : ¬ (bits x 9 2 = 0xDF ∧ lengthOf x = 4) := fun ⟨ho, hl⟩ => by rw [ho, hl] at hi; cases hi
  have hwait8 : ¬ (bits x 9 2 = 0xDF ∧ lengthOf x = 8) := fun ⟨ho, hl⟩ => by rw [ho, hl] at hi; cases hi
  simp only [decodeWords, h3, hbra, hwait, hwait8, if_false, hi]

/-- The words `ws` have the length that the first of them says, and are read as instruction `i` whatever words follow. -/
structure WordsRead (ws : List Nat) (i : Instr) : Prop where
  lt : ∀ w ∈ ws, w < 2 ^ 32
  length : lengthOf (ws.headD 0) = 4 * ws.length
  decodes : ∀ x y z, [x, y, z].take ws.length = ws → decodeWords x y z = checked i

theorem wordsRead_one {i : Instr} {x : Nat} (hlt : x < 2 ^ 32) (hlen : lengthOf x = 4) (hd : ∀ y z, decodeWords x y z = checked i) :
    WordsRead [x] i := by
  refine ⟨by simpa using hlt, hlen, fun x' y z hw => ?_⟩
  obtain rfl : x' = x := by simpa using hw
  exact hd y z

theorem wordsRead_two {i : Instr} {x y : Nat} (hx : x < 2 ^ 32) (hy : y < 2 ^ 32) (hlen : lengthOf x = 8)
    (hd : ∀ z, decodeWords x y z = checked i) : WordsRead [x, y] i := by
  refine ⟨by simpa using ⟨hx, hy⟩, hlen, fun x' y' z hw => ?_⟩
  obtain ⟨rfl, rfl⟩ : x' = x ∧ y' = y := by simpa using hw
  exact hd z

theorem wordsRead_three {i : Instr} {x y z : Nat} (hx : x < 2 ^ 32) (hy : y < 2 ^ 32) (hz : z < 2 ^ 32) (hlen : lengthOf x = 12)
    (hd : decodeWords x y z = checked i) : WordsRead [x, y, z] i := by
  refine ⟨by simpa using ⟨hx, hy, hz⟩, hlen, fun x' y' z' hw => ?_⟩
  obtain ⟨rfl, rfl, rfl⟩ : x' = x ∧ y' = y ∧ z' = z := by simpa using hw
  exact hd

theorem wordsRead_bra (gp : BitVec 4) (gn : Bool) (off : BitVec 17) : WordsRead (encodeWords (.bra gp gn off)) (.bra gp gn off) := by
  have := gp.isLt; have := gn.toNat_lt; have := off.isLt
  simp only [encodeWords, flagAt_eq]
  generalize hx : 0x02 * 2 ^ 2 + gp.toNat * 2 ^ 10 + gn.toNat * 2 ^ 14 + off.toNat * 2 ^ 15 = x
  have hmod : x % 4 = 0 := by omega
  refine wordsRead_one (by omega) (lengthOf_of_mod hmod (by decide)) fun y z => ?_
  rw [decodeWords_bra hmod (by rw [bits_eq]; omega), checked_bra]
  congr
  · exact ofNat_eq_of_toNat (by rw [bits_eq]; omega)
  · exact bit_eq_of_toNat (by omega)
  · exact ofNat_eq_of_toNat (by rw [bits_eq]; omega)

theorem wordsRead_wait (gp : BitVec 4) (gn : Bool) (t c s l : BitVec 4) :
    WordsRead (encodeWords (.wait gp gn t c s l)) (.wait gp gn t c s l) := by
  have := gp.isLt; have := gn.toNat_lt; have := t.isLt; have := c.isLt; have := s.isLt; have := l.isLt
  simp only [encodeWords, flagAt_eq]
  generalize hx : 0xDF * 2 ^ 2 + gp.toNat * 2 ^ 10 + gn.toNat * 2 ^ 14 + l.toNat * 2 ^ 15 + s.toNat * 2 ^ 19 + c.toNat * 2 ^ 23
    + t.toNat * 2 ^ 27 = x
  have hmod : x % 4 = 0 := by omega
  refine wordsRead_one (by omega) (lengthOf_of_mod hmod (by decide)) fun y z => ?_
  rw [decodeWords_wait hmod (by rw [bits_eq]; omega) (bit_eq_of_toNat (by rw [Bool.toNat_false]; omega)), checked_wait]
  congr
  · exact ofNat_eq_of_toNat (by rw [bits_eq]; omega)
  · exact bit_eq_of_toNat (by omega)
  all_goals exact ofNat_eq_of_toNat (by rw [bits_eq]; omega)

theorem wordsRead_wait8 (gp : BitVec 4) (gn : Bool) (t c s l : BitVec 6) :
    WordsRead (encodeWords (.wait8 gp gn t c s l)) (.wait8 gp gn t c s l) := by
  have := gp.isLt; have := gn.toNat_lt; have := t.isLt; have := c.isLt; have := s.isLt; have := l.isLt
  simp only [encodeWords, flagAt_eq]
  generalize hx : 1 + 0xDF * 2 ^ 2 + gp.toNat * 2 ^ 10 + gn.toNat * 2 ^ 14 = x
  generalize hy : l.toNat + s.toNat * 2 ^ 6 + c.toNat * 2 ^ 12 + t.toNat * 2 ^ 18 = y
  have hmod : x % 4 = 1 := by omega
  refine wordsRead_two (by omega) (by omega) (lengthOf_of_mod hmod (by decide)) fun z => ?_
  rw [decodeWords_wait8 hmod (by rw [bits_eq]; omega) (by simp only [bits_eq]; omega), checked_wait8]
  congr
  · exact ofNat_eq_of_toNat (by rw [bits_eq]; omega)
  · exact bit_eq_of_toNat (by omega)
  all_goals exact ofNat_eq_of_toNat (by rw [bits_eq]; omega)

theorem wordsRead_pairWord (s0 s1 : PairSlot) : WordsRead (encodeWords (.pairWord s0 s1)) (.pairWord s0 s1) := by
  have h0 := slot_pack_lt s0; have h1 := slot_pack_lt s1
  simp only [encodeWords]
  generalize hv : 3 + s0.pack * 2 ^ 2 + s1.pack * 2 ^ 33 = v
  have hmod : v % 2 ^ 32 % 4 = 3 := by omega
  refine wordsRead_two (by omega) (by omega) (by simp only [lengthOf, hmod]; rfl) fun z => ?_
  have hs0 : bits (v % 2 ^ 32 + 2 ^ 32 * (v / 2 ^ 32)) 32 2 = s0.pack := by rw [bits_eq]; omega
  have hs1 : bits (v % 2 ^ 32 + 2 ^ 32 * (v / 2 ^ 32)) 63 33 = s1.pack := by rw [bits_eq]; omega
  rw [decodeWords, if_pos hmod, hs0, hs1, slotOf_pack, slotOf_pack]

theorem len_of_mapped {i : Instr} (hm : mapped i = true) : (rowOf i).len ≠ 0 := by
  unfold mapped at hm
  split at hm
  · cases hm
  · cases hm
  · cases hm
  · cases hm
  · exact of_decide_eq_true hm

/-- The opcode map reads the instruction from its words as far as its length goes, whatever stands beyond. -/
theorem ofFields_of_words {i : Instr} (hm : mapped i = true) (ht : TretByD i) {h : Word1} {w : Word}
    (hh : (rowOf i).len ≠ 4 → h = (fieldsOf i).h) (hw : (rowOf i).len = 12 → w = (fieldsOf i).w) :
    ofFields (rowOf i).opc (rowOf i).len (fieldsOf i).f h w = some i := by
  have hi := ofFields_of_mapped hm ht
  rcases rowOf_len (len_of_mapped hm) with hl | hl | hl
  · rw [hl] at hi ⊢
    rw [← hi]
    exact ofFields_four _ _ _ _ _ _
  · rw [hh (by omega)]
    rw [hl] at hi ⊢
    rw [← hi]
    exact ofFields_eight _ _ _ _ _
  · rw [hh (by omega), hw hl, hi]

/-- Word 0 of an instruction's row and fields. -/
def rowWord (i : Instr) : Nat := (fieldsOf i).f.pack (rowOf i).opc ((rowOf i).len / 4 - 1)

theorem rowWord_lt {i : Instr} (hl : (rowOf i).len ≠ 0) : rowWord i < 2 ^ 32 :=
  word0_pack_lt _ (rowOf_opc_lt i) (by rcases rowOf_len hl with h | h | h <;> rw [h] <;> decide)

theorem rowWord_mod {i : Instr} (hl : (rowOf i).len ≠ 0) : rowWord i % 4 = (rowOf i).len / 4 - 1 ∧ (rowOf i).len / 4 - 1 ≠ 3 := by
  have hc : (rowOf i).len / 4 - 1 < 3 := by rcases rowOf_len hl with h | h | h <;> rw [h] <;> decide
  exact ⟨word0_pack_mod _ _ (by omega), by omega⟩

theorem lengthOf_rowWord {i : Instr} (hl : (rowOf i).len ≠ 0) : lengthOf (rowWord i) = (rowOf i).len := by
  obtain ⟨hmod, h3⟩ := rowWord_mod hl
  rw [lengthOf_of_mod hmod h3]
  rcases rowOf_len hl with h | h | h <;> rw [h]

theorem decodeWords_of_mapped {i : Instr} (hm : mapped i = true) (ht : TretByD i) {y z : Nat}
    (hy : (rowOf i).len ≠ 4 → y = (fieldsOf i).h.pack) (hz : (rowOf i).len = 12 → z = (fieldsOf i).w.toNat) :
    decodeWords (rowWord i) y z = checked i := by
  have hl := len_of_mapped hm
  obtain ⟨hmod, h3⟩ := rowWord_mod hl
  refine decodeWords_of_ofFields (by rwa [hmod]) ?_
  rw [lengthOf_rowWord hl, rowWord, word0_pack_opcode _ (rowOf_opc_lt i) (by omega), word0Of_pack _ (rowOf_opc_lt i) (by omega)]
  exact ofFields_of_words hm ht (fun h => by rw [hy h, word1Of_pack]) (fun h => by rw [hz h, BitVec.ofNat_toNat, BitVec.setWidth_eq])

theorem wordsRead_of_mapped {i : Instr} (hm : mapped i = true) (ht : TretByD i) : WordsRead (encodeWords i) i := by
  have hl := len_of_mapped hm
  have hx := rowWord_lt hl
  have hlen := lengthOf_rowWord hl
  have hy := word1_pack_lt (fieldsOf i).h
  rw [encodeWords_of_ofFields (ofFields_of_mapped hm ht), fieldWords, ← rowWord]
  rcases rowOf_len hl with h | h | h
  · rw [h] at hlen ⊢
    exact wordsRead_one hx hlen fun y z => decodeWords_of_mapped hm ht (by omega) (by omega)
  · rw [h] at hlen ⊢
    exact wordsRead_two hx hy hlen fun z => decodeWords_of_mapped hm ht (fun _ => rfl) (by omega)
  · rw [h] at hlen ⊢
    exact wordsRead_three hx hy (fieldsOf i).w.isLt hlen (decodeWords_of_mapped hm ht (fun _ => rfl) (fun _ => rfl))

/-- The words of every instruction that has an encoding read back as it, held against the checks of steps 4 to 6. -/
theorem wordsRead_encodeWords {i : Instr} (hl : (rowOf i).len ≠ 0) (ht : TretByD i) : WordsRead (encodeWords i) i := by
  cases hm : mapped i with
  | true => exact wordsRead_of_mapped hm ht
  | false =>
    unfold mapped at hm
    split at hm
    · exact wordsRead_bra _ _ _
    · exact wordsRead_wait _ _ _ _ _ _
    · exact wordsRead_wait8 _ _ _ _ _ _
    · exact wordsRead_pairWord _ _
    · exact absurd hl (of_decide_eq_false hm)

end Sys2Proof.Machine
end

section
/-! The round trips of encoding and decoding, and what an encoding is refused for (R87, R107, R108). -/
namespace Sys2Proof.Machine
open Sys2Proof

/-! ### The bytes of one instruction -/

theorem decode_eq (bs : List Byte) : decode bs =
    if bs.length < 4 ∨ bs.length < lengthOf (wordAt bs 0) then .error (rejectWord .truncated false)
    else decodeWords (wordAt bs 0) (wordAt bs 1) (wordAt bs 2) := rfl

theorem lengthOf_cases (x : Nat) : lengthOf x = 4 ∨ lengthOf x = 8 ∨ lengthOf x = 12 := by
  unfold lengthOf
  split_ifs <;> simp

/-- The first `n` of the three words that the decoder is given. -/
theorem take_words {bs : List Byte} {n : Nat} (h : n ≤ 3) :
    [wordAt bs 0, wordAt bs 1, wordAt bs 2].take n = (List.range n).map (wordAt bs) := by
  have h3 : [wordAt bs 0, wordAt bs 1, wordAt bs 2] = (List.range 3).map (wordAt bs) := rfl
  rw [h3, ← List.map_take, List.take_range, Nat.min_eq_left h]

/-- Bytes that begin with words that read as an instruction are decoded to it, if it passes the checks. -/
theorem decode_of_wordsRead {ws : List Nat} {i : Instr} (h : WordsRead ws i) (rest : List Byte) :
    decode (ws.flatMap (leBytes 4) ++ rest) = checked i := by
  obtain ⟨hlt, hlen, hdec⟩ := h
  have hn : 1 ≤ ws.length ∧ ws.length ≤ 3 := by have := lengthOf_cases (ws.headD 0); omega
  have hws := map_wordAt_flatMap ws rest hlt
  generalize hbs : ws.flatMap (leBytes 4) ++ rest = bs at hws ⊢
  have hge : 4 * ws.length ≤ bs.length := by rw [← hbs, List.length_append, length_flatMap_leBytes]; omega
  have hhead : ws.headD 0 = wordAt bs 0 := by
    rw [← hws, ← take_words hn.2]
    obtain ⟨n, hsucc⟩ := Nat.exists_eq_add_of_le' hn.1
    rw [hsucc]
    rfl
  rw [hhead] at hlen
  rw [decode_eq, if_neg (by omega), hdec _ _ _ ((take_words hn.2).trans hws)]

/-- The bytes of an instruction that has an encoding, whatever follows them, are read as it, held against the checks of steps 4 to 6. -/
theorem decode_encode_append {i : Instr} (hl : (rowOf i).len ≠ 0) (ht : TretByD i) (rest : List Byte) :
    decode (encode i ++ rest) = checked i := decode_of_wordsRead (wordsRead_encodeWords hl ht) rest

theorem encCheck_of_wf {i : Instr} (h : i.wf = true) : encCheck i = none :=
  Option.isNone_iff_eq_none.1 (Bool.and_eq_true_iff.1 h).1

theorem rowOf_len_of_encCheck_none {i : Instr} (h : encCheck i = none) : (rowOf i).len ≠ 0 := by
  unfold encCheck at h
  split at h
  · exact Nat.succ_ne_zero 7
  · intro hl
    rw [if_pos hl] at h
    cases h

theorem fails6_of_encCheck_none {i : Instr} (hp : ∀ a b, i ≠ .pairWord a b) (h : encCheck i = none) : fails6 (rowOf i) (fieldsOf i) = false := by
  rw [encCheck_eq hp] at h
  split_ifs at h with h0 h4 h5 h6
  exact Bool.eq_false_iff.2 h6

/-- Step 6 holds a D field that is a constant to that constant. -/
theorem d_of_fails6 {r : Row} {x : Fields} {k : Nat} (hd : r.d = .imm k k) (h : fails6 r x = false) : x.f.d.toNat = k := by
  simp only [fails6, hd, Role.bad6, Bool.or_eq_false_iff, Bool.not_eq_false', Bool.and_eq_true, decide_eq_true_eq] at h
  omega

/-- D of `TRET` is 0 and D of `TRET.end` is 1 wherever the checks pass. -/
theorem tretByD_of_encCheck_none {i : Instr} (h : encCheck i = none) : TretByD i := by
  constructor
  · rintro f rfl hd
    have h0 : f.d.toNat = 0 := d_of_fails6 rfl (fails6_of_encCheck_none (i := .tret f) nofun h)
    rw [hd] at h0
    cases h0
  · rintro f rfl
    have h1 : f.d.toNat = 1 := d_of_fails6 rfl (fails6_of_encCheck_none (i := .tretEnd f) nofun h)
    exact BitVec.eq_of_toNat_eq h1

/-- Settles O1: a well-formed instruction passes the checks against which its words are held. -/
theorem encodedInstructionDecodesBack : Obligations.EncodedInstructionDecodesBack := by
  intro i rest h
  have hc := encCheck_of_wf h
  exact (decode_encode_append (rowOf_len_of_encCheck_none hc) (tretByD_of_encCheck_none hc) rest).trans (checked_of_encCheck_none hc)

/-- Bytes held against the checks of an instruction that fails one are refused at the step of that check. -/
theorem decode_refused {bs : List Byte} {i : Instr} {y : Why} {b : Bool} (hd : decode bs = checked i) (h : encCheck i = some (y, b)) :
    ∃ r, decode bs = .error r ∧ r.why.step = y.step :=
  ⟨_, hd.trans (checked_of_encCheck_some h), by rw [rejectInstr_why]⟩

/-- Settles O3: what is decoded is the encoded instruction held against the checks, in their order. -/
theorem refusedEncodingsNameTheFirstStepThatFails : Obligations.RefusedEncodingsNameTheFirstStepThatFails := by
  intro i hl htret hend hp
  have hdec : decode (encode i) = checked i := by
    rw [← List.append_nil (encode i)]
    exact decode_encode_append hl ⟨htret, hend⟩ []
  refine ⟨fun h4 => ?step4, fun h4 h5 => ?step5, fun h4 h5 h6 => ?step6, fun h4 h5 h6 => ?decoded⟩
  case step4 => exact decode_refused (y := .unusedField) (b := false) hdec (by simp [encCheck_eq hp, hl, h4])
  case step5 => exact decode_refused (y := .subOrType) (b := false) hdec (by simp [encCheck_eq hp, hl, h4, h5])
  case step6 => exact decode_refused (y := .operand) (b := false) hdec (by simp [encCheck_eq hp, hl, h4, h5, h6])
  case decoded => exact hdec.trans (checked_of_encCheck_none (by simp [encCheck_eq hp, hl, h4, h5, h6]))

/-! ### Words that decode are those of what they decode to -/

theorem encodeWords_of_decoded_bra {x : Nat} (hx : x < 2 ^ 32) (hmod : x % 4 = 0) (hopc : bits x 9 2 = 0x02) :
    encodeWords (.bra (word0Of x).gp (word0Of x).gn (BitVec.ofNat 17 (bits x 31 15))) = [x] := by
  rw [bits_eq] at hopc
  simp only [encodeWords, word0Of, flagAt_eq, toNat_bit, bits_eq, BitVec.toNat_ofNat, List.cons.injEq, and_true]
  omega

theorem encodeWords_of_decoded_wait {x : Nat} (hx : x < 2 ^ 32) (hmod : x % 4 = 0) (hopc : bits x 9 2 = 0xDF) (htop : bit x 31 = false) :
    encodeWords (.wait (word0Of x).gp (word0Of x).gn (BitVec.ofNat 4 (bits x 30 27)) (BitVec.ofNat 4 (bits x 26 23))
      (BitVec.ofNat 4 (bits x 22 19)) (BitVec.ofNat 4 (bits x 18 15))) = [x] := by
  have h31 := toNat_bit x 31
  rw [htop, Bool.toNat_false] at h31
  rw [bits_eq] at hopc
  simp only [encodeWords, word0Of, flagAt_eq, toNat_bit, bits_eq, BitVec.toNat_ofNat, List.cons.injEq, and_true]
  omega

theorem encodeWords_of_decoded_wait8 {x y : Nat} (hx : x < 2 ^ 32) (hy : y < 2 ^ 32) (hmod : x % 4 = 1) (hopc : bits x 9 2 = 0xDF)
    (hrest : bits x 31 15 = 0 ∧ bits y 31 24 = 0) :
    encodeWords (.wait8 (word0Of x).gp (word0Of x).gn (BitVec.ofNat 6 (bits y 23 18)) (BitVec.ofNat 6 (bits y 17 12))
      (BitVec.ofNat 6 (bits y 11 6)) (BitVec.ofNat 6 (bits y 5 0))) = [x, y] := by
  simp only [bits_eq] at hopc hrest
  simp only [encodeWords, word0Of, flagAt_eq, toNat_bit, bits_eq, BitVec.toNat_ofNat, List.cons.injEq, and_true]
  omega

theorem encodeWords_of_decoded_pairWord {x y : Nat} (hx : x < 2 ^ 32) (hy : y < 2 ^ 32) (h3 : x % 4 = 3) :
    encodeWords (.pairWord (slotOf (bits (x + 2 ^ 32 * y) 32 2)) (slotOf (bits (x + 2 ^ 32 * y) 63 33))) = [x, y] := by
  have hs0 := pack_slotOf (x := bits (x + 2 ^ 32 * y) 32 2) (by rw [bits_eq]; omega)
  have hs1 := pack_slotOf (x := bits (x + 2 ^ 32 * y) 63 33) (by rw [bits_eq]; omega)
  simp only [encodeWords, hs0, hs1, List.cons.injEq, and_true]
  simp only [bits_eq]
  omega

theorem encodeWords_of_decoded_mapped {x y z : Nat} {i : Instr} (hx : x < 2 ^ 32) (hy : y < 2 ^ 32) (hz : z < 2 ^ 32) (h3 : x % 4 ≠ 3)
    (hi : ofFields (bits x 9 2) (lengthOf x) (word0Of x) (word1Of y) (BitVec.ofNat 32 z) = some i) :
    encodeWords i = [x, y, z].take (lengthOf x / 4) := by
  have hc : lengthOf x / 4 - 1 = x % 4 := by rw [lengthOf_of_mod rfl h3]; omega
  rw [encodeWords_of_ofFields hi, fieldWords, hc, pack_word0Of hx, pack_word1Of hy, BitVec.toNat_ofNat, Nat.mod_eq_of_lt hz]

theorem encodeWords_of_decodeWords {x y z : Nat} {i : Instr} (hx : x < 2 ^ 32) (hy : y < 2 ^ 32) (hz : z < 2 ^ 32)
    (h : decodeWords x y z = .ok i) : encodeWords i = [x, y, z].take (lengthOf x / 4) := by
  unfold decodeWords at h
  split at h
  · next h3 =>
    obtain rfl := eq_of_checked h
    rw [show lengthOf x = 8 by simp [lengthOf, h3]]
    exact encodeWords_of_decoded_pairWord hx hy h3
  · next h3 =>
    have hmod := lengthOf_of_mod rfl h3
    dsimp only at h
    split at h
    · next hbra =>
      obtain ⟨hopc, hl⟩ := hbra
      cases h
      rw [hl]
      exact encodeWords_of_decoded_bra hx (by omega) hopc
    · split at h
      · next hwait =>
        obtain ⟨hopc, hl⟩ := hwait
        split at h
        · cases h
        · next htop =>
          cases h
          rw [hl]
          exact encodeWords_of_decoded_wait hx (by omega) hopc (Bool.eq_false_iff.2 htop)
      · split at h
        · next hwait8 =>
          obtain ⟨hopc, hl⟩ := hwait8
          split at h
          · next hrest =>
            cases h
            rw [hl]
            exact encodeWords_of_decoded_wait8 hx hy (by omega) hopc hrest
          · cases h
        · split at h
          · next hi =>
            obtain rfl := eq_of_checked h
            exact encodeWords_of_decoded_mapped hx hy hz h3 hi
          · cases h

/-- Settles O2: the words read are packed from the fields read from them, and the bytes from the words. -/
theorem decodedBytesAreTheirEncoding : Obligations.DecodedBytesAreTheirEncoding := by
  intro bs i h
  rw [decode_eq] at h
  split at h
  · cases h
  · next hlong =>
    have hw := encodeWords_of_decodeWords (wordAt_lt bs 0) (wordAt_lt bs 1) (wordAt_lt bs 2) h
    have hlen := lengthOf_cases (wordAt bs 0)
    have h4 : 4 * (lengthOf (wordAt bs 0) / 4) = lengthOf (wordAt bs 0) := by omega
    rw [take_words (by omega)] at hw
    have he : encode i = bs.take (lengthOf (wordAt bs 0)) := by
      rw [encode, hw, flatMap_leBytes_wordAt bs _ (by omega), h4]
    have hel : (encode i).length = lengthOf (wordAt bs 0) := by rw [he, List.length_take]; omega
    exact ⟨by rw [hel, he], hel⟩

end Sys2Proof.Machine
end

section
/-! What a step that takes an issue group does (R104, R108, R109): it runs the instruction fetched, or takes the trap of a fetch or an encoding
that fails. -/
namespace Sys2Proof.Machine
open Sys2Proof

theorem step_of_runUnit_next {s t : State} {c : Cand} (ht : s.turn = some (.unit c)) (hr : s.runUnit c = .next t) :
    step s = .next (s.issued t c).tail := by
  simp only [step, ht, State.runMove, hr, after]

/-- A step that takes an issue group is that group's move, what surrounds an issue and the passing of time. -/
theorem step_of_turn_unit {s : State} {c : Cand} (ht : s.turn = some (.unit c)) :
    step s = match s.runUnit c with
      | .next t => .next (s.issued t c).tail
      | .fault f => .fault f
      | .refused r => .refused r := by
  cases hr : s.runUnit c with
  | next t => exact step_of_runUnit_next ht hr
  | fault f => simp only [step, ht, State.runMove, hr, after]
  | refused r => simp only [step, ht, State.runMove, hr, after]

theorem runUnit_of_decoded {s s1 : State} {c : Cand} {g : Group} {bs : List Byte} {i : Instr} (hg : s.group? c.gid = some g)
    (hf : s.fetch g c = .ok (bs, s1)) (hd : decode bs = .ok i) : s.runUnit c = exec i (s1.atCand c bs.length) := by
  simp only [State.runUnit, hg, hf, hd]

theorem runUnit_of_refused {s s1 : State} {c : Cand} {g : Group} {bs : List Byte} {r : Reject} (hg : s.group? c.gid = some g)
    (hf : s.fetch g c = .ok (bs, s1)) (hd : decode bs = .error r) :
    s.runUnit c = settled (s1.atCand c 4) (exec (.illegalOp r) (s1.atCand c 4)) := by
  simp only [State.runUnit, hg, hf, hd]
  rfl

theorem runUnit_of_fetch_error {s : State} {c : Cand} {g : Group} {tr : Trap} (hg : s.group? c.gid = some g)
    (hf : s.fetch g c = .error tr) : s.runUnit c = .next ((s.raise c.gid c.unit tr).settle c.gid) := by
  simp only [State.runUnit, hg, hf]

/-- `ILLEGAL_OP` of a refused encoding always completes. -/
theorem exec_illegalOp_next (r : Reject) (s : State) : ∃ t, exec (.illegalOp r) s = .next t := by
  show ∃ t, execIllegalOp r s = .next t
  unfold execIllegalOp
  split
  · exact ⟨_, rfl⟩
  · split <;> exact ⟨_, rfl⟩

/-- Settles O5: the move of an issue group is the meaning of what its bytes decode to. -/
theorem stepRunsTheDecodedInstruction : Obligations.StepRunsTheDecodedInstruction := by
  intro s s1 c g bs i ht hg hf hd
  have h := step_of_turn_unit ht
  rw [runUnit_of_decoded hg hf hd] at h
  exact h

/-- Settles O6: the move is `ILLEGAL_OP` and its settling, or the trap of the fetch. -/
theorem stepTrapsWhatDoesNotDecode : Obligations.StepTrapsWhatDoesNotDecode := by
  refine ⟨?refused, ?fetchTraps⟩
  case refused =>
    intro s s1 c g bs r ht hg hf hd
    obtain ⟨t, hx⟩ := exec_illegalOp_next r (s1.atCand c 4)
    exact ⟨t, hx, step_of_runUnit_next ht (by rw [runUnit_of_refused hg hf hd, hx, settled_next rfl])⟩
  case fetchTraps =>
    intro s c g tr ht hg hf
    exact step_of_runUnit_next ht (runUnit_of_fetch_error hg hf)

end Sys2Proof.Machine
end

section
/-! ILLEGAL_OP: what does not decode, and what a check of Table 03-10 that reads the issuing unit refuses (R108, R109, R304). -/
namespace Sys2Proof.Machine
open Sys2Proof

/-- Outcome `o` is that of issuing instruction `i`, after which its group may settle. -/
def Issued (i : Instr) (s : State) (o : Out) : Prop := ∃ k, o = issue i s k ∨ o = settled s (issue i s k)

theorem issued_issue (i : Instr) (s : State) (k : Ctx → Group → Crew → State → Res) : Issued i s (issue i s k) := ⟨k, .inl rfl⟩
theorem issued_settled (i : Instr) (s : State) (k : Ctx → Group → Crew → State → Res) : Issued i s (settled s (issue i s k)) := ⟨k, .inr rfl⟩
theorem issued_issueCrew (i : Instr) (s : State) (f : Ctx → Crew → Crew) : Issued i s (issueCrew i s f) := issued_issue i s _
theorem issued_issueD (i : Instr) (s : State) (f : Ctx → Crew → Nat → Nat) : Issued i s (issueD i s f) := issued_issueCrew i s _

theorem issued_ldOp (i : Instr) (s : State) : Issued i s (ldOp i s) := issued_issue i s _
theorem issued_stOp (i : Instr) (s : State) : Issued i s (stOp i s) := issued_issue i s _
theorem issued_atomOp (i : Instr) (cas : Bool) (s : State) : Issued i s (atomOp i cas s) := issued_issue i s _
theorem issued_prefOp (i : Instr) (s : State) : Issued i s (prefOp i s) := issued_issue i s _
theorem issued_ptrOp (i : Instr) (s : State) (f : Ctx → Group → Crew → Nat → Except (Nat × Nat) Ptr) : Issued i s (ptrOp i s f) :=
  issued_issue i s _
theorem issued_scopeOp (widen : Bool) (i : Instr) (s : State) : Issued i s (scopeOp widen i s) := issued_issue i s _
theorem issued_pchkOp (i : Instr) (s : State) : Issued i s (pchkOp i s) := issued_issue i s _
theorem issued_ophOp (i : Instr) (s : State) : Issued i s (ophOp i s) := issued_issue i s _
theorem issued_tileOp (i : Instr) (s : State) (accs tiles : Ctx → List Nat) (f : Ctx → Crew → Crew) : Issued i s (tileOp i s accs tiles f) :=
  issued_issue i s _

/-- The meaning of every instruction that has an encoding is an issue of it: no check is passed by. -/
theorem exec_issued {i : Instr} (hi : (rowOf i).len ≠ 0) (s : State) : Issued i s (exec i s) := by
  cases i
  all_goals try exact absurd rfl hi
  all_goals dsimp only [exec]
  case nop | nop8 | nop12 | bra | bra12 | bral | dbnz | yield | mtsr | iaddc | iaddc12 | isubc | isubc12 | imadw | imadw12 | isetp | isetp12
      | plop | v2p | v2s | fsetp | fsetp12 | dsetp | pairWord => exact issued_issueCrew _ s _
  case exit | brq | trap | tret | bkpt | bar | bar12 | bara | bara12 | barw | barw12 | part | part8 | vote | vote12 | lpick | lpick12 | redux
      | redux12 | scan | scan12 | matchLanes | matchLanes12 | elect | elect12 | qld | qld12 | qpush | qpop | qpop8 | qbpush | qbpush8 | qbpop
      | qbpop8 | mma | mmas | tcopy | tcopy12 | coll | wait | wait8 => exact issued_settled _ s _
  case jmpi | ret | sleepc | sleepc12 | tretEnd | icinv | mfsr | cancel | rwb | rinv | unpark => exact issued_issue _ s _
  case ld | ld12 => exact issued_ldOp _ s
  case st | st12 => exact issued_stOp _ s
  case atom | atom12 | cas | cas12 => exact issued_atomOp _ _ s
  case pref | pref12 => exact issued_prefOp _ s
  case pmake | psub | psub12 | padv | padv12 | pretype => exact issued_ptrOp _ s _
  case pwiden | pnarrow => exact issued_scopeOp _ _ s
  case pchk | pchk12 => exact issued_pchkOp _ s
  case oph | oph12 => exact issued_ophOp _ s
  case azero | amov | tldv | tstv | park => exact issued_tileOp _ s _ _ _
  all_goals exact issued_issueD _ s _

/-- An instruction that fails a check traps with the failing step and takes no effect. -/
theorem issue_of_illegal {i : Instr} {s : State} {u : Issue} {g : Group} {d : Nat} (hc : s.cur = some u) (hg : s.group? u.gid = some g)
    (hd : illegalDetail i (issueCtx i u g) g (g.unit u.unit) = some d) (k : Ctx → Group → Crew → State → Res) :
    issue i s k = .next (trapped i s u g 0x01 (lowest u.lanes) d u.addr) := by
  simp only [issueCtx] at hd
  simp only [issue, hc, hg, hd]
  rfl

/-- Outside a handler an instruction of handlers only fails step 3, in a crew and in the access slice. -/
theorem illegalDetail_of_hand {i : Instr} {x : Ctx} {g : Group} {c : Crew} (hp : ∀ a b, i ≠ .pairWord a b) (hr : x.row.hand = true)
    (hm : c.hmode = false) : illegalDetail i x g c = some 3 := by
  unfold illegalDetail
  split
  · next a b => exact absurd rfl (hp a b)
  · simp [hr, hm]

theorem exec_illegalOp {r : Reject} {s : State} {u : Issue} {g : Group} (hc : s.cur = some u) (hg : s.group? u.gid = some g) :
    exec (.illegalOp r) s = .next (s.raise u.gid u.unit
      { cause := 0x01, lane := lowest u.lanes, detail := Reject.detail r (decide (u.unit = 32)) (g.unit u.unit).hmode
        addr := u.addr, first := u.addr }) := by
  show execIllegalOp r s = _
  simp only [execIllegalOp, hc, hg]

/-- Settles O45: every instruction with an encoding is issued, and an issue makes the checks before it has any effect. -/
theorem illegalInstructionsRaiseIllegalOp : Obligations.IllegalInstructionsRaiseIllegalOp := by
  refine ⟨fun r s u g => exec_illegalOp, ?refused, ?handlerOnly⟩
  case refused =>
    intro i s u g d hc hg hi hd
    obtain ⟨k, h | h⟩ := exec_issued hi s
    · exact .inl (h.trans (issue_of_illegal hc hg hd k))
    · exact .inr (h.trans (by rw [issue_of_illegal hc hg hd k, settled_next hc]))
  case handlerOnly =>
    rintro i f u g (rfl | rfl) hm
    · exact illegalDetail_of_hand nofun rfl hm
    · exact illegalDetail_of_hand nofun rfl hm

end Sys2Proof.Machine
end

section
/-! Every step answers a state: an instruction is given an issue group that exists, and no branch of a posted step or an input stops
the machine (R163, R17, R18). -/
namespace Sys2Proof.Machine
open Sys2Proof

/-- The outcome is a next state: neither a fault nor a refusal. -/
def Completes (o : Out) : Prop := ∃ t, o = .next t

theorem completes_next (t : State) : Completes (.next t) := ⟨t, rfl⟩

theorem completes_settled {s : State} {o : Out} (h : Completes o) : Completes (settled s o) := by
  obtain ⟨t, rfl⟩ := h
  cases hc : s.cur with
  | none => exact ⟨t, by simp only [settled, hc]⟩
  | some u => exact ⟨_, settled_next hc⟩

/-! ### Instructions: an issue group that exists always issues, traps, waits or is contained -/

theorem completes_issue {s : State} {u : Issue} {g : Group} (hc : s.cur = some u) (hg : s.group? u.gid = some g) (i : Instr)
    (k : Ctx → Group → Crew → State → Res) : Completes (issue i s k) := by
  simp only [issue, hc, hg]
  repeat' split
  all_goals exact s.finish_next _ _

theorem completes_exec {s : State} {u : Issue} {g : Group} (hc : s.cur = some u) (hg : s.group? u.gid = some g) {i : Instr}
    (hi : (rowOf i).len ≠ 0) : Completes (exec i s) := by
  obtain ⟨k, h | h⟩ := exec_issued hi s
  · exact h ▸ completes_issue hc hg i k
  · exact h ▸ completes_settled (completes_issue hc hg i k)

/-- What bytes decode to has an encoding, so it is no step of the hardware. -/
theorem rowOf_len_of_decode {bs : List Byte} {i : Instr} (h : decode bs = .ok i) : (rowOf i).len ≠ 0 := by
  intro h0
  have hlen := (decodedBytesAreTheirEncoding bs i h).2
  have hnone : encode i = [] := by
    unfold encode encodeWords
    split
    · cases h0
    · cases h0
    · cases h0
    · cases h0
    · simp [h0]
  rw [hnone, List.length_nil] at hlen
  have := lengthOf_cases (ofLeBytes (bs.take 4))
  omega

/-! ### A fetch caches what it read and leaves every group -/

theorem State.l2Touch_groups (s : State) (v : View) (line m : Nat) : (s.l2Touch v line m).groups = s.groups := by
  unfold State.l2Touch
  dsimp only
  repeat' split
  all_goals rfl

theorem State.icachePut_groups (s : State) (v : View) (c line : Nat) : (s.icachePut v c line).groups = s.groups := by
  unfold State.icachePut
  dsimp only
  split
  · rw [State.l2Touch_groups, State.setCore_groups]
  · rfl

theorem State.fillTlb_groups (s : State) (core ctx : Nat) (l : Leaf) : (s.fillTlb core ctx l).groups = s.groups := by
  unfold State.fillTlb
  dsimp only
  split
  · rfl
  · rfl

theorem State.noteFetch_groups (s : State) (g : Group) (xs : List (Byte × Nat × Leaf)) : (s.noteFetch g xs).groups = s.groups := by
  unfold State.noteFetch
  refine List.foldlRecOn (motive := fun (t : State) => t.groups = s.groups) xs _ rfl fun t ht x _ => ?_
  rw [State.icachePut_groups, State.fillTlb_groups, ht]

theorem State.fetch_groups {s s1 : State} {g : Group} {c : Cand} {bs : List Byte} (h : s.fetch g c = .ok (bs, s1)) :
    s1.groups = s.groups := by
  unfold State.fetch at h
  split at h
  · cases h
  · dsimp only at h
    split at h
    · cases h
    · obtain ⟨-, rfl⟩ := Prod.mk.inj (Except.ok.inj h)
      exact State.noteFetch_groups s g _

/-- The move of an issue group completes: its group is still there when its instruction runs. -/
theorem completes_runUnit (s : State) (c : Cand) : Completes (s.runUnit c) := by
  cases hg : s.group? c.gid with
  | none => exact ⟨s, by simp only [State.runUnit, hg]⟩
  | some g =>
    cases hf : s.fetch g c with
    | error tr => exact ⟨_, runUnit_of_fetch_error hg hf⟩
    | ok x =>
      obtain ⟨bs, s1⟩ := x
      have hg1 : s1.group? c.gid = some g := by rw [State.group?, State.fetch_groups hf]; exact hg
      cases hd : decode bs with
      | error r => exact runUnit_of_refused hg hf hd ▸ completes_settled (exec_illegalOp_next r _)
      | ok i => exact runUnit_of_decoded hg hf hd ▸ completes_exec rfl hg1 (rowOf_len_of_decode hd)

/-! ### Posted steps and inputs -/

/-- Taking a packet from the head of a queue. -/
theorem completes_consume (opc q : Nat) (s : State) : Completes (consume opc q s) := by
  dsimp only [consume]
  repeat' split
  all_goals exact completes_next _

/-- A packet from another package is taken in flow order. -/
theorem completes_axArrive (s : State) (p : AxPkt) (ev : Ev) {k : State → Out} (hk : ∀ t, Completes (k t)) : Completes (s.axArrive p ev k) := by
  dsimp only [State.axArrive]
  repeat' split
  · exact completes_next _
  · exact hk s
  · exact hk _
  · exact completes_next _
  · exact completes_next _
  · exact completes_next _

theorem completes_collArrive (s : State) (p : AxPkt) (ev : Ev) {k : State → JobEntry → Out} (hk : ∀ t j, Completes (k t j)) :
    Completes (s.collArrive p ev k) := by
  unfold State.collArrive
  repeat' split
  · exact completes_next _
  · exact completes_axArrive s p ev fun t => hk t _
  · exact completes_next _

theorem completes_reductionArrival (p : AxPkt) (ev : AxPkt → Ev) (s : State) : Completes (reductionArrival p ev s) := by
  unfold reductionArrival
  split
  · exact completes_next _
  · exact completes_collArrive s p _ fun _ _ => completes_next _

/-- A write of a register of the control window, each register's own meaning with it. -/
theorem completes_registerWrite (part port off : Nat) (v : Dword) (s : State) : Completes (execRegisterWrite part port off v s) := by
  dsimp only [execRegisterWrite, recoveryWrite, execCtxRootWrite, qBaseWrite, execQCtlWrite, execQDoorbell, execQReset, execDivergedHold,
    execDivergedClear, xwinWrite, execPartResetScrub, execPartReset, tlbiWrite, execTlbiAddress, execTlbiContext, execTlbiAll, execEvtRidxWrite,
    pwrCapWrite, execPwrLimitWrite, execFullService]
  repeat' split
  all_goals exact completes_next _

theorem completes_recoveryWrite (port off n : Nat) (s : State) : Completes (recoveryWrite port off n s) := by
  unfold recoveryWrite
  split
  all_goals exact completes_next _

theorem completes_windowWrite (t : Tlp) (o : Nat) (s : State) : Completes (windowWrite t o s) := by
  unfold windowWrite
  extract_lets n r old v
  split
  · exact completes_next _
  · split
    · exact completes_registerWrite _ _ _ _ s
    · exact completes_recoveryWrite _ _ _ s

theorem completes_qDoorbell (q : Nat) (s : State) : Completes (execQDoorbell q s) := by
  dsimp only [execQDoorbell]
  repeat' split
  all_goals exact completes_next _

theorem completes_inboundPostedWrite (t : Tlp) (s : State) : Completes (execInboundPostedWrite t s) := by
  dsimp only [execInboundPostedWrite]
  split
  · exact completes_next _
  · exact completes_next _
  · split
    case h_1 =>
      repeat' split
      all_goals exact completes_next _
    case h_2 =>
      split
      · exact completes_next _
      · exact completes_windowWrite _ _ _
    case h_3 =>
      repeat' split
      case h_1.isTrue => exact completes_qDoorbell _ _
      all_goals exact completes_next _
    case h_4 => exact completes_next _

/-- A posted step or an input completes: each of its branches ends in a next state. -/
theorem completes_runEv (e : Ev) (s : State) : Completes (runEv e s) := by
  cases e
  case jobStart | phaseStart | graphSubmit | launch | copy | signalMem | waitMem | cancelCommand | partitionFence => exact completes_consume _ _ s
  case axsisRead | readReply | axsisWrite | writeAcknowledgement | axsisAtomic | atomicReply =>
    dsimp only [runEv, execAxsisRead, execReadReply, execAxsisWrite, execWriteAcknowledgement, execAxsisAtomic, execAtomicReply]
    exact completes_axArrive s _ _ fun _ => completes_next _
  case completion | notice =>
    dsimp only [runEv, execCompletion, execNotice]
    exact completes_collArrive s _ _ fun _ _ => completes_next _
  case contribution | partialArrival => exact completes_reductionArrival _ _ s
  case registerWrite => exact completes_registerWrite _ _ _ _ s
  case inboundPostedWrite => exact completes_inboundPostedWrite _ s
  case illegalOp r => exact exec_illegalOp_next r s
  all_goals
    dsimp only [runEv, execLoadComplete, execLoadTranslationFault, execAtomicComplete, execWritebackAccepted, execIcinvComplete, execWcbDrainTimeout,
      execQueueLaneFill, execQldPoison, execMmaComplete, execTcopyRowWritten, execSleepcExpiry, execGroupResourcesReturn,
      execPreemptRequest, execTimeSliceExpiry, execDrainLimit, execSaveComplete, execPreemptRetry, execRestoreGroup, execGroupDispatch,
      execStealRequest, execStealReply, execBackfillAgeLimit, execPriorityWaitExpiry, execQDoorbell, execQReset, execQCtlWrite,
      execCommandBegin, execWaitMemReread, execWaitMemTimeout, execNodeFinish, execCopyFinish, execTlbiComplete, execTlbMissRequest,
      execWalkStart, execWalkReadComplete, execL2Request, execInvalidateAck, execOttEntryGrant, execReplicaStore, execReplicaWrite,
      execDivergedHold, execHoldComplete, execDivergedClear, execMeshPacketHop, execPacketDelivery, execReorderCreditGrant, execPermitAudit,
      execAuditMarker, execAuditMarkerReturn, execChannelRestart, execLinkTraining, execModuleRetrain, execLinkFailed, execAxsisPortRetrain,
      execFlowAcknowledgement, execAxsisResendTimeout, execReductionTimeout, execRetentionExpiry, execSwitchSlotTimeout, execRekeyRequest,
      execInboundRead, execInboundAtomicop, execHostCompletionTimeout, execXpartRequest, execXwinDrained, execFunctionLevelReset,
      execResetWaitExpiry, execPatrolScrub, execPackagePowerOn, execDieRelease, execFullService, execJobKey, execJobRekey, execJobClear,
      execFwStage, execKeyExchange, execFinish, execKeyUpdate, execHeartbeat, execEndSession, execIdeKm, execGovernorWindow,
      execPwrLimitWrite, execThermalThrottle, execThermalRecover, execThermalTrip, execPciExpressPortTraining]
    repeat' split
    all_goals exact completes_next _

theorem completes_runMove (s : State) (m : Move) : Completes (s.runMove m) := by
  unfold State.runMove
  split
  · next c =>
    obtain ⟨t, ht⟩ := completes_runUnit s c
    exact ⟨s.issued t c, by rw [ht]⟩
  · split
    · exact completes_runEv _ _
    · exact completes_next _
  · repeat' split
    · exact completes_next _
    · exact completes_runEv _ _
    · exact completes_next _

/-- Settles O8: whichever move comes next completes, and with none only time passes. -/
theorem everyStepAnswersAState : Obligations.EveryStepAnswersAState := by
  intro s
  unfold step
  split
  · exact completes_next _
  · next m _ =>
    obtain ⟨t, ht⟩ := completes_runMove s m
    exact ⟨t.tail, by rw [ht]; rfl⟩

end Sys2Proof.Machine
end

section
/-! What the register instructions leave in their crew (R131, R134, R144, R147, R148, R155 to R160, R168 to R183). -/
namespace Sys2Proof.Machine
open Sys2Proof

/-- An instruction of the integer table issues with the table's value written to D. -/
theorem exec_of_integerValue {i : Instr} {f : Ctx → Crew → Nat → Nat} (hf : integerValue i = some f) (s : State) (u : Issue) (g : Group) :
    ∃ e, exec i s = issueD i s e ∧ e (issueCtx i u g) (begunCrew i u g) = f (issueCtx i u g) (begunCrew i u g) := by
  unfold integerValue at hf
  split at hf
  all_goals cases hf
  all_goals
    dsimp only [exec]
    exact ⟨_, rfl, rfl⟩

/-- An instruction of the floating-point table issues with the table's value written to D. -/
theorem exec_of_floatValue {i : Instr} {f : Ctx → Crew → Nat → Nat} (hf : floatValue i = some f) (s : State) (u : Issue) (g : Group) :
    ∃ e, exec i s = issueD i s e ∧ e (issueCtx i u g) (begunCrew i u g) = f (issueCtx i u g) (begunCrew i u g) := by
  unfold floatValue at hf
  split at hf
  all_goals cases hf
  all_goals
    dsimp only [exec]
    exact ⟨_, rfl, rfl⟩

/-- An instruction of the table of predicate effects issues with the table's effect on its crew. -/
theorem exec_of_predicateEffect {i : Instr} {f : Ctx → Crew → Crew} (hf : predicateEffect i = some f) (s : State) (u : Issue) (g : Group) :
    ∃ e, exec i s = issueCrew i s e ∧ e (issueCtx i u g) (begunCrew i u g) = f (issueCtx i u g) (begunCrew i u g) := by
  unfold predicateEffect at hf
  split at hf
  all_goals cases hf
  all_goals
    dsimp only [exec]
    exact ⟨_, rfl, rfl⟩

/-- Settles O11: each instruction of the two tables is an issue that writes D, the table giving what it writes. -/
theorem valueInstructionsWriteTheirResult : Obligations.ValueInstructionsWriteTheirResult := by
  intro i f s u g hf h
  obtain ⟨e, he, hv⟩ := hf.elim (exec_of_integerValue · s u g) (exec_of_floatValue · s u g)
  rw [he, issueD_of_issues h, hv]

/-- Settles O12: each instruction of the table is an issue whose whole effect is on its crew, the table giving that crew. -/
theorem compareCarryAndPredicateInstructionsComplete : Obligations.CompareCarryAndPredicateInstructionsComplete := by
  intro i f s u g hf h
  obtain ⟨e, he, hv⟩ := exec_of_predicateEffect hf s u g
  rw [he, issueCrew_of_issues h, hv]

end Sys2Proof.Machine
end

section
/-! The words that the spec writes out (R148, R107, Table 05-2). -/
namespace Sys2Proof.Machine
open Sys2Proof

/-- Settles O4: the decoder run on the four words. -/
theorem sampleWordsDecode : Obligations.SampleWordsDecode :=
  ⟨rfl, rfl, ⟨_, rfl, rfl⟩, ⟨_, rfl, rfl⟩⟩

end Sys2Proof.Machine
end

section
/-! What an instruction whose whole effect is on its crew leaves unchanged: of the crew, of the group and of the state (R132, R134, R163, R23). -/
namespace Sys2Proof.Machine
open Sys2Proof

/-! ### The rest of a crew -/

theorem SameRest.refl (c : Crew) : SameRest c c := ⟨rfl, rfl, rfl, rfl, rfl, rfl, rfl, rfl, rfl, rfl, rfl, rfl, rfl, rfl, rfl⟩

theorem SameRest.trans {c d e : Crew} (h : SameRest c d) (k : SameRest d e) : SameRest c e :=
  ⟨k.tiles.trans h.tiles, k.acc.trans h.acc, k.exited.trans h.exited, k.wait.trans h.wait, k.pass.trans h.pass, k.aside.trans h.aside,
    k.counters.trans h.counters, k.partw.trans h.partw, k.parks.trans h.parks, k.hmode.trans h.hmode, k.traps.trans h.traps,
    k.latch.trans h.latch, k.logs.trans h.logs, k.coll.trans h.coll, k.bar.trans h.bar⟩

theorem Crew.sameRest_vset (c : Crew) (k l : Nat) (w : Word) : SameRest c (c.vset k l w) := by constructor <;> simp
theorem Crew.sameRest_sset (c : Crew) (k : Nat) (w : Word) : SameRest c (c.sset k w) := by constructor <;> simp
theorem Crew.sameRest_pset (c : Crew) (k l : Nat) (b : Bool) : SameRest c (c.pset k l b) := by constructor <;> simp
theorem Crew.sameRest_setPc (c : Crew) (l a : Nat) : SameRest c (c.setPc l a) := by constructor <;> rfl
theorem Crew.sameRest_setPcs (c : Crew) (ls : List Nat) (a : Nat) : SameRest c (c.setPcs ls a) := by constructor <;> simp

theorem Crew.sameRest_foldl {α : Type} {f : Crew → α → Crew} (h : ∀ c x, SameRest c (f c x)) :
    ∀ (l : List α) (c : Crew), SameRest c (l.foldl f c)
  | [], c => .refl c
  | x :: l, c => (h c x).trans (Crew.sameRest_foldl h l (f c x))

theorem sameRest_begunCrew (i : Instr) (u : Issue) (g : Group) : SameRest (g.unit u.unit) (begunCrew i u g) := by
  constructor <;> simp [begunCrew, Ctx.advance]

theorem SameRegisters.refl (c : Crew) : SameRegisters c c := ⟨fun _ _ => rfl, fun _ => rfl, fun _ => rfl⟩
theorem SameRegisters.trans {c d e : Crew} (h : SameRegisters c d) (k : SameRegisters d e) : SameRegisters c e :=
  ⟨fun n l => (k.vectors n l).trans (h.vectors n l), fun n => (k.uniforms n).trans (h.uniforms n),
    fun n => (k.predicates n).trans (h.predicates n)⟩

theorem sameRegisters_begunCrew (i : Instr) (u : Issue) (g : Group) : SameRegisters (g.unit u.unit) (begunCrew i u g) :=
  ⟨fun k l => Ctx.advance_vget _ _ k l, fun k => Ctx.advance_sget _ _ k, fun k => Ctx.advance_pget _ _ k⟩

theorem Crew.sameRegisters_setPcs (c : Crew) (ls : List Nat) (a : Nat) : SameRegisters c (c.setPcs ls a) :=
  ⟨fun k l => c.vget_setPcs ls a k l, fun k => c.sget_setPcs ls a k, fun k => c.pget_setPcs ls a k⟩

/-! ### The group and the state that an issue leaves -/

/-- The group with crew `c` in the unit that issued. -/
def leftGroup (i : Instr) (u : Issue) (g : Group) (c : Crew) : Group := (begunGroup i u g).setUnit u.unit c

theorem begunGroup_unit (i : Instr) (u : Issue) (g : Group) (w : Nat) (hw : g.hasUnit w = true) :
    (begunGroup i u g).unit w = if w = u.unit then begunCrew i u g else g.unit w :=
  Group.unit_setUnit g u.unit w (begunCrew i u g) hw

theorem hasUnit_begunGroup (i : Instr) (u : Issue) (g : Group) (w : Nat) : (begunGroup i u g).hasUnit w = g.hasUnit w :=
  Group.hasUnit_setUnit g u.unit w (begunCrew i u g)

theorem leftGroup_unit (i : Instr) (u : Issue) (g : Group) (c : Crew) (w : Nat) (hw : g.hasUnit w = true) :
    (leftGroup i u g c).unit w = if w = u.unit then c else g.unit w := by
  rw [leftGroup, Group.unit_setUnit _ _ _ _ ((hasUnit_begunGroup i u g w).trans hw), begunGroup_unit i u g w hw]
  split <;> rfl

theorem leftGroup_unit_self {i : Instr} {s : State} {u : Issue} {g : Group} (h : Issues i s u g) (c : Crew) :
    (leftGroup i u g c).unit u.unit = c := by rw [leftGroup_unit i u g c u.unit h.unit, if_pos rfl]

theorem begunGroup_id (i : Instr) (u : Issue) (g : Group) : (begunGroup i u g).id = g.id := Group.setUnit_id g u.unit _
theorem leftGroup_id (i : Instr) (u : Issue) (g : Group) (c : Crew) : (leftGroup i u g c).id = g.id :=
  (Group.setUnit_id _ u.unit c).trans (begunGroup_id i u g)

theorem sameGroup_leftGroup (i : Instr) (u : Issue) (g : Group) (c : Crew) : SameGroup u.unit g (leftGroup i u g c) where
  others w hne hw := by rw [leftGroup_unit i u g c w hw, if_neg hne]
  queues := by simp [leftGroup, begunGroup]
  handles := by simp [leftGroup, begunGroup]
  bars := by simp [leftGroup, begunGroup]
  bsb := by simp [leftGroup, begunGroup]
  flights := by simp [leftGroup, begunGroup]
  cmds := by simp [leftGroup, begunGroup]
  scratch := by simp [leftGroup, begunGroup]
  phase := by simp [leftGroup, begunGroup]
  pend := by simp [leftGroup, begunGroup]
  slot := by simp [leftGroup, begunGroup]
  committed := by simp [leftGroup, begunGroup]

theorem leaves_group? {i : Instr} {s : State} {u : Issue} {g : Group} (h : Issues i s u g) (c : Crew) (n : Nat) :
    (leaves i s u g c).group? n = if n = u.gid then some (leftGroup i u g c) else s.group? n := by
  have hid := State.group?_id h.group
  show ((s.setGroup (begunGroup i u g)).setGroup (leftGroup i u g c)).group? n = _
  rw [State.group?_setGroup, State.group?_setGroup, leftGroup_id, begunGroup_id, hid]
  by_cases hn : n = u.gid
  · simp [hn, h.group]
  · simp [hn]

theorem sameState_leaves {i : Instr} {s : State} {u : Issue} {g : Group} (h : Issues i s u g) (c : Crew) :
    SameState u.gid s (leaves i s u g c) where
  memory := leaves_byteAt i s u g c
  others n hn := by rw [leaves_group? h, if_neg hn]
  registers _ _ := rfl
  cores := rfl
  queues := rfl
  work := rfl
  xlate := rfl
  homes := rfl
  fabric := rfl
  steps := rfl
  rest := rfl

/-- What issues and leaves a crew with the rest of it unchanged changes registers and program counters alone. -/
theorem registersOnly_leaves {i : Instr} {s : State} {u : Issue} {g : Group} (h : Issues i s u g) {c : Crew} (hc : SameRest (begunCrew i u g) c) :
    RegistersOnly s (leaves i s u g c) u g (leftGroup i u g c) where
  state := sameState_leaves h c
  group := sameGroup_leftGroup i u g c
  crew := by rw [leftGroup_unit_self h]; exact (sameRest_begunCrew i u g).trans hc
  found := by rw [leaves_group? h, if_pos rfl]

/-- An instruction that leaves a crew with the rest of it unchanged, and nothing else, completes so. -/
theorem exists_registersOnly {i : Instr} {s : State} {u : Issue} {g : Group} {c : Crew} (h : Issues i s u g)
    (he : exec i s = .next (leaves i s u g c)) (hc : SameRest (begunCrew i u g) c) :
    ∃ t k, exec i s = .next t ∧ RegistersOnly s t u g k ∧ k.unit u.unit = c :=
  ⟨_, _, he, registersOnly_leaves h hc, leftGroup_unit_self h c⟩

/-! ### What writes D and predicates in the active lanes -/

/-- Crew `d` is `c` after writes of D and of predicates in the active lanes of an issue. -/
structure WritesRegisters (x : Ctx) (c d : Crew) : Prop where
  rest : SameRest c d
  pcs : d.pc = c.pc
  vectors : ∀ k l, l < 32 → l ∉ x.lanes → d.vget k l = c.vget k l
  uniforms : ∀ k, (k < x.fl.f.d.toNat ∨ x.fl.f.d.toNat + x.row.d.count ≤ k) → d.sget k = c.sget k

namespace WritesRegisters
variable {x : Ctx}

theorem refl (c : Crew) : WritesRegisters x c c := ⟨.refl c, rfl, fun _ _ _ _ => rfl, fun _ _ => rfl⟩

theorem trans {c d e : Crew} (h : WritesRegisters x c d) (k : WritesRegisters x d e) : WritesRegisters x c e :=
  ⟨h.rest.trans k.rest, k.pcs.trans h.pcs, fun n l hl hm => (k.vectors n l hl hm).trans (h.vectors n l hl hm),
    fun n hn => (k.uniforms n hn).trans (h.uniforms n hn)⟩

theorem foldl {α : Type} {f : Crew → α → Crew} {l : List α} (h : ∀ c, ∀ y ∈ l, WritesRegisters x c (f c y)) (c : Crew) :
    WritesRegisters x c (l.foldl f c) := by
  induction l generalizing c with
  | nil => exact .refl c
  | cons y l ih => exact (h c y List.mem_cons_self).trans (ih (fun d z hz => h d z (List.mem_cons_of_mem y hz)) _)

theorem each {f : Crew → Nat → Crew} (h : ∀ c, ∀ m ∈ x.lanes, WritesRegisters x c (f c m)) (c : Crew) : WritesRegisters x c (x.each c f) :=
  foldl h c

theorem vset (c : Crew) (k : Nat) {m : Nat} (w : Word) (hm : m ∈ x.lanes) : WritesRegisters x c (c.vset k m w) where
  rest := c.sameRest_vset k m w
  pcs := c.vset_pc k m w
  vectors j l hl hml := by
    rw [c.vget_vset k m j l w (lt_of_mem_lanesOf hm) hl, if_neg]
    rintro ⟨-, rfl, -⟩
    exact hml hm
  uniforms j _ := c.sget_vset k m j w

theorem sset (c : Crew) {k : Nat} (w : Word) (hk : x.fl.f.d.toNat ≤ k ∧ k < x.fl.f.d.toNat + x.row.d.count) :
    WritesRegisters x c (c.sset k w) where
  rest := c.sameRest_sset k w
  pcs := c.sset_pc k w
  vectors j l _ _ := c.vget_sset k j l w
  uniforms j hj := by rw [c.sget_sset, if_neg (by omega)]

theorem pset (c : Crew) (k m : Nat) (b : Bool) : WritesRegisters x c (c.pset k m b) where
  rest := c.sameRest_pset k m b
  pcs := c.pset_pc k m b
  vectors j l _ _ := c.vget_psetAll k j l _
  uniforms j _ := c.sget_psetAll k j _

theorem setN {m : Nat} (hm : m ∈ x.lanes) : ∀ (n : Nat) (c : Crew) (k v : Nat), x.fl.f.d.toNat ≤ k →
    k + n ≤ x.fl.f.d.toNat + x.row.d.count → WritesRegisters x c (x.setN m c k n v)
  | 0, c, _, _, _, _ => .refl c
  | n + 1, c, k, v, hlo, hhi => by
    have hone : WritesRegisters x c (if x.access then c.sset k (BitVec.ofNat 32 v) else c.vset k m (BitVec.ofNat 32 v)) := by
      split
      · exact sset c _ ⟨hlo, by omega⟩
      · exact vset c k _ hm
    exact hone.trans (setN hm n _ (k + 1) (v / 2 ^ 32) (by omega) (by omega))

theorem eachD (c : Crew) (f : Nat → Nat) : WritesRegisters x c (x.eachD c f) :=
  each (fun d m hm => setN hm _ d _ (f m) le_rfl le_rfl) c

theorem eachP (c : Crew) (k : Nat) (f : Nat → Bool) : WritesRegisters x c (x.eachP c k f) := each (fun d m _ => pset d k m (f m)) c

theorem eachCarry (c : Crew) (k : Nat) (f : Nat → Bool) : WritesRegisters x c (x.eachCarry c k f) := by
  unfold Ctx.eachCarry
  split
  · exact .refl c
  · exact eachP c k f

end WritesRegisters

/-- Every effect of the table of predicate effects writes D and predicates in the active lanes alone. -/
theorem writesRegisters_of_predicateEffect {i : Instr} {f : Ctx → Crew → Crew} (hf : predicateEffect i = some f) (u : Issue) (g : Group)
    (c : Crew) : WritesRegisters (issueCtx i u g) c (f (issueCtx i u g) c) := by
  cases i
  all_goals cases hf
  case iaddc | iaddc12 | isubc | isubc12 | imadw | imadw12 => exact (WritesRegisters.eachD c _).trans (.eachCarry _ _ _)
  case isetp | isetp12 | fsetp | fsetp12 | dsetp | plop => exact .eachP c _ _
  case v2p => exact .each (fun d l _ => .foldl (fun e k _ => by
      split
      · exact .pset e k l _
      · exact .refl e) d) c
  case v2s =>
    dsimp only
    split
    · exact .refl c
    · exact .sset c _ ⟨le_rfl, Nat.lt_succ_self _⟩
  case pairWord => exact .each (fun d l hl => (WritesRegisters.vset d _ _ hl).trans (.vset _ _ _ hl)) c

/-- Every register instruction leaves a crew written in D and in predicates of the active lanes alone; those of the value tables write D. -/
theorem exec_of_registerOnly {i : Instr} (hi : registerOnly i = true) {s : State} {u : Issue} {g : Group} (h : Issues i s u g) :
    ∃ c, exec i s = .next (leaves i s u g c) ∧ WritesRegisters (issueCtx i u g) (begunCrew i u g) c ∧
      ((integerValue i).isSome = true ∨ (floatValue i).isSome = true → ∃ f, c = (issueCtx i u g).eachD (begunCrew i u g) f) := by
  by_cases hv : (integerValue i).isSome = true ∨ (floatValue i).isSome = true
  · obtain ⟨f, hf⟩ : ∃ f, integerValue i = some f ∨ floatValue i = some f :=
      hv.elim (fun h => (Option.isSome_iff_exists.1 h).imp fun _ => .inl) (fun h => (Option.isSome_iff_exists.1 h).imp fun _ => .inr)
    exact ⟨_, valueInstructionsWriteTheirResult i f s u g hf h, .eachD _ _, fun _ => ⟨_, rfl⟩⟩
  · obtain ⟨f, hf⟩ : ∃ f, predicateEffect i = some f := by
      rw [← Option.isSome_iff_exists]
      simpa [registerOnly, not_or.1 hv] using hi
    exact ⟨_, compareCarryAndPredicateInstructionsComplete i f s u g hf h, writesRegisters_of_predicateEffect hf u g _, fun h => absurd h hv⟩

/-- Writing D leaves the vector registers that D does not name, in the access slice all of them. -/
theorem vget_eachD_outside (x : Ctx) (c : Crew) (f : Nat → Nat) {k l : Nat} (hl : l < 32)
    (hk : k < x.fl.f.d.toNat ∨ x.fl.f.d.toNat + x.row.d.count ≤ k ∨ x.access = true) : (x.eachD c f).vget k l = c.vget k l := by
  cases hx : x.access with
  | true => exact Ctx.vget_eachD_slice hx c f k l
  | false =>
    rw [Ctx.vget_eachD hx c f k hl, if_neg]
    rintro ⟨-, -, hlo, hhi⟩
    simp only [hx, Bool.false_eq_true, or_false] at hk
    omega

/-- Settles O14: the crew left differs in what D and the predicates name, and the group and the state in that crew. -/
theorem registerInstructionsChangeNothingElse : Obligations.RegisterInstructionsChangeNothingElse := by
  intro i s t u g hi h ht
  obtain ⟨c, hc, hw, hD⟩ := exec_of_registerOnly hi h
  obtain rfl : leaves i s u g c = t := Host.Outcome.next.inj (hc.symm.trans ht)
  refine ⟨leftGroup i u g c, registersOnly_leaves h hw.rest, ?_⟩
  rw [leftGroup_unit_self h]
  refine ⟨fun k l hl hm => ?vectors, fun k hk => ?uniforms, fun hv => ?value, fun l => ?pcs⟩
  case vectors => exact (hw.vectors k l hl hm).trans (Ctx.advance_vget _ _ k l)
  case uniforms => exact (hw.uniforms k hk).trans (Ctx.advance_sget _ _ k)
  case value =>
    obtain ⟨f, rfl⟩ := hD hv
    refine ⟨fun k l hl hk => ?_, fun k => ?_⟩
    · exact (vget_eachD_outside _ _ f hl (hk.imp_right (Or.imp_right decide_eq_true))).trans (Ctx.advance_vget _ _ k l)
    · exact (Ctx.pget_eachD _ _ f k).trans (Ctx.advance_pget _ _ k)
  case pcs =>
    rw [Crew.pcOf, hw.pcs]
    exact Ctx.advance_pcOf _ _ l

end Sys2Proof.Machine
end

section
/-! Branches, jumps, no-operations and sleeps: which lanes they move and what they leave (R136 to R138, R141, R142). -/
namespace Sys2Proof.Machine
open Sys2Proof

/-! ### Program counters -/

theorem target_mod (addr : Nat) (off : Int) : target addr off % 2 ^ 57 = target addr off := by
  unfold target
  omega

theorem lanes_of_act_eq_zero {x : Ctx} (h : x.act = 0) : x.lanes = [] := by
  rw [Ctx.lanes, h]
  rfl

/-- The lanes issued stand after the instruction in the crew that an issue begins with. -/
theorem pcOf_begunCrew (i : Instr) (u : Issue) (g : Group) (l : Nat) :
    (begunCrew i u g).pcOf l = if l ∈ lanesOf u.lanes then (u.addr + u.ilen) % 2 ^ 57 else (g.unit u.unit).pcOf l :=
  Ctx.advance_pcOf _ _ l

theorem Crew.pcOf_sset (c : Crew) (k : Nat) (w : Word) (l : Nat) : (c.sset k w).pcOf l = c.pcOf l := by rw [Crew.pcOf, Crew.sset_pc, Crew.pcOf]

/-- A register pair written low word first. -/
theorem Crew.sget_setPair (c : Crew) (d n : Nat) (lo hi : Word) : ((c.sset d lo).sset (d + 1) hi).sget n =
    if n = 63 then c.sget n else if n = d then lo else if n = d + 1 then hi else c.sget n := by
  rw [Crew.sget_sset, Crew.sget_sset]
  by_cases hn : n = 63
  · subst hn
    rw [if_neg (fun h => h.2 h.1.symm), if_neg (fun h => h.2 h.1.symm), if_pos rfl]
  · by_cases hd : n = d
    · subst hd
      simp [hn]
    · by_cases hd1 : n = d + 1
      · subst hd1
        simp [hn]
      · simp [hn, hd, hd1]

/-! ### Branches (R136, R137) -/

/-- Lane `l` of crew `d` has moved as a branch by `off` moves it, where its active lanes take it. -/
def Branched (i : Instr) (u : Issue) (g : Group) (d : Crew) (taken : Bool) (off : Int) (l : Nat) : Prop :=
  d.pcOf l = if taken ∧ l ∈ (issueCtx i u g).lanes then (((u.addr : Int) + off) % (2 : Int) ^ 57).toNat
    else if l ∈ lanesOf u.lanes then (u.addr + u.ilen) % 2 ^ 57 else (g.unit u.unit).pcOf l

/-- A crew that has the program counters of the issue but for the active lanes, which stand at the target. -/
theorem branched_of_setPcs {i : Instr} {u : Issue} {g : Group} {c : Crew} {off : Int} {l : Nat} (hc : c.pcOf l = (begunCrew i u g).pcOf l) :
    Branched i u g (c.setPcs (issueCtx i u g).lanes (target u.addr off)) true off l := by
  rw [Branched, Crew.pcOf_setPcs, target_mod, target, hc, pcOf_begunCrew]
  simp

/-- A crew that has the program counters of the issue, where the branch is not taken or no lane is active. -/
theorem branched_of_stays {i : Instr} {u : Issue} {g : Group} {c : Crew} {taken : Bool} {off : Int} {l : Nat}
    (hc : c.pcOf l = (begunCrew i u g).pcOf l) (ht : taken = false ∨ (issueCtx i u g).act = 0) : Branched i u g c taken off l := by
  rw [Branched, if_neg, hc, pcOf_begunCrew]
  rintro ⟨h1, h2⟩
  rcases ht with h | h
  · exact Bool.false_ne_true (h.symm.trans h1)
  · rw [lanes_of_act_eq_zero h] at h2
    cases h2

/-- `BRA` in either form sets the active lanes to its target and nothing else. -/
theorem bra_effect {i : Instr} {s : State} {u : Issue} {g : Group} {off : Int} (h : Issues i s u g)
    (he : exec i s = .next (leaves i s u g ((begunCrew i u g).setPcs (issueCtx i u g).lanes (target u.addr off)))) :
    ∃ t k, exec i s = .next t ∧ RegistersOnly s t u g k ∧ SameRegisters (g.unit u.unit) (k.unit u.unit) ∧
      ∀ l, Branched i u g (k.unit u.unit) true off l := by
  obtain ⟨t, k, ht, hr, hk⟩ := exists_registersOnly h he (Crew.sameRest_setPcs _ _ _)
  refine ⟨t, k, ht, hr, ?_⟩
  rw [hk]
  exact ⟨(sameRegisters_begunCrew i u g).trans (Crew.sameRegisters_setPcs _ _ _), fun l => branched_of_setPcs rfl⟩

/-- The crew that `BRAL` leaves where some lane is active: the link written, the active lanes at the target. -/
def linkedCrew (x : Ctx) (c : Crew) (d : Nat) : Crew :=
  ((c.sset d (BitVec.ofNat 32 ((x.addr + 12) % 2 ^ 57))).sset (d + 1) (BitVec.ofNat 32 ((x.addr + 12) % 2 ^ 57 / 2 ^ 32))).setPcs x.lanes
    (target x.addr x.off)

theorem exec_bral (f : Word0) (h : Word1) (w : Word) (s : State) : exec (.bral f h w) s =
    issueCrew (.bral f h w) s (fun x c => if x.act = 0 then c else linkedCrew x c f.d.toNat) := rfl

/-- `BRAL` writes the link where some lane is active, and moves the active lanes (R136). -/
theorem bral_effect {f : Word0} {h2 : Word1} {w : Word} {s : State} {u : Issue} {g : Group} (h : Issues (.bral f h2 w) s u g) :
    ∃ t k, exec (.bral f h2 w) s = .next t ∧ RegistersOnly s t u g k ∧ (∀ l, Branched (.bral f h2 w) u g (k.unit u.unit) true w.toInt l) ∧
      (∀ n l, (k.unit u.unit).vget n l = (g.unit u.unit).vget n l) ∧ (∀ n, (k.unit u.unit).pget n = (g.unit u.unit).pget n) ∧
      ∀ n, (k.unit u.unit).sget n =
        if (issueCtx (.bral f h2 w) u g).act = 0 ∨ n = 63 then (g.unit u.unit).sget n
        else if n = f.d.toNat then BitVec.ofNat 32 ((u.addr + 12) % 2 ^ 57)
        else if n = f.d.toNat + 1 then BitVec.ofNat 32 ((u.addr + 12) % 2 ^ 57 / 2 ^ 32) else (g.unit u.unit).sget n := by
  have hb := sameRegisters_begunCrew (.bral f h2 w) u g
  have he := (exec_bral f h2 w s).trans (issueCrew_of_issues h _)
  by_cases ha : (issueCtx (.bral f h2 w) u g).act = 0
  · rw [if_pos ha] at he
    obtain ⟨t, k, ht, hr, hk⟩ := exists_registersOnly h he (.refl _)
    refine ⟨t, k, ht, hr, ?_⟩
    rw [hk]
    refine ⟨fun l => branched_of_stays rfl (.inr ha), hb.vectors, hb.predicates, fun n => ?_⟩
    rw [if_pos (.inl ha)]
    exact hb.uniforms n
  · rw [if_neg ha] at he
    obtain ⟨t, k, ht, hr, hk⟩ := exists_registersOnly h he
      (((Crew.sameRest_sset _ _ _).trans (Crew.sameRest_sset _ _ _)).trans (Crew.sameRest_setPcs _ _ _))
    refine ⟨t, k, ht, hr, ?_⟩
    rw [hk, linkedCrew]
    refine ⟨fun l => branched_of_setPcs (by rw [Crew.pcOf_sset, Crew.pcOf_sset]), fun n l => ?_, fun n => ?_, fun n => ?_⟩
    · simp only [Crew.vget_setPcs, Crew.vget_sset]
      exact hb.vectors n l
    · simp only [Crew.pget_setPcs, Crew.pget_sset]
      exact hb.predicates n
    · rw [Crew.sget_setPcs, Crew.sget_setPair, hb.uniforms]
      simp only [ha, false_or]
      rfl

theorem exec_dbnz (f : Word0) (h : Word1) (w : Word) (s : State) : exec (.dbnz f h w) s = issueCrew (.dbnz f h w) s (fun x c =>
    if x.act = 0 then c else if c.sget f.d.toNat - 1 = 0 then c.sset f.d.toNat (c.sget f.d.toNat - 1)
      else (c.sset f.d.toNat (c.sget f.d.toNat - 1)).setPcs x.lanes (target x.addr x.off)) := rfl

/-- `DBNZ` decrements its counter once where some lane is active, and moves the active lanes unless it comes to zero (R136, R137). -/
theorem dbnz_effect {f : Word0} {h2 : Word1} {w : Word} {s : State} {u : Issue} {g : Group} (h : Issues (.dbnz f h2 w) s u g) :
    ∃ t k, exec (.dbnz f h2 w) s = .next t ∧ RegistersOnly s t u g k ∧
      (∀ l, Branched (.dbnz f h2 w) u g (k.unit u.unit) (decide ((g.unit u.unit).sget f.d.toNat ≠ 1)) w.toInt l) ∧
      (∀ n l, (k.unit u.unit).vget n l = (g.unit u.unit).vget n l) ∧ (∀ n, (k.unit u.unit).pget n = (g.unit u.unit).pget n) ∧
      ∀ n, (k.unit u.unit).sget n = if (issueCtx (.dbnz f h2 w) u g).act ≠ 0 ∧ n = f.d.toNat ∧ n ≠ 63 then (g.unit u.unit).sget n - 1
        else (g.unit u.unit).sget n := by
  have hb := sameRegisters_begunCrew (.dbnz f h2 w) u g
  have he := (exec_dbnz f h2 w s).trans (issueCrew_of_issues h _)
  have hz : (g.unit u.unit).sget f.d.toNat - 1 = 0 ↔ (g.unit u.unit).sget f.d.toNat = 1 := sub_eq_zero
  -- the counter and the other registers are the same whether the branch is taken or not
  have hs : ∀ n, ((begunCrew (.dbnz f h2 w) u g).sset f.d.toNat ((g.unit u.unit).sget f.d.toNat - 1)).sget n =
      if n = f.d.toNat ∧ n ≠ 63 then (g.unit u.unit).sget n - 1 else (g.unit u.unit).sget n := by
    intro n
    rw [Crew.sget_sset, hb.uniforms]
    by_cases hn : n = f.d.toNat <;> simp [hn]
  rw [hb.uniforms] at he
  by_cases ha : (issueCtx (.dbnz f h2 w) u g).act = 0
  · rw [if_pos ha] at he
    obtain ⟨t, k, ht, hr, hk⟩ := exists_registersOnly h he (.refl _)
    refine ⟨t, k, ht, hr, ?_⟩
    rw [hk]
    refine ⟨fun l => branched_of_stays rfl (.inr ha), hb.vectors, hb.predicates, fun n => ?_⟩
    rw [if_neg (fun hn => hn.1 ha)]
    exact hb.uniforms n
  · rw [if_neg ha] at he
    simp only [ne_eq, ha, not_false_eq_true, true_and]
    by_cases h1 : (g.unit u.unit).sget f.d.toNat = 1
    · rw [if_pos (hz.2 h1)] at he
      obtain ⟨t, k, ht, hr, hk⟩ := exists_registersOnly h he (Crew.sameRest_sset _ _ _)
      refine ⟨t, k, ht, hr, ?_⟩
      rw [hk]
      refine ⟨fun l => branched_of_stays (Crew.pcOf_sset _ _ _ l) (.inl (by simp [h1])), fun n l => ?_, fun n => ?_, hs⟩
      · rw [Crew.vget_sset, hb.vectors]
      · rw [Crew.pget_sset, hb.predicates]
    · rw [if_neg (h1 ∘ hz.1)] at he
      obtain ⟨t, k, ht, hr, hk⟩ := exists_registersOnly h he ((Crew.sameRest_sset _ _ _).trans (Crew.sameRest_setPcs _ _ _))
      refine ⟨t, k, ht, hr, ?_⟩
      rw [hk, decide_eq_true (p := ¬ (g.unit u.unit).sget f.d.toNat = 1) h1]
      refine ⟨fun l => branched_of_setPcs (Crew.pcOf_sset _ _ _ l), fun n l => ?_, fun n => ?_, fun n => (Crew.sget_setPcs _ _ _ _).trans (hs n)⟩
      · rw [Crew.vget_setPcs, Crew.vget_sset, hb.vectors]
      · rw [Crew.pget_setPcs, Crew.pget_sset, hb.predicates]

/-- Settles O18: each branch leaves a crew whose active lanes stand at the target where they take it. -/
theorem branchesMoveTheActiveLanes : Obligations.BranchesMoveTheActiveLanes := by
  intro i s u g h
  refine ⟨?bra, ?bra12, ?bral, ?dbnz⟩
  case bra =>
    rintro gp gn o rfl
    exact bra_effect h (issueCrew_of_issues h fun x c => c.setPcs x.lanes (target x.addr (4 * o.toInt)))
  case bra12 =>
    rintro f h2 w rfl
    exact bra_effect h (issueCrew_of_issues h fun x c => c.setPcs x.lanes (target x.addr x.off))
  case bral =>
    rintro f h2 w rfl
    exact bral_effect h
  case dbnz =>
    rintro f h2 w rfl
    exact dbnz_effect h

end Sys2Proof.Machine
end

section
/-! Jumps, no-operations and sleeps: where they leave the lanes (R138, R141, R142). -/
namespace Sys2Proof.Machine
open Sys2Proof

/-! ### Operands of the crew that an issue begins with are those before it -/

theorem SameRegisters.regN {c d : Crew} (h : SameRegisters c d) (x : Ctx) (u : Bool) (l : Nat) : ∀ n k, x.regN d u l k n = x.regN c u l k n
  | 0, _ => rfl
  | n + 1, k => by
    have h1 : x.reg1 d k u l = x.reg1 c k u l := by
      unfold Ctx.reg1
      split
      · exact h.uniforms k
      · exact h.vectors k l
    rw [Ctx.regN, Ctx.regN, h1, h.regN x u l n (k + 1)]

theorem begunCrew_a (i : Instr) (u : Issue) (g : Group) (x : Ctx) (l : Nat) : x.a (begunCrew i u g) l = x.a (g.unit u.unit) l :=
  (sameRegisters_begunCrew i u g).regN x _ l _ _

/-! ### Jumps (R138) -/

/-- Each lane of a list stands where its own address says, the others where they stood. -/
theorem pcOf_setPc_each (a : Nat → Nat) (m : Nat) : ∀ (ls : List Nat) (c : Crew),
    (ls.foldl (fun d l => d.setPc l (a l % 2 ^ 57)) c).pcOf m = if m ∈ ls then a m % 2 ^ 57 else c.pcOf m
  | [], c => by simp
  | l :: ls, c => by
    rw [List.foldl_cons, pcOf_setPc_each a m ls, Crew.pcOf_setPc, Nat.mod_mod]
    by_cases h : m = l <;> simp [h]

theorem sameRegisters_setPc_each (a : Nat → Nat) (c : Crew) : ∀ (ls : List Nat), SameRegisters c (ls.foldl (fun d l => d.setPc l (a l)) c) := by
  intro ls
  induction ls using List.reverseRecOn with
  | nil => exact .refl c
  | append_singleton ls l ih =>
    rw [List.foldl_append]
    exact ih.trans ⟨fun _ _ => rfl, fun _ => rfl, fun _ => rfl⟩

theorem natsFrom_pairwise_lt : ∀ n a, (natsFrom a n).Pairwise (· < ·)
  | 0, _ => .nil
  | n + 1, a => .cons (fun _ hb => ((mem_natsFrom n (a + 1) _).1 hb).1) (natsFrom_pairwise_lt n (a + 1))

/-- Of the active lanes the first that a check finds is the lowest. -/
theorem find?_lanes {x : Ctx} {p : Nat → Bool} {l : Nat} (hl : l ∈ x.lanes) (hp : p l = true) (hlow : ∀ m ∈ x.lanes, m < l → p m = false) :
    x.lanes.find? p = some l := by
  have hsorted : x.lanes.Pairwise (· < ·) := (natsFrom_pairwise_lt 32 0).filter _
  obtain ⟨before, rest, hsplit⟩ := List.append_of_mem hl
  rw [hsplit, List.pairwise_append] at hsorted
  refine List.find?_eq_some_iff_append.2 ⟨hp, before, rest, hsplit, fun m hm => ?_⟩
  rw [hlow m (hsplit ▸ List.mem_append_left _ hm) (hsorted.2.2 m hm l List.mem_cons_self)]
  rfl

/-- `JMPI` and `RET` are the same jump. -/
theorem exec_jump {i : Instr} {f : Word0} (hi : i = .jmpi f ∨ i = .ret f) (s : State) : exec i s = issue i s jumpLanes := by
  rcases hi with rfl | rfl <;> rfl

/-- Settles O19: the jump finds the lowest misaligned target, or sets each active lane to its own. -/
theorem jumpsGoToTheAddressInThePair : Obligations.JumpsGoToTheAddressInThePair := by
  intro i f s u g hi h
  have he := (exec_jump hi s).trans (issue_of_issues h jumpLanes)
  refine ⟨fun halign => ?aligned, fun l hl hmis hlow => ?misaligned⟩
  case aligned =>
    have hnone : (issueCtx i u g).lanes.find? (fun l => decide ((issueCtx i u g).a (begunCrew i u g) l % 4 ≠ 0)) = none :=
      List.find?_eq_none.2 fun l hl => by simpa [begunCrew_a] using halign l hl
    rw [jumpLanes, hnone] at he
    obtain ⟨t, k, ht, hr, hk⟩ := exists_registersOnly h he (Crew.sameRest_foldl (fun c l => c.sameRest_setPc l _) _ _)
    refine ⟨t, k, ht, hr, ?_⟩
    rw [hk]
    refine ⟨(sameRegisters_begunCrew i u g).trans (sameRegisters_setPc_each _ _ _), fun l => ?_⟩
    rw [pcOf_setPc_each ((issueCtx i u g).a (begunCrew i u g)), begunCrew_a, pcOf_begunCrew]
  case misaligned =>
    have hsome : (issueCtx i u g).lanes.find? (fun l => decide ((issueCtx i u g).a (begunCrew i u g) l % 4 ≠ 0)) = some l :=
      find?_lanes hl (by simpa [begunCrew_a] using hmis) fun m hm hml => by simpa [begunCrew_a] using hlow m hm hml
    rw [jumpLanes, hsome] at he
    rw [he, ← begunCrew_a]
    rfl

/-! ### No-operations (R141) -/

/-- A crew left with its registers and its program counters as the issue set them, and the note of `YIELD` where one belongs. -/
theorem nop_effect {i : Instr} {s : State} {u : Issue} {g : Group} {c : Crew} (h : Issues i s u g) (he : exec i s = .next (leaves i s u g c))
    (hrest : SameRest (begunCrew i u g) c) (hregs : SameRegisters (begunCrew i u g) c) (hpc : c.pc = (begunCrew i u g).pc)
    (hy : c.yielded = true ↔ (∃ f, i = .yield f) ∧ (issueCtx i u g).act ≠ 0) :
    ∃ t k, exec i s = .next t ∧ RegistersOnly s t u g k ∧ SameRegisters (g.unit u.unit) (k.unit u.unit) ∧
      (∀ l, (k.unit u.unit).pcOf l = if l ∈ lanesOf u.lanes then (u.addr + u.ilen) % 2 ^ 57 else (g.unit u.unit).pcOf l) ∧
      ((k.unit u.unit).yielded = true ↔ (∃ f, i = .yield f) ∧ (issueCtx i u g).act ≠ 0) := by
  obtain ⟨t, k, ht, hr, hk⟩ := exists_registersOnly h he hrest
  refine ⟨t, k, ht, hr, ?_⟩
  rw [hk]
  refine ⟨(sameRegisters_begunCrew i u g).trans hregs, fun l => ?_, hy⟩
  rw [Crew.pcOf, hpc]
  exact pcOf_begunCrew i u g l

theorem Crew.sameRest_yielded (c : Crew) : SameRest c { c with yielded := true } := by constructor <;> rfl

theorem exec_yield (f : Word0) (s : State) : exec (.yield f) s =
    issueCrew (.yield f) s (fun x c => if x.act = 0 then c else { c with yielded := true }) := rfl

/-- Among crews of one mode, none over age, the note decides before priority and order do. -/
theorem crewKey_of_yielded {g h : Group} {u w : Nat} (hu : (g.unit u).yielded = true) (hw : (h.unit w).yielded = false)
    (hm : (g.unit u).hmode = (h.unit w).hmode) (ha : (g.unit u).age < 64) (hb : (h.unit w).age < 64) :
    keyLe (crewKey g u) (crewKey h w) = false := by
  simp [crewKey, keyLe, hu, hw, hm, Nat.not_le.2 ha, Nat.not_le.2 hb]

theorem sliceKey_of_yielded {s : State} {g h : Group} (hg : g.slice.yielded = true) (hh : h.slice.yielded = false)
    (hm : g.slice.hmode = h.slice.hmode) : keyLe (sliceKey s g) (sliceKey s h) = false := by
  simp [sliceKey, keyLe, hg, hh, hm]

/-- Settles O20: a no-operation leaves the crew it began with, `YIELD` with its note, and the note comes before the rest of the key. -/
theorem noOperationsOnlyAdvance : Obligations.NoOperationsOnlyAdvance := by
  refine ⟨fun i s u g h hi => ?effect, fun g h u w => crewKey_of_yielded, fun s g h => sliceKey_of_yielded⟩
  case effect =>
    by_cases hy : ∃ f, i = .yield f
    · obtain ⟨f, rfl⟩ := hy
      have he := (exec_yield f s).trans (issueCrew_of_issues h _)
      by_cases ha : (issueCtx (.yield f) u g).act = 0
      · rw [if_pos ha] at he
        exact nop_effect h he (.refl _) (.refl _) rfl ⟨nofun, fun hn => absurd ha hn.2⟩
      · rw [if_neg ha] at he
        exact nop_effect h he (Crew.sameRest_yielded _) ⟨fun _ _ => rfl, fun _ => rfl, fun _ => rfl⟩ rfl
          ⟨fun _ => ⟨⟨f, rfl⟩, ha⟩, fun _ => rfl⟩
    · have he : exec i s = issueCrew i s (fun _ c => c) := by
        rcases hi with ⟨f, rfl⟩ | ⟨f, h2, rfl⟩ | ⟨f, h2, w, rfl⟩ | hyield
        · rfl
        · rfl
        · rfl
        · exact absurd hyield hy
      exact nop_effect h (he.trans (issueCrew_of_issues h _)) (.refl _) (.refl _) rfl ⟨nofun, fun hn => absurd hn.1 hy⟩

/-! ### Sleeps (R142) -/

/-- Each lane of a list waits for what it is given, the others for what they waited for. -/
theorem waitOf_setWait_each (w : Nat → LaneWait) (m : Nat) : ∀ (ls : List Nat) (c : Crew),
    (ls.foldl (fun d l => d.setWait l (w l)) c).waitOf m = if m ∈ ls then w m else c.waitOf m
  | [], c => by simp
  | l :: ls, c => by
    rw [List.foldl_cons, waitOf_setWait_each w m ls, Crew.waitOf_setWait]
    by_cases h : m = l <;> simp [h]

/-- Waits are apart from registers and program counters. -/
theorem setWait_each_keeps (w : Nat → LaneWait) (c : Crew) : ∀ (ls : List Nat),
    SameRegisters c (ls.foldl (fun d l => d.setWait l (w l)) c) ∧ (ls.foldl (fun d l => d.setWait l (w l)) c).pc = c.pc := by
  intro ls
  induction ls using List.reverseRecOn with
  | nil => exact ⟨.refl c, rfl⟩
  | append_singleton ls l ih =>
    rw [List.foldl_append]
    exact ⟨ih.1.trans ⟨fun _ _ => rfl, fun _ => rfl, fun _ => rfl⟩, ih.2⟩

/-- The lanes that `SLEEPC` puts to sleep for the counts `n`, and the crew it leaves. -/
def sleepers (x : Ctx) (n : Nat → Nat) : List Nat := x.lanes.filter (fun l => decide (n l ≠ 0))
def asleepCrew (x : Ctx) (c : Crew) (n : Nat → Nat) (now : Nat) : Crew :=
  (sleepers x n).foldl (fun d l => d.setWait l (.asleep (now + n l) x.addr)) c

/-- What `SLEEPC` with the counts `n` leaves: the waits, the lanes moved past it, and a wake-up posted for each sleeper (R142). -/
theorem sleepc_effect {i : Instr} {s : State} {u : Issue} {g : Group} {n : Nat → Nat} (h : Issues i s u g)
    (he : exec i s = .next { leaves i s u g (asleepCrew (issueCtx i u g) (begunCrew i u g) n (s.now g.loc.die)) with
      due := s.due ++ (sleepers (issueCtx i u g) n).map fun l => Ev.sleepcExpiry u.gid u.unit l }) :
    ∃ t k, exec i s = .next t ∧ t.group? u.gid = some k ∧ SameRegisters (g.unit u.unit) (k.unit u.unit) ∧ SameGroup u.unit g k ∧
      (∀ a, t.byteAt a = s.byteAt a) ∧
      (∀ l, (k.unit u.unit).waitOf l =
        if l ∈ (issueCtx i u g).lanes ∧ n l ≠ 0 then .asleep (s.now g.loc.die + n l) u.addr else (g.unit u.unit).waitOf l) ∧
      (∀ l, (k.unit u.unit).pcOf l = if l ∈ lanesOf u.lanes then (u.addr + u.ilen) % 2 ^ 57 else (g.unit u.unit).pcOf l) ∧
      t.due = s.due ++ ((issueCtx i u g).lanes.filter (fun l => decide (n l ≠ 0))).map (fun l => Ev.sleepcExpiry u.gid u.unit l) := by
  obtain ⟨hregs, hpc⟩ := setWait_each_keeps (fun l => .asleep (s.now g.loc.die + n l) u.addr) (begunCrew i u g) (sleepers (issueCtx i u g) n)
  refine ⟨_, leftGroup i u g (asleepCrew (issueCtx i u g) (begunCrew i u g) n (s.now g.loc.die)), he, ?_, ?_, sameGroup_leftGroup _ _ _ _,
    leaves_byteAt i s u g (begunCrew i u g), ?_, ?_, rfl⟩
  · exact (leaves_group? h _ u.gid).trans (if_pos rfl)
  · rw [leftGroup_unit_self h]
    exact (sameRegisters_begunCrew i u g).trans hregs
  · intro l
    rw [leftGroup_unit_self h, asleepCrew, waitOf_setWait_each (fun l => .asleep (s.now g.loc.die + n l) (issueCtx i u g).addr), Crew.waitOf,
      (sameRest_begunCrew i u g).wait]
    simp only [sleepers, List.mem_filter, decide_eq_true_eq]
    rfl
  · intro l
    rw [leftGroup_unit_self h, Crew.pcOf, asleepCrew]
    exact (congrArg (fun m => nget (fun _ => 0) m l) hpc).trans (pcOf_begunCrew i u g l)

theorem exec_sleepc (f : Word0) (s : State) : exec (.sleepc f) s =
    issue (.sleepc f) s (fun x g c t => sleepLanes (fun d l => x.a d l) x g c t) := rfl
theorem exec_sleepc12 (f : Word0) (h : Word1) (w : Word) (s : State) : exec (.sleepc12 f h w) s =
    issue (.sleepc12 f h w) s (fun x g c t => sleepLanes (fun _ _ => w.toNat) x g c t) := rfl

/-- A sleep whose counts in the crew begun with are `n` leaves the sleepers waiting and posts their wake-ups. -/
theorem finish_sleepLanes (i : Instr) (s : State) (u : Issue) (g : Group) {count : Crew → Nat → Nat} {n : Nat → Nat}
    (hn : count (begunCrew i u g) = n) :
    s.finish (issueCtx i u g) (sleepLanes count (issueCtx i u g) (begunGroup i u g) (begunCrew i u g) (begunState i s u g)) =
      .next { leaves i s u g (asleepCrew (issueCtx i u g) (begunCrew i u g) n (s.now g.loc.die)) with
        due := s.due ++ (sleepers (issueCtx i u g) n).map fun l => Ev.sleepcExpiry u.gid u.unit l } := by
  subst hn
  have hloc : (begunGroup i u g).loc = g.loc := Group.setUnit_loc g u.unit _
  unfold sleepLanes
  rw [hloc]
  rfl

/-- What a sleeper waits for at `now`: nothing once its time has come. -/
def wokenAt (now : Nat) : LaneWait → LaneWait
  | .asleep d a => if now < d then .asleep d a else .ready
  | w => w

theorem wokenAt_wokenAt (now : Nat) (w : LaneWait) : wokenAt now (wokenAt now w) = wokenAt now w := by
  cases w with
  | asleep d a => by_cases hd : now < d <;> simp [wokenAt, hd]
  | _ => rfl

/-- One lane of a crew wakes if its time has come. -/
def Crew.wakeLane (now : Nat) (c : Crew) (l : Nat) : Crew :=
  match c.waitOf l with
  | .asleep d _ => if now < d then c else c.setWait l .ready
  | _ => c

theorem Crew.waitOf_wakeLane (now : Nat) (c : Crew) (l m : Nat) :
    (c.wakeLane now l).waitOf m = if m = l then wokenAt now (c.waitOf m) else c.waitOf m := by
  unfold Crew.wakeLane
  by_cases hm : m = l
  · subst hm
    rw [if_pos rfl]
    split
    · next d a hw =>
      rw [hw, wokenAt]
      split
      · exact hw
      · rw [Crew.waitOf_setWait, if_pos rfl]
    · next hw =>
      unfold wokenAt
      split
      · next d a hwa => exact absurd hwa (hw d a)
      · rfl
  · rw [if_neg hm]
    split
    · split
      · rfl
      · rw [Crew.waitOf_setWait, if_neg hm]
    · rfl

theorem Crew.waitOf_wakeLanes (now m : Nat) : ∀ (ls : List Nat) (c : Crew),
    (ls.foldl (Crew.wakeLane now) c).waitOf m = if m ∈ ls then wokenAt now (c.waitOf m) else c.waitOf m
  | [], c => by simp
  | l :: ls, c => by
    rw [List.foldl_cons, Crew.waitOf_wakeLanes now m ls, Crew.waitOf_wakeLane]
    by_cases h : m = l <;> simp [h, wokenAt_wokenAt]

theorem exec_sleepcExpiry {s : State} {g : Group} {gid unit lane due addr : Nat} (hg : s.group? gid = some g) (hs : g.saveHeld = false)
    (hw : (g.unit unit).waitOf lane = .asleep due addr) : exec (.sleepcExpiry gid unit lane) s =
      if s.now g.loc.die < due then .next (s.post (.sleepcExpiry gid unit lane))
      else .next (s.setUnit g unit (allLanes.foldl (Crew.wakeLane (s.now g.loc.die)) (g.unit unit))) := by
  show execSleepcExpiry gid unit lane s = _
  simp only [execSleepcExpiry, hg, hs, hw]
  rfl

/-- Settles O21: `SLEEPC` sets the waits and posts a wake-up for each, and a wake-up wakes the lanes whose time has come. -/
theorem sleepsUntilTheCountHasPassed : Obligations.SleepsUntilTheCountHasPassed := by
  refine ⟨fun i s u g h hi => ?sleep, fun gid unit lane due addr s g hg hu hs hl hw => ⟨fun hdue => ?early, fun hdue => ?woken⟩⟩
  case sleep =>
    rcases hi with ⟨f, rfl⟩ | ⟨f, h2, w, rfl⟩
    · have he := (exec_sleepc f s).trans (issue_of_issues h _)
      rw [finish_sleepLanes _ s u g (funext fun l => begunCrew_a _ u g _ l)] at he
      exact sleepc_effect h he
    · have he := (exec_sleepc12 f h2 w s).trans (issue_of_issues h _)
      rw [finish_sleepLanes _ s u g rfl] at he
      exact sleepc_effect h he
  case early => rw [exec_sleepcExpiry hg hs hw, if_pos hdue]
  case woken =>
    have he := exec_sleepcExpiry hg hs hw
    rw [if_neg (Nat.not_lt.2 hdue)] at he
    refine ⟨_, g.setUnit unit (allLanes.foldl (Crew.wakeLane (s.now g.loc.die)) (g.unit unit)), he, ?_, ?_⟩
    · have hid := State.group?_id hg
      rw [State.setUnit, State.group?_setGroup, Group.setUnit_id, hid, if_pos rfl, hg, Option.map_some]
    · have hmem : lane ∈ allLanes := (mem_natsFrom 32 0 lane).2 ⟨Nat.zero_le _, by omega⟩
      rw [Group.unit_setUnit _ _ _ _ hu, if_pos rfl, Crew.waitOf_wakeLanes, if_pos hmem, hw, wokenAt, if_neg (Nat.not_lt.2 hdue)]

end Sys2Proof.Machine
end

section
/-! `EXIT`, `CANCEL`, `TRAP`, `BKPT` and `TRET.end` (R140, R297, R302 to R304, R420). -/
namespace Sys2Proof.Machine
open Sys2Proof

/-- An issue that traps after its effect, then settled. -/
theorem settled_finish_trapAfter {i : Instr} {s : State} {u : Issue} {g : Group} (h : Issues i s u g) (t : State) (w : Trap) :
    settled s (s.finish (issueCtx i u g) (.trapAfter t w)) = .next ((t.raise u.gid u.unit w).settleAt u.gid u.addr) := settled_next h.cur

theorem settled_finish_done {i : Instr} {s : State} {u : Issue} {g : Group} (h : Issues i s u g) (t : State) :
    settled s (s.finish (issueCtx i u g) (.done t)) = .next (t.settleAt u.gid u.addr) := settled_next h.cur

/-- The active lanes, or the access slice, have exited and their pass records are gone (R140). -/
theorem exec_exit_issues {f : Word0} {s : State} {u : Issue} {g : Group} (h : Issues (.exit f) s u g) :
    exec (.exit f) s = .next (((begunState (.exit f) s u g).setGroup (((begunGroup (.exit f) u g).setUnit u.unit { begunCrew (.exit f) u g with
        exited := if u.unit = 32 then (if (issueCtx (.exit f) u g).act = 0 then (begunCrew (.exit f) u g).exited else BitVec.allOnes 32)
          else (begunCrew (.exit f) u g).exited ||| (issueCtx (.exit f) u g).act
        pass := (begunCrew (.exit f) u g).pass.filter (fun y => !(issueCtx (.exit f) u g).act.getLsbD y.1) }).dropQueues
      u.unit)).settleAt u.gid u.addr) := by
  show execExit f s = _
  rw [execExit, issue_of_issues h, settled_finish_done h]
  have haccess : (issueCtx (.exit f) u g).access = decide (u.unit = 32) := rfl
  simp only [haccess, decide_eq_true_eq]
  rfl

/-- The level in SUB says what is cancelled, the launch itself where no instance of that level contains it (R297). -/
theorem exec_cancel_issues {f : Word0} {w : Word1} {s : State} {u : Issue} {g : Group} (h : Issues (.cancel f w) s u g)
    (ha : (issueCtx (.cancel f w) u g).act ≠ 0) : exec (.cancel f w) s =
      .next (if w.sub = 0 then (begunState (.cancel f w) s u g).endGroup u.gid 0x28
        else (begunState (.cancel f w) s u g).cancelInst ((if w.sub = 1 then some g.launch
          else if w.sub = 2 then (begunState (.cancel f w) s u g).above .graph 8 g.launch
          else if w.sub = 3 then (begunState (.cancel f w) s u g).above .phase 8 g.launch
          else (begunState (.cancel f w) s u g).above .job 8 g.launch).getD g.launch) g.pos.die false) := by
  have hlaunch : (begunGroup (.cancel f w) u g).launch = g.launch := Group.setUnit_launch g u.unit _
  have hpos : (begunGroup (.cancel f w) u g).pos = g.pos := Group.setUnit_pos g u.unit _
  have hid : (begunGroup (.cancel f w) u g).id = u.gid := (begunGroup_id _ u g).trans (State.group?_id h.group)
  have hsub : ∀ n : BitVec 4, w.sub.toNat = n.toNat ↔ w.sub = n := fun n => BitVec.toNat_inj
  have h0 := hsub 0; have h1 := hsub 1; have h2 := hsub 2; have h3 := hsub 3
  show execCancel f w s = _
  rw [execCancel, issue_of_issues h, if_neg ha]
  dsimp only
  rw [hlaunch, hpos, hid]
  split
  · next hn =>
    rw [h0.1 hn]
    rfl
  · next hn =>
    rw [h1.1 hn]
    rfl
  · next hn =>
    rw [h2.1 hn]
    cases (begunState (.cancel f w) s u g).above .graph 8 g.launch <;> rfl
  · next hn =>
    rw [h3.1 hn]
    cases (begunState (.cancel f w) s u g).above .phase 8 g.launch <;> rfl
  · next n0 n1 n2 n3 =>
    rw [if_neg (n0 ∘ h0.2), if_neg (n1 ∘ h1.2), if_neg (n2 ∘ h2.2), if_neg (n3 ∘ h3.2)]
    cases (begunState (.cancel f w) s u g).above .job 8 g.launch <;> rfl

/-- `TRAP` completes and then traps in the lowest active lane (R302). -/
theorem exec_trap_issues {f : Word0} {s : State} {u : Issue} {g : Group} (h : Issues (.trap f) s u g) (ha : (issueCtx (.trap f) u g).act ≠ 0) :
    exec (.trap f) s = .next (((begunState (.trap f) s u g).raise u.gid u.unit
      ((issueCtx (.trap f) u g).trapOf 0x18 (lowest (issueCtx (.trap f) u g).act) f.d.toNat u.addr)).settleAt u.gid u.addr) := by
  show execTrap f s = _
  rw [execTrap, issue_of_issues h, if_neg ha, settled_finish_trapAfter h]
  rfl

/-- `BKPT` traps while the context's breakpoints are enabled (R303). -/
theorem exec_bkpt_issues {f : Word0} {s : State} {u : Issue} {g : Group} (h : Issues (.bkpt f) s u g) (ha : (issueCtx (.bkpt f) u g).act ≠ 0) :
    exec (.bkpt f) s = .next (if bit (s.ctxReg g.ctx 0x10) 0
      then ((begunState (.bkpt f) s u g).raise u.gid u.unit
        ((issueCtx (.bkpt f) u g).trapOf 0x19 (lowest (issueCtx (.bkpt f) u g).act) 0 u.addr)).settleAt u.gid u.addr
      else (begunState (.bkpt f) s u g).settleAt u.gid u.addr) := by
  have hctx : (begunState (.bkpt f) s u g).ctxReg (begunGroup (.bkpt f) u g).ctx 0x10 = s.ctxReg g.ctx 0x10 :=
    congrArg (fun c => s.ctxReg c 0x10) (Group.setUnit_ctx g u.unit _)
  show execBkpt f s = _
  rw [execBkpt, issue_of_issues h]
  cases hb : bit (s.ctxReg g.ctx 0x10) 0 with
  | true =>
    rw [if_neg (by simpa [hctx, hb] using ha), settled_finish_trapAfter h]
    rfl
  | false =>
    rw [if_pos (by simp [hctx, hb]), settled_finish_done h]
    rfl

/-- In a handler `TRET.end` ends the group by the trap handled (R304, R420). -/
theorem exec_tretEnd_issues {f : Word0} {s : State} {u : Issue} {g : Group} {k : Nat} {w : Trap} (h : Issues (.tretEnd f) s u g)
    (ha : (issueCtx (.tretEnd f) u g).act ≠ 0) (hp : g.phase = .handler k w) :
    exec (.tretEnd f) s = .next ((begunState (.tretEnd f) s u g).endByTrap (begunGroup (.tretEnd f) u g) w 0) := by
  have hphase : (begunGroup (.tretEnd f) u g).phase = .handler k w := (Group.setUnit_phase g u.unit _).trans hp
  show execTretEnd f s = _
  rw [execTretEnd, issue_of_issues h, if_neg ha, hphase]
  rfl

/-- Settles O24: each of the five is an issue, its effect taken on the state begun with. -/
theorem exitsTrapsAndCancelsTakeEffect : Obligations.ExitsTrapsAndCancelsTakeEffect := by
  intro i s u g h
  refine ⟨?exit, ?cancel, ?trap, ?bkpt, ?tretEnd⟩
  case exit =>
    rintro f rfl
    exact exec_exit_issues h
  case cancel =>
    rintro f w rfl ha
    exact exec_cancel_issues h ha
  case trap =>
    rintro f rfl ha
    exact exec_trap_issues h ha
  case bkpt =>
    rintro f rfl ha
    exact exec_bkpt_issues h ha
  case tretEnd =>
    rintro f k w rfl ha hp
    exact exec_tretEnd_issues h ha hp

end Sys2Proof.Machine
end

section
/-! Integers and their bit patterns: exact results and their low bits, the clamp of SAT, and the carry chain (R144, R146 to R148). -/
namespace Sys2Proof.Machine
open Sys2Proof

/-! ### Patterns as integers (R144) -/

/-- An N-bit pattern read as a signed integer, its sign bit counted down. -/
theorem readInt_true_eq_toInt {n a : Nat} (hn : n ≠ 0) (ha : a < 2 ^ n) : readInt true n a = (BitVec.ofNat n a).toInt := by
  obtain ⟨m, rfl⟩ := Nat.exists_eq_succ_of_ne_zero hn
  have h2 : 2 ^ (m + 1) = 2 * 2 ^ m := by ring
  rw [BitVec.toInt_eq_toNat_cond, BitVec.toNat_ofNat, readInt, Nat.mod_eq_of_lt ha]
  simp only [Bool.true_and, decide_eq_true_eq, Nat.succ_sub_one, Nat.succ_eq_add_one]
  by_cases h : 2 ^ m ≤ a
  · rw [if_pos h, if_neg (by omega)]
    norm_cast
  · rw [if_neg h, if_pos (by omega)]

theorem readInt_false_eq {n a : Nat} (ha : a < 2 ^ n) : readInt false n a = a := by rw [readInt, Nat.mod_eq_of_lt ha]; rfl

theorem wrapInt_eq (n : Nat) (x : Int) : wrapInt n x = (BitVec.ofInt n x).toNat := by
  rw [wrapInt, BitVec.toNat_ofInt]
  norm_cast

theorem wrapInt_lt (n : Nat) (x : Int) : wrapInt n x < 2 ^ n := wrapInt_eq n x ▸ (BitVec.ofInt n x).isLt

/-- What a pattern reads as has that pattern. -/
theorem ofInt_readInt {n a : Nat} (signed : Bool) (hn : n ≠ 0) (ha : a < 2 ^ n) : BitVec.ofInt n (readInt signed n a) = BitVec.ofNat n a := by
  cases signed with
  | true => rw [readInt_true_eq_toInt hn ha, BitVec.ofInt_toInt]
  | false => rw [readInt_false_eq ha, BitVec.ofInt_natCast]

theorem wrapInt_readInt {n a : Nat} (signed : Bool) (hn : n ≠ 0) (ha : a < 2 ^ n) : wrapInt n (readInt signed n a) = a := by
  rw [wrapInt_eq, ofInt_readInt signed hn ha, BitVec.toNat_ofNat, Nat.mod_eq_of_lt ha]

theorem wrapInt_of_nonneg {n : Nat} {x : Int} (h0 : 0 ≤ x) (h : x < (2 : Int) ^ n) : wrapInt n x = x.natAbs := by
  rw [wrapInt, Int.emod_eq_of_lt h0 h]
  omega

/-- What a pattern reads as lies in the range of the type. -/
theorem readInt_bounds {n a : Nat} (signed : Bool) (hn : n ≠ 0) (ha : a < 2 ^ n) :
    intMin signed n ≤ readInt signed n a ∧ readInt signed n a ≤ intMax signed n := by
  cases signed with
  | true =>
    rw [readInt_true_eq_toInt hn ha]
    exact ⟨BitVec.le_toInt _, Int.le_sub_one_of_lt BitVec.toInt_lt⟩
  | false =>
    rw [readInt_false_eq ha]
    have : (a : Int) < 2 ^ n := by exact_mod_cast ha
    exact ⟨Int.natCast_nonneg a, Int.le_sub_one_of_lt this⟩

/-- A value in the range of the type reads back from its pattern. -/
theorem readInt_wrapInt {n : Nat} {x : Int} (signed : Bool) (hn : n ≠ 0) (hlo : intMin signed n ≤ x) (hhi : x ≤ intMax signed n) :
    readInt signed n (wrapInt n x) = x := by
  cases signed with
  | true =>
    rw [readInt_true_eq_toInt hn (wrapInt_lt n x), wrapInt_eq, BitVec.ofNat_toNat, BitVec.setWidth_eq, BitVec.toInt_ofInt]
    obtain ⟨m, rfl⟩ := Nat.exists_eq_succ_of_ne_zero hn
    have h2 : ((2 ^ (m + 1) : Nat) : Int) = 2 * 2 ^ m := by push_cast; ring
    simp only [intMin, intMax, if_true, Nat.succ_sub_one] at hlo hhi
    exact Int.bmod_eq_of_le (by rw [Nat.succ_eq_add_one, h2]; omega) (by rw [Nat.succ_eq_add_one, h2]; omega)
  | false =>
    simp only [intMin, intMax, Bool.false_eq_true, if_false] at hlo hhi
    rw [readInt_false_eq (wrapInt_lt n x), wrapInt_of_nonneg hlo (by omega)]
    omega

/-- The upper half of a double-width product. -/
theorem wrapInt_ediv (n : Nat) (x : Int) : wrapInt n (x / (2 : Int) ^ n) = (x % (2 : Int) ^ (2 * n)).toNat / 2 ^ n := by
  have hpos : (0 : Int) < 2 ^ n := by positivity
  have hhalf : x / (2 : Int) ^ n % 2 ^ n = x % (2 : Int) ^ (2 * n) / 2 ^ n := by
    rw [two_mul, pow_add, Int.emod_def x, Int.emod_def, ← Int.ediv_ediv_of_nonneg hpos.le, mul_assoc, Int.sub_mul_ediv_left _ _ hpos.ne']
  obtain ⟨m, hm⟩ := Int.eq_ofNat_of_zero_le (Int.emod_nonneg x (by positivity : (2 : Int) ^ (2 * n) ≠ 0))
  rw [wrapInt, hhalf, hm]
  norm_cast

/-! ### Integer results (R144, R146) -/

/-- Type code `t` is one of the four integer types of 32 and 64 bits, n32, s32, n64 and s64 (Table 03-5), and `n` is its width. -/
def IsIntType (t : BitVec 5) (n : Nat) : Prop := (t = 5 ∨ t = 6) ∧ n = 32 ∨ (t = 7 ∨ t = 8) ∧ n = 64

/-- What the model's tables say of the four types. -/
theorem width_sign_of_type {t : BitVec 5} {n : Nat} (h : IsIntType t n) :
    tyBits t = n ∧ (tySigned t = true ↔ t = 6 ∨ t = 8) ∧ n ≠ 0 := by
  rcases h with ⟨rfl | rfl, rfl⟩ | ⟨rfl | rfl, rfl⟩ <;> decide

/-- A pattern of one of the four types as the two's-complement integer or the number itself. -/
theorem asInt_eq {t : BitVec 5} {n a : Nat} (h : IsIntType t n) (ha : a < 2 ^ n) :
    asInt t a = if t = 6 ∨ t = 8 then (BitVec.ofNat n a).toInt else a := by
  obtain ⟨hw, hs, hn⟩ := width_sign_of_type h
  rw [asInt, hw]
  by_cases hsig : t = 6 ∨ t = 8
  · rw [if_pos hsig, hs.2 hsig, readInt_true_eq_toInt hn ha]
  · rw [if_neg hsig, Bool.eq_false_iff.2 (hsig ∘ hs.1), readInt_false_eq ha]

/-- Without SAT the results are those of arithmetic on the patterns. -/
theorem intResult_exact {t : BitVec 5} {n a b c : Nat} (h : IsIntType t n) (ha : a < 2 ^ n) (hb : b < 2 ^ n)
    (hc : c < 2 ^ n) :
    intResult t false (asInt t a + asInt t b) = (BitVec.ofNat n a + BitVec.ofNat n b).toNat ∧
    intResult t false (asInt t a - asInt t b) = (BitVec.ofNat n a - BitVec.ofNat n b).toNat ∧
    intResult t false (-asInt t a) = (-BitVec.ofNat n a).toNat ∧
    intResult t false (asInt t a * asInt t b) = (BitVec.ofNat n a * BitVec.ofNat n b).toNat ∧
    intResult t false (asInt t a * asInt t b + asInt t c) = (BitVec.ofNat n a * BitVec.ofNat n b + BitVec.ofNat n c).toNat := by
  obtain ⟨hw, -, hn⟩ := width_sign_of_type h
  have hof : ∀ {m}, m < 2 ^ n → BitVec.ofInt n (asInt t m) = BitVec.ofNat n m := fun hm => by rw [asInt, hw]; exact ofInt_readInt _ hn hm
  have hres : ∀ x, intResult t false x = (BitVec.ofInt n x).toNat := fun x => by rw [intResult, hw]; exact wrapInt_eq n x
  simp only [hres, sub_eq_add_neg, BitVec.ofInt_add, BitVec.ofInt_neg, BitVec.ofInt_mul, hof ha, hof hb, hof hc, and_self]

/-- The least, the greatest, the absolute value and the absolute difference fit in the width. -/
theorem intResult_order {t : BitVec 5} {n a b : Nat} (h : IsIntType t n) (ha : a < 2 ^ n) (hb : b < 2 ^ n) :
    (intResult t false (if asInt t a ≤ asInt t b then asInt t a else asInt t b) = if asInt t a ≤ asInt t b then a else b) ∧
    (intResult t false (if asInt t a ≤ asInt t b then asInt t b else asInt t a) = if asInt t a ≤ asInt t b then b else a) ∧
    intResult t false (if asInt t a < 0 then -asInt t a else asInt t a) = (asInt t a).natAbs ∧
    intResult t false (if asInt t a - asInt t b < 0 then -(asInt t a - asInt t b) else asInt t a - asInt t b) = (asInt t a - asInt t b).natAbs := by
  obtain ⟨hw, -, hn⟩ := width_sign_of_type h
  have hres : ∀ x, intResult t false x = wrapInt n x := fun x => by rw [intResult, hw]; rfl
  have hback : ∀ {m}, m < 2 ^ n → wrapInt n (asInt t m) = m := fun hm => by rw [asInt, hw]; exact wrapInt_readInt _ hn hm
  have hbound : ∀ {m}, m < 2 ^ n → intMin (tySigned t) n ≤ asInt t m ∧ asInt t m ≤ intMax (tySigned t) n := fun hm => by
    rw [asInt, hw]; exact readInt_bounds _ hn hm
  have habs : ∀ x : Int, |x| < 2 ^ n → intResult t false (if x < 0 then -x else x) = x.natAbs := fun x hx => by
    rw [hres, ← Int.natAbs_abs, ← wrapInt_of_nonneg (abs_nonneg x) hx, abs_eq_max_neg]
    congr 1
    split <;> omega
  have hrange : intMax (tySigned t) n - intMin (tySigned t) n < 2 ^ n ∧ 0 ≤ intMax (tySigned t) n ∧ intMin (tySigned t) n ≤ 0 := by
    obtain ⟨m, rfl⟩ := Nat.exists_eq_succ_of_ne_zero hn
    have hpos : (0 : Int) < 2 ^ m := by positivity
    have h2 : (2 : Int) ^ (m + 1) = 2 * 2 ^ m := by ring
    cases tySigned t <;> simp only [intMin, intMax, Nat.succ_eq_add_one, Nat.add_sub_cancel, h2, if_true, Bool.false_eq_true, if_false] <;> omega
  have hA := hbound ha
  have hB := hbound hb
  refine ⟨?least, ?greatest, habs _ (abs_lt.2 ⟨by omega, by omega⟩), habs _ (abs_lt.2 ⟨by omega, by omega⟩)⟩
  case least => rw [hres]; split; exacts [hback ha, hback hb]
  case greatest => rw [hres]; split; exacts [hback hb, hback ha]

/-- Under SAT what is written reads back as the value confined to the type's range. -/
theorem asInt_intResult_sat {t : BitVec 5} {n : Nat} (h : IsIntType t n) (x : Int) :
    asInt t (intResult t true x) = clampInt (tySigned t) n x ∧ intResult t true x < 2 ^ n := by
  obtain ⟨hw, -, hn⟩ := width_sign_of_type h
  rw [asInt, intResult, hw, if_pos rfl]
  obtain ⟨hlo, hhi⟩ := readInt_bounds (a := 0) (tySigned t) hn (Nat.two_pow_pos n)
  exact ⟨readInt_wrapInt _ hn (le_min (le_max_right _ _) (hlo.trans hhi)) (min_le_right _ _), wrapInt_lt n _⟩

/-- Settles O15: patterns and integers correspond as bit vectors and their signed readings do, and a clamped value reads back. -/
theorem integerResultsAreTwosComplement : Obligations.IntegerResultsAreTwosComplement := by
  constructor
  · intro t n a b c h ha hb hc
    rw [← asInt_eq h ha, ← asInt_eq h hb]
    obtain ⟨hadd, hsub, hneg, hmul, hmad⟩ := intResult_exact h ha hb hc
    obtain ⟨hmin, hmax, habs, hdif⟩ := intResult_order h ha hb
    exact ⟨rfl, rfl, hadd, hsub, hneg, hmul, hmad, by rw [intResult, (width_sign_of_type h).1]; exact wrapInt_ediv n _, hmin, hmax, habs, hdif⟩
  · rintro t x (rfl | rfl | rfl | rfl)
    · exact asInt_intResult_sat (t := 5) (n := 32) (.inl ⟨.inl rfl, rfl⟩) x
    · exact asInt_intResult_sat (t := 6) (n := 32) (.inl ⟨.inr rfl, rfl⟩) x
    · exact asInt_intResult_sat (t := 7) (n := 64) (.inr ⟨.inl rfl, rfl⟩) x
    · exact asInt_intResult_sat (t := 8) (n := 64) (.inr ⟨.inr rfl, rfl⟩) x

/-! ### The carry chain (R147, R148) -/

theorem Ctx.regN_one_lt (x : Ctx) (c : Crew) (u : Bool) (l k : Nat) : x.regN c u l k 1 < 2 ^ 32 := by
  have := (x.reg1 c k u l).isLt
  simp only [Ctx.regN]
  omega

theorem Ctx.a_lt {x : Ctx} (h : x.row.a.count = 1) (c : Crew) (l : Nat) : x.a c l < 2 ^ 32 := by rw [Ctx.a, h]; exact x.regN_one_lt c _ l _
theorem Ctx.c_lt {x : Ctx} (h : x.row.c.count = 1) (c : Crew) (l : Nat) : x.c c l < 2 ^ 32 := by rw [Ctx.c, h]; exact x.regN_one_lt c _ l _

theorem Ctx.b_lt {x : Ctx} (h : x.row.b.count = 1) (hi : x.row.w2 = .immB → x.fl.h.typ ≠ 8) (c : Crew) (l : Nat) : x.b c l < 2 ^ 32 := by
  unfold Ctx.b
  split
  · next hw => rw [immOperand, if_neg (hi hw)]; exact x.fl.w.isLt
  · rw [h]; exact x.regN_one_lt c _ l _

/-- A number below twice a modulus is its residue and one carry. -/
theorem mod_add_carry {m v : Nat} (h : v < 2 * m) : v % m + m * (decide (m ≤ v)).toNat = v := by
  by_cases hm : m ≤ v
  · rw [Nat.mod_eq_sub_mod hm, Nat.mod_eq_of_lt (by omega), decide_eq_true hm, Bool.toNat_true]
    omega
  · rw [Nat.mod_eq_of_lt (by omega), decide_eq_false hm, Bool.toNat_false]
    omega

/-- A difference of words, a borrow-in taken with it, is its residue less one borrow. -/
theorem mod_sub_borrow {a b k : Nat} (ha : a < 2 ^ 32) (hb : b < 2 ^ 32) (hk : k ≤ 1) :
    ((a : Int) + 2 ^ 33 - (b + k : Nat)) % 2 ^ 32 - 2 ^ 32 * (decide (a < b + k)).toNat = a - b - k := by
  by_cases h : a < b + k
  · rw [decide_eq_true h, Bool.toNat_true]
    omega
  · rw [decide_eq_false h, Bool.toNat_false]
    omega

/-- The product of two words, two words more and a carry fit in 64 bits and a carry. -/
theorem wideSum_le {x : Ctx} {c : Crew} {l : Nat} (ha : x.a c l < 2 ^ 32) (hb : x.b c l < 2 ^ 32) (hc : x.c c l < 2 ^ 32) :
    wideSum x c l ≤ 2 ^ 64 := by
  have hold := (x.reg1 c (x.fl.f.d.toNat + 1) false l).isLt
  have hprod : x.a c l * x.b c l ≤ (2 ^ 32 - 1) * (2 ^ 32 - 1) := Nat.mul_le_mul (by omega) (by omega)
  unfold wideSum
  split <;> omega

/-- Settles O17: each sum is below twice its modulus, so its residue and its carry are all of it. -/
theorem carryChainsAddExactly : Obligations.CarryChainsAddExactly := by
  intro x c l hra hrb hrc himm
  have ha := Ctx.a_lt hra c l
  have hb := Ctx.b_lt hrb himm c l
  have hc := Ctx.c_lt hrc c l
  refine ⟨?sum, ?difference, ?wide, wideSum_le ha hb hc⟩
  case sum =>
    rw [mod_add_carry]
    · rfl
    · unfold carrySum
      split <;> omega
  case difference =>
    exact mod_sub_borrow ha hb (k := if npredAt c x.fl.h.c l then 1 else 0) (by split <;> omega)
  case wide =>
    rw [mod_add_carry (by have := wideSum_le ha hb hc; omega)]
    unfold wideSum predAt
    by_cases h15 : x.fl.h.sub = 15
    · rw [if_neg (fun h => h.1 h15), if_pos h15]
    · simp only [ne_eq, h15, not_false_eq_true, true_and, if_false]

end Sys2Proof.Machine
end

section
/-! Shifts, rotations, tables, reversal and counts, bit by bit (R149, R151, R152). -/
namespace Sys2Proof.Machine
open Sys2Proof

/-! ### Shifts and rotations (R149) -/

theorem testBit_shlV {n a c i : Nat} (hi : i < n) : (shlV n a c).testBit i = (decide (c ≤ i) && a.testBit (i - c)) := by
  unfold shlV
  split
  · rw [Nat.testBit_mod_two_pow, Nat.testBit_mul_two_pow]
    simp [hi]
  · have : ¬ c ≤ i := by omega
    simp [this]

theorem testBit_shrV (n a c i : Nat) : (shrV n a c).testBit i = (decide (i + c < n) && a.testBit (i + c)) := by
  unfold shrV
  split
  · rw [Nat.testBit_div_two_pow, Nat.testBit_mod_two_pow]
  · have : ¬ i + c < n := by omega
    simp [this]

theorem shlV_lt (n a c : Nat) : shlV n a c < 2 ^ n := by
  unfold shlV
  split
  · exact Nat.mod_lt _ (Nat.two_pow_pos n)
  · exact Nat.two_pow_pos n

theorem shrV_lt (n a c : Nat) : shrV n a c < 2 ^ n := by
  unfold shrV
  split
  · exact (Nat.div_le_self _ _).trans_lt (Nat.mod_lt _ (Nat.two_pow_pos n))
  · exact Nat.two_pow_pos n

/-- An arithmetic shift is that of the pattern as a bit vector. -/
theorem sarV_eq {n a : Nat} (c : Nat) (hn : n ≠ 0) (ha : a < 2 ^ n) : sarV n a c = ((BitVec.ofNat n a).sshiftRight (min c (n - 1))).toNat := by
  have h : (BitVec.ofNat n a).toInt / (2 : Int) ^ min c (n - 1) = ((BitVec.ofNat n a).sshiftRight (min c (n - 1))).toInt := by
    rw [BitVec.toInt_sshiftRight, Int.shiftRight_eq_div_pow]
    norm_cast
  rw [sarV, wrapInt_eq, readInt_true_eq_toInt hn ha, h, BitVec.ofInt_toInt]

theorem testBit_sarV {n a i : Nat} (c : Nat) (ha : a < 2 ^ n) (hi : i < n) : (sarV n a c).testBit i = a.testBit (min (i + c) (n - 1)) := by
  have hn : n ≠ 0 := by omega
  rw [sarV_eq c hn ha, BitVec.testBit_toNat, BitVec.getLsbD_sshiftRight, BitVec.msb_eq_getLsbD_last, BitVec.getLsbD_ofNat, BitVec.getLsbD_ofNat,
    decide_eq_true (show n - 1 < n by omega), decide_eq_false (show ¬ n ≤ i by omega)]
  by_cases h : min c (n - 1) + i < n
  · rw [if_pos h, decide_eq_true h, show min (i + c) (n - 1) = min c (n - 1) + i by omega]
    rfl
  · rw [if_neg h, show min (i + c) (n - 1) = n - 1 by omega]
    rfl

/-- A rotation puts the low part of the pattern above its high part. -/
theorem rolV_eq {n a : Nat} (c : Nat) (hn : n ≠ 0) (ha : a < 2 ^ n) :
    rolV n a c = 2 ^ (c % n) * (a % 2 ^ (n - c % n)) + a / 2 ^ (n - c % n) ∧ a / 2 ^ (n - c % n) < 2 ^ (c % n) := by
  have hk : c % n < n := Nat.mod_lt _ (Nat.pos_of_ne_zero hn)
  have hsplit : 2 ^ n = 2 ^ (c % n) * 2 ^ (n - c % n) := by rw [← pow_add]; congr 1; omega
  constructor
  · dsimp only [rolV]
    rw [Nat.mod_eq_of_lt ha, Nat.mul_comm a, hsplit, Nat.mul_mod_mul_left]
  · exact Nat.div_lt_of_lt_mul (by rwa [Nat.mul_comm, ← hsplit])

theorem testBit_rolV {n a i : Nat} (c : Nat) (ha : a < 2 ^ n) (hi : i < n) :
    (rolV n a c).testBit i = a.testBit (if i < c % n then n - c % n + i else i - c % n) := by
  obtain ⟨heq, hlt⟩ := rolV_eq c (by omega) ha
  rw [heq, Nat.testBit_two_pow_mul_add _ hlt, Nat.testBit_div_two_pow, Nat.testBit_mod_two_pow]
  split
  · rw [Nat.add_comm]
  · rw [decide_eq_true (show i - c % n < n - c % n by omega), Bool.true_and]

theorem rolV_lt {n a : Nat} (c : Nat) (hn : n ≠ 0) (ha : a < 2 ^ n) : rolV n a c < 2 ^ n := by
  obtain ⟨heq, hlt⟩ := rolV_eq c hn ha
  have hk : c % n < n := Nat.mod_lt _ (Nat.pos_of_ne_zero hn)
  have hmod := Nat.mod_lt a (Nat.two_pow_pos (n - c % n))
  calc rolV n a c < 2 ^ (c % n) * (a % 2 ^ (n - c % n)) + 2 ^ (c % n) := by omega
    _ = 2 ^ (c % n) * (a % 2 ^ (n - c % n) + 1) := by ring
    _ ≤ 2 ^ (c % n) * 2 ^ (n - c % n) := Nat.mul_le_mul_left _ hmod
    _ = 2 ^ n := by rw [← pow_add]; congr 1; omega

/-- Where bit `i` goes under a rotation left by `c`, and where it comes from under one right. -/
theorem add_mod_cases {n i : Nat} (c : Nat) (hi : i < n) : (i + c) % n = if i + c % n < n then i + c % n else i + c % n - n := by
  have hk : c % n < n := Nat.mod_lt _ (by omega)
  rw [Nat.add_mod, Nat.mod_eq_of_lt hi]
  split
  · exact Nat.mod_eq_of_lt ‹_›
  · rw [Nat.mod_eq_sub_mod (by omega), Nat.mod_eq_of_lt (by omega)]

theorem testBit_rolV_add {n a i : Nat} (c : Nat) (ha : a < 2 ^ n) (hi : i < n) : (rolV n a c).testBit ((i + c) % n) = a.testBit i := by
  have hk : c % n < n := Nat.mod_lt _ (by omega)
  rw [testBit_rolV c ha (Nat.mod_lt _ (by omega)), add_mod_cases c hi]
  congr 1
  split_ifs <;> omega

theorem testBit_rorV {n a i : Nat} (c : Nat) (ha : a < 2 ^ n) (hi : i < n) : (rorV n a c).testBit i = a.testBit ((i + c) % n) := by
  have hk : c % n < n := Nat.mod_lt _ (by omega)
  rw [rorV, testBit_rolV _ ha hi, add_mod_cases c hi]
  congr 1
  rcases Nat.eq_zero_or_pos (c % n) with h0 | h0
  · simp [h0, hi]
  · rw [Nat.mod_eq_of_lt (show n - c % n < n by omega)]
    split_ifs <;> omega

/-! ### Tables, reversal and counts (R151, R152) -/

theorem testBit_lut3V (tab : Nat) : ∀ (n a b d i : Nat), i < n → (lut3V tab n a b d).testBit i =
    tab.testBit ((a.testBit i).toNat + 2 * (b.testBit i).toNat + 4 * (d.testBit i).toNat)
  | n + 1, a, b, d, 0, _ => by
    rw [lut3V, Nat.testBit_zero, Nat.toNat_testBit, Nat.toNat_testBit, Nat.toNat_testBit]
    simp only [pow_zero, Nat.div_one]
    cases tab.testBit (a % 2 + 2 * (b % 2) + 4 * (d % 2)) <;> simp
  | n + 1, a, b, d, i + 1, hi => by
    have hrest : ((if tab.testBit (a % 2 + 2 * (b % 2) + 4 * (d % 2)) then 1 else 0) + 2 * lut3V tab n (a / 2) (b / 2) (d / 2)) / 2 =
        lut3V tab n (a / 2) (b / 2) (d / 2) := by split <;> omega
    rw [lut3V, Nat.testBit_succ, hrest, testBit_lut3V tab n _ _ _ i (by omega), Nat.testBit_succ, Nat.testBit_succ, Nat.testBit_succ]

theorem brevV_lt : ∀ n a : Nat, brevV n a < 2 ^ n
  | 0, _ => Nat.one_pos
  | n + 1, a => by
    have := brevV_lt n (a / 2)
    have h2 : 2 ^ (n + 1) = 2 * 2 ^ n := by ring
    rw [brevV, h2]
    rcases Nat.mod_two_eq_zero_or_one a with h | h <;> rw [h] <;> omega

theorem testBit_brevV : ∀ (n a i : Nat), i < n → (brevV n a).testBit i = a.testBit (n - 1 - i)
  | n + 1, a, i, hi => by
    rw [brevV, Nat.mul_comm, Nat.testBit_two_pow_mul_add _ (brevV_lt n (a / 2))]
    split
    · next hin =>
      rw [testBit_brevV n (a / 2) i hin, ← Nat.testBit_succ]
      congr 1
      omega
    · rw [show i = n by omega, Nat.sub_self, show n + 1 - 1 - n = 0 by omega, Nat.testBit_zero, Nat.testBit_zero, Nat.mod_mod]

theorem popcV_eq : ∀ n a : Nat, popcV n a = ((List.range n).filter (fun i => a.testBit i)).length
  | 0, _ => rfl
  | n + 1, a => by
    have hshift : ((List.range n).map Nat.succ).filter (fun i => a.testBit i) =
        ((List.range n).filter (fun i => (a / 2).testBit i)).map Nat.succ := by
      rw [List.filter_map]
      simp only [Function.comp_def, Nat.testBit_succ]
    rw [popcV, popcV_eq n (a / 2), List.range_succ_eq_map, List.filter_cons, hshift, Nat.testBit_zero]
    rcases Nat.mod_two_eq_zero_or_one a with h | h <;> simp [h, Nat.add_comm]

/-- The count of zeros below the lowest one stops at that one, or at the width. -/
theorem ctzV_spec : ∀ n a : Nat, ctzV n a ≤ n ∧ (∀ i, i < ctzV n a → a.testBit i = false) ∧ (ctzV n a < n → a.testBit (ctzV n a) = true)
  | 0, _ => ⟨le_rfl, nofun, nofun⟩
  | n + 1, a => by
    obtain ⟨hle, hzero, hone⟩ := ctzV_spec n (a / 2)
    rw [ctzV]
    split
    · next h => exact ⟨Nat.zero_le _, nofun, fun _ => by rw [Nat.testBit_zero, h]; rfl⟩
    · next h =>
      refine ⟨by omega, fun i hi => ?_, fun hlt => ?_⟩
      · cases i with
        | zero => rw [Nat.testBit_zero]; exact decide_eq_false h
        | succ i => rw [Nat.testBit_succ]; exact hzero i (by omega)
      · rw [Nat.add_comm, Nat.testBit_succ]
        exact hone (by omega)

/-- The count of zeros above the highest one stops at that one, or at the width. -/
theorem clzV_spec : ∀ n a : Nat, a < 2 ^ n → clzV n a ≤ n ∧ (∀ i, n - clzV n a ≤ i → a.testBit i = false) ∧
    (clzV n a < n → a.testBit (n - 1 - clzV n a) = true)
  | 0, a, ha => ⟨le_rfl, fun i _ => by rw [Nat.lt_one_iff.1 ha, Nat.zero_testBit], nofun⟩
  | n + 1, a, ha => by
    rw [clzV]
    split
    · next h => exact ⟨Nat.zero_le _, fun i hi => Nat.testBit_lt_two_pow (ha.trans_le (Nat.pow_le_pow_right (by decide) hi)), fun _ => h⟩
    · next h =>
      have hlow : a < 2 ^ n := Nat.lt_pow_two_of_testBit a fun i hi => by
        rcases Nat.eq_or_lt_of_le hi with rfl | hlt
        · exact Bool.eq_false_iff.2 h
        · exact Nat.testBit_lt_two_pow (ha.trans_le (Nat.pow_le_pow_right (by decide) hlt))
      obtain ⟨hle, hzero, hone⟩ := clzV_spec n a hlow
      refine ⟨by omega, fun i hi => hzero i (by omega), fun hlt => ?_⟩
      rw [show n + 1 - 1 - (1 + clzV n a) = n - 1 - clzV n a by omega]
      exact hone (by omega)

/-- Settles O16: each result's bits by the recursion or the shift that computes it. -/
theorem shiftsAndBitCounts : Obligations.ShiftsAndBitCounts := by
  intro n a b c hn ha
  have h0 : n ≠ 0 := by rcases hn with rfl | rfl <;> decide
  obtain ⟨hcle, hczero, hcone⟩ := clzV_spec n a ha
  obtain ⟨htle, htzero, htone⟩ := ctzV_spec n a
  refine ⟨fun i => testBit_shlV, fun i _ => testBit_shrV n a c i, fun i => testBit_sarV c ha, fun i => testBit_rolV_add c ha,
    fun i => testBit_rorV c ha, shlV_lt n a c, shrV_lt n a c, wrapInt_lt n _, rolV_lt c h0 ha, rolV_lt _ h0 ha,
    fun tab d i => testBit_lut3V tab n a b d i, testBit_brevV n a, popcV_eq n a, ?zero, ?nonzero⟩
  case zero =>
    rintro rfl
    refine ⟨le_antisymm hcle (not_lt.1 fun h => ?_), le_antisymm htle (not_lt.1 fun h => ?_)⟩
    · simpa using hcone h
    · simpa using htone h
  case nonzero =>
    intro hne
    -- some bit below the width is one, so neither count reaches the width
    obtain ⟨i, hi⟩ := Nat.exists_testBit_of_ne_zero hne
    have hin : i < n := by
      by_contra hge
      rw [Nat.testBit_lt_two_pow (ha.trans_le (Nat.pow_le_pow_right (by decide) (not_lt.1 hge)))] at hi
      cases hi
    have hclz : clzV n a < n := lt_of_le_of_ne hcle fun he => by simp [hczero i (by omega)] at hi
    have hctz : ctzV n a < n := lt_of_le_of_ne htle fun he => by simp [htzero i (by omega)] at hi
    exact ⟨hclz, hcone hclz, fun j hj => hczero j (by omega), hctz, htone hctz, htzero⟩

end Sys2Proof.Machine
end

section
/-! The arrival at a cross-lane or barrier instruction (R191, R192, R206, R290). -/
namespace Sys2Proof.Machine
open Sys2Proof

/-- An instruction that the table gives an operand is a cross-lane one with it. -/
theorem exec_of_crossSource {i : Instr} {a : Ctx → Crew → Nat → Nat} (ha : crossSource i = some a) (s : State) : exec i s = crossOp i s a := by
  unfold crossSource at ha
  split at ha
  all_goals cases ha
  all_goals rfl

/-- An instruction that the table gives a token is one of the whole crew with it. -/
theorem exec_of_wholeToken {i : Instr} {b : Ctx → Crew → Nat} (hb : wholeToken i = some b) (s : State) : exec i s = wholeOp i s b := by
  unfold wholeToken at hb
  split at hb
  all_goals cases hb
  all_goals rfl

theorem settled_finish_trap {i : Instr} {s : State} {u : Issue} {g : Group} (h : Issues i s u g) (w : Trap) :
    settled s (s.finish (issueCtx i u g) (.trap w)) = .next ((s.raise u.gid u.unit w).settleAt u.gid u.addr) := settled_next h.cur

/-- The member mask that lane `l` reads when the instruction issues: operand C (R188, R191). -/
abbrev memberMask (i : Instr) (u : Issue) (g : Group) (l : Nat) : Word := BitVec.ofNat 32 ((issueCtx i u g).c (begunCrew i u g) l)

/-- What is wrong with that mask, if anything: the lane that `CONV_MASK` reports second (R191, R196). -/
abbrev maskFault (i : Instr) (u : Issue) (g : Group) (l : Nat) : Option Nat := maskBad (begunCrew i u g).partw l (memberMask i u g l)

/-- Where no active lane's mask is wrong the active lanes arrive (R192). -/
theorem crossOp_arrives {i : Instr} {s : State} {u : Issue} {g : Group} {a : Ctx → Crew → Nat → Nat} (h : Issues i s u g)
    (hm : ∀ l ∈ (issueCtx i u g).lanes, maskFault i u g l = none) :
    crossOp i s a = .next ((leaves i s u g ((begunCrew i u g).reach (issueCtx i u g) i false (bit (issueCtx i u g).fl.w.toNat 31)
      (memberMask i u g) (crossInput i (issueCtx i u g) (begunCrew i u g) (a (issueCtx i u g) (begunCrew i u g))))).settleAt u.gid u.addr) := by
  have hnone : (issueCtx i u g).lanes.find? (fun l => (maskFault i u g l).isSome) = none :=
    List.find?_eq_none.2 fun l hl => by simp [hm l hl]
  rw [crossOp, issue_of_issues h]
  dsimp only
  rw [hnone, settled_finish_done h]
  rfl

/-- The lowest active lane whose mask is wrong traps, and no lane arrives (R191). -/
theorem crossOp_traps {i : Instr} {s : State} {u : Issue} {g : Group} {a : Ctx → Crew → Nat → Nat} {l v : Nat} (h : Issues i s u g)
    (hl : l ∈ (issueCtx i u g).lanes) (hv : maskFault i u g l = some v)
    (hlow : ∀ m ∈ (issueCtx i u g).lanes, m < l → maskFault i u g m = none) :
    crossOp i s a = .next ((trapped i s u g 0x03 l v u.addr).settleAt u.gid u.addr) := by
  have hsome : (issueCtx i u g).lanes.find? (fun m => (maskFault i u g m).isSome) = some l :=
    find?_lanes hl (by simp [hv]) fun m hm hml => by simp [hlow m hm hml]
  obtain rfl : (maskFault i u g l).getD 0 = v := by rw [hv]; rfl
  rw [crossOp, issue_of_issues h]
  dsimp only
  rw [hsome, settled_finish_trap h]
  rfl

/-- An instruction of the whole crew has no mask that could be wrong: its active lanes arrive (R206, R290). -/
theorem wholeOp_arrives {i : Instr} {s : State} {u : Issue} {g : Group} {b : Ctx → Crew → Nat} (h : Issues i s u g) :
    wholeOp i s b = .next ((leaves i s u g ((begunCrew i u g).reach (issueCtx i u g) i true true
      (fun _ => if u.unit = 32 then 1 else BitVec.allOnes 32)
      (fun _ => { x := 0, b := b (issueCtx i u g) (begunCrew i u g), fill := 0 }))).settleAt u.gid u.addr) := by
  have haccess : (issueCtx i u g).access = decide (u.unit = 32) := rfl
  rw [wholeOp, issue_of_issues h, settled_finish_done h]
  simp only [haccess, decide_eq_true_eq]
  rfl

/-- Settles O25: each instruction of the two tables is an arrival, after the check of the masks where it has them. -/
theorem crossLaneInstructionsArrive : Obligations.CrossLaneInstructionsArrive := by
  intro i s u g h
  refine ⟨?arrives, ?traps, ?whole⟩
  case arrives =>
    intro a ha hm
    exact (exec_of_crossSource ha s).trans (crossOp_arrives h hm)
  case traps =>
    intro a l v ha hl hv hlow
    exact (exec_of_crossSource ha s).trans (crossOp_traps h hl hv hlow)
  case whole =>
    intro b hb
    exact (exec_of_wholeToken hb s).trans (wholeOp_arrives h)

end Sys2Proof.Machine
end

section
/-! What a completed member set gives its lanes: integer reductions and scans, and the lane elected (R199 to R205). -/
namespace Sys2Proof.Machine
open Sys2Proof

/-! ### The tree and the stages combine in lane order

For an associative step the tree of R82 and the stages of R83 give what combining from the lowest lane on gives. -/

/-- The values of a list combined in order, from its first on. -/
def inOrder (g : Nat → Nat → Nat) : List Nat → Nat
  | [] => 0
  | a :: l => l.foldl g a

theorem treeStage_length : ∀ l : List Nat, (treeStage g l).length = (l.length + 1) / 2
  | [] => rfl
  | [_] => by simp [treeStage]
  | _ :: _ :: l => by simp only [treeStage, List.length_cons, treeStage_length l]; omega

section
variable {g : Nat → Nat → Nat} (hg : ∀ a b c, g (g a b) c = g a (g b c))
include hg

theorem foldl_treeStage : ∀ (l : List Nat) (a : Nat), (treeStage g l).foldl g a = l.foldl g a
  | [], _ => rfl
  | [_], _ => rfl
  | b :: c :: l, a => by rw [treeStage, List.foldl_cons, List.foldl_cons, List.foldl_cons, hg, foldl_treeStage l]

theorem inOrder_treeStage : ∀ l : List Nat, inOrder g (treeStage g l) = inOrder g l
  | [] => rfl
  | [_] => rfl
  | a :: b :: l => foldl_treeStage hg l (g a b)

/-- The tree over at most 2 ^ n values (R82). -/
theorem treeReduce_eq : ∀ (n : Nat) (l : List Nat), l.length ≤ 2 ^ n → treeReduce g n l = inOrder g l
  | _, [], _ => by unfold treeReduce; split <;> rfl
  | _, [_], _ => by unfold treeReduce; split <;> rfl
  | 0, _ :: _ :: _, h => absurd h (by simp)
  | n + 1, a :: b :: l, h => by
    rw [treeReduce, if_neg (by simp), treeReduce_eq n _ (by rw [treeStage_length]; omega), inOrder_treeStage hg]

theorem inOrder_append {l r : List Nat} (hl : l ≠ []) (hr : r ≠ []) : inOrder g (l ++ r) = g (inOrder g l) (inOrder g r) := by
  obtain ⟨a, l, rfl⟩ := List.exists_cons_of_ne_nil hl
  obtain ⟨b, r, rfl⟩ := List.exists_cons_of_ne_nil hr
  have hassoc : Std.Associative g := ⟨hg⟩
  simp only [inOrder, List.cons_append, List.foldl_append, List.foldl_cons, List.foldl_assoc]

end

/-- Lane `j`'s value and those of the lanes less than `d` below it. -/
def window (v : List Nat) (d j : Nat) : List Nat := (v.drop (j + 1 - d)).take (min d (j + 1))

theorem window_length (v : List Nat) {d j : Nat} (hj : j < v.length) : (window v d j).length = min d (j + 1) := by
  rw [window, List.length_take, List.length_drop]
  omega

theorem window_ne_nil {v : List Nat} {d j : Nat} (hd : 0 < d) (hj : j < v.length) : window v d j ≠ [] :=
  List.ne_nil_of_length_pos (by rw [window_length v hj]; omega)

/-- A window of twice the width is the one of the lane `d` below, then the lane's own. -/
theorem window_double (v : List Nat) {d j : Nat} (h : d ≤ j) : window v (2 * d) j = window v d (j - d) ++ window v d j := by
  have hstart : j + 1 - d = j + 1 - 2 * d + min d (j - d + 1) := by omega
  rw [window, show min (2 * d) (j + 1) = min d (j - d + 1) + min d (j + 1) by omega, List.take_add, List.drop_drop, ← hstart,
    show j + 1 - 2 * d = j - d + 1 - d by omega]
  rfl

/-- A window at least as wide as the lanes up to its own is all of them. -/
theorem window_of_le (v : List Nat) {d j : Nat} (h : j < d) : window v d j = v.take (j + 1) := by
  rw [window, Nat.sub_eq_zero_of_le h, min_eq_right h, List.drop_zero]

/-- What each lane holds once stages have combined `d` neighbours. -/
def windows (g : Nat → Nat → Nat) (v : List Nat) (d : Nat) : List Nat := (List.range v.length).map (fun j => inOrder g (window v d j))

@[simp] theorem windows_length (g : Nat → Nat → Nat) (v : List Nat) (d : Nat) : (windows g v d).length = v.length := by simp [windows]

theorem windows_one (g : Nat → Nat → Nat) (v : List Nat) : windows g v 1 = v := by
  refine List.ext_getElem (by simp) fun j _ hj => ?_
  have hw : window v 1 j = [v[j]] := by
    rw [window, Nat.add_sub_cancel, min_eq_left (by omega), List.drop_eq_getElem_cons hj]
    rfl
  simp [windows, hw, inOrder]

/-- A stage doubles the windows (R83). -/
theorem scanStage_windows {g : Nat → Nat → Nat} (hg : ∀ a b c, g (g a b) c = g a (g b c)) (v : List Nat) {d : Nat} (hd : 0 < d) :
    scanStage g d (windows g v d) = windows g v (2 * d) := by
  refine List.ext_getElem (by simp [scanStage]; omega) fun j _ hj => ?_
  rw [windows_length] at hj
  rcases Nat.lt_or_ge j d with hlt | hge
  · simp only [scanStage]
    rw [List.getElem_append_left (by simp; omega)]
    simp [windows, window_of_le v hlt, window_of_le v (show j < 2 * d by omega)]
  · have hstep : inOrder g (window v (2 * d) j) = g (inOrder g (window v d (j - d))) (inOrder g (window v d j)) := by
      rw [window_double v hge, inOrder_append hg (window_ne_nil hd (by omega)) (window_ne_nil hd hj)]
    simp only [scanStage]
    rw [List.getElem_append_right (by simp; omega)]
    simp [windows, hstep, show min d v.length = d by omega, show d + (j - d) = j by omega]

/-- The stages, once they have combined `d` neighbours and until they have combined all. -/
theorem scanStages_windows {g : Nat → Nat → Nat} (hg : ∀ a b c, g (g a b) c = g a (g b c)) (v : List Nat) : ∀ (n d : Nat), 0 < d →
    v.length ≤ d * 2 ^ n → scanStages g n d (windows g v d) = (List.range v.length).map (fun j => inOrder g (v.take (j + 1))) := by
  have hall : ∀ d, v.length ≤ d → windows g v d = (List.range v.length).map (fun j => inOrder g (v.take (j + 1))) := fun d h =>
    List.map_congr_left fun j hj => by rw [window_of_le v ((List.mem_range.1 hj).trans_le h)]
  intro n
  induction n with
  | zero => exact fun d _ h => hall d (by simpa using h)
  | succ n ih =>
    intro d hd h
    rw [scanStages]
    split
    · next hle => exact hall d (by simpa using hle)
    · rw [scanStage_windows hg v hd, ih (2 * d) (by omega) (by rw [pow_succ] at h; linarith)]

theorem lget_eq_getD {α : Type} (d : α) : ∀ (l : List α) (i : Nat), lget d l i = l.getD i d
  | [], _ => rfl
  | _ :: _, 0 => rfl
  | _ :: l, i + 1 => by rw [lget, lget_eq_getD d l i, List.getD_cons_succ]

/-- The stages give each lane the values up to its own, combined in order (R83). -/
theorem lget_scanStages {g : Nat → Nat → Nat} (hg : ∀ a b c, g (g a b) c = g a (g b c)) {v : List Nat} {n j : Nat} (hn : v.length ≤ 2 ^ n)
    (hj : j < v.length) : lget 0 (scanStages g n 1 v) j = inOrder g (v.take (j + 1)) := by
  have h := scanStages_windows hg v n 1 Nat.one_pos (by rwa [one_mul])
  rw [windows_one] at h
  rw [h, lget_eq_getD]
  simp [List.getD, hj]

/-! ### Sums, conjunctions, disjunctions and parities -/

theorem foldl_add_mod (m : Nat) : ∀ (l : List Nat) (a : Nat), l.foldl (fun a b => (a + b) % m) (a % m) = (a + l.sum) % m
  | [], _ => by simp
  | b :: l, a => by rw [List.foldl_cons, Nat.mod_add_mod, foldl_add_mod m l, List.sum_cons, Nat.add_assoc]

theorem inOrder_add (m : Nat) : ∀ l : List Nat, inOrder (fun a b => (a + b) % m) (l.map (· % m)) = l.sum % m
  | [] => by simp [inOrder]
  | a :: l => by
    rw [List.map_cons, inOrder, foldl_add_mod, List.sum_cons, Nat.add_mod, ← List.sum_nat_mod, ← Nat.add_mod]

theorem testBit_foldl_and (i : Nat) : ∀ (l : List Nat) (a : Nat), (l.foldl (· &&& ·) a).testBit i = (a :: l).all (·.testBit i)
  | [], a => by simp
  | b :: l, a => by simp [testBit_foldl_and i l, Bool.and_assoc]

theorem testBit_foldl_or (i : Nat) : ∀ (l : List Nat) (a : Nat), (l.foldl (· ||| ·) a).testBit i = (a :: l).any (·.testBit i)
  | [], a => by simp
  | b :: l, a => by simp [testBit_foldl_or i l, Bool.or_assoc]

theorem testBit_foldl_xor (i : Nat) : ∀ (l : List Nat) (a : Nat),
    (l.foldl (· ^^^ ·) a).testBit i = decide (((a :: l).filter (·.testBit i)).length % 2 = 1)
  | [], a => by cases h : a.testBit i <;> simp [h]
  | b :: l, a => by
    rw [List.foldl_cons, testBit_foldl_xor i l]
    cases ha : a.testBit i <;> cases hb : b.testBit i <;> simp [ha, hb, Nat.add_assoc]

/-! ### The member set's values and the operations on them -/

theorem natsFrom_length : ∀ a n : Nat, (natsFrom a n).length = n
  | _, 0 => rfl
  | a, n + 1 => by rw [natsFrom, List.length_cons, natsFrom_length (a + 1) n]

theorem natsFrom_take : ∀ (a : Nat) {k n : Nat}, k ≤ n → (natsFrom a n).take k = natsFrom a k
  | _, 0, _, _ => by simp [natsFrom]
  | a, k + 1, n + 1, h => by rw [natsFrom, List.take_succ_cons, natsFrom_take (a + 1) (Nat.le_of_succ_le_succ h), natsFrom]

@[simp] theorem MemberSet.lanes_length (m : MemberSet) : m.lanes.length = m.width := natsFrom_length _ _

/-- Values of an integer type are the lanes' 32-bit patterns: nothing is flushed (R198). -/
theorem MemberSet.values_of_int (m : MemberSet) {t : BitVec 5} (ht : t ≠ 10) (k : FCtl) : m.values t k = (m.lanes.map m.x).map (· % 2 ^ 32) := by
  simp only [MemberSet.values, if_neg ht, List.map_map]
  rfl

theorem testBit_word {i : Nat} (hi : i < 32) (x : Nat) : (x % 2 ^ 32).testBit i = x.testBit i := by
  rw [Nat.testBit_mod_two_pow, decide_eq_true hi, Bool.true_and]

theorem combine_add {t : BitVec 5} (ht : t ≠ 10) (k : FCtl) : combine 0 t k = fun a b => (a + b) % 2 ^ 32 := by
  funext a b
  rw [combine, if_neg ht]

theorem add_mod_assoc (m a b c : Nat) : ((a + b) % m + c) % m = (a + (b + c) % m) % m := by
  rw [Nat.mod_add_mod, Nat.add_mod_mod, Nat.add_assoc]

/-- An integer reduction of a tile combines its values in lane order (R201). -/
theorem reduxV_eq {m : MemberSet} {op : Nat} {t : BitVec 5} {k : FCtl} {g : Nat → Nat → Nat} (hw : m.width ≤ 32) (ht : t ≠ 10)
    (hop : combine op t k = g) (hg : ∀ a b c, g (g a b) c = g a (g b c)) :
    reduxV m op t k = inOrder g ((m.lanes.map m.x).map (· % 2 ^ 32)) := by
  rw [reduxV, laneOut, if_neg ht, m.values_of_int ht, hop, treeReduce_eq hg]
  simpa using hw

theorem reduxV_add {m : MemberSet} {t : BitVec 5} (hw : m.width ≤ 32) (ht : t ≠ 10) (k : FCtl) :
    reduxV m 0 t k = (m.lanes.map m.x).sum % 2 ^ 32 := by
  rw [reduxV_eq hw ht (combine_add ht k) (add_mod_assoc _), inOrder_add]

/-- An inclusive integer sum scan gives a lane the sum from the tile's first lane to its own (R203). -/
theorem scanV_add {m : MemberSet} {t : BitVec 5} {l : Nat} (hw : m.width ≤ 32) (ht : t ≠ 10) (k : FCtl) (a : LaneIn) (hl : l - m.base < m.width) :
    scanV m 0 t k l a = ((natsFrom m.base (l - m.base + 1)).map m.x).sum % 2 ^ 32 := by
  have htake : m.lanes.take (l - m.base + 1) = natsFrom m.base (l - m.base + 1) := natsFrom_take _ hl
  have hlen : ((m.lanes.map m.x).map (· % 2 ^ 32)).length = m.width := by simp
  rw [scanV, if_pos (by decide), scanOut, if_neg (fun h => ht h.1), laneOut, if_neg ht, m.values_of_int ht, Nat.zero_mod, combine_add ht,
    lget_scanStages (add_mod_assoc _) (hlen.trans_le hw) (hl.trans_eq hlen.symm), ← List.map_take, inOrder_add, ← List.map_take, htake]

/-- A reduction bit by bit: what `read` tells of a bit of any values combined, it tells of that bit of the tile's. -/
theorem testBit_reduxV {m : MemberSet} {op : Nat} {t : BitVec 5} {k : FCtl} {i : Nat} {g : Nat → Nat → Nat} (read : List Nat → Bool)
    (h0 : 0 < m.width) (hw : m.width ≤ 32) (ht : t ≠ 10) (hop : combine op t k = g) (hg : ∀ a b c, g (g a b) c = g a (g b c))
    (hread : ∀ l a, (l.foldl g a).testBit i = read (a :: l)) :
    (reduxV m op t k).testBit i = read ((m.lanes.map m.x).map (· % 2 ^ 32)) := by
  obtain ⟨a, l, hv⟩ := List.exists_cons_of_length_pos (show 0 < ((m.lanes.map m.x).map (· % 2 ^ 32)).length by simpa using h0)
  rw [reduxV_eq hw ht hop hg, hv]
  exact hread l a

section
variable {m : MemberSet} {t : BitVec 5} {i : Nat} (h0 : 0 < m.width) (hw : m.width ≤ 32) (ht : t ≠ 10) (k : FCtl) (hi : i < 32)
include h0 hw ht hi

theorem testBit_reduxV_and : (reduxV m 3 t k).testBit i = m.lanes.all (fun y => (m.x y).testBit i) := by
  rw [testBit_reduxV (op := 3) (k := k) (·.all (·.testBit i)) h0 hw ht rfl Nat.and_assoc (testBit_foldl_and i)]
  simp only [List.all_map, Function.comp_def, testBit_word hi]

theorem testBit_reduxV_or : (reduxV m 4 t k).testBit i = m.lanes.any (fun y => (m.x y).testBit i) := by
  rw [testBit_reduxV (op := 4) (k := k) (·.any (·.testBit i)) h0 hw ht rfl Nat.or_assoc (testBit_foldl_or i)]
  simp only [List.any_map, Function.comp_def, testBit_word hi]

theorem testBit_reduxV_xor :
    (reduxV m 5 t k).testBit i = decide ((m.lanes.filter (fun y => (m.x y).testBit i)).length % 2 = 1) := by
  rw [testBit_reduxV (op := 5) (k := k) (fun v => decide ((v.filter (·.testBit i)).length % 2 = 1)) h0 hw ht rfl Nat.xor_assoc
    (testBit_foldl_xor i)]
  simp only [List.filter_map, Function.comp_def, testBit_word hi, List.length_map]

end

/-! ### The lane elected (R205) -/

theorem le_foldl_min (n : Nat) : ∀ (l : List (Nat × LaneIn)) (a : Nat),
    n ≤ l.foldl (fun a q => min a q.1) a ↔ n ≤ a ∧ ∀ q ∈ l, n ≤ q.1
  | [], a => by simp
  | q :: l, a => by rw [List.foldl_cons, le_foldl_min n l, le_min_iff, List.forall_mem_cons, and_assoc]

theorem le_lowestLane (n : Nat) : ∀ {l : List (Nat × LaneIn)}, l ≠ [] → (n ≤ lowestLane l ↔ ∀ p ∈ l, n ≤ p.1)
  | p :: l, _ => by rw [lowestLane, le_foldl_min, List.forall_mem_cons]

/-- A lane of the list is the lowest when none is below it. -/
theorem eq_lowestLane_iff {l : List (Nat × LaneIn)} {p : Nat × LaneIn} (hp : p ∈ l) : p.1 = lowestLane l ↔ ∀ q ∈ l, p.1 ≤ q.1 := by
  have hne := List.ne_nil_of_mem hp
  rw [← le_lowestLane _ hne]
  exact ⟨le_of_eq, fun h => le_antisymm h ((le_lowestLane _ hne).1 le_rfl p hp)⟩

/-- One predicate written in each of a list of lanes. -/
theorem predAt_foldl_pset (f : Nat → Bool) {d l : Nat} (hd : d ≠ 15) (hl : l < 32) : ∀ (ps : List (Nat × LaneIn)) (c : Crew),
    predAt (ps.foldl (fun e p => e.pset d p.1 (f p.1)) c) d l = if ps.any (fun p => decide (p.1 = l)) then f l else predAt c d l
  | [], _ => by simp
  | p :: ps, c => by
    rw [List.foldl_cons, predAt_foldl_pset f hd hl ps, predAt_pset _ _ _ _ _ hl]
    by_cases h : p.1 = l
    · simp [h, hd]
    · rw [List.any_cons, decide_eq_false h, Bool.false_or, if_neg fun hw : d = d ∧ d ≠ 15 ∧ l = p.1 => h hw.2.2.symm]

theorem crossWrite_of_elect {i : Instr} (hi : (∃ f h, i = .elect f h) ∨ (∃ f h w, i = .elect12 f h w)) (m : MemberSet) (c : Crew) :
    crossWrite i m c = m.arrived.foldl (fun e p => e.pset (fieldsOf i).f.d.toNat p.1 (decide (p.1 = lowestLane m.arrived))) c := by
  rcases hi with ⟨f, h, rfl⟩ | ⟨f, h, w, rfl⟩ <;> rfl

/-- The predicate is one in the lowest arrived lane and zero in the others that arrived (R205). -/
theorem predAt_crossWrite_elect {i : Instr} (hi : (∃ f h, i = .elect f h) ∨ (∃ f h w, i = .elect12 f h w)) (m : MemberSet) (c : Crew) {l : Nat}
    (hl : l < 32) (hd : (fieldsOf i).f.d.toNat ≠ 15) :
    predAt (crossWrite i m c) (fieldsOf i).f.d.toNat l =
      if m.arrived.any (fun p => decide (p.1 = l)) then m.arrived.all (fun p => decide (l ≤ p.1)) else predAt c (fieldsOf i).f.d.toNat l := by
  rw [crossWrite_of_elect hi, predAt_foldl_pset (fun l => decide (l = lowestLane m.arrived)) hd hl]
  split
  · next hany =>
    obtain ⟨p, hp, hpl⟩ := List.any_eq_true.1 hany
    obtain rfl := of_decide_eq_true hpl
    rw [Bool.eq_iff_iff, decide_eq_true_iff, eq_lowestLane_iff hp]
    simp only [List.all_eq_true, decide_eq_true_iff]
  · rfl

/-- Settles O26: each step is associative, so tree and stages combine in lane order; `ELECT` writes each arrived lane once. -/
theorem reductionsAndScansAreTheirSums : Obligations.ReductionsAndScansAreTheirSums := by
  refine ⟨fun m t k hm ht => ?values, fun i m c l hi hl _ hd => predAt_crossWrite_elect hi m c hl hd⟩
  case values =>
    obtain ⟨h0, hw⟩ : 0 < m.width ∧ m.width ≤ 32 := by
      simp only [List.mem_cons, List.not_mem_nil, or_false] at hm
      omega
    exact ⟨reduxV_add hw ht k, fun i hi => testBit_reduxV_and h0 hw ht k hi, fun i hi => testBit_reduxV_or h0 hw ht k hi,
      fun i hi => testBit_reduxV_xor h0 hw ht k hi, fun l a hbase hl => scanV_add hw ht k a (by omega), fun _ => rfl⟩

end Sys2Proof.Machine
end

section
/-! Special registers: what `MFSR` writes and latches, and what `MTSR` writes (R36, R37, R300). -/
namespace Sys2Proof.Machine
open Sys2Proof

/-! ### The state in which an instruction leaves a crew and nothing else -/

theorem exists_leaves {i : Instr} {s : State} {u : Issue} {g : Group} {c : Crew} (h : Issues i s u g) (he : exec i s = .next (leaves i s u g c)) :
    ∃ t k, exec i s = .next t ∧ SameState u.gid s t ∧ SameGroup u.unit g k ∧ t.group? u.gid = some k ∧ k.unit u.unit = c :=
  ⟨_, _, he, sameState_leaves h c, sameGroup_leftGroup i u g c, by rw [leaves_group? h, if_pos rfl], leftGroup_unit_self h c⟩

theorem lset_lset {α : Type} : ∀ (l : List α) (k : Nat) (a b : α), lset (lset l k a) k b = lset l k b
  | [], _, _, _ => rfl
  | _ :: _, 0, _, _ => rfl
  | y :: l, k + 1, a, b => congrArg (y :: ·) (lset_lset l k a b)

theorem begunGroup_setUnit_begunCrew (i : Instr) (u : Issue) (g : Group) : (begunGroup i u g).setUnit u.unit (begunCrew i u g) = begunGroup i u g := by
  by_cases hu : u.unit = 32 <;> simp [begunGroup, Group.setUnit, hu, lset_lset]

theorem State.setGroup_setGroup_self (s : State) (g : Group) : (s.setGroup g).setGroup g = s.setGroup g := by
  unfold State.setGroup
  dsimp only
  rw [List.map_map]
  congr 2
  funext x
  by_cases hx : x.id = g.id <;> simp [hx]

/-- The crew that an instruction begins with is in the state begun. -/
theorem leaves_begunCrew (i : Instr) (s : State) (u : Issue) (g : Group) : leaves i s u g (begunCrew i u g) = begunState i s u g := by
  rw [leaves, State.setUnit, begunGroup_setUnit_begunCrew, begunState, State.setGroup_setGroup_self]

/-! ### `MFSR` (R36, R37) -/

theorem nfind?_ninsert {α : Type} (k j : Nat) (v : α) : ∀ m : NMap α, nfind? (ninsert m k v) j = if j = k then some v else nfind? m j
  | [] => rfl
  | (k', v') :: m => by
    unfold ninsert
    split
    · next hk =>
      subst hk
      by_cases hj : j = k <;> simp [nfind?, hj]
    · next hk =>
      split
      · rfl
      · simp only [nfind?, nfind?_ninsert k j v m]
        by_cases hj : j = k'
        · simp [hj, Ne.symm hk]
        · simp [hj]

/-- The crew with the upper half of value `v` latched, when `n` is the number of a `.lo` register. -/
def latchUpper (c : Crew) (n v : Nat) : Crew :=
  if loOf n = some n then { c with latch := ninsert c.latch n (BitVec.ofNat 32 (v / 2 ^ 32)) } else c

theorem nfind?_latchUpper (c : Crew) (n v k : Nat) :
    nfind? (latchUpper c n v).latch k = if loOf n = some n ∧ k = n then some (BitVec.ofNat 32 (v / 2 ^ 32)) else nfind? c.latch k := by
  unfold latchUpper
  split
  · next hn => simp [hn, nfind?_ninsert]
  · next hn => simp [hn]

theorem sameRegisters_latchUpper (c : Crew) (n v : Nat) : SameRegisters c (latchUpper c n v) := by
  unfold latchUpper
  split
  · exact ⟨fun _ _ => rfl, fun _ => rfl, fun _ => rfl⟩
  · exact .refl c

/-- The crew with D written: SUB 1 writes uniform register D with the value of the lowest active lane, SUB 0 each active lane's
value in vector register D. -/
def writeReadValues (w : Word1) (x : Ctx) (c : Crew) (d : Nat) (value : Nat → Nat) : Crew :=
  if w.sub = 1 then c.sset d (BitVec.ofNat 32 (value (lowest x.act)))
  else x.each c (fun e l => e.vset d l (BitVec.ofNat 32 (value l)))

/-- What no write of a vector register changes, writing one in the active lanes leaves. -/
theorem Ctx.read_each_vset {β : Type} (x : Ctx) (c : Crew) (d : Nat) (value : Nat → Word) (read : Crew → β)
    (h : ∀ e l y, read (e.vset d l y) = read e) : read (x.each c (fun e l => e.vset d l (value l))) = read c :=
  List.foldlRecOn (motive := fun e => read e = read c) x.lanes _ rfl fun e he l _ => (h e l _).trans he

theorem Ctx.vget_each_vset (x : Ctx) (c : Crew) (d : Nat) (value : Nat → Word) (k : Nat) {l : Nat} (hl : l < 32) :
    (x.each c (fun e m => e.vset d m (value m))).vget k l = if l ∈ x.lanes ∧ k = d ∧ k ≠ 255 then value l else c.vget k l := by
  have hone : ∀ (e : Crew), ∀ m ∈ x.lanes, (e.vset d m (value m)).vget k l = if l = m ∧ k = d ∧ k ≠ 255 then value l else e.vget k l := by
    intro e m hm
    rw [e.vget_vset d m k l _ (lt_of_mem_lanesOf hm) hl]
    by_cases hk : k = d <;> by_cases hlm : l = m <;> simp [hk, hlm]
  simpa using x.read_each _ (fun e => e.vget k l) (value l) (fun m => l = m ∧ k = d ∧ k ≠ 255) hone c

section
variable (w : Word1) (x : Ctx) (c : Crew) (d : Nat) (value : Nat → Nat)

theorem vget_writeReadValues (k : Nat) {l : Nat} (hl : l < 32) : (writeReadValues w x c d value).vget k l =
    if w.sub ≠ 1 ∧ l ∈ x.lanes ∧ k = d ∧ k ≠ 255 then BitVec.ofNat 32 (value l) else c.vget k l := by
  unfold writeReadValues
  split
  · next hs => simp [hs]
  · next hs =>
    simp only [ne_eq, hs, not_false_eq_true, true_and]
    exact x.vget_each_vset c d (fun m => BitVec.ofNat 32 (value m)) k hl

theorem sget_writeReadValues (k : Nat) : (writeReadValues w x c d value).sget k =
    if w.sub = 1 ∧ k = d ∧ k ≠ 63 then BitVec.ofNat 32 (value (lowest x.act)) else c.sget k := by
  unfold writeReadValues
  split
  · next hs =>
    rw [Crew.sget_sset]
    by_cases hk : k = d <;> simp [hs, hk]
  · next hs =>
    rw [if_neg fun h => hs h.1]
    exact x.read_each_vset c d _ (fun e => e.sget k) fun e l y => e.sget_vset d l k y

theorem pget_writeReadValues (k : Nat) : (writeReadValues w x c d value).pget k = c.pget k := by
  unfold writeReadValues
  split
  · exact c.pget_sset d k _
  · exact x.read_each_vset c d _ (fun e => e.pget k) fun e l y => e.pget_vset d l k y

theorem latch_writeReadValues : (writeReadValues w x c d value).latch = c.latch := by
  unfold writeReadValues
  split
  · exact c.sset_latch d _
  · exact x.read_each_vset c d _ Crew.latch fun e l y => e.vset_latch d l y

end

/-- The crew that `MFSR` leaves: nothing with no lane active, else the upper half latched and D written. -/
def mfsrCrew (f : Word0) (w : Word1) (s : State) (u : Issue) (g : Group) : Crew :=
  let i := Instr.mfsr f w
  let c := begunCrew i u g
  if (issueCtx i u g).act = 0 then c
  else writeReadValues w (issueCtx i u g) (latchUpper c f.a.toNat (srValue s (begunGroup i u g) u.unit c f.a.toNat 0)) f.d.toNat
    (srRead s (begunGroup i u g) u.unit c f.a.toNat)

theorem exec_mfsr_issues {f : Word0} {w : Word1} {s : State} {u : Issue} {g : Group} (h : Issues (.mfsr f w) s u g) :
    exec (.mfsr f w) s = .next (leaves (.mfsr f w) s u g (mfsrCrew f w s u g)) := by
  show execMfsr f w s = _
  rw [execMfsr, issue_of_issues h, mfsrCrew]
  by_cases ha : (issueCtx (.mfsr f w) u g).act = 0
  · rw [if_pos ha, if_pos ha, leaves_begunCrew]
    rfl
  · rw [if_neg ha, if_neg ha]
    rfl

/-- What `MFSR` leaves of its unit. -/
theorem mfsrCrew_effect (f : Word0) (w : Word1) (s : State) (u : Issue) (g : Group) :
    let x := issueCtx (.mfsr f w) u g
    let value := srRead s (begunGroup (.mfsr f w) u g) u.unit (begunCrew (.mfsr f w) u g) f.a.toNat
    (∀ k l, l < 32 → (mfsrCrew f w s u g).vget k l =
      if w.sub ≠ 1 ∧ l ∈ x.lanes ∧ k = f.d.toNat ∧ k ≠ 255 then BitVec.ofNat 32 (value l) else (g.unit u.unit).vget k l) ∧
    (∀ k, (mfsrCrew f w s u g).sget k =
      if w.sub = 1 ∧ x.act ≠ 0 ∧ k = f.d.toNat ∧ k ≠ 63 then BitVec.ofNat 32 (value (lowest x.act)) else (g.unit u.unit).sget k) ∧
    (∀ k, (mfsrCrew f w s u g).pget k = (g.unit u.unit).pget k) ∧
    (∀ k, nfind? (mfsrCrew f w s u g).latch k =
      if x.act ≠ 0 ∧ loOf f.a.toNat = some f.a.toNat ∧ k = f.a.toNat
      then some (BitVec.ofNat 32 (srValue s (begunGroup (.mfsr f w) u g) u.unit (begunCrew (.mfsr f w) u g) f.a.toNat 0 / 2 ^ 32))
      else nfind? (g.unit u.unit).latch k) := by
  have hb := sameRegisters_begunCrew (.mfsr f w) u g
  have hlatch := (sameRest_begunCrew (.mfsr f w) u g).latch
  by_cases ha : (issueCtx (.mfsr f w) u g).act = 0
  · have hc : mfsrCrew f w s u g = begunCrew (.mfsr f w) u g := if_pos ha
    rw [hc, hlatch]
    simp only [ha, lanes_of_act_eq_zero ha, List.not_mem_nil, false_and, and_false, if_false, ne_eq, not_true_eq_false, implies_true, and_true]
    exact ⟨fun k l _ => hb.vectors k l, hb.uniforms, hb.predicates⟩
  · have hr := hb.trans (sameRegisters_latchUpper _ f.a.toNat (srValue s (begunGroup (.mfsr f w) u g) u.unit (begunCrew (.mfsr f w) u g) f.a.toNat 0))
    simp only [mfsrCrew, if_false, ne_eq, ha, not_false_eq_true, true_and]
    refine ⟨fun k l hl => ?_, fun k => ?_, fun k => ?_, fun k => ?_⟩
    · rw [vget_writeReadValues _ _ _ _ _ k hl, hr.vectors]
    · rw [sget_writeReadValues, hr.uniforms]
    · rw [pget_writeReadValues, hr.predicates]
    · rw [latch_writeReadValues, nfind?_latchUpper, hlatch]

/-! ### `MTSR` (R37, R300) -/

theorem setBits_lowWord (x v : Nat) : setBits x 31 0 v = x / 2 ^ 32 * 2 ^ 32 + v % 2 ^ 32 := by
  simp [setBits, Nat.shiftRight_eq_div_pow, Nat.shiftLeft_eq, Nat.mod_one]

theorem setBits_highWord (x v : Nat) : setBits x 56 32 v = x / 2 ^ 57 * 2 ^ 57 + v % 2 ^ 32 % 2 ^ 25 * 2 ^ 32 + x % 2 ^ 32 := by
  rw [Nat.mod_mod_of_dvd v (by decide : 2 ^ 25 ∣ 2 ^ 32)]
  simp [setBits, Nat.shiftRight_eq_div_pow, Nat.shiftLeft_eq]

theorem sameRegisters_writeSpecial (c : Crew) (n v : Nat) : SameRegisters c (c.writeSpecial n v) := by
  unfold Crew.writeSpecial
  split <;> exact ⟨fun _ _ => rfl, fun _ => rfl, fun _ => rfl⟩

/-- Each handler register is written whole or in the half its number names; the other trap registers stay (R37). -/
theorem writeSpecial_traps (c : Crew) {n : Nat} (v : Nat) (hn : 0x20 ≤ n ∧ n ≤ 0x24) :
    (c.writeSpecial n v).tcause = (if n = 0x20 then BitVec.ofNat 32 v else c.tcause) ∧
    (c.writeSpecial n v).tfirst = (if n = 0x21 then setBits c.tfirst 31 0 v else if n = 0x22 then setBits c.tfirst 56 32 v else c.tfirst) ∧
    (c.writeSpecial n v).tfaddr = (if n = 0x23 then setBits c.tfaddr 31 0 v else if n = 0x24 then setBits c.tfaddr 56 32 v else c.tfaddr) := by
  obtain rfl | rfl | rfl | rfl | rfl : n = 0x20 ∨ n = 0x21 ∨ n = 0x22 ∨ n = 0x23 ∨ n = 0x24 := by omega
  all_goals exact ⟨rfl, rfl, rfl⟩

/-- An `MTSR` that issues names a handler register: step 7 of Table 03-10 refuses every other number (R36). -/
theorem mtsr_names_handlerRegister {f : Word0} {w : Word1} {s : State} {u : Issue} {g : Group} (h : Issues (.mtsr f w) s u g) :
    0x20 ≤ f.d.toNat ∧ f.d.toNat ≤ 0x24 := by
  by_contra hn
  have hbad (c : Crew) (b : Bool) : specialBad7 (.mtsr f w) c b = true := by simp [specialBad7, hn]
  have hl := h.legal
  simp only [illegalDetail, hbad, Bool.or_true, Bool.true_or, if_true] at hl
  split_ifs at hl

/-- The crew that `MTSR` leaves: nothing with no lane active, else the handler register written. -/
def mtsrCrew (f : Word0) (w : Word1) (u : Issue) (g : Group) : Crew :=
  let x := issueCtx (.mtsr f w) u g
  let c := begunCrew (.mtsr f w) u g
  if x.act = 0 then c else c.writeSpecial f.d.toNat (x.a c (lowest x.act))

theorem exec_mtsr (f : Word0) (w : Word1) (s : State) : exec (.mtsr f w) s =
    issueCrew (.mtsr f w) s (fun x c => if x.act = 0 then c else c.writeSpecial f.d.toNat (x.a c (lowest x.act))) := rfl

theorem exec_mtsr_issues {f : Word0} {w : Word1} {s : State} {u : Issue} {g : Group} (h : Issues (.mtsr f w) s u g) :
    exec (.mtsr f w) s = .next (leaves (.mtsr f w) s u g (mtsrCrew f w u g)) := (exec_mtsr f w s).trans (issueCrew_of_issues h _)

/-- What `MTSR` leaves of its unit. -/
theorem mtsrCrew_effect {f : Word0} {w : Word1} {s : State} {u : Issue} {g : Group} (h : Issues (.mtsr f w) s u g) :
    let x := issueCtx (.mtsr f w) u g
    let c := g.unit u.unit
    let n := f.d.toNat
    let v := x.a c (lowest x.act) % 2 ^ 32
    SameRegisters c (mtsrCrew f w u g) ∧
      (mtsrCrew f w u g).tcause = (if x.act ≠ 0 ∧ n = 0x20 then BitVec.ofNat 32 v else c.tcause) ∧
      (mtsrCrew f w u g).tfirst = (if x.act = 0 then c.tfirst else if n = 0x21 then c.tfirst / 2 ^ 32 * 2 ^ 32 + v
        else if n = 0x22 then c.tfirst / 2 ^ 57 * 2 ^ 57 + v % 2 ^ 25 * 2 ^ 32 + c.tfirst % 2 ^ 32 else c.tfirst) ∧
      (mtsrCrew f w u g).tfaddr = (if x.act = 0 then c.tfaddr else if n = 0x23 then c.tfaddr / 2 ^ 32 * 2 ^ 32 + v
        else if n = 0x24 then c.tfaddr / 2 ^ 57 * 2 ^ 57 + v % 2 ^ 25 * 2 ^ 32 + c.tfaddr % 2 ^ 32 else c.tfaddr) := by
  have hb := sameRegisters_begunCrew (.mtsr f w) u g
  obtain ⟨hcause, htraps⟩ := Prod.mk.inj (sameRest_begunCrew (.mtsr f w) u g).traps
  obtain ⟨hfirst, hfaddr⟩ := Prod.mk.inj htraps
  by_cases ha : (issueCtx (.mtsr f w) u g).act = 0
  · simp only [mtsrCrew, ha, if_true, ne_eq, not_true_eq_false, false_and, if_false]
    exact ⟨hb, hcause, hfirst, hfaddr⟩
  · simp only [mtsrCrew, ha, if_false, ne_eq, not_false_eq_true, true_and]
    obtain ⟨hwcause, hwfirst, hwfaddr⟩ := writeSpecial_traps (begunCrew (.mtsr f w) u g)
      ((issueCtx (.mtsr f w) u g).a (g.unit u.unit) (lowest (issueCtx (.mtsr f w) u g).act)) (mtsr_names_handlerRegister h)
    have hword (v : Nat) : BitVec.ofNat 32 (v % 2 ^ 32) = BitVec.ofNat 32 v := ofNat_eq_of_toNat rfl
    rw [begunCrew_a]
    refine ⟨hb.trans (sameRegisters_writeSpecial _ _ _), ?_, ?_, ?_⟩
    · rw [hwcause, hcause, hword]
    · rw [hwfirst, hfirst, setBits_lowWord, setBits_highWord]
    · rw [hwfaddr, hfaddr, setBits_lowWord, setBits_highWord]

/-- Settles O22: each instruction leaves one crew in its unit, what it reads from the crew and the group that the issue begins with. -/
theorem specialRegistersAreReadAndWritten : Obligations.SpecialRegistersAreReadAndWritten := by
  refine ⟨fun f w s u g h => ?mfsr, fun f w s u g h => ?mtsr⟩
  case mfsr =>
    obtain ⟨t, k, ht, hs, hg, hk, hu⟩ := exists_leaves h (exec_mfsr_issues h)
    refine ⟨t, k, ht, hs, hg, hk, ?_⟩
    rw [hu]
    exact mfsrCrew_effect f w s u g
  case mtsr =>
    obtain ⟨t, k, ht, hs, hg, hk, hu⟩ := exists_leaves h (exec_mtsr_issues h)
    refine ⟨t, k, ht, hs, hg, hk, ?_⟩
    rw [hu]
    exact mtsrCrew_effect h

end Sys2Proof.Machine
end

section
/-! The hashed window: every line lies in one of the partition's dies, and no two of its bytes share storage (R359 to R361, Table 13-1). -/
namespace Sys2Proof.Machine
open Sys2Proof

/-! ### The fold of a line number (R361) -/

/-- The fold is the lowest field over the fold of what is above it. -/
theorem foldXor_succ {b : Nat} (hb : b ≠ 0) (fuel n : Nat) : foldXor b (fuel + 1) n = n % 2 ^ b ^^^ foldXor b fuel (n / 2 ^ b) := by
  by_cases hn : n = 0
  · have zero : ∀ fuel, foldXor b fuel 0 = 0 := fun fuel => by cases fuel <;> simp [foldXor]
    simp [hn, zero]
  · simp [foldXor, hb, hn]

theorem foldXor_lt (b : Nat) : ∀ fuel n, foldXor b fuel n < 2 ^ b
  | 0, _ => Nat.two_pow_pos b
  | fuel + 1, n => by
    by_cases hb : b = 0
    · simp [foldXor, hb]
    · rw [foldXor_succ hb]
      exact Nat.xor_lt_two_pow (Nat.mod_lt n (Nat.two_pow_pos b)) (foldXor_lt b fuel _)

/-- Lines of one die-local number have different folds. -/
theorem eq_of_foldXor_eq {b fuel m n : Nat} (hdiv : m / 2 ^ b = n / 2 ^ b) (h : foldXor b (fuel + 1) m = foldXor b (fuel + 1) n) : m = n := by
  have hmod : m % 2 ^ b = n % 2 ^ b := by
    by_cases hb : b = 0
    · simp [hb, Nat.mod_one]
    · rw [foldXor_succ hb, foldXor_succ hb, hdiv] at h
      exact Nat.xor_left_injective h
  rw [← Nat.div_add_mod m (2 ^ b), ← Nat.div_add_mod n (2 ^ b), hdiv, hmod]

/-! ### The home of a line and the storage of a byte -/

theorem View.length_eq_two_pow {v : View} (h : v.dies.length = 1 ∨ v.dies.length = 2 ∨ v.dies.length = 4) : v.dies.length = 2 ^ v.b := by
  unfold View.b
  obtain h | h | h := h <;> simp [h]

theorem View.homeDie_eq {v : View} (h : v.dies.length = 2 ^ v.b) (n : Nat) :
    v.homeDie n = v.dies[foldXor v.b 64 n]'(h ▸ foldXor_lt v.b 64 n) := by
  rw [View.homeDie, lget_eq_getD, List.getD_eq_getElem]

theorem View.homeDie_mem {v : View} (h : v.dies.length = 2 ^ v.b) (n : Nat) : v.homeDie n ∈ v.dies :=
  View.homeDie_eq h n ▸ List.getElem_mem _

theorem storage_of_hashed {v : View} {a : Nat} (h : a < v.dies.length * v.lines * 192) :
    storage v a = dieBase (v.homeDie (a / 192)) + a / 192 / 2 ^ v.b * 192 + a % 192 := by
  simp only [storage, regionOf, if_pos h]

/-- The die-local line of a byte of the window is one that the die has. -/
theorem dieLine_lt {v : View} {a : Nat} (hlen : v.dies.length = 2 ^ v.b) (h : a < v.dies.length * v.lines * 192) :
    a / 192 / 2 ^ v.b < v.lines := by
  rw [Nat.div_lt_iff_lt_mul (Nat.two_pow_pos _), Nat.div_lt_iff_lt_mul (by decide), Nat.mul_comm v.lines, ← hlen]
  exact h

/-- A die's window is larger than its lines, so die, line and byte of a die-local address can be told from it. -/
theorem dieLocal_inj {d e j k o p : Nat} (hj : j < dieLines) (hk : k < dieLines) (ho : o < 192) (hp : p < 192)
    (h : dieBase d + j * 192 + o = dieBase e + k * 192 + p) : d = e ∧ j = k ∧ o = p := by
  simp only [dieBase, dieLines] at *
  omega

theorem storage_inj {v : View} {a b : Nat} (hlen : v.dies.length = 2 ^ v.b) (hnd : v.dies.Nodup) (hl : v.lines ≤ dieLines)
    (ha : a < v.dies.length * v.lines * 192) (hb : b < v.dies.length * v.lines * 192) (h : storage v a = storage v b) : a = b := by
  rw [storage_of_hashed ha, storage_of_hashed hb] at h
  obtain ⟨hdie, hline, hbyte⟩ := dieLocal_inj (Nat.lt_of_lt_of_le (dieLine_lt hlen ha) hl) (Nat.lt_of_lt_of_le (dieLine_lt hlen hb) hl)
    (Nat.mod_lt a (by decide)) (Nat.mod_lt b (by decide)) h
  rw [View.homeDie_eq hlen, View.homeDie_eq hlen, hnd.getElem_inj_iff] at hdie
  have := eq_of_foldXor_eq hline hdie
  omega

/-- Settles O31: a line is told from its die-local number by its fold, which names one of the dies. -/
theorem hashedLinesHaveTheirOwnStorage : Obligations.HashedLinesHaveTheirOwnStorage := by
  intro v hcount hnd _ hl
  have hlen := View.length_eq_two_pow hcount
  refine ⟨fun a ha => ⟨storage_of_hashed ha, View.homeDie_mem hlen _, ?_⟩, fun a b => storage_inj hlen hnd hl⟩
  exact Nat.lt_of_lt_of_le (dieLine_lt hlen ha) hl

end Sys2Proof.Machine
end

section
/-! SWZ modes: the bank of a word is its place in the row, reversed in mode 7, XORed with a mask that its row gives (R373). -/
namespace Sys2Proof.Machine
open Sys2Proof

/-- The place of a word in its row before the row's mask: mode 7 reverses its six bits. -/
def bankPlace (m k : Nat) : Nat := if m = 7 then bitrev6 k else k
/-- The mask that a row gives the banks of its words. -/
def rowMask (m r : Nat) : Nat := if m = 0 then 0 else if m = 7 then r % 64 else r / 2 ^ (m - 1) % 64

theorem bitrev6_lt {k : Nat} (h : k < 64) : bitrev6 k < 64 :=
  (by decide : ∀ k < 64, bitrev6 k < 64) k h

theorem bitrev6_inj {j k : Nat} (hj : j < 64) (hk : k < 64) (h : bitrev6 j = bitrev6 k) : j = k :=
  have involutive : ∀ k < 64, bitrev6 (bitrev6 k) = k := by decide
  (involutive j hj).symm.trans (h ▸ involutive k hk)

theorem bankPlace_lt {k : Nat} (m : Nat) (h : k < 64) : bankPlace m k < 64 := by
  unfold bankPlace
  split
  · exact bitrev6_lt h
  · exact h

theorem bankPlace_inj {m j k : Nat} (hj : j < 64) (hk : k < 64) (h : bankPlace m j = bankPlace m k) : j = k := by
  unfold bankPlace at h
  split at h
  · exact bitrev6_inj hj hk h
  · exact h

theorem rowMask_lt (m r : Nat) : rowMask m r < 64 := by
  unfold rowMask
  split_ifs <;> omega

/-- From bit 6 up a word number is its row, so a shift by 6 or more sees the row alone. -/
theorem div_pow_eq_row {m : Nat} (w : Nat) (h0 : m ≠ 0) : w / 2 ^ (5 + m) = w / 64 / 2 ^ (m - 1) := by
  rw [Nat.div_div_eq_div_mul, show (64 : Nat) = 2 ^ 6 from rfl, ← Nat.pow_add]
  congr 2
  omega

theorem swzBank_eq (m w : Nat) : swzBank m w = bankPlace m (w % 64) ^^^ rowMask m (w / 64) := by
  unfold swzBank bankPlace rowMask
  by_cases h0 : m = 0
  · simp [h0]
  by_cases h7 : m = 7
  · simp [h7]
  simp only [h0, h7, if_false]
  rw [Nat.xor_mod_two_pow (n := 6), Nat.shiftRight_eq_div_pow, div_pow_eq_row w h0]

theorem swzBank_lt (m w : Nat) : swzBank m w < 64 := by
  rw [swzBank_eq]
  exact Nat.xor_lt_two_pow (n := 6) (bankPlace_lt m (Nat.mod_lt w (by decide))) (rowMask_lt m _)

/-- Within a row no two words have one bank. -/
theorem swzBank_inj {m w x : Nat} (hrow : w / 64 = x / 64) (h : swzBank m w = swzBank m x) : w = x := by
  rw [swzBank_eq, swzBank_eq, hrow] at h
  have := bankPlace_inj (Nat.mod_lt w (by decide)) (Nat.mod_lt x (by decide)) (Nat.xor_left_injective h)
  omega

/-- A cell is the row of its word, the bank in the row and the byte of the word. -/
theorem cellOf_fields (m o : Nat) :
    cellOf m o / 4 / 64 = o / 4 / 64 ∧ cellOf m o / 4 % 64 = swzBank m (o / 4) ∧ cellOf m o % 4 = o % 4 := by
  have := swzBank_lt m (o / 4)
  unfold cellOf
  omega

theorem cellOf_inj {m o p : Nat} (h : cellOf m o = cellOf m p) : o = p := by
  obtain ⟨hrow, hbank, hbyte⟩ := cellOf_fields m o
  obtain ⟨hrow', hbank', hbyte'⟩ := cellOf_fields m p
  rw [h] at hrow hbank hbyte
  have := swzBank_inj (hrow.symm.trans hrow') (hbank.symm.trans hbank')
  omega

theorem bitrev6_eq_sum (w : Nat) : bitrev6 (w % 64) = ((List.range 6).map fun i => (w.testBit i).toNat * 2 ^ (5 - i)).sum := by
  have hbit (i : Nat) (h : i < 6) : (w % 64).testBit i = w.testBit i := by
    rw [Nat.testBit_mod_two_pow (j := 6), decide_eq_true h, Bool.true_and]
  have hterm (b : Bool) (n : Nat) : (if b then n else 0) = b.toNat * n := by cases b <;> simp
  simp [bitrev6, natsFrom, bit, hbit, hterm, List.range, List.range.loop, Nat.add_assoc, -Nat.testBit_zero]

/-- Settles O32: a row's words differ in their places, and one mask of the row moves them all. -/
theorem swizzleKeepsEveryWordApart : Obligations.SwizzleKeepsEveryWordApart := by
  refine fun m _ => ⟨fun w _ => ?_, fun o p _ _ => cellOf_inj⟩
  obtain ⟨hrow, hbank, -⟩ := cellOf_fields m (4 * w)
  rw [Nat.mul_div_cancel_left w (by decide)] at hrow hbank
  refine ⟨hrow, hbank.trans ?_⟩
  unfold swzBank
  rw [bitrev6_eq_sum, Nat.shiftRight_eq_div_pow]

end Sys2Proof.Machine
end

section
/-! Invalidation of translations: what a `TLBI` drops of the core TLBs, the slices and the walk caches, and its completion (R382, Table 13-7). -/
namespace Sys2Proof.Machine
open Sys2Proof

/-! ### Parts of the state changed one after another -/

/-- Changing the parts that a list names, by a change that done twice is done once: those it names are changed, the others stay. -/
theorem get_foldl_update {σ α : Type} {get : σ → Nat → α} {set : σ → Nat → α → σ} {f : α → α}
    (hget : ∀ s k x j, get (set s k x) j = if j = k then x else get s j) (hf : ∀ x, f (f x) = f x) :
    ∀ (l : List Nat) (s : σ) (j : Nat), get (l.foldl (fun t k => set t k (f (get t k))) s) j = if j ∈ l then f (get s j) else get s j
  | [], _, _ => rfl
  | k :: l, s, j => by
    rw [List.foldl_cons, get_foldl_update hget hf l, hget]
    by_cases hk : j = k
    · simp [hk, hf]
    · simp [hk]

theorem State.core_setCore (s : State) (c : Nat) (x : Core) (k : Nat) : (s.setCore c x).core k = if k = c then x else s.core k :=
  nget_nset _ _ _ _ _

theorem State.dieXlate_setXlate (s : State) (d : Nat) (x : DieXlate) (e : Nat) :
    (s.setXlate d x).dieXlate e = if e = d then x else s.dieXlate e := nget_nset _ _ _ _ _

theorem State.reg_setReg (s : State) (p o v q r : Nat) :
    (s.setReg p o v).reg q r = if cregKey q r = cregKey p o then v else s.reg q r := nget_nset _ _ _ _ _

/-! ### What is dropped -/

/-- A core's TLB without what is selected. -/
def Core.dropTlb (sel : TlbEntry → Bool) (k : Core) : Core := { k with tlb := k.tlb.filter (fun e => !sel e) }
/-- A die's slice, walk cache and walks without what is selected. -/
def DieXlate.drop (tlb : TlbEntry → Bool) (walk : WalkEntry → Bool) (wk : Walk → Bool) (x : DieXlate) : DieXlate :=
  { tlb := x.tlb.filter (fun e => !tlb e), wcache := x.wcache.filter (fun e => !walk e), walks := x.walks.filter (fun w => !wk w) }

theorem Core.dropTlb_dropTlb (sel : TlbEntry → Bool) (k : Core) : (k.dropTlb sel).dropTlb sel = k.dropTlb sel := by
  simp [Core.dropTlb, List.filter_filter]
theorem DieXlate.drop_drop (tlb : TlbEntry → Bool) (walk : WalkEntry → Bool) (wk : Walk → Bool) (x : DieXlate) :
    (x.drop tlb walk wk).drop tlb walk wk = x.drop tlb walk wk := by
  simp [DieXlate.drop, List.filter_filter]

section
variable (s : State) (p : Nat) (tlb : TlbEntry → Bool) (walk : WalkEntry → Bool) (wk : Walk → Bool)

/-- The cores of the partition that hold an entry selected. -/
def State.coresHolding : List Nat := (s.view p).cores.filter (fun c => (s.core c).tlb.any tlb)
/-- Every entry selected is dropped from the core TLBs. -/
def State.dropCoreTlbs : State :=
  (s.coresHolding p tlb).foldl (fun (t : State) c => t.setCore c ((t.core c).dropTlb tlb)) s

theorem State.dropXlate_eq : s.dropXlate p tlb walk wk =
    (s.view p).dies.foldl (fun (t : State) d => t.setXlate d ((t.dieXlate d).drop tlb walk wk)) (s.dropCoreTlbs p tlb) := rfl

theorem State.xlate_dropCoreTlbs : (s.dropCoreTlbs p tlb).xlate = s.xlate :=
  List.foldlRecOn (motive := fun (t : State) => t.xlate = s.xlate) _ _ rfl fun _ ht _ _ => ht

theorem State.dieXlate_dropXlate (d : Nat) : (s.dropXlate p tlb walk wk).dieXlate d =
    if d ∈ (s.view p).dies then (s.dieXlate d).drop tlb walk wk else s.dieXlate d := by
  have hcores : (s.dropCoreTlbs p tlb).dieXlate d = s.dieXlate d := by rw [State.dieXlate, State.xlate_dropCoreTlbs, State.dieXlate]
  rw [State.dropXlate_eq, get_foldl_update State.dieXlate_setXlate (DieXlate.drop_drop tlb walk wk), hcores]

theorem State.cores_dropXlate : (s.dropXlate p tlb walk wk).cores = (s.dropCoreTlbs p tlb).cores :=
  List.foldlRecOn (motive := fun (t : State) => t.cores = (s.dropCoreTlbs p tlb).cores) _ _ rfl fun _ ht _ _ => ht

theorem State.core_dropXlate (c : Nat) : (s.dropXlate p tlb walk wk).core c =
    if c ∈ s.coresHolding p tlb then (s.core c).dropTlb tlb else s.core c := by
  rw [State.core, State.cores_dropXlate]
  exact get_foldl_update State.core_setCore (Core.dropTlb_dropTlb tlb) _ s c

/-- No core of the partition keeps an entry that is selected. -/
theorem State.dropXlate_tlb_all {c : Nat} (hc : c ∈ (s.view p).cores) : ((s.dropXlate p tlb walk wk).core c).tlb.all (fun e => !tlb e) = true := by
  rw [State.core_dropXlate]
  split
  · simp [Core.dropTlb]
  · next h =>
    rw [State.coresHolding, List.mem_filter, not_and] at h
    simpa using h hc

/-! ### The request and its completion -/

theorem State.postOnce_core (t : State) (e : Ev) (c : Nat) : (t.postOnce e).core c = t.core c := by
  unfold State.postOnce; split <;> rfl
theorem State.postOnce_dieXlate (t : State) (e : Ev) (d : Nat) : (t.postOnce e).dieXlate d = t.dieXlate d := by
  unfold State.postOnce; split <;> rfl
theorem State.postOnce_reg (t : State) (e : Ev) (q o : Nat) : (t.postOnce e).reg q o = t.reg q o := by
  unfold State.postOnce; split <;> rfl

/-- What an invalidation leaves: its boundary, the core TLBs without what it selects, the slices and walk caches of the dies with the rest. -/
theorem State.tlbi_drops : let t := s.tlbi p tlb walk wk
    (t.reg p 0x1010 = s.nextId ∧ (∀ k ∈ (s.view p).cores, (t.core k).tlb.all (fun e => !tlb e) = true)) ∧
      ∀ d ∈ (s.view p).dies, t.dieXlate d = (s.dieXlate d).drop tlb walk wk := by
  refine ⟨⟨?boundary, fun k hk => ?cores⟩, fun d hd => ?slices⟩
  case boundary => rw [State.tlbi, State.postOnce_reg, State.reg_setReg, if_pos rfl]
  case cores =>
    rw [State.tlbi, State.postOnce_core]
    exact s.dropXlate_tlb_all p tlb walk wk hk
  case slices =>
    rw [State.tlbi, State.postOnce_dieXlate]
    exact (s.dieXlate_dropXlate p tlb walk wk d).trans (if_pos hd)

end

theorem bit_setBits_zero (x i : Nat) : bit (setBits x i i 0) i = false := by
  simp only [bit, setBits, Nat.testBit_eq_decide_div_mod_eq, Nat.shiftRight_eq_div_pow, Nat.shiftLeft_eq, Nat.zero_mod, Nat.zero_mul, Nat.add_zero,
    decide_eq_false_iff_not]
  rw [Nat.pow_succ, Nat.mul_comm (2 ^ i) 2, ← Nat.mul_assoc, Nat.add_comm, Nat.add_mul_div_right _ _ (Nat.two_pow_pos i),
    Nat.div_eq_of_lt (Nat.mod_lt _ (Nat.two_pow_pos i))]
  omega

theorem execTlbiComplete_of_done {p : Nat} {s : State} (h : s.olderAccess p (s.reg p 0x1010) = false) :
    execTlbiComplete p s = .next ((s.setReg p 0x1000 (setBits (s.reg p 0x1000) 63 63 0)).setReg p 0x1010 0) := by
  simp only [execTlbiComplete, h, Bool.false_eq_true, if_false]

/-- Settles O51: each `TLBI` is one drop with its own selection, its completion two registers written. -/
theorem translationInvalidationsComplete : Obligations.TranslationInvalidationsComplete := by
  refine ⟨fun p s => ⟨⟨_, rfl, ?address⟩, ⟨_, rfl, ?context⟩, ⟨_, rfl, ?all⟩⟩, fun p s h => ⟨_, execTlbiComplete_of_done h, ?go, ?others⟩⟩
  case address =>
    obtain ⟨⟨hboundary, hcores⟩, hslices⟩ := s.tlbi_drops p _ _ _
    exact ⟨hboundary, hcores, fun d hd => by rw [hslices d hd]; rfl⟩
  case context =>
    obtain ⟨⟨hboundary, hcores⟩, hslices⟩ := s.tlbi_drops p _ _ _
    refine ⟨⟨hboundary, hcores, fun d hd => by rw [hslices d hd]; rfl⟩, fun d hd => ?_⟩
    rw [hslices d hd]
    simp [DieXlate.drop]
  case all =>
    obtain ⟨⟨hboundary, hcores⟩, hslices⟩ := s.tlbi_drops p (fun _ => true) (fun _ => true) (fun _ => true)
    refine ⟨⟨hboundary, hcores, fun d hd => by rw [hslices d hd]; rfl⟩, fun d hd => ?_⟩
    rw [hslices d hd]
    simp [DieXlate.drop]
  case go =>
    have hkey : cregKey p 0x1000 ≠ cregKey p 0x1010 := by simp [cregKey]
    rw [State.reg_setReg, if_neg hkey, State.reg_setReg, if_pos rfl, bit_setBits_zero]
  case others =>
    intro q o hgo hboundary
    rw [State.reg_setReg, if_neg hboundary, State.reg_setReg, if_neg hgo]

end Sys2Proof.Machine
end

section
/-! Translation steps: a miss answered or queued, a walk begun, and a walk's read of a table, of a leaf or of an entry that is not valid
(R376, R377, R380, R381). -/
namespace Sys2Proof.Machine
open Sys2Proof

/-! ### A miss at the second-level slice (R380) -/

theorem execTlbMissRequest_hit {core ctx va : Nat} {s : State} {e : TlbEntry}
    (h : tlbFind (s.dieXlate ((s.viewOfCore core ctx).sliceDie va)).tlb ctx va = some e) :
    execTlbMissRequest core ctx va s = .next (s.coreTlbPut core e) := by
  simp only [execTlbMissRequest, h]

/-- A miss that no walk covers enters the walk queue while that has room. -/
theorem execTlbMissRequest_queued {core ctx va die : Nat} {s : State} (hdie : die = (s.viewOfCore core ctx).sliceDie va)
    (hmiss : tlbFind (s.dieXlate die).tlb ctx va = none)
    (hnew : let page := match s.walk (s.viewOfCore core ctx) ctx va with
        | .ok l => (l.va, l.size)
        | .error _ => (va / 4096 * 4096, 4096)
      (s.dieXlate die).walks.any (fun w => decide (w.ctx = ctx ∧ page.1 ≤ w.va ∧ w.va < page.1 + page.2)) = false)
    (hroom : ((s.dieXlate die).walks.filter (fun w => !w.started)).length < 256) :
    let x := s.dieXlate die
    let w : Walk := { wid := s.nextId, core := core, ctx := ctx, va := va, started := false, level := 4, table := 0 }
    execTlbMissRequest core ctx va s =
      .next (State.post ({ s with nextId := s.nextId + 1 }.setXlate die { x with walks := x.walks ++ [w] }) (.walkStart die)) := by
  subst hdie
  simp only [execTlbMissRequest, hmiss]
  exact (if_neg (ne_true_of_eq_false hnew)).trans (if_neg (Nat.not_le_of_lt hroom))

/-! ### A walk (R376, R381) -/

theorem execWalkStart_starts {die : Nat} {s : State} {w : Walk} (hw : (s.dieXlate die).walks.find? (fun y => !y.started) = some w)
    (hfree : ((s.dieXlate die).walks.filter (fun y => y.started)).length < 48) (hon : bit (s.ctxReg w.ctx 0) 0 = true) :
    let x := s.dieXlate die
    let start := (walkCached x.wcache w.ctx w.va).getD (4, bits (s.ctxReg w.ctx 0) 56 12 * 4096)
    execWalkStart die s = .next ((s.setXlate die { x with walks := x.walks.map (fun y =>
      if y.wid = w.wid then { w with started := true, level := start.1, table := start.2 } else y) }).post (.walkReadComplete die w.wid)) := by
  simp only [execWalkStart, hw, Nat.not_le_of_lt hfree, hon, Bool.not_true, Bool.false_eq_true, if_false]

/-- The address of the entry that a walk reads next. -/
def Walk.entry (w : Walk) : Nat := w.table + 8 * bits w.va (20 + 9 * w.level) (12 + 9 * w.level)
/-- The state in which a walk's read has arrived at the entry's home, behind what is listed there. -/
def State.walkArrives (s : State) (w : Walk) : State :=
  let v := s.viewOfCore w.core w.ctx
  (s.catchUp v (w.entry / 192)).l2Touch v (w.entry / 192) 0

section
variable {die wid : Nat} {s : State} {w : Walk} {bs : List Byte}
  (hw : (s.dieXlate die).walks.find? (fun y => y.wid = wid) = some w) (hh : regionOf (s.viewOfCore w.core w.ctx) w.table = .hashed)
  (ha : (s.viewOfCore w.core w.ctx).admits w.table false = true) (hr : (s.walkArrives w).homeRead (s.viewOfCore w.core w.ctx) w.entry 8 = some bs)
include hw hh ha hr

/-- A table read is cached, and the walk goes one level down. -/
theorem execWalkReadComplete_table {t : Nat} (he : readEntry (s.walkArrives w).peer w.level w.va (ofLeBytes bs) = .table t) :
    let x := s.dieXlate die
    execWalkReadComplete die wid s = .next (((s.walkArrives w).setXlate die { x with
      wcache := ({ ctx := w.ctx, level := w.level - 1, va := w.va / 2 ^ (12 + 9 * w.level), table := t } :: x.wcache).take 256
      walks := x.walks.map (fun y => if y.wid = wid then { w with level := w.level - 1, table := t } else y) }).post
        (.walkReadComplete die wid)) := by
  simp only [State.walkArrives, Walk.entry] at hr he ⊢
  simp only [execWalkReadComplete, hw, hh, ha, hr, he, ne_eq, reduceCtorEq, not_false_eq_true, decide_true, Bool.and_self, if_true]

/-- A leaf read fills the slice and the core's TLB, and with no other walk waiting the walk ends there. -/
theorem execWalkReadComplete_leaf {l : Leaf} (he : readEntry (s.walkArrives w).peer w.level w.va (ofLeBytes bs) = .leaf l)
    (hstarted : ((s.dieXlate die).walks.filter (fun y => y.wid ≠ wid)).all (fun y => y.started) = true) :
    let x := s.dieXlate die
    let e : TlbEntry := { ctx := w.ctx, va := l.va, size := l.size, leaf := l.encode }
    execWalkReadComplete die wid s = .next (((s.walkArrives w).setXlate die { x with
      tlb := (e :: x.tlb).take 16384, walks := x.walks.filter (fun y => y.wid ≠ wid) }).coreTlbPut w.core e) := by
  have hnone : ((s.dieXlate die).walks.filter (fun y => decide (y.wid ≠ wid))).any (fun y => !y.started) = false := by
    simpa [or_iff_not_imp_left] using hstarted
  simp only [State.walkArrives, Walk.entry] at hr he ⊢
  simp only [execWalkReadComplete, hw, hh, ha, hr, he, hnone, ne_eq, reduceCtorEq, not_false_eq_true, decide_true, Bool.and_self, if_true,
    Bool.false_eq_true, if_false]

end

/-- An entry that is not valid is refused with reason 0 and its level, whatever else it holds (R377). -/
theorem readEntry_not_valid {peer level va e : Nat} (h : bit e 0 = false) :
    readEntry peer level va e = .bad { cause := 0x10, detail := level * 16 + 128 } := by
  simp [readEntry, h, xfault]

/-- Settles O50: each step's branch, its conditions given. -/
theorem translationStepsComplete : Obligations.TranslationStepsComplete := by
  refine ⟨fun core ctx va s => ⟨fun e => execTlbMissRequest_hit, fun hmiss hnew hroom => ⟨_, execTlbMissRequest_queued rfl hmiss hnew hroom, ?_⟩⟩,
    fun die s w => execWalkStart_starts, fun die wid s w bs hw hh ha hr => ⟨fun t => execWalkReadComplete_table hw hh ha hr, fun l => execWalkReadComplete_leaf hw hh ha hr⟩,
    fun peer level va e => readEntry_not_valid⟩
  · refine ⟨?_, rfl, fun _ => rfl⟩
    exact congrArg DieXlate.walks ((State.dieXlate_setXlate _ _ _ _).trans (if_pos rfl))

end Sys2Proof.Machine
end

section
/-! Requests at their homes: what a slice takes in, lists or leaves waiting, fills, vaults, probes and write-backs (R365, R367 to R372). -/
namespace Sys2Proof.Machine
open Sys2Proof

/-! ### A request at a slice (R368 to R371) -/

section
variable {r : HomeReq} {s : State}

/-- The requests that wait at the slice of a request's line. -/
def State.waitingFor (s : State) (r : HomeReq) : List HomeReq := s.ingressOf (s.sliceOf (s.view r.part) (lineOf r)).1
/-- A request to the same line waits there. -/
def State.lineWaits (s : State) (r : HomeReq) : Bool := (s.waitingFor r).any (fun q => decide (s.keyOf q = s.keyOf r))
/-- The state in which a request has joined the list of its line. -/
def State.listRequest (s : State) (r : HomeReq) : State := s.setListed (s.keyOf r) (s.listedAt (s.keyOf r) ++ [{ req := r, acks := [] }])

theorem execL2Request_full (h : 48 ≤ (s.waitingFor r).length) : execL2Request r s = .next (s.postFront (.l2Request r)) := if_pos h

theorem execL2Request_takenIn {t : State} (hroom : (s.waitingFor r).length < 48) (hfirst : s.lineWaits r = false) (ht : s.takeIn r = some t) :
    execL2Request r s = .next t := by
  refine (if_neg (Nat.not_le_of_lt hroom)).trans ?_
  change s.lineWaits r = false at hfirst
  simp only [State.lineWaits, State.waitingFor] at hfirst
  simp only [hfirst, ht, Bool.false_eq_true, if_false]

theorem execL2Request_waits (hroom : (s.waitingFor r).length < 48) (h : s.lineWaits r = true ∨ s.takeIn r = none) :
    execL2Request r s = .next (s.setIngress (s.sliceOf (s.view r.part) (lineOf r)).1 (s.waitingFor r ++ [r])) := by
  refine (if_neg (Nat.not_le_of_lt hroom)).trans ?_
  simp only [State.lineWaits, State.waitingFor] at h ⊢
  obtain h | h := h
  · simp only [h, if_true]
  · simp only [h, ite_self]

/-- Behind a line in flight a request joins the list, while that has room. -/
theorem takeIn_inFlight (h : s.listedAt (s.keyOf r) ≠ []) :
    s.takeIn r = if (s.listedAt (s.keyOf r)).length < 32 then some (s.listRequest r) else none := by
  have hne : (!(s.listedAt (s.keyOf r)).isEmpty) = true := by simpa using h
  refine (if_pos hne).trans ?_
  by_cases hl : (s.listedAt (s.keyOf r)).length < 32
  · rw [if_pos hl, if_neg (Nat.not_le_of_lt hl)]
    rfl
  · rw [if_neg hl, if_pos (Nat.le_of_not_lt hl)]

section
variable (h : s.listedAt (s.keyOf r) = [])
include h

/-- A request to a line that is not in flight is performed, refused for want of a miss register or a way, or has its fill asked for. -/
theorem takeIn_idle : s.takeIn r =
    if s.l2Has (s.view r.part) (lineOf r) || (needSectors r).1.isEmpty then some ((s.listRequest r).runList (s.keyOf r) 1)
    else if 64 ≤ s.missesOf (s.sliceOf (s.view r.part) (lineOf r)).1 ∨ !s.l2Room (s.view r.part) (lineOf r) then none
    else some ((s.listRequest r).post (.l2Fill (s.keyOf r))) :=
  if_neg (by simp [h])

theorem takeIn_hit (hhit : s.l2Has (s.view r.part) (lineOf r) = true ∨ (needSectors r).1 = []) :
    s.takeIn r = some ((s.listRequest r).runList (s.keyOf r) 1) :=
  (takeIn_idle h).trans (if_pos (by simpa using hhit))

theorem takeIn_miss (hmiss : s.l2Has (s.view r.part) (lineOf r) = false) (hneed : (needSectors r).1 ≠ [])
    (hreg : s.missesOf (s.sliceOf (s.view r.part) (lineOf r)).1 < 64) (hroom : s.l2Room (s.view r.part) (lineOf r) = true) :
    s.takeIn r = some ((s.listRequest r).post (.l2Fill (s.keyOf r))) := by
  rw [takeIn_idle h, if_neg (by simp [hmiss, hneed]), if_neg (by simp [hreg, hroom])]

theorem execVaultRequest_idle : execVaultRequest r s = .next ((s.listRequest r).runList (s.keyOf r) 1) :=
  congrArg _ (if_pos (by simp [h]))

end

theorem execVaultRequest_inFlight (h : s.listedAt (s.keyOf r) ≠ []) : execVaultRequest r s = .next (s.listRequest r) :=
  congrArg _ (if_neg (by simpa using h))

end

/-! ### Fills, probes, acknowledgements and write-backs (R365, R367, R369) -/

theorem execL2Fill_sound {key : Nat} {s : State} (h : s.upsets.contains s.free = false) :
    execL2Fill key s = .next (((s.l2Touch (s.viewOfKey key) (keyLine key) 0).runList key (s.listedAt key).length).admitIngress
      (s.sliceOfKey key)) := by
  simp only [execL2Fill, h, Bool.false_eq_true, if_false]

/-- The first request listed, with no sharer left to acknowledge it, is performed. -/
theorem runList_one {key : Nat} {x : Listed} {rest : List Listed} {s : State} (hl : s.listedAt key = x :: rest) (hans : x.ans = none)
    (hacks : x.acks = []) (hmust : s.mustAck x.req = []) : s.runList key 1 = (s.setListed key rest).performHome x.req := by
  simp only [State.runList, hl, hans, hacks, hmust, List.isEmpty_nil, Bool.not_true, Bool.false_eq_true, if_false]

section
variable {core line : Nat} {s : State} {x : Listed} {rest : List Listed}
  (hl : s.listedAt (homeKey (s.viewOfDie (core / 96)) line) = x :: rest) (hacks : x.acks ≠ [])
include hl hacks

theorem execInvalidateAck_notLast (hleft : x.acks.filter (fun c => decide (c ≠ core)) ≠ []) :
    execInvalidateAck core line s = .next (s.setListed (homeKey (s.viewOfDie (core / 96)) line)
      ({ x with acks := x.acks.filter (fun c => decide (c ≠ core)) } :: rest)) := by
  simp only [execInvalidateAck, hl]
  exact (if_neg (by simpa using hacks)).trans (if_pos (by simpa using hleft))

/-- With the last acknowledgement the write is performed, or what an access that came later has had performed is answered, and the list goes on. -/
theorem execInvalidateAck_last (hleft : x.acks.filter (fun c => decide (c ≠ core)) = []) :
    let key := homeKey (s.viewOfDie (core / 96)) line
    let t := match x.ans with
      | some a => (s.setListed key rest).homeReply x.req a
      | none => (s.setListed key rest).performHome x.req
    execInvalidateAck core line s = .next ((t.runList key rest.length).admitIngress (s.sliceOfKey key)) := by
  simp only [execInvalidateAck, hl]
  exact (if_neg (by simpa using hacks)).trans (if_neg (by simpa using hleft))

end

theorem execL1Writeback_notPending {core line : Nat} {s : State} (h : s.isHeld core line = false) :
    execL1Writeback core line s = .next (s.writeBackLine (s.viewOfDie (core / 96)) core line) := by
  simp only [execL1Writeback, h, Bool.false_eq_true, if_false]

/-- Settles O52: each step's branch, its conditions given. -/
theorem homesPerformTheirRequests : Obligations.HomesPerformTheirRequests := by
  refine ⟨fun r s => ⟨execL2Request_full, fun hroom hfirst t => execL2Request_takenIn hroom hfirst, fun h hroom => execL2Request_waits hroom h,
      takeIn_inFlight, takeIn_hit, takeIn_miss, execVaultRequest_idle, execVaultRequest_inFlight⟩,
    fun key s => execL2Fill_sound, fun key x rest s => runList_one, fun core line s => ⟨_, rfl, ?dropped, rfl, fun c hc => ?others, fun _ => rfl⟩,
    fun core line s x rest hl hacks => ⟨execInvalidateAck_notLast hl hacks, fun hleft hans => ?performed, fun hleft a hans => ?answered⟩,
    fun core line s => execL1Writeback_notPending⟩
  case dropped => exact (State.core_setCore _ _ _ _).trans (if_pos rfl)
  case others => exact (State.core_setCore _ _ _ _).trans (if_neg hc)
  case performed => exact (execInvalidateAck_last hl hacks hleft).trans (by rw [hans])
  case answered => exact (execInvalidateAck_last hl hacks hleft).trans (by rw [hans])

end Sys2Proof.Machine
end

section
/-! Replicated pages and the scrubber: stamps, replicas that apply or diverge, diverged entries (R383, R384, R492, R493, R502). -/
namespace Sys2Proof.Machine
open Sys2Proof

theorem execReplicaStore_stamps {w : ReplStore} {s : State} (h : s.pageHeld (s.view (s.partOfQueue w.queue)) w.frame = false) :
    execReplicaStore w.toReplPage w.off w.bytes s = .next (s.stamp (s.view (s.partOfQueue w.queue)) w) := by
  simp only [execReplicaStore, h, Bool.false_eq_true, if_false]

/-- A stamp given out raises the page's count by one, whatever the sequencer's own write changed. -/
theorem stamp_stamps (s : State) (v : View) (w : ReplStore) :
    nget (fun _ => 0) (s.stamp v w).net.stamps w.frame = nget (fun _ => 0) s.net.stamps w.frame + 1 := by
  simp only [State.stamp, nget_nset_self]

section
variable {die frame : Nat} {s : State} {x : StampedWrite}
  (hx : s.net.stamped.find? (fun y => decide (y.w.frame = frame) && y.left.contains die) = some x)
include hx

/-- A replica that cannot apply its next stamped write, or that the sequencer does not reach, diverges. -/
theorem execReplicaWrite_diverges {ok : Bool}
    (h : ok = false ∨ s.cutOff ((s.view (s.partOfQueue x.w.queue)).sequencer frame x.w.size) die = true) :
    execReplicaWrite die frame ok s = .next (s.diverge die frame x.w.queue) := by
  simp only [execReplicaWrite, hx]
  obtain rfl | h := h
  · rfl
  · simp only [h, Bool.or_true, if_true]

/-- A replica that the sequencer reaches applies the write and is struck from those still to apply it. -/
theorem execReplicaWrite_applies (h : s.cutOff ((s.view (s.partOfQueue x.w.queue)).sequencer frame x.w.size) die = false) :
    let s1 := s.applyAt (s.view (s.partOfQueue x.w.queue)) die x.w
    let y := { x with left := x.left.filter (fun d => decide (d ≠ die)) }
    execReplicaWrite die frame true s = .next { s1 with net := { s1.net with
      stamped := (s1.net.stamped.map (fun z => if z = x then y else z)).filter (fun z => !z.left.isEmpty) } } := by
  simp only [execReplicaWrite, hx, h, Bool.not_true, Bool.or_self, Bool.false_eq_true, if_false]

end

/-- Bytes that lie in one line are one piece. -/
theorem linePieces_of_oneLine {a : Nat} {bs : List Byte} (h0 : bs ≠ []) (h : a % 192 + bs.length ≤ 192) : linePieces a bs = [(a, bs)] := by
  have hpos := List.length_pos_of_ne_nil h0
  have hone : (a % 192 + bs.length + 191) / 192 = 1 := by omega
  have hfirst : max a (192 * (a / 192)) = a := by omega
  have hall : bs.take (192 * (a / 192) + 192 - a) = bs := List.take_of_length_le (by omega)
  simp [linePieces, hone, natsFrom, hfirst, hall]

theorem applyAt_of_sound {w : ReplStore} (h : w.bad = false) (s : State) (v : View) (die : Nat) : s.applyAt v die w =
    (linePieces (dieBase die + w.frame + w.off) w.bytes).foldl (fun (t : State) y => t.homePut v y.1 y.2 none true) s := by
  simp only [State.applyAt, h, Bool.false_eq_true, if_false]

theorem applyAt_of_oneLine {s : State} {v : View} {die : Nat} {w : ReplStore} (hbad : w.bad = false) (h0 : w.bytes ≠ [])
    (h : (dieBase die + w.frame + w.off) % 192 + w.bytes.length ≤ 192) :
    s.applyAt v die w = s.homePut v (dieBase die + w.frame + w.off) w.bytes none true := by
  rw [applyAt_of_sound hbad, linePieces_of_oneLine h0 h, List.foldl_cons, List.foldl_nil]

/-- An error found is corrected or poisons the sector, as it can be corrected or not. -/
theorem execPatrolScrub_of_error {die line : Nat} {s : State} (h : s.upsets.contains s.free = true) :
    ∃ part kind unit, execPatrolScrub die line s = .next (s.corrected part die kind unit) ∨
      execPatrolScrub die line s = .next (s.poisonSector part die kind unit (line * 192)) := by
  unfold execPatrolScrub
  extract_lets part vault ukind unit
  refine ⟨part, ukind, unit, ?_⟩
  simp only [h, Bool.not_true, Bool.false_eq_true, if_false]
  split
  · exact .inl rfl
  · exact .inr rfl

/-- Settles O53: each step's branches, its conditions given. -/
theorem replicasApplyTheirStamps : Obligations.ReplicasApplyTheirStamps := by
  refine ⟨fun w s => ⟨execReplicaStore_stamps, stamp_stamps s _ w⟩, fun die frame s x hx => ⟨?reached, ?cutOff, ?cannot⟩,
    fun s v die w => applyAt_of_oneLine, fun die k s => ⟨fun h => ?hold, fun h => ?held, fun h => ?clear⟩,
    fun die line s => ⟨fun h => ?nothing, execPatrolScrub_of_error⟩⟩
  case reached => exact execReplicaWrite_applies hx
  case cutOff => exact fun h => execReplicaWrite_diverges hx (.inr h)
  case cannot => exact execReplicaWrite_diverges hx (.inl rfl)
  case hold => exact if_pos h
  case held => exact if_pos h
  case clear => exact if_pos h
  case nothing => exact if_pos (by rw [h]; rfl)

end Sys2Proof.Machine
end

section
/-! Memory in canonical form (R361, R486): what carries it through a step, and the accesses of file 13 at the homes and in the L1 caches, which keep
it by the laws of memory. -/
namespace Sys2Proof.Machine
open Sys2Proof

/-- Memory is listed in its canonical form. -/
def State.Canon (s : State) : Prop := s.memWf = true
/-- The state that an answer carries, where there is one, is canonical. -/
def CanonSome {α : Type} (p : α → State) : Option α → Prop
  | some x => (p x).Canon
  | none => True
/-- The state that a success carries is canonical. -/
def CanonOk {ε α : Type} (p : α → State) : Except ε α → Prop
  | .ok x => (p x).Canon
  | .error _ => True
/-- The next state of an outcome is canonical. -/
def CanonOut : Out → Prop
  | .next t => t.Canon
  | .fault _ | .refused _ => True
/-- The state that an instruction's effect leaves is canonical. -/
def CanonRes : Res → Prop
  | .done t | .trapAfter t _ => t.Canon
  | .trap _ | .stall _ | .miss _ | .error _ => True

theorem CanonSome.of_eq {α : Type} {p : α → State} {o : Option α} {x : α} (h : CanonSome p o) (e : o = some x) : (p x).Canon := by
  subst e; exact h
theorem CanonOk.of_eq {ε α : Type} {p : α → State} {o : Except ε α} {x : α} (h : CanonOk p o) (e : o = .ok x) : (p x).Canon := by
  subst e; exact h
theorem CanonOut.of_eq {o : Out} {t : State} (h : CanonOut o) (e : o = .next t) : t.Canon := by
  subst e; exact h
theorem CanonOut.ite {c : Prop} {_ : Decidable c} {o p : Out} (ho : CanonOut o) (hp : CanonOut p) : CanonOut (if c then o else p) := by
  split
  · exact ho
  · exact hp
theorem CanonSome.map {α β : Type} {p : α → State} {q : β → State} {o : Option α} {f : α → β} (h : CanonSome p o)
    (hf : ∀ x, (p x).Canon → (q (f x)).Canon) : CanonSome q (o.map f) := by
  cases o with
  | none => trivial
  | some x => exact hf x h
theorem CanonSome.getD {o : Option State} {d : State} (h : CanonSome id o) (hd : d.Canon) : (o.getD d).Canon := by
  cases o with
  | none => exact hd
  | some t => exact h
theorem CanonSome.none {α : Type} {p : α → State} : CanonSome p none := trivial
theorem CanonSome.ite {α : Type} {p : α → State} {c : Prop} {_ : Decidable c} {a b : Option α} (ha : CanonSome p a) (hb : CanonSome p b) :
    CanonSome p (if c then a else b) := by
  split
  · exact ha
  · exact hb
theorem CanonSome.findSome? {α : Type} {f : α → Option State} {l : List α} (h : ∀ x, CanonSome id (f x)) : CanonSome id (l.findSome? f) := by
  unfold CanonSome
  split
  · next t e =>
    obtain ⟨x, _, hx⟩ := List.exists_of_findSome?_eq_some e
    exact (h x).of_eq hx
  · trivial

section
variable {s t : State}

theorem State.Canon.map_getD {α : Type} {o : Option α} {f : α → State} (w : s.Canon) (hf : ∀ x, (f x).Canon) : ((o.map f).getD s).Canon := by
  cases o with
  | none => exact w
  | some x => exact hf x
/-- A change of any other part of the state. -/
theorem State.Canon.congr (hm : t.mem = s.mem) (hk : t.memKey = s.memKey) (w : s.Canon) : t.Canon := SameMem.memWf ⟨hm, hk⟩ w
theorem State.Canon.sameMem (w : s.Canon) (h : SameMem s t) : t.Canon := h.memWf w
theorem State.Canon.ite {c : Prop} {_ : Decidable c} (hs : s.Canon) (ht : t.Canon) : (if c then s else t).Canon := by
  split
  · exact hs
  · exact ht
theorem State.Canon.foldl {α : Type} {f : State → α → State} {l : List α} (w : s.Canon) (h : ∀ t x, t.Canon → (f t x).Canon) :
    (l.foldl f s).Canon := foldl_memWf h l s w

/-! ### Homes and L1 caches -/

theorem State.Canon.setCore {c x} (hs : s.Canon) : (s.setCore c x).Canon := hs
theorem State.Canon.setReg {p off x} (hs : s.Canon) : (s.setReg p off x).Canon := hs
theorem State.Canon.setListed {key l} (hs : s.Canon) : (s.setListed key l).Canon := hs
theorem State.Canon.sendHost {m} (hs : s.Canon) : (s.sendHost m).Canon := hs
theorem State.Canon.hostPost {port a bs bad} (hs : s.Canon) : (s.hostPost port a bs bad).Canon := hs.sendHost
theorem State.Canon.l2Touch {v line m} (w : s.Canon) : (s.l2Touch v line m).Canon := w.sameMem (s.sameMem_l2Touch v line m)
theorem State.Canon.performAt {v r} (w : s.Canon) : (s.performAt v r).1.Canon := s.memWf_performAt v r w
theorem State.Canon.catchUp {v line} (w : s.Canon) : (s.catchUp v line).Canon := s.memWf_catchUp v line w
theorem State.Canon.homePut {v a bs c co} (w : s.Canon) : (s.homePut v a bs c co).Canon := s.memWf_homePut v a bs c co w
theorem State.Canon.writeBackLine {v c line} (w : s.Canon) : (s.writeBackLine v c line).Canon := s.memWf_writeBackLine v c line w
theorem State.Canon.evictLine {v c line} (w : s.Canon) : (s.evictLine v c line).Canon := s.memWf_evictLine v c line w
theorem State.Canon.l1Place {v c line tr} (w : s.Canon) : (s.l1Place v c line tr).Canon := s.memWf_l1Place v c line tr w
theorem State.Canon.coreReadUnit {v c p a n} (w : s.Canon) : CanonSome Prod.fst (s.coreReadUnit v c p a n) := by
  unfold CanonSome
  split
  · next h => exact State.memWf_coreReadUnit h w
  · trivial
theorem State.Canon.coreRead {v c p as} (w : s.Canon) : CanonSome Prod.fst (s.coreRead v c p as) := by
  unfold CanonSome
  split
  · next h => exact State.memWf_coreRead h w
  · trivial
theorem State.Canon.coreWrite {v c p share a bs} (w : s.Canon) : (s.coreWrite v c p share a bs).Canon := s.memWf_coreWrite v c p share a bs w
theorem State.Canon.flushL1 {v cs} (w : s.Canon) : (s.flushL1 v cs).Canon := s.memWf_flushL1 v cs w
theorem State.Canon.cutCaches {x scrub} (w : s.Canon) : (s.cutCaches x scrub).Canon := s.memWf_cutCaches x scrub w

end

end Sys2Proof.Machine
end

section
/-! Canonical memory: the operations that the model's parts share. A part that leaves memory alone keeps the form by definition; one that
writes to it does so through the accesses above. -/
namespace Sys2Proof.Machine
open Sys2Proof

variable {s t : State}

/-! ### Translation -/

theorem State.Canon.setXlate {d x} (hs : s.Canon) : (s.setXlate d x).Canon := hs
theorem State.Canon.fillTlb {core ctx l} (hs : s.Canon) : (s.fillTlb core ctx l).Canon := hs.ite hs
theorem State.Canon.noteLeaves {core ctx ls} (hs : s.Canon) : (s.noteLeaves core ctx ls).Canon := hs.foldl fun _ _ h => h.fillTlb

/-! ### Completion counters and ends of groups -/

theorem State.Canon.setGroup {g} (hs : s.Canon) : (s.setGroup g).Canon := hs
theorem State.Canon.setInst {i} (hs : s.Canon) : (s.setInst i).Canon := hs
theorem State.Canon.setLaunch {l} (hs : s.Canon) : (s.setLaunch l).Canon := hs
theorem State.Canon.setGang {g} (hs : s.Canon) : (s.setGang g).Canon := hs
theorem State.Canon.post {i} (hs : s.Canon) : (s.post i).Canon := hs
theorem State.Canon.setQueue {k q} (hs : s.Canon) : (s.setQueue k q).Canon := hs
theorem State.Canon.queueError {k reason} (hs : s.Canon) : (s.queueError k reason).Canon := hs.ite hs.setQueue
theorem State.Canon.markBad {v a n} (hs : s.Canon) : (s.markBad v a n).Canon := hs

theorem State.Canon.applyAt {v die w} (hs : s.Canon) : (s.applyAt v die w).Canon :=
  (hs.foldl fun _ _ h => h.homePut).markBad.ite (hs.foldl fun _ _ h => h.homePut)

theorem State.Canon.stamp {v w} (hs : s.Canon) : (s.stamp v w).Canon := .congr rfl rfl hs.applyAt

theorem State.Canon.hwTouch {p ctx va n} (hs : s.Canon) : (s.hwTouch p ctx va n).Canon := by
  unfold State.hwTouch
  dsimp only
  split
  · exact hs
  · exact hs.foldl fun _ _ h => h.l2Touch

theorem State.Canon.homeWriteAll {v owner xs} (hs : s.Canon) : (s.homeWriteAll v owner xs).Canon :=
  hs.foldl fun _ _ h => h.homePut.ite (.ite (.post h) (.stamp h))

theorem State.Canon.hwWriteAs {owner p ctx va bs} (hs : s.Canon) : CanonSome id (s.hwWriteAs owner p ctx va bs) := by
  unfold State.hwWriteAs
  dsimp only
  split
  · trivial
  · exact hs.homeWriteAll

theorem State.Canon.hwWrite {p ctx va bs} (hs : s.Canon) : CanonSome id (s.hwWrite p ctx va bs) := hs.hwWriteAs

theorem State.Canon.writeRecord {i status} (hs : s.Canon) : (s.writeRecord i status).Canon := by
  unfold State.writeRecord
  split
  · exact hs
  split
  · next e => exact hs.hwWriteAs.of_eq e
  · exact hs.queueError

theorem State.Canon.endCmds {q hit} (hs : s.Canon) : (s.endCmds q hit).Canon := hs.setQueue
theorem State.Canon.dropCmd {i} (hs : s.Canon) : (s.dropCmd i).Canon := hs.endCmds

theorem State.Canon.tryFinish {n n1} (hs : s.Canon) : (s.tryFinish n n1).Canon := by
  induction n generalizing s n1 with
  | zero =>
    unfold State.tryFinish
    exact hs
  | succ n ih =>
    unfold State.tryFinish
    dsimp only
    split
    · exact hs
    split
    · exact hs
    split
    · exact hs
    split
    · exact (hs.flushL1.ite hs).setInst.writeRecord.dropCmd
    split
    · exact (hs.flushL1.ite hs).setInst.writeRecord.dropCmd
    · exact (hs.flushL1.ite hs).setInst.post.ite (ih (hs.flushL1.ite hs).setInst.writeRecord.dropCmd.setInst)

theorem State.Canon.tryShare {launch die} (hs : s.Canon) : (s.tryShare launch die).Canon := by
  unfold State.tryShare
  dsimp only
  split
  · exact hs
  split
  · exact hs
  split
  · exact hs
  split
  · exact hs.setLaunch
  · exact hs.setLaunch.setInst.tryFinish

theorem State.Canon.countGroups {launch done canc} (hs : s.Canon) : (s.countGroups launch done canc).Canon := by
  unfold State.countGroups
  split
  · exact hs
  · exact hs.setInst

theorem State.Canon.reportGroup {g cancelled} (hs : s.Canon) : (s.reportGroup g cancelled).Canon := by
  unfold State.reportGroup
  dsimp only
  split
  · exact hs.countGroups
  split
  · exact hs.countGroups.setLaunch.tryShare
  · exact hs.countGroups.setGang.setLaunch.ite (.tryShare (.setLaunch (.congr rfl rfl hs.countGroups)))

theorem State.Canon.freeSlots {gid} (hs : s.Canon) : (s.freeSlots gid).Canon := hs
theorem State.Canon.tellEnd {g how} (hs : s.Canon) : (s.tellEnd g how).Canon := hs.setGroup.reportGroup

theorem State.Canon.endGroup {gid how} (hs : s.Canon) : (s.endGroup gid how).Canon := by
  unfold State.endGroup
  dsimp only
  split
  · exact hs
  split
  · exact hs
  · exact (hs.setGroup.freeSlots.tellEnd.ite hs.setGroup.freeSlots).post

/-! ### Event records -/

theorem State.Canon.event {p e} (hs : s.Canon) : (s.event p e).Canon := by
  unfold State.event
  extract_lets
  split_ifs
  · exact hs
  · exact hs.setReg
  · exact hs.hostPost.setReg
  · exact hs.hostPost.setReg.setReg.hostPost

/-! ### The meshes -/

theorem State.Canon.setLinkStatus {k v} (hs : s.Canon) : (s.setLinkStatus k v).Canon := hs.setReg
theorem State.Canon.setChannel {link ch c} (hs : s.Canon) : (s.setChannel link ch c).Canon := hs
theorem State.Canon.takeSlots {link ch n} (hs : s.Canon) : (s.takeSlots link ch n).Canon := hs.setChannel.post.ite hs.setChannel
theorem State.Canon.postOnce {e} (hs : s.Canon) : (s.postOnce e).Canon := hs.ite hs.post

theorem State.Canon.offerHops {die router} (hs : s.Canon) : (s.offerHops die router).Canon :=
  hs.foldl fun _ _ h => h.foldl fun _ _ h' => h'.postOnce

theorem State.Canon.setPkt {p} (hs : s.Canon) : (s.setPkt p).Canon := hs
theorem State.Canon.freeSlotsOf {p} (hs : s.Canon) : (s.freeSlotsOf p).Canon := hs.ite hs.setChannel
theorem State.Canon.leaveMesh {p} (hs : s.Canon) : (s.leaveMesh p).Canon := hs.takeSlots.freeSlotsOf

theorem State.Canon.movePkt {p out} (hs : s.Canon) : (s.movePkt p out).Canon := by
  unfold State.movePkt
  dsimp only
  split
  · exact hs.freeSlotsOf.leaveMesh.setPkt.postOnce.post
  split
  · exact hs.freeSlotsOf.takeSlots.setPkt.postOnce.offerHops
  · exact hs

theorem State.Canon.setGrants {die router l} (hs : s.Canon) : (s.setGrants die router l).Canon := hs
theorem State.Canon.nextCycle {die router} (hs : s.Canon) : (s.nextCycle die router).Canon := (hs.foldl fun _ _ h => h.setPkt).setGrants
theorem State.Canon.setFlow {f} (hs : s.Canon) : (s.setFlow f).Canon := hs
theorem State.Canon.setReorderPort {dst cls r} (hs : s.Canon) : (s.setReorderPort dst cls r).Canon := hs

theorem State.Canon.injectPkt {f prio payload credit ch} (hs : s.Canon) : (s.injectPkt f prio payload credit ch).Canon :=
  .offerHops (.postOnce (.takeSlots (.setFlow hs)))

theorem State.Canon.pumpFlow {f} (hs : s.Canon) : (s.pumpFlow f).Canon := by
  unfold State.pumpFlow
  split
  · exact hs.setFlow
  split
  · exact hs.injectPkt
  · exact hs.setFlow

theorem State.Canon.sendMesh {src dst cls prio payload} (hs : s.Canon) : (s.sendMesh src dst cls prio payload).Canon :=
  hs.pumpFlow.ite hs.setFlow.post

theorem State.Canon.pumpPort {port} (hs : s.Canon) : (s.pumpPort port).Canon := hs.foldl fun _ _ h => h.pumpFlow

theorem canon_execMeshPacketHop {die router out} (hs : s.Canon) : CanonOut (execMeshPacketHop die router out s) := by
  unfold execMeshPacketHop
  dsimp only
  split
  · exact (hs.nextCycle.ite hs).post.ite (hs.nextCycle.ite hs)
  · exact (hs.nextCycle.ite hs).setGrants.movePkt.offerHops.pumpPort.ite (hs.nextCycle.ite hs).setGrants.movePkt.offerHops

theorem canon_execPacketDelivery {pid} (hs : s.Canon) : CanonOut (execPacketDelivery pid s) := by
  unfold execPacketDelivery
  dsimp only
  split
  · exact hs
  split
  · exact hs
  refine State.Canon.post ?_
  split
  · exact .post (.post (.ite (.ite (.setReorderPort (.setFlow hs)) (.postOnce (.setReorderPort (.setFlow hs)))) (.setFlow hs)))
  · exact .post (.ite (.ite (.setReorderPort (.setFlow hs)) (.postOnce (.setReorderPort (.setFlow hs)))) (.setFlow hs))

theorem canon_execReorderCreditRequest {src dst cls} (hs : s.Canon) : CanonOut (execReorderCreditRequest src dst cls s) := hs.setReorderPort.postOnce

theorem canon_execReorderCreditGrant {dst cls} (hs : s.Canon) : CanonOut (execReorderCreditGrant dst cls s) := by
  unfold execReorderCreditGrant
  extract_lets r
  split
  · exact hs
  split
  · exact hs
  extract_lets src s1 f s2 s3
  have h1 : s1.Canon := hs.setReorderPort
  have h2 : s2.Canon := h1.pumpFlow
  have h3 : s3.Canon := h2.ite h2.post
  split
  · exact hs.setReorderPort.ite hs.setReorderPort.postOnce
  · exact h3.ite h3.postOnce

theorem canon_execDeliveryConfirmation {src dst cls} (hs : s.Canon) : CanonOut (execDeliveryConfirmation src dst cls s) := hs.pumpFlow

theorem canon_execPermitAudit {link ch} (hs : s.Canon) : CanonOut (execPermitAudit link ch s) := by
  unfold execPermitAudit
  dsimp only
  split
  · exact hs
  split
  · exact hs.post
  · exact hs.setChannel.post

theorem canon_execAuditMarker {link ch} (hs : s.Canon) : CanonOut (execAuditMarker link ch s) := by
  unfold execAuditMarker
  dsimp only
  split
  · exact hs
  · exact hs.setChannel.post

theorem canon_execAuditMarkerReturn {link ch} (hs : s.Canon) : CanonOut (execAuditMarkerReturn link ch s) := by
  unfold execAuditMarkerReturn
  dsimp only
  split
  · exact hs
  split
  · exact hs.setChannel.post.ite hs.setChannel.post.pumpPort
  refine State.Canon.post ?_
  split
  · exact hs.setChannel.event.setLinkStatus
  · exact hs.setChannel.event

theorem canon_execChannelRestart {link ch} (hs : s.Canon) : CanonOut (execChannelRestart link ch s) := by
  unfold execChannelRestart
  dsimp only
  split
  · exact hs
  split
  · exact hs.post
  · exact hs.setChannel.post.offerHops.ite hs.setChannel.post.offerHops.pumpPort

/-! ### Reductions at their root -/

theorem State.Canon.axSend {p} (hs : s.Canon) : (s.axSend p).Canon := .post hs

theorem State.Canon.seal {tag holder} (hs : s.Canon) : (s.seal tag holder).Canon := by
  unfold State.seal
  dsimp only
  split
  · exact hs
  · exact .ite (.postOnce hs) hs

theorem State.Canon.collSend {gw dst p} (hs : s.Canon) : (s.collSend gw dst p).Canon := by
  unfold State.collSend
  dsimp only
  split
  · exact hs
  · exact .ite hs ((hs.seal.post.ite hs.seal.sendMesh).ite hs.seal.axSend)

theorem State.Canon.dropRetained {job ident} (hs : s.Canon) : (s.dropRetained job ident).Canon := hs

theorem State.Canon.broadcast {gw p} (hs : s.Canon) : (s.broadcast gw p).Canon := by
  unfold State.broadcast
  split
  · exact hs
  · exact hs.foldl fun _ _ h => h.collSend

theorem State.Canon.retain {r status} (hs : s.Canon) : (s.retain r status).Canon := hs.ite (.post hs)

theorem State.Canon.endReduction {r status} (hs : s.Canon) : (s.endReduction r status).Canon :=
  .ite (.retain (.broadcast (.ite (.event hs) hs))) (.broadcast (.ite (.event hs) hs))

theorem State.Canon.cancelReduction {job ident} (hs : s.Canon) : (s.cancelReduction job ident).Canon := by
  unfold State.cancelReduction
  dsimp only
  split
  · exact hs
  · exact hs.ite ((hs.foldl fun _ _ h => h.post).ite (hs.ite hs.endReduction))

theorem State.Canon.cancelPosted {ids} (hs : s.Canon) : (s.cancelPosted ids).Canon := hs.foldl fun _ _ h => h.cancelReduction

/-! ### Cancellation -/

theorem State.Canon.cancelOnDie {a d} (hs : s.Canon) : (s.cancelOnDie a d).Canon := by
  unfold State.cancelOnDie
  dsimp only
  refine State.Canon.foldl (hs.foldl fun _ _ h => (h.foldl fun _ _ h' => h'.endGroup)) fun t x h => ?_
  split
  · exact h
  split
  · exact h
  · exact h.setLaunch.countGroups.tryShare

theorem State.Canon.dropNodes {gi} (hs : s.Canon) : (s.dropNodes gi).Canon := by
  unfold State.dropNodes
  dsimp only
  split
  · exact hs.ite hs
  · exact hs

theorem State.Canon.stopCopy {i} (hs : s.Canon) : (s.stopCopy i).Canon := by
  unfold State.stopCopy
  dsimp only
  split
  · exact hs
  · exact hs.setInst.ite (.tryFinish (.setInst hs))

theorem State.Canon.cancelInst {a d torn} (hs : s.Canon) : (s.cancelInst a d torn).Canon := by
  unfold State.cancelInst
  split
  · exact hs
  extract_lets below s1 s2 s3 others s4 s5
  have h1 : s1.Canon := hs
  have h3 : s3.Canon := (h1.foldl fun _ _ h => h.dropNodes).foldl fun _ _ h => h.stopCopy
  have h5 : s5.Canon := h3.cancelOnDie.cancelPosted.foldl fun _ _ h => h.sendMesh
  exact hs.ite (h5.foldl fun _ _ h => h.tryFinish).tryFinish

theorem State.Canon.teardown {q detail d} (hs : s.Canon) : (s.teardown q detail d).Canon := by
  unfold State.teardown
  dsimp only
  split
  · exact hs.event
  refine State.Canon.foldl hs.event.queueError.setQueue fun t x h => ?_
  split
  · exact h.cancelInst
  split
  · exact h.setInst.tryFinish
  · exact h

theorem State.Canon.requeue {g keepOff} (hs : s.Canon) : (s.requeue g keepOff).Canon := by
  unfold State.requeue
  dsimp only
  split
  · split
    · exact .congr rfl rfl (hs.setInst.foldl fun _ _ h => h.setGroup.freeSlots.post)
    · exact .congr rfl rfl (hs.foldl fun _ _ h => h.setGroup.freeSlots.post)
  refine State.Canon.setLaunch ?_
  split
  · exact .congr rfl rfl (hs.setInst.foldl fun _ _ h => h.setGroup.freeSlots.post)
  · exact .congr rfl rfl (hs.foldl fun _ _ h => h.setGroup.freeSlots.post)

theorem State.Canon.chargeCore {g} (hs : s.Canon) : (s.chargeCore g).Canon := hs.setCore.event.ite hs.setCore

theorem State.Canon.rollBack {g cause may} (hs : s.Canon) : (s.rollBack g cause may).Canon := by
  unfold State.rollBack
  dsimp only
  split
  · exact hs.chargeCore.teardown
  split
  · exact hs.chargeCore.teardown.ite hs.chargeCore.setLaunch.event.requeue
  · exact hs.chargeCore.teardown.ite hs.chargeCore.event.requeue

theorem State.Canon.contain {gid cause} (hs : s.Canon) : (s.contain gid cause).Canon := by
  unfold State.contain
  split
  · exact hs
  · exact hs.ite hs.rollBack

/-! ### Requests out of a partition -/

theorem State.Canon.sendRemote {r} (hs : s.Canon) : (s.sendRemote r).Canon := by
  unfold State.sendRemote
  dsimp only
  split
  · exact .axSend hs
  · exact .post (.sendHost hs)
  · exact .post hs
  · exact hs

theorem State.Canon.staleFills {hit} (hs : s.Canon) : (s.staleFills hit).Canon := hs
theorem State.Canon.dropCopy {c pa} (hs : s.Canon) : (s.dropCopy c pa).Canon := hs.setCore.staleFills
theorem State.Canon.drainWcb {c sync e} (hs : s.Canon) : (s.drainWcb c sync e).Canon := hs.setCore.sendRemote.ite hs.setCore
theorem State.Canon.drainAllWcb {c} (hs : s.Canon) : (s.drainAllWcb c).Canon := hs.foldl fun _ _ h => h.drainWcb

theorem State.Canon.drainLine {c pa} (hs : s.Canon) : (s.drainLine c pa).Canon := by
  unfold State.drainLine
  split
  · exact hs.drainWcb
  · exact hs

theorem State.Canon.drainOwned {c owner} (hs : s.Canon) : (s.drainOwned c owner).Canon := hs.foldl fun _ _ h => h.drainWcb

theorem State.Canon.wcbPut {c q owner pa die bs} (hs : s.Canon) : (s.wcbPut c q owner pa die bs).Canon := by
  unfold State.wcbPut
  dsimp only
  split
  · exact hs.setCore.drainWcb.ite hs.setCore
  refine State.Canon.post ?_
  split
  · split
    · exact .congr rfl rfl hs.drainWcb
    · exact hs
  · exact hs

theorem State.Canon.putRun {g p share repl pa bs} (hs : s.Canon) : (s.putRun g p share repl pa bs).Canon := by
  unfold State.putRun
  dsimp only
  split
  · exact hs.foldl fun _ _ h => h.dropCopy.wcbPut
  · exact hs.foldl fun _ _ h => h.dropCopy.hostPost
  · exact hs.foldl fun _ _ h => h.sendRemote
  · exact .ite (.post hs) (hs.foldl fun _ _ h => h.coreWrite)

/-! ### Virtual accesses and the trap entry -/

theorem State.Canon.setUnit {g u c} (hs : s.Canon) : (s.setUnit g u c).Canon := hs.setGroup

theorem State.Canon.onGroup {gid f} (hs : s.Canon) : (s.onGroup gid f).Canon := by
  unfold State.onGroup
  split
  · exact hs.setGroup
  · exact hs

theorem State.Canon.storeAll {g xs} (hs : s.Canon) : (s.storeAll g xs).Canon := hs.foldl fun _ _ h => h.putRun

theorem State.Canon.putVirtual {g va bs} (hs : s.Canon) : CanonOk id (s.putVirtual g va bs) := by
  unfold State.putVirtual
  split
  · trivial
  split
  · trivial
  · exact hs.storeAll

theorem State.Canon.loadByte {g b} (hs : s.Canon) : CanonSome Prod.fst (s.loadByte g b) := by
  unfold State.loadByte
  dsimp only
  split
  · exact hs
  · exact hs.coreReadUnit.map fun _ h => h

theorem State.Canon.loadAll {g l} (hs : s.Canon) : CanonSome Prod.fst (s.loadAll g l) := by
  induction l generalizing s with
  | nil =>
    unfold State.loadAll
    exact hs
  | cons x l ih =>
    unfold State.loadAll
    split
    · trivial
    · next e =>
      split
      · trivial
      · next e' => exact ((ih (hs.loadByte.of_eq e)).of_eq e' :)

theorem State.Canon.getVirtual {g va n} (hs : s.Canon) : CanonOk Prod.fst (s.getVirtual g va n) := by
  unfold State.getVirtual
  split
  · trivial
  split
  · trivial
  · next e => exact (hs.loadAll.of_eq e :)

theorem State.Canon.endByTrap {g t' second} (hs : s.Canon) : (s.endByTrap g t' second).Canon := hs.event.endGroup

theorem State.Canon.enterHandler {g u t'} (hs : s.Canon) : (s.enterHandler g u t').Canon := by
  unfold State.enterHandler
  extract_lets entry
  split
  · exact hs.endByTrap
  split
  · exact hs.endByTrap
  extract_lets base bs
  split
  · exact hs.endByTrap
  split
  · exact hs.endByTrap
  · next e =>
    extract_lets s2
    have h2 : s2.Canon := (hs.putVirtual.of_eq e).setGroup
    exact h2.ite h2

theorem State.Canon.settleStop {gid} (hs : s.Canon) : (s.settleStop gid).Canon := by
  unfold State.settleStop
  split
  · exact hs
  split
  · split
    · exact hs
    split
    · exact hs.enterHandler.ite hs.enterHandler
    · exact hs.enterHandler
  · exact hs

theorem State.Canon.raise {gid u t'} (hs : s.Canon) : (s.raise gid u t').Canon := by
  unfold State.raise
  dsimp only
  split
  · exact hs
  split
  · exact hs.setUnit.contain
  split
  · exact hs.endByTrap.ite hs.setGroup
  · exact hs.setGroup
  · exact hs
  · exact hs
  · exact hs
  · exact hs.setGroup.settleStop
  · exact hs.setGroup.settleStop

theorem State.Canon.noteStall {x w} (hs : s.Canon) : (s.noteStall x w).Canon := by
  unfold State.noteStall
  dsimp only
  split
  · exact hs
  split
  · exact hs.setGroup.ite hs.setGroup.setCore.post
  · exact hs.setGroup

theorem State.Canon.finish {x r} (hs : s.Canon) (hr : CanonRes r) : CanonOut (s.finish x r) := by
  cases r with
  | done t => exact hr
  | trap t => exact hs.raise
  | trapAfter t w => exact State.Canon.raise hr
  | stall w => exact hs.noteStall
  | miss es => exact hs.noteStall.foldl fun _ _ h => h.post
  | error c => exact hs.contain

/-- An issue keeps the form of memory where its effect does: what it does besides is a trap, a note or containment. -/
theorem canon_issue {i k} (hs : s.Canon) (hk : ∀ x g c t, t.Canon → CanonRes (k x g c t)) : CanonOut (issue i s k) := by
  unfold issue
  dsimp only
  split
  · trivial
  split
  · trivial
  split
  · exact hs.finish trivial
  split_ifs
  · exact hs.finish trivial
  · exact hs.finish trivial
  · exact hs.finish (hk _ _ _ _ hs.setGroup)

theorem canon_issueCrew {i f} (hs : s.Canon) : CanonOut (issueCrew i s f) := canon_issue hs fun _ _ _ _ h => h.setUnit
theorem canon_issueD {i f} (hs : s.Canon) : CanonOut (issueD i s f) := canon_issueCrew hs

/-! ### The store buffer and the transaction table -/

theorem State.Canon.icachePut {v c line} (hs : s.Canon) : (s.icachePut v c line).Canon := by
  unfold State.icachePut
  dsimp only
  split
  · exact hs.setCore.l2Touch
  · exact hs

theorem State.Canon.noteFetch {g xs} (hs : s.Canon) : (s.noteFetch g xs).Canon := hs.foldl fun _ _ h => h.fillTlb.icachePut

theorem State.Canon.commitSectors {g xs} (hs : s.Canon) : (s.commitSectors g xs).Canon := by
  unfold State.commitSectors
  dsimp only
  refine State.Canon.foldl hs fun t x h => ?_
  split
  · exact h.putRun
  · exact h

theorem State.Canon.commitOldest {n n1} (hs : s.Canon) : (s.commitOldest n n1).Canon := by
  induction n generalizing s n1 with
  | zero =>
    unfold State.commitOldest
    exact hs
  | succ n ih =>
    unfold State.commitOldest
    dsimp only
    split
    · exact hs
    split
    · exact hs
    · exact ih hs.setGroup.commitSectors

theorem State.Canon.commitAll {gid} (hs : s.Canon) : (s.commitAll gid).Canon := by
  unfold State.commitAll
  split
  · exact hs
  · exact hs.commitOldest

theorem State.Canon.bsbRoom {gid bs n} (hs : s.Canon) : (s.bsbRoom gid bs n).Canon := by
  induction n generalizing s with
  | zero =>
    unfold State.bsbRoom
    exact hs
  | succ n ih =>
    unfold State.bsbRoom
    split
    · exact hs
    · exact hs.ite (ih hs.commitOldest)

theorem State.Canon.bsbStore {gid share repl edge pa xs} (hs : s.Canon) : (s.bsbStore gid share repl edge pa xs).Canon := hs.ite hs.bsbRoom.onGroup
theorem State.Canon.ottTake {c gid u} (hs : s.Canon) : (s.ottTake c gid u).Canon := hs.ite hs.setCore
theorem State.Canon.launchFlight {gid f which ev} (hs : s.Canon) : (s.launchFlight gid f which ev).Canon := .post (.congr rfl rfl hs.onGroup)
theorem State.Canon.landFlight {gid f which} (hs : s.Canon) : (s.landFlight gid f which).Canon := hs.onGroup

/-! ### Settling -/

theorem State.Canon.settleSets {gid u reached n} (hs : s.Canon) : (s.settleSets gid u reached n).Canon := by
  induction n generalizing s with
  | zero =>
    unfold State.settleSets
    exact hs
  | succ n ih =>
    unfold State.settleSets
    dsimp only
    split
    · exact hs
    split
    · exact hs.ite hs.setUnit
    split
    · exact hs.raise
    split
    · exact ih hs.setUnit
    split
    · exact hs.raise
    · exact hs.setUnit

theorem State.Canon.setBar {g level k b} (hs : s.Canon) : (s.setBar g level k b).Canon := by
  unfold State.setBar
  split
  · exact hs.onGroup
  · split
    · exact hs.setGang
    · exact hs
  split
  · exact hs.setLaunch
  · exact hs

theorem State.Canon.mapGroups {gs f} (hs : s.Canon) : (s.mapGroups gs f).Canon := hs.foldl fun _ _ h => h.onGroup

theorem State.Canon.failBar {gs level k gen} (hs : s.Canon) : (s.failBar gs level k gen).Canon := by
  unfold State.failBar
  dsimp only
  refine State.Canon.foldl hs fun t x h => ?_
  refine State.Canon.foldl h fun t x h => ?_
  split
  · exact h
  split
  · exact h.setUnit
  · exact h.setUnit.raise

theorem State.Canon.passGang {g level} (hs : s.Canon) : (s.passGang g level).Canon := by
  unfold State.passGang
  split
  · exact hs.setGang
  · exact hs

theorem State.Canon.settleBar {gid level k} (hs : s.Canon) : (s.settleBar gid level k).Canon := by
  unfold State.settleBar
  dsimp only
  split
  · exact hs
  · exact (hs.ite hs.setBar).ite (hs.setBar.passGang.mapGroups.ite (hs.setBar.failBar.ite (hs.ite hs.setBar)))

theorem State.Canon.tryBar {gid u} (hs : s.Canon) : (s.tryBar gid u).Canon := by
  unfold State.tryBar
  dsimp only
  split
  · exact hs
  split
  · exact hs
  split
  · exact hs.setUnit.ite hs.setUnit
  · exact hs.ite (hs.ite (hs.raise.ite (hs.ite ((hs.ite hs.commitAll).ite (hs.ite hs.commitAll).onGroup.setBar.settleBar))))
  · exact hs

theorem State.Canon.starve {gid} (hs : s.Canon) : (s.starve gid).Canon := by
  unfold State.starve
  dsimp only
  split
  · exact hs
  split
  · exact hs.raise.ite hs
  · exact hs.raise.ite hs
  · exact hs

theorem State.Canon.settleOuter {gid} (hs : s.Canon) : (s.settleOuter gid).Canon := by
  unfold State.settleOuter
  split
  · exact hs
  · exact hs.foldl fun _ _ h => h.settleBar

theorem State.Canon.settleAt {gid reached} (hs : s.Canon) : (s.settleAt gid reached).Canon := by
  unfold State.settleAt
  split
  · exact hs
  extract_lets s1 s2 s3 s4
  have h4 : s4.Canon :=
    (((hs.foldl fun _ _ h => h.settleSets).foldl fun _ _ h => h.tryBar).foldl fun _ _ h => h.settleBar).starve.settleStop
  split
  · exact h4
  split
  · exact h4.commitAll.endGroup.ite h4
  · exact h4.commitAll.endGroup.ite h4
  · exact h4

theorem State.Canon.settle {gid} (hs : s.Canon) : (s.settle gid).Canon := hs.settleAt

theorem canon_settled {o} (ho : CanonOut o) : CanonOut (settled s o) := by
  unfold settled
  split
  · exact ho.settleAt
  · exact ho

end Sys2Proof.Machine
end

section
/-! Canonical memory: loads, stores and atomics, the matrix engine, collectives, the crew and queue instructions, and trap returns. -/
namespace Sys2Proof.Machine
open Sys2Proof

variable {s t : State}

/-! ### Loads, stores and atomics -/

theorem canon_lanePtr {x g c} (hs : s.Canon) : CanonOk Prod.fst (lanePtr x g c s) := by
  unfold lanePtr
  dsimp only
  split
  · exact hs
  split
  · trivial
  split
  · trivial
  · exact hs.noteFetch

theorem State.Canon.noteAll {g xs} (hs : s.Canon) : (s.noteAll g xs).Canon := hs.foldl fun _ _ h => h.noteLeaves

/-- The state that formed accesses carry is canonical. -/
def CanonFormed : Formed → Prop
  | .fault _ t _ | .ok t _ => t.Canon
  | .trap _ | .wait _ => True

theorem canon_formLanes {x g c ps idx k need} (hs : s.Canon) : CanonFormed (formLanes x g c s ps idx k need) := by
  unfold formLanes
  dsimp only
  split
  · trivial
  split
  · trivial
  split
  · exact hs
  split
  · trivial
  · exact hs.noteAll

theorem CanonFormed.of_ok {o : Formed} {as} (h : CanonFormed o) (e : o = .ok t as) : t.Canon := by
  subst e; exact h
theorem CanonFormed.of_fault {o : Formed} {w as} (h : CanonFormed o) (e : o = .fault w t as) : t.Canon := by
  subst e; exact h

theorem State.Canon.askLoads {g fid share as} (hs : s.Canon) : (s.askLoads g fid share as).Canon := by
  unfold State.askLoads
  dsimp only
  refine List.foldlRecOn (motive := fun (acc : State × List (Nat × Nat)) => acc.1.Canon) _ _ (hs.foldl fun _ _ h => h.drainLine) fun acc h a _ => ?_
  split
  · exact h
  · exact h.sendRemote

theorem State.Canon.readAcc {g a} (hs : s.Canon) : CanonSome Prod.fst (s.readAcc g a) := by
  unfold State.readAcc
  dsimp only
  split
  · exact hs
  split
  · exact hs
  split
  · trivial
  · next e => exact (hs.coreRead.of_eq e :)

theorem State.Canon.destRead {g a} (hs : s.Canon) : CanonSome Prod.fst (s.destRead g a) := by
  unfold State.destRead
  dsimp only
  split
  · exact hs
  · exact hs.coreRead

theorem State.Canon.writeAcc {gid fid a bs} (hs : s.Canon) : (s.writeAcc gid fid a bs).Canon := by
  unfold State.writeAcc
  dsimp only
  split
  · exact hs
  · exact hs.setGroup.ite (hs.drainLine.dropCopy.sendRemote.ite hs.putRun)

theorem State.Canon.putUnit {gid fid a bs} (hs : s.Canon) : (s.putUnit gid fid a bs).Canon := by
  unfold State.putUnit
  dsimp only
  split
  · exact hs
  · exact hs.writeAcc.ite hs.stamp

theorem State.Canon.startLoad {i x g as} (hs : s.Canon) : (s.startLoad i x g as).Canon := hs.ottTake.launchFlight.askLoads

theorem canon_sendLoad {i x g c} (hs : s.Canon) : CanonRes (sendLoad i x g c s) := by
  unfold sendLoad
  split
  · trivial
  · next e =>
    have h := (canon_lanePtr hs).of_eq e
    split
    · trivial
    split
    · trivial
    · trivial
    · next e =>
      split
      · trivial
      · exact ((canon_formLanes h).of_fault e).launchFlight
    · next e =>
      split
      · trivial
      · exact ((canon_formLanes h).of_ok e).startLoad

theorem canon_ldOp {i} (hs : s.Canon) : CanonOut (ldOp i s) := by
  unfold ldOp
  refine canon_issue hs fun x g c t h => ?_
  split
  · trivial
  split
  · trivial
  split
  · exact h.startLoad
  · exact canon_sendLoad h

theorem State.Canon.markCommitted {gid no} (hs : s.Canon) : (s.markCommitted gid no).Canon := hs.ite hs.onGroup

theorem State.Canon.storeLanes {gid fid f seen l} (hs : s.Canon) : CanonSome id (s.storeLanes gid fid f seen l) := by
  induction l generalizing s seen with
  | nil => exact hs
  | cons a l ih =>
    unfold State.storeLanes
    dsimp only
    split
    · trivial
    split
    · exact ih hs.writeAcc
    split
    · split
      · trivial
      · next e => exact ih (hs.destRead.of_eq e).putUnit
    · exact ih hs.sendRemote
    · exact ih hs.writeAcc

theorem State.Canon.startStore {i x g vals} (hs : s.Canon) : (s.startStore i x g vals).Canon := by
  unfold State.startStore
  extract_lets past commits n s2 s3 s4 sync now src f s5 ev
  have h2 : s2.Canon := hs.commitAll.ite hs
  have h3 : s3.Canon := h2.drainAllWcb.ite h2
  have h4 : s4.Canon := h3.ottTake.foldl fun _ _ h => h.writeAcc.ite h.bsbStore
  have h5 : s5.Canon := h4.ite (h4.storeLanes.getD h4).onGroup
  exact h4.ite h5.markCommitted.launchFlight

theorem canon_sendStore {i x g c} (hs : s.Canon) : CanonRes (sendStore i x g c s) := by
  unfold sendStore
  split
  · trivial
  · next e =>
    have h := (canon_lanePtr hs).of_eq e
    split
    · trivial
    split
    · trivial
    · trivial
    · trivial
    · next e =>
      split
      · trivial
      · exact ((canon_formLanes h).of_ok e).startStore

theorem canon_stOp {i} (hs : s.Canon) : CanonOut (stOp i s) := by
  unfold stOp
  refine canon_issue hs fun x g c t h => ?_
  split
  · trivial
  split
  · exact h
  · exact canon_sendStore h

theorem State.Canon.atomLane {gid f sub a oper} (hs : s.Canon) : CanonSome Prod.fst (s.atomLane gid f sub a oper) := by
  unfold State.atomLane
  dsimp only
  split
  · trivial
  split
  · trivial
  · next e =>
    split
    · split
      · exact (hs.destRead.of_eq e).putUnit
      · exact (hs.destRead.of_eq e :)
    · exact (hs.destRead.of_eq e).putUnit

theorem State.Canon.atomLanes {g f sub l} (hs : s.Canon) : CanonSome Prod.fst (s.atomLanes g f sub l) := by
  induction l generalizing s with
  | nil => exact hs
  | cons a l ih =>
    unfold State.atomLanes
    dsimp only
    split
    · exact hs.drainLine.dropCopy.sendRemote
    have hlane : CanonSome Prod.fst (if a.remote s (s.viewOf g) then some (s, a.value) else s.atomLane g.id f sub a a.value) := by
      split
      · exact hs
      · exact hs.atomLane
    split
    · trivial
    · next e =>
      split
      · trivial
      · next e' => exact ((ih (hlane.of_eq e)).of_eq e' :)

theorem State.Canon.performAtomic {g f} (hs : s.Canon) : CanonSome id (s.performAtomic g f) := by
  unfold State.performAtomic
  dsimp only
  split
  · trivial
  · next e => exact (hs.atomLanes.of_eq e).onGroup

theorem State.Canon.startAtomic {i sub x g vals} (hs : s.Canon) : (s.startAtomic i sub x g vals).1.Canon := by
  unfold State.startAtomic
  extract_lets s2 s3 s4 f
  have h2 : s2.Canon := hs.ite hs.commitAll
  have h3 : s3.Canon := h2.drainAllWcb.ite h2
  exact h3.markCommitted.ottTake.launchFlight

theorem canon_sendAtomic {i sub x g c} (hs : s.Canon) : CanonRes (sendAtomic i sub x g c s) := by
  unfold sendAtomic
  split
  · trivial
  · next e =>
    have h := (canon_lanePtr hs).of_eq e
    split
    · trivial
    · trivial
    split
    · trivial
    · trivial
    · trivial
    · next e =>
      split
      · trivial
      dsimp only
      split
      · split
        · trivial
        · next e' => exact ((canon_formLanes h).of_ok e).startAtomic.performAtomic.of_eq e'
      · exact ((canon_formLanes h).of_ok e).startAtomic

theorem canon_atomOp {i cas} (hs : s.Canon) : CanonOut (atomOp i cas s) := by
  unfold atomOp
  dsimp only
  refine canon_issue hs fun x g c t h => ?_
  split
  · trivial
  split
  · trivial
  split
  · exact h.launchFlight
  · exact canon_sendAtomic h

theorem canon_prefLane {x g p l i} (hs : s.Canon) : (prefLane x g s p l i).Canon := by
  unfold prefLane
  split
  · exact hs
  split
  · exact hs
  split
  · exact hs
  split
  · exact hs
  split
  · exact hs.noteLeaves.askLoads.ite hs
  split
  · exact hs
  · next e => exact (hs.coreReadUnit.of_eq e).noteLeaves

theorem canon_prefOp {i} (hs : s.Canon) : CanonOut (prefOp i s) := by
  unfold prefOp
  refine canon_issue hs fun x g c t h => ?_
  split
  · exact h
  split
  · split
    · trivial
    · exact h
  · next e =>
    split
    · trivial
    split
    · trivial
    · exact ((canon_lanePtr h).of_eq e).foldl fun _ _ h' => canon_prefLane h'

theorem State.Canon.readLanes {gid f l} (hs : s.Canon) : CanonSome Prod.fst (s.readLanes gid f l) := by
  induction l generalizing s with
  | nil =>
    unfold State.readLanes
    exact hs
  | cons x l ih =>
    unfold State.readLanes
    split
    · trivial
    split
    · trivial
    · next e =>
      split
      · trivial
      · next e' => exact ((ih (hs.readAcc.of_eq e)).of_eq e' :)

theorem canon_execLoadComplete {gid fid} (hs : s.Canon) : CanonOut (execLoadComplete gid fid s) := by
  unfold execLoadComplete
  dsimp only
  split
  · exact hs
  split
  · exact hs.post
  split
  · exact hs.landFlight
  split
  · exact hs.landFlight.onGroup.raise.settle
  split
  · exact hs.post
  split
  · exact hs.landFlight.contain
  · next e => exact (hs.readLanes.of_eq e).onGroup.landFlight.settle

theorem canon_execLoadTranslationFault {gid fid} (hs : s.Canon) : CanonOut (execLoadTranslationFault gid fid s) := by
  unfold execLoadTranslationFault
  dsimp only
  split
  · exact hs
  split
  · exact hs.onGroup
  split
  · exact hs.onGroup
  · exact hs.onGroup.onGroup.raise.settle

theorem State.Canon.setDone {gid fid n} (hs : s.Canon) : (s.setDone gid fid n).Canon := hs.onGroup
theorem State.Canon.askOld {g fid as} (hs : s.Canon) : (s.askOld g fid as).Canon := hs.setDone.askLoads

theorem State.Canon.performWrite {gid fid ev} (hs : s.Canon) : (s.performWrite gid fid ev).Canon := by
  unfold State.performWrite
  split
  · exact hs
  extract_lets land
  have hl {t : State} (h : t.Canon) : (land t).Canon := h.landFlight.ite h.landFlight.settle
  split
  · exact hs.post.ite (hl hs)
  split
  · exact hs.post
  split
  · exact hs.askOld.post
  split
  · exact hs.post
  split
  · exact hs.landFlight.contain
  · next e =>
    extract_lets s2
    have h2 : s2.Canon := (hs.storeLanes.of_eq e).onGroup
    exact h2.setDone.post.ite (hl h2)

theorem canon_execStorePerformed {gid fid} (hs : s.Canon) : CanonOut (execStorePerformed gid fid s) := hs.performWrite
theorem canon_execReleasePerformed {gid fid} (hs : s.Canon) : CanonOut (execReleasePerformed gid fid s) := hs.performWrite

theorem canon_execAtomicComplete {gid fid} (hs : s.Canon) : CanonOut (execAtomicComplete gid fid s) := by
  unfold execAtomicComplete
  dsimp only
  split
  · exact hs
  split
  · exact hs.post
  split
  · exact hs.landFlight.raise.settle
  split
  · split
    · split
      · exact hs.landFlight.contain
      · next e => exact (hs.performAtomic.of_eq e).post
    · exact hs.post
  split
  · exact hs.landFlight
  · exact hs.onGroup.landFlight.settle

theorem canon_execWcbDrainTimeout {core line} (hs : s.Canon) : CanonOut (execWcbDrainTimeout core line s) := by
  unfold execWcbDrainTimeout
  split
  · exact hs
  split
  · exact hs.post
  · exact hs.drainWcb

theorem canon_execOttEntryGrant {core} (hs : s.Canon) : CanonOut (execOttEntryGrant core s) := by
  unfold execOttEntryGrant
  dsimp only
  split
  · exact hs.post.ite hs
  · exact hs.setCore

/-! ### The matrix engine and tile copies -/

theorem canon_ophOp {i} (hs : s.Canon) : CanonOut (ophOp i s) := by
  unfold ophOp
  dsimp only
  refine canon_issue hs fun x g c t h => ?_
  split
  · exact h
  split
  · exact h.setGroup
  split
  · trivial
  split
  · trivial
  · exact h.setGroup

theorem State.Canon.accept {x which k ev} (hs : s.Canon) : (s.accept x which k ev).Canon := .post (.congr rfl rfl hs.onGroup)
theorem State.Canon.retireCmd {gid c which} (hs : s.Canon) : (s.retireCmd gid c which).Canon := hs.onGroup

theorem canon_mmaOp {i sparse} (hs : s.Canon) : CanonOut (mmaOp i sparse s) := by
  unfold mmaOp
  dsimp only
  refine canon_settled (canon_issue hs fun x g c t h => ?_)
  split
  · trivial
  split
  · exact h
  split
  · trivial
  split
  · trivial
  split
  · trivial
  · exact h.accept

theorem State.Canon.setCmd {gid cid k} (hs : s.Canon) : (s.setCmd gid cid k).Canon := hs.onGroup
theorem State.Canon.upsetCmd {gid c counter} (hs : s.Canon) : (s.upsetCmd gid c counter).Canon := hs.onGroup.retireCmd.contain

theorem canon_execMmaComplete {gid cid} (hs : s.Canon) : CanonOut (execMmaComplete gid cid s) := by
  unfold execMmaComplete
  dsimp only
  split
  · exact hs
  split
  · split
    · exact hs.post
    split
    · exact hs.setCmd.post
    split
    · exact hs.upsetCmd
    · exact hs.setUnit.retireCmd.settle
  · exact hs

theorem canon_tileOp {i accs tiles f} (hs : s.Canon) : CanonOut (tileOp i s accs tiles f) := by
  unfold tileOp
  refine canon_issue hs fun x g c t h => ?_
  split
  · exact h
  split
  · trivial
  · exact h.setUnit

theorem canon_execPark {f h} (hs : s.Canon) : CanonOut (execPark f h s) := canon_tileOp hs

theorem canon_execUnpark {f h} (hs : s.Canon) : CanonOut (execUnpark f h s) := by
  unfold execUnpark
  dsimp only
  refine canon_issue hs fun x g c t h => ?_
  split
  · exact h
  split
  · exact h
  split
  · split
    · trivial
    · exact h.setUnit
  split
  · trivial
  · exact h.setUnit

theorem canon_tcopyOp {i} (hs : s.Canon) : CanonOut (tcopyOp i s) := by
  unfold tcopyOp
  dsimp only
  refine canon_settled (canon_issue hs fun x g c t h => ?_)
  split
  · trivial
  split
  · exact h
  split
  · trivial
  split
  · trivial
  split
  · trivial
  split
  · trivial
  split
  · trivial
  split
  · trivial
  split
  · trivial
  split
  · trivial
  · exact (h.foldl fun _ _ h' => h'.noteAll).accept

theorem State.Canon.readRow {gid l} (hs : s.Canon) : CanonSome Prod.fst (s.readRow gid l) := by
  induction l generalizing s with
  | nil =>
    unfold State.readRow
    exact hs
  | cons x l ih =>
    unfold State.readRow
    split
    · trivial
    split
    · trivial
    · next e =>
      split
      · trivial
      · next e' => exact ((ih (hs.readAcc.of_eq e)).of_eq e' :)

theorem State.Canon.putRow {gid us} (hs : s.Canon) : (s.putRow gid us).Canon := (hs.foldl fun _ _ h => h.bsbStore).ite hs.onGroup
theorem State.Canon.nextRow {gid c t'} (hs : s.Canon) : (s.nextRow gid c t').Canon := hs.retireCmd.settle.ite hs.onGroup.post

theorem State.Canon.readEarly {g l} (hs : s.Canon) : CanonSome Prod.fst (s.readEarly g l) := by
  induction l generalizing s with
  | nil => exact hs
  | cons a l ih =>
    have hread : CanonSome Prod.fst (if a.away || !Config.chance (s.free + 1 + a.lane) then some (s, a)
        else (s.readAcc g a).map (fun x => (x.1, { a with away := true, fwd := [], value := ofLeBytes x.2 }))) := by
      split
      · exact hs
      · exact hs.readAcc.map fun _ h => h
    unfold State.readEarly
    split
    · trivial
    · next e => exact (ih (hread.of_eq e)).map fun _ h => h

theorem canon_execTcopyRowWritten {gid cid} (hs : s.Canon) : CanonOut (execTcopyRowWritten gid cid s) := by
  unfold execTcopyRowWritten
  split
  · exact hs
  split
  · extract_lets
    refine .ite hs (.ite hs.post ?_)
    split
    · exact hs.retireCmd
    refine .ite hs.upsetCmd (.ite ?_ (.ite ?_ (.ite hs.post ?_)))
    · split
      · exact hs.setCmd.post
      · exact hs.putRow.nextRow
    · split
      · exact hs.retireCmd.contain
      · next e => exact (hs.askLoads.readEarly.of_eq e).setCmd.post
    split
    · exact hs.retireCmd.contain
    · next e => exact (hs.readRow.of_eq e).onGroup.nextRow
  · exact hs

/-! ### Collectives -/

theorem State.Canon.axDiscard {gw} (hs : s.Canon) : (s.axDiscard gw).Canon := hs
theorem State.Canon.axAck {p} (hs : s.Canon) : (s.axAck p).Canon := hs

theorem State.Canon.axArrive {p ev k} (hs : s.Canon) (hk : ∀ t, t.Canon → CanonOut (k t)) : CanonOut (s.axArrive p ev k) := by
  unfold State.axArrive
  dsimp only
  split_ifs
  · exact hs.axDiscard
  · exact hk s hs
  · exact hk _ (.axAck hs)
  · exact hs.post
  · exact hs
  · exact hs.axAck

theorem State.Canon.collArrive {p ev k} (hs : s.Canon) (hk : ∀ t j, t.Canon → CanonOut (k t j)) : CanonOut (s.collArrive p ev k) := by
  unfold State.collArrive
  split
  · exact hs.axDiscard
  split
  · exact hs.axArrive fun t => hk t _
  · exact hs.axDiscard

theorem State.Canon.putPhys {w x} (hs : s.Canon) : (s.putPhys w x).Canon := by
  unfold State.putPhys
  dsimp only
  split
  · exact hs.onGroup
  split
  · exact hs.hostPost
  · exact .ite (.post hs) hs.homePut
  · exact hs.sendRemote

theorem State.Canon.putRange {w as bs} (hs : s.Canon) : (s.putRange w as bs).Canon := hs.foldl fun _ _ h => h.putPhys

theorem State.Canon.collInvalidate {w as} (hs : s.Canon) : (s.collInvalidate w as).Canon := by
  unfold State.collInvalidate
  dsimp only
  split
  · exact hs
  · exact hs.foldl fun _ _ h => h.evictLine

theorem State.Canon.dropColl {w} (hs : s.Canon) : (s.dropColl w).Canon := hs

theorem State.Canon.finishColl {w status ranks nan sw elems} (hs : s.Canon) : (s.finishColl w status ranks nan sw elems).Canon := by
  unfold State.finishColl
  extract_lets s0 e write t
  have h0 : s0.Canon := hs.dropColl
  have hw {t : State} (h : t.Canon) : (write t).Canon := by
    have h1 := (h.collInvalidate (w := w) (as := w.cmd.dst)).collInvalidate (w := w) (as := w.cmd.recd)
    exact (h1.putRange.ite h1).putRange
  split
  · split
    · exact h0
    have ht : t.Canon := hw h0
    exact ht.setInst.tryFinish.ite (.ite (.post ht) ht.setInst.tryFinish)
  split
  · exact h0
  extract_lets s1 s2
  have h1 : s1.Canon := (hw h0).retireCmd
  exact (h1.onGroup.ite h1).settle

theorem State.Canon.countPath {ctx innet} (hs : s.Canon) : (s.countPath ctx innet).Canon := hs.setReg
theorem State.Canon.postColl {w j gw elems} (hs : s.Canon) : (s.postColl w j gw elems).Canon := .sendMesh hs

theorem State.Canon.sourceRead {w} (hs : s.Canon) : (s.sourceRead w).Canon := by
  unfold State.sourceRead
  split
  · split
    · exact hs.setCmd
    · exact hs
  · exact hs

theorem State.Canon.choosePath {p0 j} (hs : s.Canon) : (s.choosePath p0 j).Canon := by
  unfold State.choosePath
  dsimp only
  split
  · exact hs.map_getD fun _ => hs.teardown
  have h0 {q} : (((s.posted? q).map s.sourceRead).getD s).Canon := hs.map_getD fun _ => hs.sourceRead
  split_ifs
  · exact h0.countPath.collSend
  · exact h0.post
  · exact h0.countPath.seal.axSend.post

theorem State.Canon.beginColl {w q ctx src ok} (hs : s.Canon) : (s.beginColl w q ctx src ok).Canon := by
  unfold State.beginColl
  dsimp only
  split
  · exact .finishColl hs
  split
  · exact .finishColl hs
  split
  · exact .finishColl hs
  split
  · exact hs.teardown
  · exact hs.postColl

theorem canon_execColl {f h w} (hs : s.Canon) : CanonOut (execColl f h w s) := by
  unfold execColl
  refine canon_settled (canon_issue hs fun x g c t h => ?_)
  split
  · trivial
  split
  · exact h
  extract_lets +onlyGivenNames q lane v core
  split
  · trivial
  split
  · trivial
  · trivial
  · trivial
  extract_lets k id cmd t1 t2 t3 _ t4
  split
  · trivial
  have h1 : t1.Canon := h.foldl fun _ _ h => h.fillTlb
  have h3 : t3.Canon := h1.commitAll.foldl fun _ _ h => h.writeBackLine
  have h4 : t4.Canon := .congr rfl rfl h3.onGroup
  exact h4.beginColl

theorem State.Canon.postNode {queue part ctx graph node inst bs} (hs : s.Canon) : (s.postNode queue part ctx graph node inst bs).Canon := hs.beginColl
theorem State.Canon.sendNotice {gw kind p late} (hs : s.Canon) : (s.sendNotice gw kind p late).Canon := hs.collSend.ite hs.broadcast
theorem State.Canon.answerLate {gw p r} (hs : s.Canon) : (s.answerLate gw p r).Canon := hs.sendNotice.dropRetained.ite (.congr rfl rfl hs.sendNotice)
theorem State.Canon.joinSlot {gw p r} (hs : s.Canon) : (s.joinSlot gw p r).Canon := .ite (.sendNotice hs) (hs.endReduction.ite hs)

theorem State.Canon.atRoot {p ev} (hs : s.Canon) : (s.atRoot p ev).Canon := by
  unfold State.atRoot
  extract_lets gw now s1 s2 _ r _ s3 s4
  have h1 : s1.Canon := by
    unfold s1
    split
    · exact hs.dropRetained.ite hs
    · exact hs
  have h2 : s2.Canon := by
    unfold s2
    split
    · exact h1.endReduction.ite h1
    · exact h1
  have h3 : s3.Canon := h2
  have h4 : s4.Canon := h3.ite h3.post
  split
  · exact h2.joinSlot
  · exact h2.answerLate
  · exact h2.post.ite h4.joinSlot

theorem State.Canon.dropSwitchSlot {x} (hs : s.Canon) : (s.dropSwitchSlot x).Canon := hs
theorem State.Canon.forward {sw p} (hs : s.Canon) : (s.forward sw p).Canon := hs.post.ite hs

theorem State.Canon.flushSwitch {x} (hs : s.Canon) : (s.flushSwitch x).Canon :=
  .ite (.postOnce hs) ((hs.dropSwitchSlot.foldl fun _ _ h => h.forward).ite hs.dropSwitchSlot.seal.forward)

theorem State.Canon.atSwitch {sw p} (hs : s.Canon) : (s.atSwitch sw p).Canon := by
  unfold State.atSwitch
  split
  · extract_lets x
    split_ifs
    · exact hs.flushSwitch
    · exact .post hs
    · exact hs.forward
  extract_lets ranks x1
  split_ifs
  · exact hs.forward
  · exact hs.flushSwitch
  · exact hs

theorem State.Canon.reachSwitch {p ev} (hs : s.Canon) : (s.reachSwitch p ev).Canon := by
  unfold State.reachSwitch
  dsimp only
  split
  · exact hs
  · exact .ite (.atSwitch hs) hs.post

theorem canon_reductionArrival {p ev} (hs : s.Canon) : CanonOut (reductionArrival p ev s) := by
  unfold reductionArrival
  split
  · exact hs.reachSwitch
  split
  · exact hs.collArrive fun _ _ h => h.choosePath
  · exact hs.collArrive fun _ _ h => h.atRoot

theorem canon_execCompletion {p} (hs : s.Canon) : CanonOut (execCompletion p s) :=
  hs.collArrive fun _ _ h => h.foldl fun _ _ h => h.finishColl.ite h

theorem canon_execNotice {p} (hs : s.Canon) : CanonOut (execNotice p s) :=
  hs.collArrive fun _ _ h => h.foldl fun _ _ h => h.finishColl.ite h

theorem canon_execReductionTimeout {job ident} (hs : s.Canon) : CanonOut (execReductionTimeout job ident s) := by
  unfold execReductionTimeout
  split
  · exact hs
  split
  · exact hs.endReduction
  · exact hs.ite hs.postOnce

theorem canon_execRetentionExpiry {job ident} (hs : s.Canon) : CanonOut (execRetentionExpiry job ident s) := by
  unfold execRetentionExpiry
  split
  · exact hs
  split
  · exact hs.dropRetained
  · exact hs.postOnce

theorem canon_execSwitchSlotTimeout {sw job ident} (hs : s.Canon) : CanonOut (execSwitchSlotTimeout sw job ident s) := by
  unfold execSwitchSlotTimeout
  split
  · exact hs
  split
  · exact hs.postOnce
  · exact hs.flushSwitch

theorem State.Canon.rekey {tag} (hs : s.Canon) : (s.rekey tag).Canon := .foldl hs fun _ _ h => h.collSend

theorem canon_execRekeyRequest {job holder} (hs : s.Canon) : CanonOut (execRekeyRequest job holder s) := by
  unfold execRekeyRequest
  split
  · exact hs
  · exact hs.rekey

theorem State.Canon.noPath {p} (hs : s.Canon) : (s.noPath p).Canon := by
  unfold State.noPath
  dsimp only
  split
  · exact hs
  · exact (hs.foldl fun _ _ h => h.finishColl).foldl fun _ _ h => h.collSend

/-! ### Jumps and sleeps -/

theorem canon_jumpLanes {x g c} (hs : s.Canon) : CanonRes (jumpLanes x g c s) := by
  unfold jumpLanes
  split
  · trivial
  · exact hs.setUnit

theorem canon_execJmpi {f} (hs : s.Canon) : CanonOut (execJmpi f s) := by
  unfold execJmpi
  refine canon_issue hs fun x g c t h => ?_
  exact canon_jumpLanes h

theorem canon_execRet {f} (hs : s.Canon) : CanonOut (execRet f s) := by
  unfold execRet
  refine canon_issue hs fun x g c t h => ?_
  exact canon_jumpLanes h

theorem canon_sleepLanes {n x g c} (hs : s.Canon) : CanonRes (sleepLanes n x g c s) := hs

theorem canon_execSleepc {f} (hs : s.Canon) : CanonOut (execSleepc f s) := by
  unfold execSleepc
  refine canon_issue hs fun x g c t h => ?_
  exact canon_sleepLanes h

theorem canon_execSleepc12 {f h w} (hs : s.Canon) : CanonOut (execSleepc12 f h w s) := by
  unfold execSleepc12
  refine canon_issue hs fun x g c t h => ?_
  exact canon_sleepLanes h

/-! ### Cross-lane instructions -/

theorem canon_crossOp {i a} (hs : s.Canon) : CanonOut (crossOp i s a) := by
  unfold crossOp
  dsimp only
  refine canon_settled (canon_issue hs fun x g c t h => ?_)
  split
  · trivial
  · exact h.setUnit

theorem canon_wholeOp {i b} (hs : s.Canon) : CanonOut (wholeOp i s b) := by
  unfold wholeOp
  refine canon_settled (canon_issue hs fun x g c t h => ?_)
  exact h.setUnit

/-! ### Queue instructions -/

theorem State.Canon.expandCrew {gid fid c} (hs : s.Canon) : (s.expandCrew gid fid c).Canon := by
  unfold State.expandCrew
  dsimp only
  split
  · exact hs
  · exact hs.ite hs.onGroup.askLoads

theorem State.Canon.sendQld {i x g r q crews again} (hs : s.Canon) : (s.sendQld i x g r q crews again).Canon := by
  unfold State.sendQld
  extract_lets id bad rec1 _ f s0 s1 s2 s3 fills
  have h0 : s0.Canon := hs.noteAll
  have h1 : s1.Canon := .onGroup (.congr rfl rfl h0)
  have h2 : s2.Canon := h1.foldl fun _ _ h => h.expandCrew
  have h3 : s3.Canon := h2.ite h2.post
  exact hs.ite (.congr rfl rfl h3)

theorem canon_qldOp {i ls} (hs : s.Canon) : CanonOut (qldOp i ls s) := by
  unfold qldOp
  dsimp only
  refine canon_settled (canon_issue hs fun x g c t h => ?_)
  split
  · exact h
  split
  · trivial
  split
  · trivial
  split
  · trivial
  split
  · trivial
  split
  · trivial
  split
  · trivial
  · exact h.ottTake.onGroup.sendQld

theorem State.Canon.dropQld {gid fid} (hs : s.Canon) : (s.dropQld gid fid).Canon := hs.ite hs.onGroup
theorem State.Canon.qldLeft {gid fid g take} (hs : s.Canon) : (s.qldLeft gid fid g take).Canon := hs.onGroup

theorem canon_execQueueLaneFill {gid fid crew lanes} (hs : s.Canon) : CanonOut (execQueueLaneFill gid fid crew lanes s) := by
  unfold execQueueLaneFill
  extract_lets s1
  have h1 : s1.Canon := hs.expandCrew
  split
  · exact h1
  split
  · exact h1.qldLeft.dropQld.ite h1.post
  extract_lets
  split
  · exact h1.post
  split
  · exact h1.dropQld.contain
  · next e =>
    extract_lets put s2 s3
    have h2 : s2.Canon := (h1.readLanes.of_eq e).qldLeft.onGroup
    have h3 : s3.Canon := h2.dropQld.ite h2.post
    exact h3.ite h3.settle

theorem canon_execQldPoison {gid fid} (hs : s.Canon) : CanonOut (execQldPoison gid fid s) := by
  unfold execQldPoison
  dsimp only
  split
  · exact hs
  split
  · exact hs
  · exact hs.onGroup.dropQld.ite hs.onGroup.dropQld.settle

theorem canon_execQpush {f h} (hs : s.Canon) : CanonOut (execQpush f h s) := by
  unfold execQpush
  dsimp only
  refine canon_settled (canon_issue hs fun x g c t h => ?_)
  split
  · exact h
  split
  · trivial
  · exact h.onGroup

theorem canon_qpopOp {i sub} (hs : s.Canon) : CanonOut (qpopOp i sub s) := by
  unfold qpopOp
  dsimp only
  refine canon_settled (canon_issue hs fun x g c t h => ?_)
  split
  · exact h
  split
  · split <;> trivial
  split
  · trivial
  · trivial
  · exact h.setGroup

theorem canon_qbpushOp {i} (hs : s.Canon) : CanonOut (qbpushOp i s) := by
  unfold qbpushOp
  dsimp only
  refine canon_settled (canon_issue hs fun x g c t h => ?_)
  split
  · exact h
  split
  · trivial
  · exact h.onGroup.post

theorem canon_execBackQueueVisible {gid q} (hs : s.Canon) : CanonOut (execBackQueueVisible gid q s) := hs.onGroup

/-- What stands in the way of a pop is a trap or a wait. -/
theorem canon_backPop_error {x g k r} (h : backPop x g t k = .error r) : CanonRes r := by
  unfold backPop at h
  split at h
  all_goals split at h <;> cases h <;> trivial

theorem canon_qbpopOp {i} (hs : s.Canon) : CanonOut (qbpopOp i s) := by
  unfold qbpopOp
  refine canon_settled (canon_issue hs fun x g c t h => ?_)
  split
  · exact h
  split
  · next e => exact canon_backPop_error e
  · exact h.setGroup

theorem canon_execBrq {f h w} (hs : s.Canon) : CanonOut (execBrq f h w s) := by
  unfold execBrq
  refine canon_settled (canon_issue hs fun x g c t ht => ?_)
  dsimp only
  split
  · exact ht
  split
  · next e => exact canon_backPop_error e
  · exact ht.setGroup

/-! ### Returns from traps -/

theorem State.Canon.replayLoad {gid u i r} (hs : s.Canon) : (s.replayLoad gid u i r).Canon := by
  unfold State.replayLoad
  split
  · exact hs
  extract_lets id step f0
  have hstep : CanonOk Prod.snd (r.accs.foldl step (Except.ok ([], s))) := by
    refine List.foldlRecOn (motive := CanonOk Prod.snd) _ _ hs fun acc h a _ => ?_
    dsimp only [step]
    split
    · trivial
    · split
      · trivial
      · exact State.Canon.noteAll h
  split
  · exact .post (.onGroup hs)
  · next e => exact .askLoads (.post (.onGroup (hstep.of_eq e)))

theorem State.Canon.landReplays {gid u} (hs : s.Canon) : (s.landReplays gid u).Canon := hs.onGroup

theorem State.Canon.replayLog {gid u i f} (hs : s.Canon) : (s.replayLog gid u i f).Canon := by
  unfold State.replayLog
  dsimp only
  split
  · exact hs
  · exact hs.onGroup.foldl fun _ _ h => h.replayLoad.ite h.onGroup

theorem State.Canon.replayQueue {gid i x r} (hs : s.Canon) : (s.replayQueue gid i x r).Canon := by
  unfold State.replayQueue
  dsimp only
  split
  · exact hs
  · exact hs.onGroup.sendQld

theorem State.Canon.resumeCopy {gid c} (hs : s.Canon) : (s.resumeCopy gid c).Canon := by
  unfold State.resumeCopy
  dsimp only
  split
  · split
    · exact hs.setCmd.raise
    · exact (hs.foldl fun _ _ h => h.noteAll).setCmd
  · exact hs

theorem State.Canon.resumeCopies {gid which} (hs : s.Canon) : (s.resumeCopies gid which).Canon := by
  unfold State.resumeCopies
  split
  · exact hs
  · exact hs.foldl fun _ _ h => h.resumeCopy

theorem State.Canon.leaveHandler {gid} (hs : s.Canon) : (s.leaveHandler gid).Canon := by
  unfold State.leaveHandler
  dsimp only
  split
  · exact hs
  split
  · exact hs.setGroup.settleStop
  split
  · exact hs.setGroup.freeSlots.resumeCopies.post
  · exact hs.setGroup.freeSlots.resumeCopies

theorem State.Canon.trapReturn {gid i x t' f} (hs : s.Canon) : (s.trapReturn gid i x t' f).Canon := by
  unfold State.trapReturn
  dsimp only
  refine State.Canon.leaveHandler ?_
  split
  · split
    · exact hs.onGroup.foldl fun _ _ h => h.replayQueue
    · exact hs.onGroup
  split
  · split
    · exact hs.onGroup.replayLog.landReplays.replayQueue
    · exact hs.onGroup.replayLog.landReplays
  · exact hs.onGroup.replayLog.landReplays

theorem canon_execTret {f} (hs : s.Canon) : CanonOut (execTret f s) := by
  unfold execTret
  dsimp only
  refine canon_settled (canon_issue hs fun x g c t h => ?_)
  split
  · exact h
  split
  · split
    · trivial
    · next e =>
      split
      · trivial
      · exact (h.getVirtual.of_eq e).trapReturn
  · exact h

end Sys2Proof.Machine
end

section
/-! Canonical memory: the distributors, pre-emption, and the queue front-end with what its commands start. -/
namespace Sys2Proof.Machine
open Sys2Proof

variable {s t : State}

/-! ### The distributors -/

theorem State.Canon.onLaunch {id f} (hs : s.Canon) : (s.onLaunch id f).Canon := by
  unfold State.onLaunch
  split
  · exact hs.setLaunch
  · exact hs

theorem State.Canon.dropUntracked {v c} (hs : s.Canon) : (s.dropUntracked v c).Canon := hs.foldl fun _ _ h => h.ite h.evictLine
theorem State.Canon.spoilVacated {c} (hs : s.Canon) : (s.spoilVacated c).Canon := hs

theorem State.Canon.admitGroup {l n gang core scr inherited} (hs : s.Canon) : (s.admitGroup l n gang core scr inherited).Canon :=
  .post (.congr rfl rfl (hs.ite hs.dropUntracked))

theorem State.Canon.admitAll {l gang cs l1} (hs : s.Canon) : CanonSome id (s.admitAll l gang cs l1) := by
  induction l1 generalizing s with
  | nil =>
    unfold State.admitAll
    exact hs
  | cons x l ih =>
    unfold State.admitAll
    split
    · trivial
    · exact ih hs.spoilVacated.admitGroup

theorem State.Canon.admitInto {l gang cs block ns} (hs : s.Canon) : CanonSome id (s.admitInto l gang cs block ns) := by
  unfold State.admitInto
  dsimp only
  split
  · split
    · trivial
    split
    · trivial
    · exact State.Canon.admitAll (.admitGroup hs)
  · exact hs.admitAll

theorem State.Canon.admitNext {l d n block} (hs : s.Canon) : CanonSome id (s.admitNext l d n block) := by
  unfold State.admitNext
  dsimp only
  split_ifs
  · trivial
  · exact .map (.findSome? fun _ => State.Canon.admitInto hs) fun t h => State.Canon.onLaunch h
  · exact hs.admitInto.map fun t h => State.Canon.onLaunch h

theorem State.Canon.watchWaits {d} (hs : s.Canon) : (s.watchWaits d).Canon := (hs.ite hs.postOnce).foldl fun _ _ h => h.postOnce

theorem State.Canon.kick {d} (hs : s.Canon) : (s.kick d).Canon := by
  unfold State.kick
  split
  · exact hs.watchWaits.postOnce
  · exact hs.watchWaits.postOnce
  · exact hs.watchWaits.postOnce
  · exact hs.watchWaits

theorem State.Canon.askSteal {d launch} (hs : s.Canon) : (s.askSteal d launch).Canon := by
  unfold State.askSteal
  dsimp only
  split
  · exact hs
  split
  · exact hs
  split
  · split
    · exact hs
    · exact hs.sendMesh
  · exact hs

theorem State.Canon.backfillOn {die launch} (hs : s.Canon) : (s.backfillOn die launch).Canon := hs

theorem canon_execGroupDispatch {die launch} (hs : s.Canon) : CanonOut (execGroupDispatch die launch s) := by
  unfold execGroupDispatch
  split
  · split
    · split
      · next e => exact (hs.admitNext.of_eq e).backfillOn.kick.askSteal
      · exact hs
    · exact hs.kick
  · split
    · split
      · next e' => exact (hs.admitNext.of_eq e').backfillOn.kick.askSteal
      · exact hs
    · exact hs.kick
  · exact hs.kick

theorem canon_execStealRequest {ask launch} (hs : s.Canon) : CanonOut (execStealRequest ask launch s) := by
  unfold execStealRequest
  dsimp only
  split
  · exact hs
  split
  · exact hs.sendMesh
  · exact hs.setLaunch.tryShare.sendMesh

theorem canon_execStealReply {victim thief launch} (hs : s.Canon) : CanonOut (execStealReply victim thief launch s) := by
  unfold execStealReply
  split
  · exact hs
  split
  · split
    · exact hs.ite hs.askSteal
    · exact hs.setLaunch.kick
  · exact hs

theorem canon_execBackfillAgeLimit {die} (hs : s.Canon) : CanonOut (execBackfillAgeLimit die s) := by
  unfold execBackfillAgeLimit
  dsimp only
  split
  · exact hs
  split
  · exact hs.postOnce
  · exact State.Canon.kick hs

theorem canon_execPriorityWaitExpiry {die launch} (hs : s.Canon) : CanonOut (execPriorityWaitExpiry die launch s) := by
  unfold execPriorityWaitExpiry
  dsimp only
  split
  · exact hs
  split
  · exact hs
  split
  · exact hs.postOnce
  split
  · exact hs.postOnce
  · exact (hs.setLaunch.foldl fun _ _ h => h.postOnce).postOnce

theorem State.Canon.drainEnded {g} (hs : s.Canon) : (s.drainEnded g).Canon := hs.settleOuter.drainOwned

theorem canon_execGroupResourcesReturn {gid} (hs : s.Canon) : CanonOut (execGroupResourcesReturn gid s) := by
  unfold execGroupResourcesReturn
  split
  · exact hs
  split
  · extract_lets sd s0 s1 s2
    have hd : sd.Canon := hs.drainEnded
    have h0 : s0.Canon := hd.ite hd.tellEnd
    have h1 : s1.Canon := h0
    have h2 : s2.Canon := by
      unfold s2
      split
      · exact h1.onLaunch.ite h1
      · exact h1
    split
    · exact hd.post
    · exact h2.kick.askSteal
  · exact hs

theorem canon_execCancelMessage {die inst} (hs : s.Canon) : CanonOut (execCancelMessage die inst s) := hs.cancelOnDie.cancelPosted

theorem canon_execSleepcExpiry {gid u lane} (hs : s.Canon) : CanonOut (execSleepcExpiry gid u lane s) := by
  unfold execSleepcExpiry
  split
  · exact hs
  split
  · exact hs
  split
  · split
    · exact hs.post
    · exact hs.setUnit
  · exact hs

theorem canon_execTimeSliceExpiry {gid} (hs : s.Canon) : CanonOut (execTimeSliceExpiry gid s) := by
  unfold execTimeSliceExpiry
  dsimp only
  split
  · exact hs
  split
  · exact hs
  split
  · exact hs.post
  · exact hs.postOnce

/-! ### Pre-emption -/

theorem State.Canon.beginSave {g slot} (hs : s.Canon) : (s.beginSave g slot).Canon := hs

theorem State.Canon.waitRequest {gs fromReset} (hs : s.Canon) : (s.waitRequest gs fromReset).Canon :=
  (hs.foldl fun _ _ h => h.endGroup).ite (hs.foldl fun _ _ h => h.onGroup.postOnce)

theorem State.Canon.preempt {g fromReset first} (hs : s.Canon) : (s.preempt g fromReset first).Canon :=
  (hs.foldl fun _ _ h => h.setGroup.post).ite (hs.requeue.ite ((hs.foldl fun _ _ h => h.beginSave).ite hs.waitRequest))

theorem State.Canon.preemptAsked {g fromReset} (hs : s.Canon) : (s.preemptAsked g fromReset).Canon :=
  ((hs.foldl fun _ _ h => h.endGroup).ite hs.setGroup.postOnce).ite (hs.post.ite hs.preempt)

theorem canon_execPreemptRequest {gid fromReset} (hs : s.Canon) : CanonOut (execPreemptRequest gid fromReset s) := by
  unfold execPreemptRequest
  split
  · exact hs
  split
  · exact hs
  · exact hs
  · exact hs
  · split
    · exact hs.preemptAsked
    · exact hs
  · exact hs.preemptAsked

theorem canon_execPreemptRetry {gid} (hs : s.Canon) : CanonOut (execPreemptRetry gid s) := by
  unfold execPreemptRetry
  split
  · exact hs
  split
  · split
    · exact hs.post
    split
    · exact hs.post
    · exact hs.preempt
  · exact hs

theorem canon_execDrainLimit {gid} (hs : s.Canon) : CanonOut (execDrainLimit gid s) := by
  unfold execDrainLimit
  dsimp only
  split
  · exact hs
  split
  · split
    · exact hs.post
    split
    · exact hs.post
    · exact (hs.foldl fun _ _ h => h.setGroup).preempt
  · split
    · exact hs.post
    · exact hs
  · split
    · exact hs.post
    · exact hs
  · exact hs

theorem State.Canon.abandonSave {g} (hs : s.Canon) : (s.abandonSave g).Canon := hs.freeSlots.teardown.endGroup

theorem canon_execSaveComplete {gid} (hs : s.Canon) : CanonOut (execSaveComplete gid s) := by
  unfold execSaveComplete
  dsimp only
  split
  · exact hs
  split
  · split
    · exact hs.post
    split
    · exact hs.drainOwned.post
    split
    · exact hs.flushL1.abandonSave
    split
    · exact hs.flushL1.abandonSave
    · next e => exact (hs.flushL1.hwWrite.of_eq e).setGroup.kick
  · exact hs

theorem State.Canon.issueQueueReplays {gid} (hs : s.Canon) : (s.issueQueueReplays gid).Canon := by
  unfold State.issueQueueReplays
  dsimp only
  split
  · exact hs
  split
  · split
    · refine State.Canon.foldl hs fun t x h => ?_
      split
      · exact h
      · exact h.ite h.setGroup.replayQueue
    refine State.Canon.post ?_
    refine State.Canon.foldl hs fun t x h => ?_
    split
    · exact h
    · exact h.ite h.setGroup.replayQueue
  refine State.Canon.foldl hs fun t x h => ?_
  split
  · exact h
  · exact h.ite h.setGroup.replayQueue

theorem State.Canon.bringBack {gid core scr} (hs : s.Canon) : (s.bringBack gid core scr).Canon := by
  unfold State.bringBack
  split
  · exact hs
  extract_lets g v s1 now wake qs crews g1 s2 sleeps s3 s4 s5 s6
  have h1 : s1.Canon := hs.ite hs.dropUntracked
  have h3 : s3.Canon := h1
  have h5 : s5.Canon := h3.issueQueueReplays.foldl fun _ _ h => (h.foldl fun _ _ h' => h'.replayLoad.ite h'.onGroup).landReplays
  have h6 : s6.Canon := h5.resumeCopies
  clear_value s6
  split
  · exact h6
  split
  · exact h6.setGroup.raise
  · exact h6

theorem State.Canon.loseImage {g} (hs : s.Canon) : (s.loseImage g).Canon := hs.rollBack.kick

theorem State.Canon.touchImage {gid} (hs : s.Canon) : (s.touchImage gid).Canon := by
  unfold State.touchImage
  split
  · exact hs
  split
  · exact hs.hwTouch
  · exact hs

theorem canon_execRestoreGroup {gid} (hs : s.Canon) : CanonOut (execRestoreGroup gid s) := by
  unfold execRestoreGroup
  split
  · exact hs
  split
  · split
    · exact hs.kick
    split
    · exact hs.loseImage
    · exact (hs.foldl fun _ _ h => h.touchImage.bringBack).kick.settle
  · exact hs.issueQueueReplays
  · exact hs.issueQueueReplays
  · exact hs.post
  · exact hs.post
  · exact hs

/-! ### Launches, copies and graphs -/

theorem State.Canon.openInst {i} (hs : s.Canon) : (s.openInst i).Canon := .writeRecord hs
theorem State.Canon.takeLaunch {queue part ctx recAddr} (hs : s.Canon) : (s.takeLaunch queue part ctx recAddr).1.Canon := .congr rfl rfl hs.hwTouch

theorem State.Canon.beginLaunch {queue part ctx parent recd seq node got} (hs : s.Canon) :
    (s.beginLaunch queue part ctx parent recd seq node got).1.Canon := by
  unfold State.beginLaunch
  dsimp only
  split
  · exact .tryFinish hs
  · exact .foldl (.congr rfl rfl hs.hwTouch.openInst) fun _ _ h => h.kick.askSteal

theorem State.Canon.beginCopy {queue part ctx parent recd dst src len node} (hs : s.Canon) :
    (s.beginCopy queue part ctx parent recd dst src len node).1.Canon :=
  .post (.congr rfl rfl hs.openInst)

theorem State.Canon.writePiece {v queue owner part die ds bs bad} (hs : s.Canon) :
    (s.writePiece v queue owner part die ds bs bad).Canon := by
  unfold State.writePiece
  split
  · exact hs
  extract_lets a s1 secs s2
  split
  · exact hs.hostPost
  · have h1 : s1.Canon := hs.homePut
    have h2 : s2.Canon := .ite (.congr rfl rfl h1) (.ite (.congr rfl rfl h1) h1)
    exact .ite (.post hs) (h2.event.ite h2)
  · exact hs.sendRemote

theorem State.Canon.endCopy {inst fault} (hs : s.Canon) : (s.endCopy inst fault).Canon := by
  unfold State.endCopy
  dsimp only
  split
  · exact hs
  · exact .tryFinish (.setInst hs)

theorem State.Canon.closeCopy {c fault} (hs : s.Canon) : (s.closeCopy c fault).Canon := hs.post.ite hs.endCopy

theorem State.Canon.copyOn {part n y} (hs : s.Canon) : (s.copyOn part n y).Canon := by
  induction n generalizing s y with
  | zero =>
    unfold State.copyOn
    exact hs.closeCopy
  | succ n ih =>
    unfold State.copyOn
    dsimp only
    split
    · exact .closeCopy hs
    split
    · split
      · split
        · split
          · exact ih (.writePiece hs)
          · exact .post (.congr rfl rfl (hs.ite hs.sendRemote))
        · exact ih (hs.foldl fun _ _ h => h.catchUp).writePiece
      split
      · split
        · exact ih (.writePiece hs)
        · exact .post (.congr rfl rfl (hs.ite hs.sendRemote))
      · exact ih (hs.foldl fun _ _ h => h.catchUp).writePiece
    · exact .closeCopy hs

theorem canon_execCopyFinish {inst} (hs : s.Canon) : CanonOut (execCopyFinish inst s) := by
  unfold execCopyFinish
  dsimp only
  split
  · split
    · exact hs.stopCopy.post.ite hs.stopCopy
    · exact hs.copyOn
  · exact hs

theorem State.Canon.signal {queue owner part ctx va value op} (hs : s.Canon) : CanonSome id (s.signal queue owner part ctx va value op) := by
  unfold State.signal
  dsimp only
  split
  · trivial
  split
  · trivial
  split
  · exact hs.homePut
  · exact State.Canon.stamp hs

theorem State.Canon.setGraph {g} (hs : s.Canon) : (s.setGraph g).Canon := hs

theorem State.Canon.stopGraph {inst} (hs : s.Canon) : (s.stopGraph inst).Canon := by
  unfold State.stopGraph
  split
  · exact hs.setGraph
  · exact hs

theorem State.Canon.nodeCancelled {level queue part ctx graph recd node} (hs : s.Canon) :
    (s.nodeCancelled level queue part ctx graph recd node).1.Canon :=
  hs.openInst.setInst.tryFinish

theorem State.Canon.runSignal {part g payload x} (hs : s.Canon) : (s.runSignal part g payload x).Canon := by
  unfold State.runSignal
  split
  · exact hs.setInst.tryFinish
  extract_lets va op good
  split
  · exact hs.post
  split
  · exact hs.setInst.tryFinish
  · next e => exact ((hs.signal.ite .none).of_eq e).setInst.tryFinish

theorem State.Canon.releaseNode {part inst i} (hs : s.Canon) : (s.releaseNode part inst i).Canon := by
  unfold State.releaseNode
  split
  · exact hs
  split
  · exact hs
  extract_lets s1
  have h1 : s1.Canon := hs.hwTouch
  split
  · exact h1.stopGraph
  extract_lets s2 y x x' go
  have h2 : s2.Canon := h1.hwTouch
  have hgo : CanonSome Prod.fst go := by
    unfold go
    split
    · exact h2.takeLaunch.beginLaunch
    · split
      · exact h2.nodeCancelled
      · exact .ite .none h2.beginCopy
    · split
      · exact h2.nodeCancelled
      · exact h2.openInst.postNode
    · split
      · exact h2.nodeCancelled
      · exact h2.openInst.runSignal
  clear_value go
  split
  · exact h2.stopGraph
  have h3 := hgo
  split
  · exact h3.setGraph
  · exact h3

theorem State.Canon.settleGraph {inst} (hs : s.Canon) : (s.settleGraph inst).Canon := by
  unfold State.settleGraph
  dsimp only
  split
  · exact (hs.setInst.setGraph.ite hs).tryFinish
  · exact hs

theorem State.Canon.submitNodes {part g n n1} (hs : s.Canon) : CanonSome Prod.fst (s.submitNodes part g n n1) := by
  induction n1 generalizing s n with
  | zero =>
    unfold State.submitNodes
    exact hs
  | succ n ih =>
    unfold State.submitNodes
    split
    · trivial
    split
    · trivial
    · next e =>
      split
      · trivial
      · next e' => exact ((ih (hs.hwTouch.hwWrite.of_eq e)).of_eq e' :)

theorem State.Canon.beginGraph {queue part ctx parent recd table work nodes} (hs : s.Canon) :
    (s.beginGraph queue part ctx parent recd table work nodes).1.Canon := by
  unfold State.beginGraph
  extract_lets i g
  split
  · exact .settleGraph (.congr rfl rfl (hs.openInst (i := i)))
  · next e =>
    extract_lets s2 s3
    have h2 : s2.Canon := (hs.submitNodes.of_eq e).openInst
    have h3 : s3.Canon := h2
    exact (h3.foldl fun _ _ h => h.releaseNode).settleGraph

theorem State.Canon.decrement {part inst g succ n n1} (hs : s.Canon) : (s.decrement part inst g succ n n1).Canon := by
  induction n1 generalizing s n with
  | zero =>
    unfold State.decrement
    exact hs
  | succ n ih =>
    unfold State.decrement
    dsimp only
    split
    · exact hs.hwTouch.stopGraph
    split
    · exact hs.hwTouch.stopGraph
    split
    · exact hs.hwTouch.stopGraph
    split
    · exact hs.hwTouch.stopGraph
    split
    · exact hs.hwTouch.stopGraph
    · next e => exact ih ((hs.hwTouch.hwWrite.of_eq e).releaseNode.ite (hs.hwTouch.hwWrite.of_eq e))

theorem canon_execNodeFinish {graph node} (hs : s.Canon) : CanonOut (execNodeFinish graph node s) := by
  unfold execNodeFinish
  dsimp only
  split
  · split
    · exact hs
    split
    · exact hs
    split
    · exact hs
    split
    · split
      · exact hs.runSignal
      · exact hs
    split
    · exact hs.post
    refine State.Canon.settleGraph ?_
    split
    · exact hs.writeRecord.setInst.setGraph
    split
    · exact hs.writeRecord.setInst.setGraph.stopGraph
    · exact hs.writeRecord.setInst.setGraph.decrement
  · exact hs

/-! ### The queue front-end -/

theorem State.Canon.openImplicit {level q parent} (hs : s.Canon) : (s.openImplicit level q parent).1.Canon := hs

theorem State.Canon.implicitJobOf {q} (hs : s.Canon) : (s.implicitJobOf q).1.Canon := by
  unfold State.implicitJobOf
  dsimp only
  split
  · exact hs
  · exact hs.openImplicit.setQueue

theorem State.Canon.implicitPhaseOf {q} (hs : s.Canon) : (s.implicitPhaseOf q).1.Canon := by
  unfold State.implicitPhaseOf
  dsimp only
  split
  · exact hs
  · exact hs.implicitJobOf.openImplicit.setQueue

theorem State.Canon.joinInst {i} (hs : s.Canon) : CanonSome Prod.fst (s.joinInst i) := by
  unfold State.joinInst
  split
  · trivial
  split
  · split
    · trivial
    · exact hs.setInst
  · exact hs.setInst

theorem State.Canon.joinLevel {q opc} (hs : s.Canon) : CanonSome Prod.fst (s.joinLevel q opc) := by
  unfold State.joinLevel
  dsimp only
  split
  · split
    · exact hs.joinInst
    · exact hs.implicitJobOf.joinInst
  · split
    · exact hs.joinInst
    · exact hs.implicitPhaseOf.joinInst
  · split
    · exact hs.joinInst
    · exact hs.implicitPhaseOf.joinInst
  · split
    · exact hs.joinInst
    · exact hs.implicitPhaseOf.joinInst
  · split
    · exact hs
    · exact hs.implicitPhaseOf
  · split
    · exact hs
    · exact hs.implicitPhaseOf
  · split
    · exact hs
    · exact hs.implicitPhaseOf
  · exact hs

theorem State.Canon.closeInst {i} (hs : s.Canon) : (s.closeInst i).Canon := by
  unfold State.closeInst
  split
  · exact hs
  · exact hs.ite hs.setInst.tryFinish

theorem State.Canon.closeBefore {q opc} (hs : s.Canon) : (s.closeBefore q opc).Canon := by
  unfold State.closeBefore
  dsimp only
  split
  · exact hs.closeInst.closeInst.setQueue
  · exact hs.closeInst.setQueue
  · exact hs

theorem State.Canon.settleQueue {q} (hs : s.Canon) : (s.settleQueue q).Canon := hs.ite hs.setQueue
theorem State.Canon.markCmd {q seq i} (hs : s.Canon) : (s.markCmd q seq i).Canon := hs.setQueue.endCmds.ite hs.setQueue
theorem State.Canon.cmdDone {q seq} (hs : s.Canon) : (s.cmdDone q seq).Canon := hs.endCmds

theorem State.Canon.cancelByRecord {p ctx addr level} (hs : s.Canon) : (s.cancelByRecord p ctx addr level).Canon := by
  unfold State.cancelByRecord
  split
  · exact hs.cancelInst
  · exact hs

theorem State.Canon.fence {p} (hs : s.Canon) : (s.fence p).Canon := hs.foldl fun _ _ h => h.dropUntracked

theorem State.Canon.lateCancel {q i under} (hs : s.Canon) : (s.lateCancel q i under).Canon := by
  unfold State.lateCancel
  split
  · exact hs.cancelInst.ite hs
  · exact hs

theorem State.Canon.beginCmd {q bs} (hs : s.Canon) : (s.beginCmd q bs).Canon := by
  unfold State.beginCmd
  dsimp only
  split
  · exact hs.openInst.setQueue.lateCancel.markCmd
  · exact hs.openInst.setQueue.lateCancel.markCmd
  · exact hs.beginGraph.lateCancel.markCmd
  · exact hs.beginLaunch.lateCancel.markCmd
  · exact hs.beginCopy.lateCancel.markCmd
  · split
    · exact hs.cmdDone
    split
    · exact hs.setQueue.post
    split
    · next e => exact (hs.signal.of_eq e).cmdDone
    · exact hs.cmdDone.queueError
  · exact hs.cmdDone.ite (hs.setQueue.post.ite hs.setQueue.post.post)
  · exact hs.cancelByRecord.cmdDone
  · exact (hs.ite hs.fence).cmdDone

theorem State.Canon.pump {p n} (hs : s.Canon) : (s.pump p n).Canon := by
  induction n generalizing s with
  | zero =>
    unfold State.pump
    exact hs
  | succ n ih =>
    unfold State.pump
    split
    · exact hs
    split
    · exact hs
    split
    · exact ih hs.queueError
    split
    · exact hs.post
    · exact ih hs.queueError

theorem State.Canon.pumpOn {q} (hs : s.Canon) : (s.pumpOn q).Canon := hs.pump

theorem canon_consume {opc q} (hs : s.Canon) : CanonOut (consume opc q s) := by
  unfold consume
  extract_lets qq p s0
  have h0 : s0.Canon := .hwTouch hs
  split
  · exact hs.pumpOn
  split
  · exact h0.queueError.pumpOn
  split
  · exact h0.pumpOn
  split
  · exact h0.queueError.pumpOn
  split
  · exact h0.queueError.pumpOn
  · next e =>
    extract_lets taken s1
    have h0' := h0.joinLevel.of_eq e
    have h1 : s1.Canon := h0'.takeLaunch.ite h0'
    split
    · exact h0.queueError.pumpOn
    · next e' =>
      extract_lets c _ s3 s4 _ s5
      have h2 := h1.hwWrite.of_eq e'
      have h3 : s3.Canon := .setQueue h2
      have h4 : s4.Canon := h3.closeBefore
      have h5 : s5.Canon := h4.beginCmd.ite h4.setQueue.post
      exact h5.settleQueue.pumpOn

theorem canon_execCommandBegin {q} (hs : s.Canon) : CanonOut (execCommandBegin q s) := by
  unfold execCommandBegin
  dsimp only
  split
  · exact hs
  split
  · exact hs
  split
  · exact hs.setQueue.beginCmd.settleQueue.pumpOn
  · exact hs.postOnce

theorem State.Canon.endWait {q reason} (hs : s.Canon) : (s.endWait q reason).Canon :=
  hs.setQueue.cmdDone.settleQueue.pumpOn.ite hs.setQueue.cmdDone.queueError.pumpOn

theorem canon_execWaitMemReread {q} (hs : s.Canon) : CanonOut (execWaitMemReread q s) := by
  unfold execWaitMemReread
  dsimp only
  split
  · exact hs
  split
  · exact hs
  split
  · exact hs.endWait
  split
  · exact hs.endWait
  split
  · exact hs.endWait
  split
  · exact hs.endWait
  · exact hs.postOnce

theorem canon_execWaitMemTimeout {q} (hs : s.Canon) : CanonOut (execWaitMemTimeout q s) := by
  unfold execWaitMemTimeout
  dsimp only
  split
  · exact hs
  split
  · exact hs
  split
  · exact hs.endWait
  · exact hs.ite hs.postOnce

theorem canon_execQDoorbell {q} (hs : s.Canon) : CanonOut (execQDoorbell q s) := by
  unfold execQDoorbell
  dsimp only
  split
  · exact hs
  split
  · exact hs.queueError
  split
  · exact hs.hwTouch.queueError
  · exact hs.hwTouch.setQueue.settleQueue.pumpOn

theorem canon_execQReset {q v} (hs : s.Canon) : CanonOut (execQReset q v s) := by
  unfold execQReset
  dsimp only
  split
  · exact hs
  split
  · exact hs.closeInst.closeInst.setQueue.queueError.ite hs.closeInst.closeInst.setQueue
  · next e => exact (hs.closeInst.closeInst.setQueue.hwWrite.of_eq e).post.ite (hs.closeInst.closeInst.setQueue.hwWrite.of_eq e)

theorem canon_execQCtlWrite {q v} (hs : s.Canon) : CanonOut (execQCtlWrite q v s) := by
  unfold execQCtlWrite
  dsimp only
  split
  · split
    · exact hs
    · exact hs.setQueue
  split
  · exact hs.setQueue
  · exact State.Canon.ite (.setQueue hs) hs.setQueue

end Sys2Proof.Machine
end

section
/-! Canonical memory: the homes and the walker, the links, resets, the trust die, power, and the host ports. -/
namespace Sys2Proof.Machine
open Sys2Proof

variable {s t : State}

/-! ### Homes, translation and replicas -/

theorem State.Canon.onFlight {gid fid f} (hs : s.Canon) : (s.onFlight gid fid f).Canon := hs.onGroup
theorem State.Canon.dropBytes {r} (hs : s.Canon) : (s.dropBytes r).Canon := hs.event.teardown

theorem State.Canon.failFlight {r g f why} (hs : s.Canon) : (s.failFlight r g f why).Canon := by
  unfold State.failFlight
  dsimp only
  split
  · exact hs.onFlight.postOnce
  · exact hs.onFlight.ite (.postOnce (.congr rfl rfl hs.onFlight))

theorem State.Canon.fillL1 {r bs} (hs : s.Canon) : (s.fillL1 r bs).Canon := by
  unfold State.fillL1
  dsimp only
  split
  · exact hs.l1Place
  · exact hs.l1Place.setCore

theorem State.Canon.refusedFlight {r g f why} (hs : s.Canon) : (s.refusedFlight r g f why).Canon := by
  unfold State.refusedFlight
  split
  · exact hs.landFlight.contain.ite hs.landFlight.dropBytes
  · exact hs.landFlight.contain.ite hs.landFlight.dropBytes
  · exact hs.landFlight.dropBytes.ite hs.failFlight
  · exact hs.contain.ite hs.failFlight
  · exact hs.failFlight

theorem State.Canon.answerCmd {r g c ans} (hs : s.Canon) : (s.answerCmd r g c ans).Canon := by
  unfold State.answerCmd
  dsimp only
  split
  · exact hs.onGroup
  · exact hs
  split
  · exact .contain (.retireCmd hs)
  refine State.Canon.settle ?_
  refine State.Canon.raise ?_
  split
  · exact .setCmd hs
  · exact hs

theorem State.Canon.answerRemote {tag ans} (hs : s.Canon) : (s.answerRemote tag ans).Canon := by
  unfold State.answerRemote
  split
  · exact hs
  extract_lets s0 s1
  have h0 : s0.Canon := hs
  have h1 : s1.Canon := by
    unfold s1
    split
    · exact h0.fillL1
    · exact h0
  clear_value s0 s1
  split
  · split
    · exact h0
    · exact h0.dropBytes
  split
  · refine h1.ite ?_
    split
    · exact h1
    · exact .ite h1 h1.endCopy
  split
  · split
    · exact h1.onFlight
    · exact h1.refusedFlight
  · exact h1.answerCmd
  split
  · exact h1.ite h1.kick
  · exact h1

theorem State.Canon.homeReply {r ans} (hs : s.Canon) : (s.homeReply r ans).Canon := by
  unfold State.homeReply
  dsimp only
  split
  · exact .answerRemote hs
  split
  · exact hs
  · split <;> exact hs

theorem State.Canon.performHome {r} (hs : s.Canon) : (s.performHome r).Canon := hs.performAt.homeReply

theorem State.Canon.runList {key n} (hs : s.Canon) : (s.runList key n).Canon := by
  induction n generalizing s with
  | zero =>
    unfold State.runList
    exact hs
  | succ n ih =>
    unfold State.runList
    dsimp only
    split
    · exact hs
    split
    · exact hs
    split
    · exact ih hs.setListed.homeReply
    split
    · exact ih hs.setListed.performHome
    · exact hs.setListed.foldl fun _ _ h => h.sendMesh

theorem State.Canon.serveHome {r} (hs : s.Canon) : (s.serveHome r).1.Canon := hs.catchUp.performAt

theorem State.Canon.takeIn {r} (hs : s.Canon) : CanonSome id (s.takeIn r) := by
  unfold State.takeIn
  dsimp only
  split
  · split
    · trivial
    · exact hs.setListed
  split
  · exact hs.setListed.runList
  split
  · trivial
  · exact hs.setListed.post

theorem State.Canon.setIngress {slice l} (hs : s.Canon) : (s.setIngress slice l).Canon := hs

theorem State.Canon.admitFrom {slice kept l} (hs : s.Canon) : (s.admitFrom slice kept l).Canon := by
  induction l generalizing s kept with
  | nil => exact hs.setIngress
  | cons r l ih =>
    unfold State.admitFrom
    split
    · exact ih hs
    split
    · next e => exact ih (hs.takeIn.of_eq e)
    · exact ih hs

theorem State.Canon.admitIngress {slice} (hs : s.Canon) : (s.admitIngress slice).Canon := by
  unfold State.admitIngress
  split
  · exact hs
  · exact hs.admitFrom

theorem State.Canon.postFront {e} (hs : s.Canon) : (s.postFront e).Canon := hs

theorem canon_execL2Request {r} (hs : s.Canon) : CanonOut (execL2Request r s) := by
  unfold execL2Request
  extract_lets slice waiting
  split
  · exact hs.postFront
  split
  · next e => exact ((CanonSome.ite .none hs.takeIn).of_eq e :)
  · exact hs.setIngress

theorem State.Canon.poisonSector {part die ukind unit addr} (hs : s.Canon) : (s.poisonSector part die ukind unit addr).Canon := hs.ite (.event hs)
theorem canon_execL2Fill {key} (hs : s.Canon) : CanonOut (execL2Fill key s) := (hs.poisonSector.ite hs).l2Touch.runList.admitIngress
theorem canon_execInvalidateProbe {core line} (hs : s.Canon) : CanonOut (execInvalidateProbe core line s) := hs.setCore.sendMesh

theorem canon_execInvalidateAck {core line} (hs : s.Canon) : CanonOut (execInvalidateAck core line s) := by
  unfold execInvalidateAck
  dsimp only
  split
  · exact hs
  split
  · exact hs
  split
  · exact hs.setListed
  refine State.Canon.admitIngress ?_
  refine State.Canon.runList ?_
  split
  · exact hs.setListed.homeReply
  · exact hs.setListed.performHome

theorem canon_execVaultRequest {r} (hs : s.Canon) : CanonOut (execVaultRequest r s) := hs.setListed.runList.ite hs.setListed

theorem State.Canon.toHome {r} (hs : s.Canon) : (s.toHome r).Canon := by
  unfold State.toHome
  dsimp only
  split
  · exact hs.sendMesh
  · exact hs.post

theorem canon_execL1Writeback {core line} (hs : s.Canon) : CanonOut (execL1Writeback core line s) := hs.post.ite hs.writeBackLine
theorem State.Canon.coreTlbPut {core e} (hs : s.Canon) : (s.coreTlbPut core e).Canon := hs.ite hs.setCore

theorem canon_execTlbMissRequest {core ctx va} (hs : s.Canon) : CanonOut (execTlbMissRequest core ctx va s) := by
  unfold execTlbMissRequest
  dsimp only
  split
  · exact hs.coreTlbPut
  split
  · split
    · exact hs
    split
    · exact hs.post
    · exact State.Canon.post (.setXlate hs)
  split
  · exact hs
  split
  · exact hs.post
  · exact State.Canon.post (.setXlate hs)

theorem canon_execWalkStart {die} (hs : s.Canon) : CanonOut (execWalkStart die s) := by
  unfold execWalkStart
  dsimp only
  split
  · exact hs
  split
  · exact hs.postOnce
  split
  · exact hs.setXlate
  · exact hs.setXlate.post

theorem canon_execWalkReadComplete {die wid} (hs : s.Canon) : CanonOut (execWalkReadComplete die wid s) := by
  unfold execWalkReadComplete
  dsimp only
  split
  · exact hs
  split
  · exact (hs.catchUp.l2Touch.ite hs).setXlate.postOnce.ite (hs.catchUp.l2Touch.ite hs).setXlate
  split
  · exact (hs.catchUp.l2Touch.ite hs).setXlate.postOnce.ite (hs.catchUp.l2Touch.ite hs).setXlate
  · exact (hs.catchUp.l2Touch.ite hs).setXlate.post
  · exact (hs.catchUp.l2Touch.ite hs).setXlate.coreTlbPut.postOnce.ite (hs.catchUp.l2Touch.ite hs).setXlate.coreTlbPut

theorem State.Canon.dropXlate {p tlb walk wk} (hs : s.Canon) : (s.dropXlate p tlb walk wk).Canon :=
  (hs.foldl fun _ _ h => h.setCore).foldl fun _ _ h => h.setXlate

theorem State.Canon.tlbi {p tlb walk wk} (hs : s.Canon) : (s.tlbi p tlb walk wk).Canon := hs.dropXlate.setReg.postOnce
theorem canon_execTlbiAddress {part} (hs : s.Canon) : CanonOut (execTlbiAddress part s) := hs.tlbi
theorem canon_execTlbiContext {part} (hs : s.Canon) : CanonOut (execTlbiContext part s) := hs.tlbi
theorem canon_execTlbiAll {part} (hs : s.Canon) : CanonOut (execTlbiAll part s) := hs.tlbi

theorem canon_execTlbiComplete {part} (hs : s.Canon) : CanonOut (execTlbiComplete part s) := by
  unfold execTlbiComplete
  split
  · exact hs.postOnce
  · exact hs.setReg.setReg

theorem canon_execReplicaStore {page off bytes} (hs : s.Canon) : CanonOut (execReplicaStore page off bytes s) := by
  unfold execReplicaStore
  dsimp only
  split
  · exact hs.postFront
  · exact hs.stamp

theorem State.Canon.leaveStamps {die frame} (hs : s.Canon) : (s.leaveStamps die frame).Canon := hs

theorem State.Canon.diverge {die frame queue} (hs : s.Canon) : (s.diverge die frame queue).Canon := by
  unfold State.diverge
  dsimp only
  split
  · exact hs.leaveStamps
  split
  · exact hs.leaveStamps.teardown
  · exact hs.leaveStamps.setReg.event

theorem canon_execReplicaWrite {die frame ok} (hs : s.Canon) : CanonOut (execReplicaWrite die frame ok s) := by
  unfold execReplicaWrite
  dsimp only
  split
  · exact hs
  split
  · exact hs.diverge
  · exact State.Canon.congr rfl rfl hs.applyAt

theorem canon_execDivergedHold {die k} (hs : s.Canon) : CanonOut (execDivergedHold die k s) := by
  unfold execDivergedHold
  dsimp only
  split
  · exact hs.setReg.postOnce
  · exact hs

theorem canon_execHoldComplete {die k} (hs : s.Canon) : CanonOut (execHoldComplete die k s) := by
  unfold execHoldComplete
  dsimp only
  split
  · exact hs.setReg
  · exact hs

theorem canon_execDivergedClear {die k} (hs : s.Canon) : CanonOut (execDivergedClear die k s) := by
  unfold execDivergedClear
  split
  · exact hs.setReg
  · exact hs

theorem State.Canon.corrected {part die ukind unit} (hs : s.Canon) : (s.corrected part die ukind unit).Canon := .ite (.event hs) hs

theorem canon_execPatrolScrub {die line} (hs : s.Canon) : CanonOut (execPatrolScrub die line s) := by
  unfold execPatrolScrub
  dsimp only
  split
  · exact hs
  split
  · exact hs.corrected
  · exact hs.poisonSector

/-! ### Links -/

theorem State.Canon.measure7 (hs : s.Canon) : s.measure7.Canon := hs
theorem State.Canon.linkChange {link state width rev} (hs : s.Canon) : (s.linkChange link state width rev).Canon := hs.setLinkStatus.event
theorem State.Canon.countRetrain {link} (hs : s.Canon) : (s.countRetrain link).Canon := hs.setLinkStatus
theorem State.Canon.reroute (hs : s.Canon) : s.reroute.Canon := hs.foldl fun _ _ h => h.ite h.offerHops
theorem State.Canon.axPump {k} (hs : s.Canon) : (s.axPump k).Canon := hs
theorem State.Canon.axPumpPort {gw} (hs : s.Canon) : (s.axPumpPort gw).Canon := hs.foldl fun _ _ h => h.axPump

theorem canon_execLinkTraining {link peerRevs ok} (hs : s.Canon) : CanonOut (execLinkTraining link peerRevs ok s) := by
  unfold execLinkTraining
  split
  · exact hs
  split
  · extract_lets n s1
    have h1 : s1.Canon := hs.setReg
    split
    · exact h1.setLinkStatus.post
    · exact h1.post
  extract_lets s1 common s2
  have h1 : s1.Canon := hs.setReg
  split
  · exact h1.post
  extract_lets s3
  have h3 : s3.Canon := (h1.countRetrain.ite h1).linkChange.measure7
  exact h3.reroute.ite h3.axPumpPort

theorem State.Canon.narrow {link m width} (hs : s.Canon) : (s.narrow link m width).Canon := hs.countRetrain.post.ite hs.countRetrain.linkChange

theorem canon_execModuleRetrain {link m width} (hs : s.Canon) : CanonOut (execModuleRetrain link m width s) := by
  unfold execModuleRetrain
  dsimp only
  split
  · exact hs
  · exact hs.narrow.narrow.measure7.ite hs.narrow.measure7

theorem canon_execLinkFailed {link} (hs : s.Canon) : CanonOut (execLinkFailed link s) := by
  unfold execLinkFailed
  dsimp only
  split
  · exact hs
  split
  · exact hs.linkChange.measure7
  split
  · exact hs.linkChange.measure7.ite hs.linkChange.measure7.linkChange
  split
  · exact (hs.linkChange.measure7.ite hs.linkChange.measure7.linkChange).reroute
  · exact (hs.linkChange.measure7.ite hs.linkChange.measure7.linkChange).reroute.foldl fun _ _ h => h.teardown

theorem canon_execAxsisPortRetrain {port lanes} (hs : s.Canon) : CanonOut (execAxsisPortRetrain port lanes s) := by
  unfold execAxsisPortRetrain
  dsimp only
  split
  · exact hs
  split
  · exact hs.countRetrain.linkChange.measure7.axPumpPort
  · exact hs.linkChange.measure7

theorem State.Canon.peerReply {p typ ans} (hs : s.Canon) : (s.peerReply p typ ans).Canon := by
  unfold State.peerReply
  dsimp only
  split
  · exact hs.axSend
  · exact hs.axSend.ite hs.axSend

theorem State.Canon.servePeer {p} (hs : s.Canon) : (s.servePeer p).Canon :=
  hs.peerReply.ite ((hs.foldl fun _ _ h => h.serveHome).peerReply.ite hs.serveHome.peerReply)

theorem canon_execAxsisRead {p} (hs : s.Canon) : CanonOut (execAxsisRead p s) := hs.axArrive fun _ h => h.servePeer
theorem canon_execAxsisWrite {p} (hs : s.Canon) : CanonOut (execAxsisWrite p s) := hs.axArrive fun _ h => h.servePeer
theorem canon_execAxsisAtomic {p} (hs : s.Canon) : CanonOut (execAxsisAtomic p s) := hs.axArrive fun _ h => h.servePeer
theorem canon_execReadReply {p} (hs : s.Canon) : CanonOut (execReadReply p s) := hs.axArrive fun _ h => h.answerRemote
theorem canon_execWriteAcknowledgement {p} (hs : s.Canon) : CanonOut (execWriteAcknowledgement p s) := hs.axArrive fun _ h => h.answerRemote
theorem canon_execAtomicReply {p} (hs : s.Canon) : CanonOut (execAtomicReply p s) := hs.axArrive fun _ h => h.answerRemote

theorem canon_execFlowAcknowledgement {p} (hs : s.Canon) : CanonOut (execFlowAcknowledgement p s) := by
  unfold execFlowAcknowledgement
  dsimp only
  split
  · exact hs.axDiscard
  · exact State.Canon.axPump hs

theorem State.Canon.undeliverable {p} (hs : s.Canon) : (s.undeliverable p).Canon := by
  unfold State.undeliverable
  split
  · exact hs.answerRemote
  · exact hs.answerRemote
  · exact hs.answerRemote
  · exact hs.noPath
  · exact hs.noPath
  · exact hs

theorem State.Canon.reseal {p} (hs : s.Canon) : (s.reseal p).1.Canon := by
  unfold State.reseal
  dsimp only
  split
  · exact hs.seal
  · exact hs

theorem canon_execAxsisResendTimeout {gw dst seq} (hs : s.Canon) : CanonOut (execAxsisResendTimeout gw dst seq s) := by
  unfold execAxsisResendTimeout
  dsimp only
  split
  · exact hs
  split
  · exact hs.axPump.post
  split
  · exact hs.post
  split
  · exact State.Canon.undeliverable hs
  split
  · exact hs.post
  · exact State.Canon.post (.congr rfl rfl hs.reseal)

/-! ### Resets -/

theorem State.Canon.retireUnits {d} (hs : s.Canon) : (s.retireUnits d).Canon := hs.foldl fun _ _ h => h.setReg
theorem State.Canon.retireChannels {d} (hs : s.Canon) : (s.retireChannels d).Canon := hs.setReg.setReg
theorem State.Canon.formLayout (hs : s.Canon) : s.formLayout.Canon := hs

theorem State.Canon.cutAll {x} (hs : s.Canon) : (s.cutAll x).Canon := by
  unfold State.cutAll
  extract_lets _ ids s1 s2 s3 s4 s5 s6
  have h1 : s1.Canon := hs
  have h2 : s2.Canon := h1.foldl fun _ _ h => h.dropNodes
  have h3 : s3.Canon := h2.foldl fun _ _ h => h.foldl fun _ _ h' => h'.cancelOnDie
  have h4 : s4.Canon := h3.foldl fun _ _ h => h.endGroup
  have h6 : s6.Canon := h4.cancelPosted.foldl fun _ _ h => h.tryFinish
  refine h6.foldl fun t a h => ?_
  split
  · exact h.setInst.writeRecord
  · exact h

theorem State.Canon.cutRequests {p} (hs : s.Canon) : (s.cutRequests p).Canon :=
  .foldl (.congr rfl rfl (hs.foldl fun _ _ h => h.homeReply)) fun _ _ h => h.answerRemote

theorem State.Canon.cutRegs {x} (hs : s.Canon) : (s.cutRegs x).Canon := by
  unfold State.cutRegs
  extract_lets v clear _ s1 s2 s3 s4 s5 s6 s7
  have h1 : s1.Canon := hs.foldl fun _ _ h => h.setQueue
  have h2 : s2.Canon := h1.foldl fun _ _ h => h.setReg
  have h3 : s3.Canon := h2.foldl fun _ _ h => h.foldl fun _ _ h' => h'.setReg
  have h4 : s4.Canon := h3.foldl fun _ _ h => h.setReg
  have h6 : s6.Canon := h4.dropXlate.foldl fun _ _ h => h.setCore.ite h
  have h7 : s7.Canon := h6.foldl fun _ _ h => h.retireUnits.foldl fun _ _ h' => h'.setReg
  exact .congr rfl rfl h7

theorem State.Canon.setPartState {p st} (hs : s.Canon) : (s.setPartState p st).Canon := hs

theorem State.Canon.startReset {p scrub noWait} (hs : s.Canon) : (s.startReset p scrub noWait).Canon := by
  unfold State.startReset
  dsimp only
  split
  · exact hs
  · exact (hs.setReg.ite hs).ite (hs.setPartState.setReg.setReg.foldl fun _ _ h => h.post).post

theorem State.Canon.finishReset {x} (hs : s.Canon) : (s.finishReset x).Canon := by
  unfold State.finishReset
  extract_lets scrub s1 trip s2 s3
  have h1 : s1.Canon := hs.cutAll.cutRequests.cutCaches.cutRegs
  have h2 : s2.Canon := h1.setReg.setReg.setReg
  have h3 : s3.Canon := h2.setPartState
  exact h2.ite (h3.formLayout.ite h3)

theorem canon_execPartReset {part} (hs : s.Canon) : CanonOut (execPartReset part s) := hs.startReset
theorem canon_execPartResetScrub {part} (hs : s.Canon) : CanonOut (execPartResetScrub part s) := hs.startReset

theorem canon_execFunctionLevelReset {die} (hs : s.Canon) : CanonOut (execFunctionLevelReset die s) := by
  unfold execFunctionLevelReset
  split
  · exact hs
  · exact hs.startReset

theorem canon_execResetWaitExpiry {part} (hs : s.Canon) : CanonOut (execResetWaitExpiry part s) := by
  unfold execResetWaitExpiry
  dsimp only
  split
  · exact hs
  split
  · exact hs
  split
  · split
    · exact hs.post
    · exact hs.finishReset
  split
  · exact hs.post
  · exact hs.finishReset

/-! ### The trust die -/

theorem State.Canon.measure {index v} (hs : s.Canon) : (s.measure index v).Canon := hs
theorem State.Canon.recoverAll (hs : s.Canon) : s.recoverAll.Canon := .foldl hs fun _ _ h => h.post

theorem canon_execPackagePowerOn : CanonOut (execPackagePowerOn s) := by
  unfold execPackagePowerOn
  extract_lets t stored keys _ t1 _ s1 s2
  have h1 : s1.Canon := rfl
  have h2 : s2.Canon := h1.measure.measure
  split
  · exact .recoverAll h1
  · exact (h2.foldl fun _ _ h => h.retireUnits.retireChannels).post

theorem State.Canon.trainLinks {d} (hs : s.Canon) : (s.trainLinks d).Canon := hs.post.foldl fun _ _ h => h.post.post

theorem canon_execDieRelease {die} (hs : s.Canon) : CanonOut (execDieRelease die s) := by
  unfold execDieRelease
  extract_lets t s1 s1' s2
  have h1 : s1.Canon := hs
  have h1' : s1'.Canon := .measure hs
  have h2 : s2.Canon := h1'.trainLinks.post
  split
  · exact hs
  split
  · exact h1.post.ite (h1.recoverAll.ite h1)
  · exact State.Canon.ite (.congr rfl rfl h2) (h2.post.ite h2)

theorem canon_execPciExpressPortTraining {die} (hs : s.Canon) : CanonOut (execPciExpressPortTraining die s) := by
  unfold execPciExpressPortTraining
  dsimp only
  split
  · exact hs
  split
  · exact State.Canon.ite (.post hs) hs
  · exact hs

theorem canon_execFullService (hs : s.Canon) : CanonOut (execFullService s) := by
  unfold execFullService
  dsimp only
  split
  · exact hs
  split
  · exact hs
  · exact State.Canon.startReset hs

/-- What the controller holds is no memory. -/
theorem State.Canon.withTrust {x} (hs : s.Canon) : ({ s with trust := x } : State).Canon := hs

theorem State.Canon.mailDone {part cmd status body} (hs : s.Canon) : (s.mailDone part cmd status body).Canon := hs.setReg.setReg.hostPost.withTrust

theorem canon_execJobKey {part ctx tag gateways switches} (hs : s.Canon) : CanonOut (execJobKey part ctx tag gateways switches s) := by
  unfold execJobKey
  dsimp only
  split
  · exact hs.mailDone
  split
  · exact hs.mailDone
  · exact State.Canon.mailDone hs

theorem canon_execJobRekey {part ctx} (hs : s.Canon) : CanonOut (execJobRekey part ctx s) := by
  unfold execJobRekey
  split
  · exact hs.mailDone
  split
  · exact hs.mailDone
  · exact hs.rekey.mailDone

theorem canon_execJobClear {part ctx} (hs : s.Canon) : CanonOut (execJobClear part ctx s) := by
  unfold execJobClear
  dsimp only
  split
  · exact hs.mailDone
  split
  · exact hs.mailDone
  · exact State.Canon.mailDone (.congr rfl rfl (hs.foldl fun _ _ h => h.cancelReduction))

theorem canon_execFwStage {part img} (hs : s.Canon) : CanonOut (execFwStage part img s) := by
  unfold execFwStage
  dsimp only
  split
  · exact hs.mailDone
  · exact State.Canon.mailDone hs

theorem State.Canon.answer {port code body} (hs : s.Canon) : (s.answer port code body).Canon := hs
theorem State.Canon.spdmError {port why} (hs : s.Canon) : (s.spdmError port why).Canon := hs.answer
theorem canon_execGetVersion {port} (hs : s.Canon) : CanonOut (execGetVersion port s) := hs.answer
theorem canon_execGetCapabilities {port} (hs : s.Canon) : CanonOut (execGetCapabilities port s) := hs.answer
theorem canon_execNegotiateAlgorithms {port} (hs : s.Canon) : CanonOut (execNegotiateAlgorithms port s) := hs.answer
theorem canon_execGetDigests {port} (hs : s.Canon) : CanonOut (execGetDigests port s) := hs.answer
theorem canon_execGetCertificate {port} (hs : s.Canon) : CanonOut (execGetCertificate port s) := hs.answer
theorem canon_execChallenge {port nonce} (hs : s.Canon) : CanonOut (execChallenge port nonce s) := hs.answer
theorem canon_execGetMeasurements {port index} (hs : s.Canon) : CanonOut (execGetMeasurements port index s) := hs.answer

theorem canon_execKeyExchange {port} (hs : s.Canon) : CanonOut (execKeyExchange port s) := by
  unfold execKeyExchange
  dsimp only
  split
  · exact hs.spdmError
  · exact State.Canon.answer hs

theorem State.Canon.setSession {x} (hs : s.Canon) : (s.setSession x).Canon := hs

theorem canon_execFinish {port session} (hs : s.Canon) : CanonOut (execFinish port session s) := by
  unfold execFinish
  split
  · exact hs.spdmError
  · exact hs.setSession.answer

theorem canon_execKeyUpdate {port session} (hs : s.Canon) : CanonOut (execKeyUpdate port session s) := by
  unfold execKeyUpdate
  dsimp only
  split
  · exact hs.spdmError
  · exact State.Canon.answer hs

theorem canon_execHeartbeat {port session} (hs : s.Canon) : CanonOut (execHeartbeat port session s) := by
  unfold execHeartbeat
  split
  · exact hs.spdmError
  · exact hs.answer

theorem canon_execEndSession {port session} (hs : s.Canon) : CanonOut (execEndSession port session s) := by
  unfold execEndSession
  dsimp only
  split
  · exact hs.spdmError
  · exact State.Canon.answer hs

theorem canon_execIdeKm {port session stream key} (hs : s.Canon) : CanonOut (execIdeKm port session stream key s) := by
  unfold execIdeKm
  dsimp only
  split
  · exact hs.spdmError
  split
  · exact hs.spdmError
  · exact State.Canon.answer (.measure7 (.setReg hs))

/-! ### Power -/

theorem State.Canon.setStep {p d v} (hs : s.Canon) : (s.setStep p d v).Canon := hs.setReg

theorem canon_execGovernorWindow {part milliwatts} (hs : s.Canon) : CanonOut (execGovernorWindow part milliwatts s) := by
  unfold execGovernorWindow
  dsimp only
  split
  · exact hs
  split
  · exact hs.setReg.setReg.foldl fun _ _ h => h.setStep
  split
  · exact hs.setReg.setReg.foldl fun _ _ h => h.setStep.ite h
  · exact hs.setReg.setReg

theorem canon_execPwrLimitWrite {part v} (hs : s.Canon) : CanonOut (execPwrLimitWrite part v s) := by
  unfold execPwrLimitWrite
  dsimp only
  split
  · exact hs
  · exact hs.foldl fun _ _ h => h.setReg.setStep.ite h.setReg

theorem canon_execThermalThrottle {die} (hs : s.Canon) : CanonOut (execThermalThrottle die s) := by
  unfold execThermalThrottle
  split
  · exact hs
  · exact hs.setStep.setReg

theorem canon_execThermalRecover {die} (hs : s.Canon) : CanonOut (execThermalRecover die s) := by
  unfold execThermalRecover
  split
  · exact hs
  · exact hs.setReg

theorem canon_execThermalTrip {die} (hs : s.Canon) : CanonOut (execThermalTrip die s) := by
  unfold execThermalTrip
  dsimp only
  split
  · exact hs
  · exact State.Canon.setReg (.startReset (.event (.setReg hs)))

/-! ### The control window and the ports -/

theorem canon_execCtxRootWrite {ctx v} (hs : s.Canon) : CanonOut (execCtxRootWrite ctx v s) := State.Canon.ite hs hs.setReg
theorem canon_execEvtRidxWrite {part v} (hs : s.Canon) : CanonOut (execEvtRidxWrite part v s) := hs.setReg.setReg

theorem canon_tlbiWrite {part n} (hs : s.Canon) : CanonOut (tlbiWrite part n s) := by
  unfold tlbiWrite
  dsimp only
  split
  · exact hs
  split
  · exact hs.setReg
  split
  · exact canon_execTlbiAddress hs.setReg.setReg
  · exact canon_execTlbiContext hs.setReg.setReg
  · exact canon_execTlbiAll hs.setReg.setReg

theorem canon_xwinWrite {part k n} (hs : s.Canon) : CanonOut (xwinWrite part k n s) := by
  unfold xwinWrite
  dsimp only
  split
  · exact hs.setReg.postOnce
  · exact hs.setReg

theorem canon_qBaseWrite {k n} (hs : s.Canon) : CanonOut (qBaseWrite k n s) := hs.ite hs.setQueue
theorem canon_pwrCapWrite {x n} (hs : s.Canon) : CanonOut (pwrCapWrite x n s) := hs.setReg.ite hs

theorem canon_recoveryWrite {port off n} (hs : s.Canon) : CanonOut (recoveryWrite port off n s) := by
  unfold recoveryWrite
  split
  · exact hs.setReg
  · exact hs.setReg.ite hs
  · exact hs

theorem canon_execRegisterWrite {part port off v} (hs : s.Canon) : CanonOut (execRegisterWrite part port off v s) := by
  unfold execRegisterWrite
  dsimp only
  split
  · exact canon_recoveryWrite hs
  split
  · split
    · exact hs
    split
    · exact canon_execCtxRootWrite hs
    split
    · exact hs
    split
    · exact hs
    · exact hs.setReg
  split
  · split
    · exact hs
    split
    · exact canon_qBaseWrite hs
    · exact canon_execQCtlWrite hs
    · exact canon_execQDoorbell hs
    · exact canon_execQReset hs
    · exact hs
  split
  · split
    · exact hs
    split
    · exact canon_execDivergedHold hs
    · exact canon_execDivergedClear hs
    · exact hs
  split
  · exact canon_xwinWrite hs
  split
  · split
    · exact hs
    split
    · exact canon_execPartResetScrub hs
    · exact canon_execPartReset hs
  · exact canon_tlbiWrite hs
  · exact canon_execEvtRidxWrite hs
  · exact canon_pwrCapWrite hs
  · exact canon_execPwrLimitWrite hs
  · exact hs.setReg.ite hs
  · split
    · exact canon_execFullService hs
    · exact hs
  split
  · exact hs
  · exact hs.setReg

theorem State.Canon.ideGate {t'} (hs : s.Canon) : (s.ideGate t').1.Canon := by
  unfold State.ideGate
  dsimp only
  split
  · exact hs
  split
  · exact .event (.measure7 (.setReg hs))
  · split <;> exact hs

theorem State.Canon.refuseIn {port} (hs : s.Canon) : (s.refuseIn port).Canon := hs.setReg
theorem State.Canon.settleHomes {v bs} (hs : s.Canon) : (s.settleHomes v bs).Canon := hs.foldl fun _ _ h => h.catchUp.l2Touch

theorem State.Canon.atomReplica {v queue r size} (hs : s.Canon) : (s.atomReplica v queue r size).1.Canon := by
  unfold State.atomReplica
  dsimp only
  split
  · exact hs
  split
  · exact hs.stamp
  · exact hs.catchUp.l2Touch

theorem State.Canon.completeIn {t' status ep data} (hs : s.Canon) : (s.completeIn t' status ep data).Canon := hs

theorem canon_windowWrite {t' o} (hs : s.Canon) : CanonOut (windowWrite t' o s) := by
  unfold windowWrite
  dsimp only
  split
  · exact hs
  split
  · exact canon_execRegisterWrite hs
  · exact canon_recoveryWrite hs

theorem canon_execInboundPostedWrite {t'} (hs : s.Canon) : CanonOut (execInboundPostedWrite t' s) := by
  unfold execInboundPostedWrite
  dsimp only
  split
  · exact hs.ideGate
  · exact hs.ideGate.refuseIn
  split
  · split
    · exact hs.ideGate.refuseIn
    split
    · exact hs.ideGate.postFront
    · exact hs.ideGate.homeWriteAll
  · split
    · exact hs.ideGate.postFront
    · exact canon_windowWrite hs.ideGate
  · split
    · exact hs.ideGate.postFront
    split
    · split
      · exact canon_execQDoorbell hs.ideGate
      · exact hs.ideGate
    · exact hs.ideGate
  · exact hs.ideGate.refuseIn

theorem canon_execInboundRead {t'} (hs : s.Canon) : CanonOut (execInboundRead t' s) := by
  unfold execInboundRead
  dsimp only
  split
  · exact hs.ideGate
  · exact hs.ideGate.completeIn
  split
  · split
    · exact hs.ideGate.completeIn
    split
    · exact hs.ideGate.postFront
    · exact hs.ideGate.settleHomes.completeIn
  · split
    · exact hs.ideGate.postFront
    · split <;> exact hs.ideGate.completeIn
  · exact hs.ideGate.completeIn
  · exact hs.ideGate.completeIn

theorem canon_execInboundAtomicop {t'} (hs : s.Canon) : CanonOut (execInboundAtomicop t' s) := by
  unfold execInboundAtomicop
  dsimp only
  split
  · exact hs.ideGate
  · exact hs.ideGate.completeIn
  split
  · split
    · exact hs.ideGate.completeIn
    split
    · exact hs.ideGate.completeIn
    split
    · exact hs.ideGate.postFront
    split
    · refine State.Canon.completeIn ?_
      split
      · exact hs.ideGate.catchUp.performAt
      · exact hs.ideGate.atomReplica
    refine State.Canon.completeIn ?_
    split
    · exact hs.ideGate.catchUp.performAt
    · exact hs.ideGate.atomReplica
  · exact hs.ideGate.completeIn

theorem canon_execHostReadCompletion {tag ok data} (hs : s.Canon) : CanonOut (execHostReadCompletion tag ok data s) := hs.answerRemote

theorem canon_execHostCompletionTimeout {tag} (hs : s.Canon) : CanonOut (execHostCompletionTimeout tag s) := by
  unfold execHostCompletionTimeout
  dsimp only
  split
  · exact hs
  split
  · exact hs.post
  · exact hs.answerRemote

theorem canon_execXpartRequest {importer exporter r} (hs : s.Canon) : CanonOut (execXpartRequest importer exporter r s) := by
  unfold execXpartRequest
  dsimp only
  split
  · exact hs.answerRemote
  · exact State.Canon.toHome hs

theorem canon_execXwinDrained {part k} (hs : s.Canon) : CanonOut (execXwinDrained part k s) := by
  unfold execXwinDrained
  dsimp only
  split
  · exact hs
  split
  · exact hs.postOnce
  · exact hs.setReg

end Sys2Proof.Machine
end

section
/-! Canonical memory: the pointer and range instructions, and the system instructions. -/
namespace Sys2Proof.Machine
open Sys2Proof

variable {s t : State}

/-! ### Pointer and range instructions -/

theorem State.Canon.beginWriteback {i x g ps drop drain} (hs : s.Canon) : (s.beginWriteback i x g ps drop drain).Canon :=
  ((hs.staleFills.foldl fun _ _ h => h.setCore).ite hs).ottTake.launchFlight

theorem State.Canon.doWriteback {g f drop} (hs : s.Canon) : (s.doWriteback g f drop).Canon := hs.foldl fun _ _ h => h.evictLine.ite h.writeBackLine

theorem canon_execWritebackAccepted {gid fid} (hs : s.Canon) : CanonOut (execWritebackAccepted gid fid s) := by
  unfold execWritebackAccepted
  dsimp only
  split
  · exact hs
  split
  · exact hs.doWriteback.onGroup.post
  · exact hs.doWriteback.onGroup.landFlight.ite hs.doWriteback.onGroup.landFlight.settle

theorem canon_ptrOp {i f} (hs : s.Canon) : CanonOut (ptrOp i s f) := by
  unfold ptrOp
  refine canon_issue hs fun x g c t h => ?_
  split
  · trivial
  · exact h.setUnit

theorem canon_pchkOp {i} (hs : s.Canon) : CanonOut (pchkOp i s) := by
  unfold pchkOp
  dsimp only
  refine canon_issue hs fun x g c t h => ?_
  exact h.setUnit

theorem canon_scopeOp {widen i} (hs : s.Canon) : CanonOut (scopeOp widen i s) := by
  unfold scopeOp
  dsimp only
  refine canon_issue hs fun x g c t h => ?_
  split
  · trivial
  split
  · trivial
  split
  · exact h.setUnit
  split
  · split
    · exact h.setUnit
    split
    · trivial
    split
    · exact h.setUnit.commitAll.ottTake
    · exact (h.setUnit.commitAll.drainAllWcb.ite h.setUnit.commitAll).beginWriteback
  split
  · exact h.setUnit
  split
  · trivial
  · exact h.setUnit.beginWriteback

theorem canon_execRwb {f h} (hs : s.Canon) : CanonOut (execRwb f h s) := by
  unfold execRwb
  dsimp only
  refine canon_issue hs fun x g c t h => ?_
  split
  · trivial
  split
  · exact h
  split
  · trivial
  split
  · trivial
  · exact (h.commitAll.foldl fun _ _ h' => h'.drainWcb).beginWriteback

theorem canon_execRinv {f h} (hs : s.Canon) : CanonOut (execRinv f h s) := by
  unfold execRinv
  dsimp only
  refine canon_issue hs fun x g c t h => ?_
  split
  · trivial
  split
  · exact h
  split
  · trivial
  split
  · trivial
  · exact h.beginWriteback

theorem canon_execIcinv {f h} (hs : s.Canon) : CanonOut (execIcinv f h s) := by
  unfold execIcinv
  dsimp only
  refine canon_issue hs fun x g c t h => ?_
  split
  · trivial
  split
  · exact h
  split
  · trivial
  split
  · trivial
  · exact h.commitAll.onGroup.ottTake.launchFlight

theorem canon_execIcinvComplete {gid fid} (hs : s.Canon) : CanonOut (execIcinvComplete gid fid s) := by
  unfold execIcinvComplete
  split
  · exact hs
  extract_lets s1 hit s2
  have h1 : s1.Canon := hs.foldl fun _ _ h => h.writeBackLine
  have h2 : s2.Canon := h1.foldl fun _ _ h => h.setCore.ite h
  exact h2.landFlight.ite h2.landFlight.settle

/-! ### System instructions -/

theorem canon_execExit {f} (hs : s.Canon) : CanonOut (execExit f s) := by
  unfold execExit
  dsimp only
  refine canon_settled (canon_issue hs fun x g c t h => ?_)
  exact h.setGroup

theorem canon_execMfsr {f h} (hs : s.Canon) : CanonOut (execMfsr f h s) := by
  unfold execMfsr
  dsimp only
  refine canon_issue hs fun x g c t h => ?_
  split
  · exact h
  · exact h.setUnit

theorem canon_execCancel {f h} (hs : s.Canon) : CanonOut (execCancel f h s) := by
  unfold execCancel
  dsimp only
  refine canon_issue hs fun x g c t h => ?_
  split
  · exact h
  split
  · exact h.endGroup
  · exact h.cancelInst
  · split <;> exact h.cancelInst
  · split <;> exact h.cancelInst
  · split <;> exact h.cancelInst

theorem canon_execTrap {f} (hs : s.Canon) : CanonOut (execTrap f s) := by
  unfold execTrap
  refine canon_settled (canon_issue hs fun x g c t h => ?_)
  split <;> exact h

theorem canon_execBkpt {f} (hs : s.Canon) : CanonOut (execBkpt f s) := by
  unfold execBkpt
  refine canon_settled (canon_issue hs fun x g c t h => ?_)
  split <;> exact h

theorem canon_execTretEnd {f} (hs : s.Canon) : CanonOut (execTretEnd f s) := by
  unfold execTretEnd
  refine canon_issue hs fun x g c t h => ?_
  split
  · exact h
  · split <;> exact h.endByTrap

theorem canon_waitOp {i ld st cp tl} (hs : s.Canon) : CanonOut (waitOp i ld st cp tl s) := by
  unfold waitOp
  dsimp only
  refine canon_settled (canon_issue hs fun x g c t h => ?_)
  split
  · exact h
  split
  · exact h.setGroup
  split
  · trivial
  split
  · split
    · trivial
    · exact h
  split
  · trivial
  · exact h

theorem canon_execIllegalOp {r} (hs : s.Canon) : CanonOut (execIllegalOp r s) := by
  unfold execIllegalOp
  split
  · exact hs
  split
  · exact hs
  · exact hs.raise

end Sys2Proof.Machine
end

section
/-! Canonical memory is kept by every step (R361, R486): the instructions, the events, and what a step does at its end. -/
namespace Sys2Proof.Machine
open Sys2Proof

variable {s t : State}

/-- The meaning of every instruction that has an encoding keeps the form of memory. -/
theorem canon_exec {i : Instr} (hs : s.Canon) (hi : (rowOf i).len ≠ 0) : CanonOut (exec i s) := by
  cases i
  all_goals try exact absurd rfl hi
  all_goals dsimp only [exec]
  case nop | nop8 | nop12 | bra | bra12 | bral | dbnz | yield | mtsr | iaddc | iaddc12 | isubc | isubc12 | imadw | imadw12 | isetp | isetp12
      | plop | v2p | v2s | fsetp | fsetp12 | dsetp | pairWord => exact canon_issueCrew hs
  case jmpi => exact canon_execJmpi hs
  case ret => exact canon_execRet hs
  case exit => exact canon_execExit hs
  case brq => exact canon_execBrq hs
  case sleepc => exact canon_execSleepc hs
  case sleepc12 => exact canon_execSleepc12 hs
  case trap => exact canon_execTrap hs
  case tret => exact canon_execTret hs
  case tretEnd => exact canon_execTretEnd hs
  case bkpt => exact canon_execBkpt hs
  case icinv => exact canon_execIcinv hs
  case mfsr => exact canon_execMfsr hs
  case bar | bar12 | bara | bara12 | barw | barw12 | part | part8 => exact canon_wholeOp hs
  case cancel => exact canon_execCancel hs
  case vote | vote12 | lpick | lpick12 | redux | redux12 | scan | scan12 | matchLanes | matchLanes12 | elect | elect12 => exact canon_crossOp hs
  case ld | ld12 => exact canon_ldOp hs
  case st | st12 => exact canon_stOp hs
  case atom | atom12 | cas | cas12 => exact canon_atomOp hs
  case pref | pref12 => exact canon_prefOp hs
  case pmake | psub | psub12 | padv | padv12 | pretype => exact canon_ptrOp hs
  case pwiden | pnarrow => exact canon_scopeOp hs
  case pchk | pchk12 => exact canon_pchkOp hs
  case rwb => exact canon_execRwb hs
  case rinv => exact canon_execRinv hs
  case qld | qld12 => exact canon_qldOp hs
  case qpush => exact canon_execQpush hs
  case qpop | qpop8 => exact canon_qpopOp hs
  case qbpush | qbpush8 => exact canon_qbpushOp hs
  case qbpop | qbpop8 => exact canon_qbpopOp hs
  case oph | oph12 => exact canon_ophOp hs
  case mma | mmas => exact canon_mmaOp hs
  case azero | amov | tldv | tstv => exact canon_tileOp hs
  case park => exact canon_execPark hs
  case unpark => exact canon_execUnpark hs
  case tcopy | tcopy12 => exact canon_tcopyOp hs
  case coll => exact canon_execColl hs
  case wait | wait8 => exact canon_waitOp hs
  all_goals exact canon_issueD hs

/-- So does every event. -/
theorem canon_runEv {e : Ev} (hs : s.Canon) : CanonOut (runEv e s) :=
  match e with
  | .loadComplete .. => canon_execLoadComplete hs
  | .loadTranslationFault .. => canon_execLoadTranslationFault hs
  | .storePerformed .. => canon_execStorePerformed hs
  | .atomicComplete .. => canon_execAtomicComplete hs
  | .releasePerformed .. => canon_execReleasePerformed hs
  | .writebackAccepted .. => canon_execWritebackAccepted hs
  | .icinvComplete .. => canon_execIcinvComplete hs
  | .wcbDrainTimeout .. => canon_execWcbDrainTimeout hs
  | .queueLaneFill .. => canon_execQueueLaneFill hs
  | .qldPoison .. => canon_execQldPoison hs
  | .backQueueVisible .. => canon_execBackQueueVisible hs
  | .mmaComplete .. => canon_execMmaComplete hs
  | .tcopyRowWritten .. => canon_execTcopyRowWritten hs
  | .sleepcExpiry .. => canon_execSleepcExpiry hs
  | .groupResourcesReturn .. => canon_execGroupResourcesReturn hs
  | .cancelMessage .. => canon_execCancelMessage hs
  | .preemptRequest .. => canon_execPreemptRequest hs
  | .timeSliceExpiry .. => canon_execTimeSliceExpiry hs
  | .drainLimit .. => canon_execDrainLimit hs
  | .saveComplete .. => canon_execSaveComplete hs
  | .preemptRetry .. => canon_execPreemptRetry hs
  | .restoreGroup .. => canon_execRestoreGroup hs
  | .groupDispatch .. => canon_execGroupDispatch hs
  | .stealRequest .. => canon_execStealRequest hs
  | .stealReply v _ _ => canon_execStealReply (victim := v) hs
  | .backfillAgeLimit .. => canon_execBackfillAgeLimit hs
  | .priorityWaitExpiry .. => canon_execPriorityWaitExpiry hs
  | .qDoorbell .. => canon_execQDoorbell hs
  | .qReset .. => canon_execQReset hs
  | .qCtlWrite .. => canon_execQCtlWrite hs
  | .registerWrite .. => canon_execRegisterWrite hs
  | .jobStart .. | .phaseStart .. | .graphSubmit .. | .launch .. | .copy .. | .signalMem .. | .waitMem .. | .cancelCommand ..
  | .partitionFence .. => canon_consume hs
  | .commandBegin .. => canon_execCommandBegin hs
  | .waitMemReread .. => canon_execWaitMemReread hs
  | .waitMemTimeout .. => canon_execWaitMemTimeout hs
  | .nodeFinish .. => canon_execNodeFinish hs
  | .copyFinish .. => canon_execCopyFinish hs
  | .tlbiAddress .. => canon_execTlbiAddress hs
  | .tlbiContext .. => canon_execTlbiContext hs
  | .tlbiAll .. => canon_execTlbiAll hs
  | .tlbiComplete .. => canon_execTlbiComplete hs
  | .tlbMissRequest .. => canon_execTlbMissRequest hs
  | .walkStart .. => canon_execWalkStart hs
  | .walkReadComplete .. => canon_execWalkReadComplete hs
  | .l2Request .. => canon_execL2Request hs
  | .l2Fill .. => canon_execL2Fill hs
  | .invalidateProbe .. => canon_execInvalidateProbe hs
  | .invalidateAck .. => canon_execInvalidateAck hs
  | .l1Writeback .. => canon_execL1Writeback hs
  | .vaultRequest .. => canon_execVaultRequest hs
  | .ottEntryGrant .. => canon_execOttEntryGrant hs
  | .replicaStore .. => canon_execReplicaStore hs
  | .replicaWrite .. => canon_execReplicaWrite hs
  | .divergedHold .. => canon_execDivergedHold hs
  | .holdComplete .. => canon_execHoldComplete hs
  | .divergedClear .. => canon_execDivergedClear hs
  | .meshPacketHop .. => canon_execMeshPacketHop hs
  | .packetDelivery .. => canon_execPacketDelivery hs
  | .reorderCreditRequest .. => canon_execReorderCreditRequest hs
  | .reorderCreditGrant .. => canon_execReorderCreditGrant hs
  | .deliveryConfirmation .. => canon_execDeliveryConfirmation hs
  | .permitAudit .. => canon_execPermitAudit hs
  | .auditMarker .. => canon_execAuditMarker hs
  | .auditMarkerReturn .. => canon_execAuditMarkerReturn hs
  | .channelRestart .. => canon_execChannelRestart hs
  | .linkTraining .. => canon_execLinkTraining hs
  | .moduleRetrain .. => canon_execModuleRetrain hs
  | .linkFailed .. => canon_execLinkFailed hs
  | .axsisFlitRetry .. => hs
  | .axsisPortRetrain .. => canon_execAxsisPortRetrain hs
  | .axsisRead .. => canon_execAxsisRead hs
  | .readReply .. => canon_execReadReply hs
  | .axsisWrite .. => canon_execAxsisWrite hs
  | .writeAcknowledgement .. => canon_execWriteAcknowledgement hs
  | .axsisAtomic .. => canon_execAxsisAtomic hs
  | .atomicReply .. => canon_execAtomicReply hs
  | .contribution .. | .partialArrival .. => canon_reductionArrival hs
  | .completion .. => canon_execCompletion hs
  | .notice .. => canon_execNotice hs
  | .flowAcknowledgement .. => canon_execFlowAcknowledgement hs
  | .axsisResendTimeout .. => canon_execAxsisResendTimeout hs
  | .reductionTimeout .. => canon_execReductionTimeout hs
  | .retentionExpiry .. => canon_execRetentionExpiry hs
  | .switchSlotTimeout .. => canon_execSwitchSlotTimeout hs
  | .rekeyRequest _ h => canon_execRekeyRequest (holder := h) hs
  | .inboundPostedWrite .. => canon_execInboundPostedWrite hs
  | .inboundRead .. => canon_execInboundRead hs
  | .inboundAtomicop .. => canon_execInboundAtomicop hs
  | .hostReadCompletion .. => canon_execHostReadCompletion hs
  | .hostCompletionTimeout .. => canon_execHostCompletionTimeout hs
  | .xpartRequest .. => canon_execXpartRequest hs
  | .xwinDrained .. => canon_execXwinDrained hs
  | .partReset .. => canon_execPartReset hs
  | .partResetScrub .. => canon_execPartResetScrub hs
  | .functionLevelReset .. => canon_execFunctionLevelReset hs
  | .resetWaitExpiry .. => canon_execResetWaitExpiry hs
  | .evtRidxWrite .. => canon_execEvtRidxWrite hs
  | .patrolScrub .. => canon_execPatrolScrub hs
  | .packagePowerOn .. => canon_execPackagePowerOn
  | .dieRelease .. => canon_execDieRelease hs
  | .fullService .. => canon_execFullService hs
  | .jobKey .. => canon_execJobKey hs
  | .jobRekey .. => canon_execJobRekey hs
  | .jobClear .. => canon_execJobClear hs
  | .fwStage .. => canon_execFwStage hs
  | .getVersion .. => canon_execGetVersion hs
  | .getCapabilities .. => canon_execGetCapabilities hs
  | .negotiateAlgorithms .. => canon_execNegotiateAlgorithms hs
  | .getDigests .. => canon_execGetDigests hs
  | .getCertificate .. => canon_execGetCertificate hs
  | .challenge .. => canon_execChallenge hs
  | .getMeasurements .. => canon_execGetMeasurements hs
  | .keyExchange .. => canon_execKeyExchange hs
  | .finish .. => canon_execFinish hs
  | .keyUpdate .. => canon_execKeyUpdate hs
  | .heartbeat .. => canon_execHeartbeat hs
  | .endSession .. => canon_execEndSession hs
  | .ideKm .. => canon_execIdeKm hs
  | .governorWindow .. => canon_execGovernorWindow hs
  | .pwrLimitWrite .. => canon_execPwrLimitWrite hs
  | .thermalThrottle .. => canon_execThermalThrottle hs
  | .thermalRecover .. => canon_execThermalRecover hs
  | .thermalTrip .. => canon_execThermalTrip hs
  | .illegalOp .. => canon_execIllegalOp hs
  | .pciExpressPortTraining .. => canon_execPciExpressPortTraining hs
  | .ctxRootWrite .. => canon_execCtxRootWrite hs

/-! ### The turn of an issue group and the end of a step -/

theorem State.Canon.atCand {c len} (hs : s.Canon) : (s.atCand c len).Canon := hs

theorem State.Canon.fetch {g c} (hs : s.Canon) : CanonOk Prod.snd (s.fetch g c) := by
  unfold State.fetch
  split
  · trivial
  extract_lets n
  split
  · trivial
  · exact hs.noteFetch

theorem State.Canon.runUnit {c} (hs : s.Canon) : CanonOut (s.runUnit c) := by
  unfold State.runUnit
  split
  · exact hs
  split
  · exact hs.raise.settle
  · next e =>
    have h1 := hs.fetch.of_eq e
    split
    · exact canon_settled (canon_execIllegalOp h1.atCand)
    · next e' => exact canon_exec h1.atCand (rowOf_len_of_decode e')

theorem State.Canon.unyield {p c} (hs : s.Canon) : (s.unyield p c).Canon := hs.foldl fun _ _ h => h.foldl fun _ _ h' => h'.onGroup

theorem State.Canon.aged {before c} (hs : s.Canon) : (s.aged before c).Canon := by
  unfold State.aged
  dsimp only
  split
  · exact hs
  split
  · exact hs.setCore
  refine State.Canon.foldl hs fun t x h => ?_
  split
  · exact h
  · exact h.ite (h.onGroup.ite h)

theorem State.Canon.pass (hs : s.Canon) : s.pass.Canon := (hs.foldl fun _ _ h => h.onGroup).foldl fun _ _ h => h

theorem State.Canon.watchReady (hs : s.Canon) : s.watchReady.Canon := by
  unfold State.watchReady
  dsimp only
  refine State.Canon.foldl hs fun t x h => ?_
  refine State.Canon.foldl h fun t x h => ?_
  split
  · exact h.ite h.onGroup
  · exact h.ite h.onGroup
  · exact h.onGroup

theorem State.Canon.poisonDirty {c line k} (hs : s.Canon) : (s.poisonDirty c line k).Canon := by
  unfold State.poisonDirty
  dsimp only
  split
  · exact hs
  · exact hs.ite hs.setCore.event

theorem State.Canon.strike {y} (hs : s.Canon) : (s.strike y).Canon := by
  unfold State.strike
  split
  · exact hs.corrected
  · exact hs.poisonSector
  · exact hs.contain
  · exact hs.poisonDirty
  · exact hs.foldl fun _ _ h => h.teardown
  · exact hs.foldl fun _ _ h => h.teardown

theorem State.Canon.strikes (hs : s.Canon) : s.strikes.Canon := hs.foldl fun _ _ h => h.strike

theorem State.Canon.tail (hs : s.Canon) : s.tail.Canon :=
  .congr rfl rfl ((hs.foldl fun _ _ h => h.settle).foldl fun _ _ h => h.settleOuter).watchReady.pass.strikes

theorem State.Canon.issued {c} (hs : s.Canon) : (t.issued s c).Canon := by
  unfold State.issued
  split
  · exact hs
  · exact hs.unyield.ite (hs.ite hs.aged.unyield)

theorem State.Canon.runMove {m} (hs : s.Canon) : CanonOut (s.runMove m) := by
  unfold State.runMove
  split
  · split
    · next e => exact (hs.runUnit.of_eq e).issued
    · exact hs.runUnit
  · split
    · exact canon_runEv hs
    · exact hs
  split
  · split
    · exact hs
    · exact canon_runEv hs
  · exact hs

theorem CanonOut.after {o : Out} (ho : CanonOut o) : CanonOut (Sys2Proof.Machine.after o) := by
  unfold Sys2Proof.Machine.after
  split
  · exact State.Canon.tail ho
  · exact ho

/-- Every step ends by setting the issue group aside. -/
theorem step_next_eq_tail (h : step s = .next t) : ∃ u : State, t = u.tail := by
  unfold step at h
  split at h
  · cases h
    exact ⟨s, rfl⟩
  · unfold after at h
    split at h
    · cases h
      exact ⟨_, rfl⟩
    · next hn => exact absurd h (hn _)

theorem canon_step (hs : s.Canon) : CanonOut (step s) := by
  unfold step
  split
  · exact hs.tail
  · exact hs.runMove.after

/-- Settles O9: every function of a step keeps the canonical form, and a step's last act leaves no issue group. -/
theorem canonicalMemoryIsKept : Obligations.CanonicalMemoryIsKept := by
  unfold Obligations.CanonicalMemoryIsKept
  rintro s t ⟨hs, _⟩ h
  obtain ⟨u, rfl⟩ := step_next_eq_tail h
  exact ⟨(canon_step hs).of_eq h, rfl⟩

end Sys2Proof.Machine
end

section
/-! Control registers: their fields, their keys, and what writes of the control window leave of them (R387, R388, R473, R501, R515). -/
namespace Sys2Proof.Machine
open Sys2Proof

/-! ### Fields written and read back -/

theorem testBit_bits (x hi lo i : Nat) : (bits x hi lo).testBit i = (decide (i < hi + 1 - lo) && x.testBit (lo + i)) := by
  rw [bits, Nat.testBit_mod_two_pow, Nat.testBit_shiftRight]

theorem testBit_setBits (x : Nat) {hi lo : Nat} (v i : Nat) (h : lo ≤ hi) :
    (setBits x hi lo v).testBit i = if lo ≤ i ∧ i ≤ hi then v.testBit (i - lo) else x.testBit i := by
  have hlow : x % 2 ^ lo < 2 ^ lo := Nat.mod_lt _ (Nat.two_pow_pos lo)
  have hmid : 2 ^ lo * (v % 2 ^ (hi + 1 - lo)) + x % 2 ^ lo < 2 ^ (hi + 1) := by
    have hv : v % 2 ^ (hi + 1 - lo) < 2 ^ (hi + 1 - lo) := Nat.mod_lt _ (Nat.two_pow_pos _)
    calc 2 ^ lo * (v % 2 ^ (hi + 1 - lo)) + x % 2 ^ lo
        < 2 ^ lo * (v % 2 ^ (hi + 1 - lo) + 1) := by rw [Nat.mul_add_one]; omega
      _ ≤ 2 ^ lo * 2 ^ (hi + 1 - lo) := Nat.mul_le_mul_left _ hv
      _ = 2 ^ (hi + 1) := by rw [← Nat.pow_add, Nat.add_sub_cancel' (by omega)]
  have hsum : setBits x hi lo v = 2 ^ (hi + 1) * (x >>> (hi + 1)) + (2 ^ lo * (v % 2 ^ (hi + 1 - lo)) + x % 2 ^ lo) := by
    simp only [setBits, Nat.shiftLeft_eq, Nat.mul_comm, Nat.add_assoc]
  rw [hsum, Nat.testBit_two_pow_mul_add _ hmid]
  by_cases hhi : i < hi + 1
  · rw [if_pos hhi, Nat.testBit_two_pow_mul_add _ hlow]
    by_cases hlo : i < lo
    · rw [if_pos hlo, if_neg (by omega), Nat.testBit_mod_two_pow, decide_eq_true hlo, Bool.true_and]
    · rw [if_neg hlo, if_pos (by omega), Nat.testBit_mod_two_pow, decide_eq_true (by omega), Bool.true_and]
  · rw [if_neg hhi, if_neg (by omega), Nat.testBit_shiftRight, Nat.add_sub_cancel' (by omega)]

theorem bits_setBits_same (x : Nat) {hi lo : Nat} (v : Nat) (h : lo ≤ hi) : bits (setBits x hi lo v) hi lo = v % 2 ^ (hi + 1 - lo) := by
  refine Nat.eq_of_testBit_eq fun i => ?_
  rw [testBit_bits, testBit_setBits x v _ h, Nat.testBit_mod_two_pow]
  by_cases hi' : i < hi + 1 - lo
  · rw [if_pos (by omega), Nat.add_sub_cancel_left]
  · simp [hi']

theorem bits_setBits_disjoint (x : Nat) {hi lo hi' lo' : Nat} (v : Nat) (h : lo ≤ hi) (hd : hi' < lo ∨ hi < lo') :
    bits (setBits x hi lo v) hi' lo' = bits x hi' lo' := by
  refine Nat.eq_of_testBit_eq fun i => ?_
  rw [testBit_bits, testBit_bits, testBit_setBits x v _ h]
  by_cases hi' : i < hi' + 1 - lo'
  · rw [if_neg (by omega)]
  · simp [hi']

theorem bit_setBits (x k i v : Nat) : bit (setBits x k k v) i = if i = k then v.testBit 0 else bit x i := by
  rw [bit, testBit_setBits x v i le_rfl]
  by_cases h : i = k
  · simp [h]
  · rw [if_neg (by omega), if_neg h, bit]

/-! ### The keys of registers (R387) -/

/-- A register outside the context and queue blocks has a key of its own. -/
theorem cregKey_eq_iff {p o q r : Nat} (ho : o < 0x10000 ∨ 0x40000 ≤ o ∧ o < 0x100000) (hr : r < 0x100000) :
    cregKey q r = cregKey p o ↔ q = p ∧ r = o := by
  unfold cregKey
  split <;> split <;> omega

theorem State.reg_setReg_own (s : State) {p o q r : Nat} (v : Nat) (ho : o < 0x10000 ∨ 0x40000 ≤ o ∧ o < 0x100000) (hr : r < 0x100000) :
    (s.setReg p o v).reg q r = if q = p ∧ r = o then v else s.reg q r := by
  simp only [State.reg_setReg, cregKey_eq_iff ho hr]

/-! ### Register writes (R387, R388, R473, R515) -/

/-- The registers of the control window whose writes have a behaviour of their own. -/
def writeActs (off : Nat) : Bool :=
  decide (0x10000 ≤ off ∧ off < 0x11000) || decide (0x20000 ≤ off ∧ off < 0x24000) || decide (0x6400 ≤ off ∧ off < 0x6C00 ∧ off % 8 = 0) ||
    decide (0x60000 ≤ off ∧ off < 0x60200 ∧ off % 0x40 = 0) || [0x10, 0x1000, 0x5020, 0x8000, 0x8008, 0x9008, 0x9018].contains off

section
variable {part port off : Nat} {v : Dword} {s : State} {x : Part}

/-- A write without a behaviour of its own stores the writable bits, if there are any. -/
theorem execRegisterWrite_plain (hx : s.part? part = some x) (h : writeActs off = false) : execRegisterWrite part port off v s =
    .next (if plainMask off = 0 then s else s.setReg (regOwner part port off) off (v.toNat &&& plainMask off)) := by
  simp only [writeActs, Bool.or_eq_false_iff, decide_eq_false_iff_not] at h
  obtain ⟨⟨⟨⟨hctx, hqueue⟩, hdiverged⟩, hwindow⟩, hnamed⟩ := h
  simp only [execRegisterWrite, hx, if_neg hctx, if_neg hqueue, if_neg hdiverged, if_neg hwindow]
  split
  case h_8 => split <;> rfl
  all_goals simp at hnamed

theorem plainMask_unassigned (h : off < 0x10 ∨ (0x5040 ≤ off ∧ off < 0x6000) ∨ 0x60200 ≤ off) : plainMask off = 0 := by
  unfold plainMask
  rw [if_neg (by omega), if_neg (by omega), if_neg (by omega), if_neg (by omega)]
  split
  case h_10 => rfl
  all_goals omega

theorem writeActs_unassigned (h : off < 0x10 ∨ (0x5040 ≤ off ∧ off < 0x6000) ∨ 0x60200 ≤ off) : writeActs off = false := by
  simp only [writeActs, Bool.or_eq_false_iff, decide_eq_false_iff_not]
  refine ⟨⟨⟨⟨by omega, by omega⟩, by omega⟩, by omega⟩, ?_⟩
  simp only [List.contains_eq_mem, List.mem_cons, List.not_mem_nil, or_false, decide_eq_false_iff_not]
  omega

/-- Through a recovery function only the mailbox takes writes. -/
theorem recoveryWrite_outside {n : Nat} (h0 : off ≠ 0x9000) (h8 : off ≠ 0x9008) : recoveryWrite port off n s = .next s := by
  unfold recoveryWrite
  split
  · exact absurd rfl h0
  · exact absurd rfl h8
  · rfl

theorem execRegisterWrite_recovery (hx : s.part? part = none) : execRegisterWrite part port off v s = recoveryWrite port off v.toNat s := by
  simp only [execRegisterWrite, hx]

/-- A write in the block of context `c`. -/
theorem execRegisterWrite_context {c r : Nat} (hx : s.part? part = some x) (hc : c < 64) (hr : r < 0x40) :
    execRegisterWrite part port (0x10000 + 0x40 * c + r) v s =
      if !s.ownsCtx part c then .next s
      else if r = 0 then execCtxRootWrite c v s
      else if plainMask (0x10000 + 0x40 * c + r) = 0 then .next s
      else if 0x30 ≤ r ∧ s.ctxQueued c then .next s
      else .next (s.setReg 0 (0x10000 + 0x40 * c + r) (v.toNat &&& plainMask (0x10000 + 0x40 * c + r))) := by
  have hblock : 0x10000 ≤ 0x10000 + 0x40 * c + r ∧ 0x10000 + 0x40 * c + r < 0x11000 := by omega
  have hindex : (0x10000 + 0x40 * c + r - 0x10000) / 0x40 = c := by omega
  have hplace : (0x10000 + 0x40 * c + r) % 0x40 = r := by omega
  simp only [execRegisterWrite, hx, if_pos hblock, hindex, hplace]

/-- The registers that a write of the statement names: each stores its writable bits. -/
def plainRegisters : List Nat :=
  [0x20, 0x1008, 0x2000, 0x2008, 0x2010, 0x3000, 0x3008, 0x5000, 0x5008, 0x5010, 0x5018, 0x9000, 0x40008, 0x60008]

theorem plainRegisters_store : ∀ o ∈ plainRegisters, writeActs o = false ∧ plainMask o ≠ 0 ∧ (o < 0x10000 ∨ 0x40000 ≤ o ∧ o < 0x100000) := by
  decide

theorem execRegisterWrite_stores (hx : s.part? part = some x) (hoff : off ∈ plainRegisters) :
    ∃ t : State, execRegisterWrite part port off v s = .next t ∧ t.reg (regOwner part port off) off = v.toNat &&& plainMask off ∧
      ∀ p o, o < 0x100000 → (p ≠ regOwner part port off ∨ o ≠ off) → t.reg p o = s.reg p o := by
  obtain ⟨hacts, hmask, hown⟩ := plainRegisters_store off hoff
  refine ⟨_, (execRegisterWrite_plain hx hacts).trans (by rw [if_neg hmask]), (s.reg_setReg ..).trans (if_pos rfl), fun p o ho hne => ?_⟩
  exact (s.reg_setReg_own _ hown ho).trans (if_neg fun heq => hne.elim (· heq.1) (· heq.2))

theorem execRegisterWrite_unassigned (hx : s.part? part = some x) (h : off < 0x10 ∨ (0x5040 ≤ off ∧ off < 0x6000) ∨ 0x60200 ≤ off) :
    execRegisterWrite part port off v s = .next s :=
  (execRegisterWrite_plain hx (writeActs_unassigned h)).trans (by rw [if_pos (plainMask_unassigned h)])

/-- The registers of a context that have no behaviour of their own. -/
def plainContextRegisters : List Nat := [8, 0x10, 0x18, 0x20, 0x28, 0x30, 0x38]

theorem plainMask_context {c r : Nat} (hc : c < 64) (hr : r ∈ plainContextRegisters) : plainMask (0x10000 + 0x40 * c + r) ≠ 0 := by
  have hlt : r < 0x40 := by revert r; decide
  have hplace : (0x10000 + 0x40 * c + r) % 0x40 = r := by omega
  unfold plainMask
  rw [if_neg (by omega), if_pos (by omega), hplace]
  clear hplace hlt
  revert r
  decide

theorem execRegisterWrite_plainContext {c r : Nat} (hx : s.part? part = some x) (hc : c < 64) (hown : s.ownsCtx part c = true)
    (hr : r ∈ plainContextRegisters) : execRegisterWrite part port (0x10000 + 0x40 * c + r) v s =
      if 0x30 ≤ r ∧ s.ctxQueued c then .next s
      else .next (s.setReg 0 (0x10000 + 0x40 * c + r) (v.toNat &&& plainMask (0x10000 + 0x40 * c + r))) := by
  obtain ⟨hlt, hne⟩ : r < 0x40 ∧ r ≠ 0 := by
    revert r
    decide
  rw [execRegisterWrite_context hx hc hlt, hown, if_neg (by decide), if_neg hne, if_neg (plainMask_context hc hr)]

end

/-- Enabling a context clears its save slots. -/
theorem execCtxRootWrite_eq (c : Nat) (v : Dword) (s : State) :
    let t := s.setReg 0 (0x10000 + 0x40 * c) (v.toNat &&& (maskOf 56 12 + 1))
    execCtxRootWrite c v s = .next (if bit v.toNat 0 = true ∧ bit (s.ctxReg c 0) 0 = false then
      { t with slots := s.slots.filter (fun y => decide (y.ctx ≠ c)) } else t) := by
  have henable : bit (v.toNat &&& (maskOf 56 12 + 1)) 0 = bit v.toNat 0 := by
    rw [bit, Nat.testBit_and, show (maskOf 56 12 + 1).testBit 0 = true by decide, Bool.and_true, bit]
  simp only [execCtxRootWrite, henable, Bool.and_eq_true, Bool.not_eq_true']
  rfl

end Sys2Proof.Machine
end

section
/-! Power and heat: the clock steps and the heat of one die, the governor over the dies of a partition, the thermal trip, and the training of a
port (R515, R519 to R521). -/
namespace Sys2Proof.Machine
open Sys2Proof

/-! ### Changing parts one after another, each by its own function -/

/-- A part that a list names `n` times is changed `n` times, by its own function. -/
theorem get_foldl_eq_iterate {σ α : Type} {get : σ → Nat → α} {upd : σ → Nat → σ} {f : Nat → α → α}
    (hself : ∀ s k, get (upd s k) k = f k (get s k)) (hother : ∀ s k j, j ≠ k → get (upd s k) j = get s j) (j : Nat) :
    ∀ (l : List Nat) (s : σ), get (l.foldl upd s) j = (f j)^[l.count j] (get s j)
  | [], _ => rfl
  | k :: l, s => by
    rw [List.foldl_cons, get_foldl_eq_iterate hself hother j l]
    by_cases hk : j = k
    · rw [hk, hself, List.count_cons_self, Function.iterate_succ_apply]
    · rw [hother s k j hk, List.count_cons_of_ne (Ne.symm hk)]

/-! ### One die's steps and heat (R520, R521) -/

theorem stepOf_setBits (x d v e : Nat) : stepOf (setBits x (8 * d + 4) (8 * d) v) e = if e = d then v % 32 else stepOf x e := by
  unfold stepOf
  split
  · next h =>
    rw [h, bits_setBits_same _ _ (by omega), show 8 * d + 4 + 1 - 8 * d = 5 by omega]
    rfl
  · exact bits_setBits_disjoint _ _ (by omega) (by omega)

theorem stepOf_lt (x d : Nat) : stepOf x d < 32 := by
  rw [stepOf, bits, show 8 * d + 4 + 1 - 8 * d = 5 by omega]
  exact Nat.mod_lt _ (by decide)

section
variable (s : State) (p d v e : Nat)

/-- A register that is not of the steps stays as steps change. -/
theorem State.reg_setStep {q o : Nat} (ho : o < 0x100000) (h : o ≠ 0x8010) : (s.setStep p d v).reg q o = s.reg q o :=
  (s.reg_setReg_own _ (by decide) ho).trans (if_neg fun hq => h hq.2)

theorem State.curStep_setStep : (s.setStep p d v).curStep p e = if e = d then v % 32 else s.curStep p e := by
  rw [State.curStep, State.setStep, State.reg_setReg, if_pos rfl, stepOf_setBits, State.curStep]

theorem State.maxStep_setStep : (s.setStep p d v).maxStep p e = s.maxStep p e := by
  rw [State.maxStep, State.reg_setStep _ _ _ _ (by decide) (by decide), State.maxStep]

theorem State.hot_setStep : (s.setStep p d v).hot p e = s.hot p e := by
  rw [State.hot, State.reg_setStep _ _ _ _ (by decide) (by decide), State.hot]

/-- A write of another register of a partition leaves the steps. -/
theorem State.curStep_setReg {o : Nat} (ho : o < 0x10000) (h : o ≠ 0x8010) : (s.setReg p o v).curStep p e = s.curStep p e := by
  rw [State.curStep, s.reg_setReg_own _ (.inl ho) (by decide), if_neg fun hq => h hq.2.symm, State.curStep]

theorem State.maxStep_setReg {o : Nat} (ho : o < 0x10000) (h : o ≠ 0x8008) : (s.setReg p o v).maxStep p e = s.maxStep p e := by
  rw [State.maxStep, s.reg_setReg_own _ (.inl ho) (by decide), if_neg fun hq => h hq.2.symm, State.maxStep]

theorem State.hot_setReg {o : Nat} (ho : o < 0x10000) (h : o ≠ hotReg) : (s.setReg p o v).hot p e = s.hot p e := by
  rw [State.hot, s.reg_setReg_own _ (.inl ho) (by decide), if_neg fun hq => h hq.2.symm, State.hot]

theorem State.hot_setHot (w : Nat) : (s.setReg p hotReg (setBits w d d v)).hot p e = if e = d then v.testBit 0 else bit w e := by
  rw [State.hot, State.reg_setReg, if_pos rfl, bit_setBits]

end

/-! ### PWR_LIMIT (R520) -/

/-- One die's MAX is set, and its step lowered to it. -/
def State.limitStep (v : Nat) (p : Nat) (s : State) (d : Nat) : State :=
  let m := min 20 (stepOf v d)
  let t := s.setReg p 0x8008 (setBits (s.reg p 0x8008) (8 * d + 4) (8 * d) m)
  if m < t.curStep p d then t.setStep p d m else t

/-- MAX of a die and its step. -/
def State.limits (p : Nat) (s : State) (d : Nat) : Nat × Nat := (s.maxStep p d, s.curStep p d)
/-- A limit on a die's step. -/
def limited (v d : Nat) (y : Nat × Nat) : Nat × Nat := (min 20 (stepOf v d), min y.2 (min 20 (stepOf v d)))

theorem State.limits_limitStep (v p : Nat) (s : State) (d e : Nat) :
    (s.limitStep v p d).limits p e = if e = d then limited v d (s.limits p d) else s.limits p e := by
  have hsmall : min 20 (stepOf v d) % 32 = min 20 (stepOf v d) := Nat.mod_eq_of_lt (by omega)
  have hmax : ∀ w, (s.setReg p 0x8008 (setBits (s.reg p 0x8008) (8 * d + 4) (8 * d) w)).maxStep p e =
      if e = d then w % 32 else s.maxStep p e := fun w => by
    rw [State.maxStep, State.reg_setReg, if_pos rfl, stepOf_setBits, State.maxStep]
  have hcur : ∀ w e, (s.setReg p 0x8008 w).curStep p e = s.curStep p e := fun w e => s.curStep_setReg p w e (by decide) (by decide)
  simp only [State.limitStep, State.limits, limited, hcur]
  by_cases he : e = d
  · subst he
    split
    · next h => rw [State.maxStep_setStep, State.curStep_setStep, hmax, if_pos rfl, if_pos rfl, if_pos rfl, hsmall, Nat.min_eq_right (Nat.le_of_lt h)]
    · next h => rw [hcur, hmax, if_pos rfl, if_pos rfl, hsmall, Nat.min_eq_left (Nat.le_of_not_lt h)]
  · split
    · rw [State.maxStep_setStep, State.curStep_setStep, hcur, hmax, if_neg he, if_neg he]
    · rw [hcur, hmax, if_neg he]

theorem execPwrLimitWrite_unowned {part : Nat} {v : Dword} {s : State} (hx : s.part? part = none) : execPwrLimitWrite part v s = .next s := by
  rw [execPwrLimitWrite, hx]

theorem execPwrLimitWrite_owned {part : Nat} {v : Dword} {s : State} {x : Part} (hx : s.part? part = some x) :
    execPwrLimitWrite part v s = .next (x.dies.foldl (State.limitStep v.toNat part) s) := by
  simp only [execPwrLimitWrite, hx]
  rfl

/-- Each die named is limited, however often it is named. -/
theorem State.limits_foldl (v p : Nat) (s : State) {dies : List Nat} {d : Nat} (hd : d ∈ dies) :
    (dies.foldl (State.limitStep v p) s).limits p d = limited v d (s.limits p d) := by
  have honce : limited v d (limited v d (s.limits p d)) = limited v d (s.limits p d) := by simp [limited]
  obtain ⟨n, hn⟩ := Nat.exists_eq_add_one.mpr (List.count_pos_iff.mpr hd)
  rw [get_foldl_eq_iterate (get := State.limits p) (f := limited v) (fun s k => (s.limits_limitStep v p k k).trans (if_pos rfl))
    (fun s k j hj => (s.limits_limitStep v p k j).trans (if_neg hj)) d, hn, Function.iterate_succ_apply]
  exact Function.iterate_fixed honce n

/-! ### The governor (R519, R520) -/

section
variable (part : Nat)

/-- A window ends: its average power is kept, and UNMET. -/
def State.endWindow (mw unmet : Nat) (s : State) : State :=
  let t := s.setReg part 0x8018 (mw % 0x100000000)
  t.setReg part 0x8020 (setBits (t.reg part 0x8020) 3 3 unmet)
/-- A die drops one step. -/
def State.lowerStep (s : State) (d : Nat) : State := s.setStep part d (s.curStep part d - 1)
/-- A die below its MAX that is not throttled rises one step. -/
def State.raiseStep (s : State) (d : Nat) : State :=
  if s.curStep part d < s.maxStep part d ∧ !s.hot part d then s.setStep part d (s.curStep part d + 1) else s

theorem execGovernorWindow_unowned {mw : Nat} {s : State} (hx : s.part? part = none) : execGovernorWindow part mw s = .next s := by
  rw [execGovernorWindow, hx]

theorem execGovernorWindow_owned {mw : Nat} {s : State} {x : Part} (hx : s.part? part = some x) :
    execGovernorWindow part mw s = .next (
      if s.capOf x < mw then x.dies.foldl (State.lowerStep part) (s.endWindow part mw (if x.dies.all (fun d => decide (s.curStep part d = 0)) then 1 else 0))
      else if mw * 100 < s.capOf x * 95 then x.dies.foldl (State.raiseStep part) (s.endWindow part mw 0)
      else s.endWindow part mw 0) := by
  simp only [execGovernorWindow, hx]
  split
  · rfl
  · split <;> rfl

variable (s : State) (mw unmet d : Nat)

theorem State.reg_endWindow_average : (s.endWindow part mw unmet).reg part 0x8018 = mw % 0x100000000 := by
  rw [State.endWindow, State.reg_setReg_own _ _ (by decide) (by decide), if_neg (by omega), State.reg_setReg, if_pos rfl]

theorem State.bit_unmet_endWindow : bit ((s.endWindow part mw unmet).reg part 0x8020) 3 = unmet.testBit 0 := by
  rw [State.endWindow, State.reg_setReg, if_pos rfl, bit_setBits, if_pos rfl]

theorem State.curStep_endWindow : (s.endWindow part mw unmet).curStep part d = s.curStep part d := by
  rw [State.endWindow, State.curStep_setReg _ _ _ _ (by decide) (by decide), State.curStep_setReg _ _ _ _ (by decide) (by decide)]

theorem State.maxStep_endWindow : (s.endWindow part mw unmet).maxStep part d = s.maxStep part d := by
  rw [State.endWindow, State.maxStep_setReg _ _ _ _ (by decide) (by decide), State.maxStep_setReg _ _ _ _ (by decide) (by decide)]

theorem State.hot_endWindow : (s.endWindow part mw unmet).hot part d = s.hot part d := by
  rw [State.endWindow, State.hot_setReg _ _ _ _ (by decide) (by decide), State.hot_setReg _ _ _ _ (by decide) (by decide)]

variable (dies : List Nat)

/-- Steps that change leave the other registers. -/
theorem State.reg_foldl_lowerStep {o : Nat} (ho : o < 0x100000) (h : o ≠ 0x8010) :
    (dies.foldl (State.lowerStep part) s).reg part o = s.reg part o :=
  List.foldlRecOn (motive := fun (t : State) => t.reg part o = s.reg part o) _ _ rfl
    fun t ht _ _ => (t.reg_setStep _ _ _ ho h).trans ht

theorem State.reg_foldl_raiseStep {o : Nat} (ho : o < 0x100000) (h : o ≠ 0x8010) :
    (dies.foldl (State.raiseStep part) s).reg part o = s.reg part o :=
  List.foldlRecOn (motive := fun (t : State) => t.reg part o = s.reg part o) _ _ rfl fun t ht d _ => by
    unfold State.raiseStep
    split
    · exact (t.reg_setStep _ _ _ ho h).trans ht
    · exact ht

/-- What the governor reads of a die: its step, its MAX, whether it is throttled. -/
def State.clock (s : State) (d : Nat) : Nat × Nat × Bool := (s.curStep part d, s.maxStep part d, s.hot part d)
/-- A clock one step up. -/
def raised (y : Nat × Nat × Bool) : Nat × Nat × Bool := if y.1 < y.2.1 ∧ y.2.2 = false then (y.1 + 1, y.2) else y

theorem State.clock_raiseStep (k e : Nat) : (s.raiseStep part k).clock part e = if e = k then raised (s.clock part k) else s.clock part e := by
  have hfits : s.curStep part k < s.maxStep part k → (s.curStep part k + 1) % 32 = s.curStep part k + 1 := fun h => by
    have := stepOf_lt (s.reg part 0x8008) k
    exact Nat.mod_eq_of_lt (by unfold State.maxStep at h; omega)
  have hraised : raised (s.clock part k) = if s.curStep part k < s.maxStep part k ∧ s.hot part k = false
    then (s.curStep part k + 1, s.maxStep part k, s.hot part k) else s.clock part k := rfl
  simp only [State.raiseStep, Bool.not_eq_true', hraised]
  by_cases h : s.curStep part k < s.maxStep part k ∧ s.hot part k = false
  · rw [if_pos h, if_pos h, State.clock, State.curStep_setStep, State.maxStep_setStep, State.hot_setStep, hfits h.1]
    by_cases he : e = k
    · rw [if_pos he, if_pos he, he]
    · rw [if_neg he, if_neg he, State.clock]
  · rw [if_neg h, if_neg h]
    by_cases he : e = k
    · rw [if_pos he, he]
    · rw [if_neg he]

variable {dies d} (hdies : dies.Nodup) (hd : d ∈ dies)
include hdies hd

theorem State.curStep_foldl_lowerStep : (dies.foldl (State.lowerStep part) s).curStep part d = s.curStep part d - 1 := by
  have hself : ∀ (t : State) (k : Nat), (t.lowerStep part k).curStep part k = t.curStep part k - 1 := fun t k => by
    have := stepOf_lt (t.reg part 0x8010) k
    rw [State.lowerStep, State.curStep_setStep, if_pos rfl, Nat.mod_eq_of_lt (by unfold State.curStep; omega)]
  rw [get_foldl_eq_iterate (get := fun t k => State.curStep t part k) (f := fun _ c => c - 1) hself
    (fun t k j hj => (t.curStep_setStep _ _ _ _).trans (if_neg hj)) d, List.count_eq_one_of_mem hdies hd, Function.iterate_one]

theorem State.curStep_foldl_raiseStep : (dies.foldl (State.raiseStep part) s).curStep part d =
    if s.curStep part d < s.maxStep part d ∧ s.hot part d = false then s.curStep part d + 1 else s.curStep part d := by
  have hclock : (dies.foldl (State.raiseStep part) s).clock part d = raised (s.clock part d) := by
    rw [get_foldl_eq_iterate (get := State.clock part) (f := fun _ => raised) (fun t k => (t.clock_raiseStep part k k).trans (if_pos rfl))
      (fun t k j hj => (t.clock_raiseStep part k j).trans (if_neg hj)) d, List.count_eq_one_of_mem hdies hd, Function.iterate_one]
  refine (congrArg Prod.fst hclock).trans ?_
  unfold raised State.clock
  split <;> rfl

end

/-- The outcome of a governor window: above the cap, between, and below 95 % of it. -/
theorem execGovernorWindow_outcome {part mw : Nat} {s : State} {x : Part} (hx : s.part? part = some x) (hdies : x.dies.Nodup) :
    ∃ t : State, execGovernorWindow part mw s = .next t ∧ t.reg part 0x8018 = mw % 0x100000000 ∧
      (s.capOf x < mw → (∀ d ∈ x.dies, t.curStep part d = s.curStep part d - 1) ∧
        bit (t.reg part 0x8020) 3 = x.dies.all (fun d => decide (s.curStep part d = 0))) ∧
      (mw ≤ s.capOf x → bit (t.reg part 0x8020) 3 = false) ∧
      (mw ≤ s.capOf x → s.capOf x * 95 ≤ mw * 100 → ∀ d, t.curStep part d = s.curStep part d) ∧
      (mw * 100 < s.capOf x * 95 → ∀ d ∈ x.dies, t.curStep part d =
        if s.curStep part d < s.maxStep part d ∧ s.hot part d = false then s.curStep part d + 1 else s.curStep part d) := by
  refine ⟨_, execGovernorWindow_owned part hx, ?_⟩
  obtain habove | hwithin := Nat.lt_or_ge (s.capOf x) mw
  · rw [if_pos habove, State.reg_foldl_lowerStep _ _ _ (by decide) (by decide), State.reg_foldl_lowerStep _ _ _ (by decide) (by decide),
      State.bit_unmet_endWindow]
    refine ⟨s.reg_endWindow_average part mw _, fun _ => ⟨fun d hd => ?_, ?_⟩, fun h => absurd habove (Nat.not_lt_of_le h),
      fun h => absurd habove (Nat.not_lt_of_le h), fun h => absurd h (by omega)⟩
    · rw [State.curStep_foldl_lowerStep part _ hdies hd, State.curStep_endWindow]
    · split
      · next h => exact h.symm
      · next h => exact (Bool.eq_false_of_not_eq_true h).symm
  rw [if_neg (Nat.not_lt_of_le hwithin)]
  obtain hbelow | hbetween := Nat.lt_or_ge (mw * 100) (s.capOf x * 95)
  · rw [if_pos hbelow, State.reg_foldl_raiseStep _ _ _ (by decide) (by decide), State.reg_foldl_raiseStep _ _ _ (by decide) (by decide)]
    refine ⟨s.reg_endWindow_average part mw 0, fun h => absurd hwithin (Nat.not_le_of_lt h), fun _ => s.bit_unmet_endWindow part mw 0,
      fun _ h => absurd hbelow (Nat.not_lt_of_le h), fun _ d hd => ?_⟩
    rw [State.curStep_foldl_raiseStep part _ hdies hd, State.curStep_endWindow, State.maxStep_endWindow, State.hot_endWindow]
  · rw [if_neg (Nat.not_lt_of_le hbetween)]
    exact ⟨s.reg_endWindow_average part mw 0, fun h => absurd hwithin (Nat.not_le_of_lt h), fun _ => s.bit_unmet_endWindow part mw 0,
      fun _ _ d => s.curStep_endWindow part mw 0 d, fun h => absurd hbetween (Nat.not_le_of_lt h)⟩

/-! ### Heat (R521) -/

section
variable {die : Nat} {s : State} (hx : s.partOfDie die = none)
include hx

theorem execThermalThrottle_unowned : execThermalThrottle die s = .next s := by rw [execThermalThrottle, hx]
theorem execThermalRecover_unowned : execThermalRecover die s = .next s := by rw [execThermalRecover, hx]
theorem execThermalTrip_unowned : execThermalTrip die s = .next s := by rw [execThermalTrip, hx]

end

section
variable {die : Nat} {s : State} {x : Part} (hx : s.partOfDie die = some x)
include hx

theorem execThermalThrottle_owned : execThermalThrottle die s =
    .next ((s.setStep x.id die 0).setReg x.id hotReg (setBits (s.reg x.id hotReg) die die 1)) := by
  simp only [execThermalThrottle, hx]

theorem execThermalRecover_owned : execThermalRecover die s = .next (s.setReg x.id hotReg (setBits (s.reg x.id hotReg) die die 0)) := by
  simp only [execThermalRecover, hx]

/-- At 100 °C the die drops to step 0 and is HOT; the other dies keep their steps and their heat. -/
theorem execThermalThrottle_outcome : ∃ t : State, execThermalThrottle die s = .next t ∧ t.curStep x.id die = 0 ∧ t.hot x.id die = true ∧
    ∀ d, d ≠ die → t.curStep x.id d = s.curStep x.id d ∧ t.hot x.id d = s.hot x.id d := by
  have hcur : ∀ d w, ((s.setStep x.id die 0).setReg x.id hotReg w).curStep x.id d = if d = die then 0 else s.curStep x.id d := fun d w =>
    (State.curStep_setReg _ _ _ _ (by decide) (by decide)).trans (s.curStep_setStep ..)
  refine ⟨_, execThermalThrottle_owned hx, (hcur die _).trans (if_pos rfl), (State.hot_setHot ..).trans (if_pos rfl), fun d hd => ⟨?_, ?_⟩⟩
  · exact (hcur d _).trans (if_neg hd)
  · exact (State.hot_setHot ..).trans (if_neg hd)

end

/-- A partition is held, TRIP is set and its event is raised. -/
def State.tripped (s : State) (x : Part) (die : Nat) : State :=
  let s1 := { s with trust := { s.trust with held := if s.trust.held.contains x.id then s.trust.held else s.trust.held ++ [x.id] } }
  let s2 := s1.setReg x.id 0x8020 (setBits (s1.reg x.id 0x8020) 2 2 1)
  s2.event x.id { typ := 0x0D, action := s2.openAction, pos := ⟨die, 0, 0⟩, ukind := 6, unit := die, detail := die }

theorem execThermalTrip_owned {die : Nat} {s : State} {x : Part} (hx : s.partOfDie die = some x) :
    let t := (s.tripped x die).startReset x.id false true
    execThermalTrip die s = .next (t.setReg x.id resetNote (setBits (t.reg x.id resetNote) 1 1 1)) := by
  simp only [execThermalTrip, hx]
  rfl

section
variable (s : State) (p : Nat) (e : EventInfo)

/-- An event writes registers of the event ring and sends to the host. -/
theorem State.event_induction {P : State → Prop} (hs : P s)
    (hreg : ∀ (t : State) (o v : Nat), o ∈ [0x5028, 0x5030, 0x5038] → P t → P (t.setReg p o v))
    (hhost : ∀ (t : State) (d a : Nat) (bs : List Byte), P t → P (t.hostPost d a bs)) : P (s.event p e) := by
  unfold State.event
  extract_lets
  split
  · exact hs
  split
  · exact hreg _ _ _ (by decide) hs
  split
  · exact hreg _ _ _ (by decide) (hhost _ _ _ _ hs)
  · exact hhost _ _ _ _ (hreg _ _ _ (by decide) (hreg _ _ _ (by decide) (hhost _ _ _ _ hs)))

theorem State.event_parts : (s.event p e).parts = s.parts :=
  s.event_induction p e (P := fun t => t.parts = s.parts) rfl (fun _ _ _ _ ht => ht) fun _ _ _ _ ht => ht

theorem State.event_trust : (s.event p e).trust = s.trust :=
  s.event_induction p e (P := fun t => t.trust = s.trust) rfl (fun _ _ _ _ ht => ht) fun _ _ _ _ ht => ht

theorem State.reg_event {q o : Nat} (ho : o < 0x100000) (h : o ∉ [0x5028, 0x5030, 0x5038]) : (s.event p e).reg q o = s.reg q o := by
  refine s.event_induction p e (P := fun t => t.reg q o = s.reg q o) rfl (fun t r v hr ht => ?_) fun _ _ _ _ ht => ht
  have hring : ∀ r ∈ [0x5028, 0x5030, 0x5038], r < 0x10000 := by decide
  have hother : ¬ (q = p ∧ o = r) := by
    rintro ⟨-, rfl⟩
    exact h hr
  exact (t.reg_setReg_own v (.inl (hring r hr)) ho).trans ((if_neg hother).trans ht)

end

section
variable (s : State) (p : Nat) (scrub noWait : Bool)

/-- The start of a reset sets the partition's STATE, writes the model's own notes of it and posts steps. -/
theorem State.startReset_induction {P : State → Prop} (hs : P s) (hpart : P s → P (s.setPartState p 1))
    (hreg : ∀ (t : State) (o v : Nat), o = resetNote ∨ o = resetSince → P t → P (t.setReg p o v)) (hpost : ∀ (t : State) (e : Ev), P t → P (t.post e)) :
    P (s.startReset p scrub noWait) := by
  unfold State.startReset
  split
  · exact hs
  extract_lets t
  split
  · split
    · exact hreg _ _ _ (.inl rfl) hs
    · exact hs
  · have ht : P t := hreg _ _ _ (.inr rfl) (hreg _ _ _ (.inl rfl) (hpart hs))
    exact hpost _ _ (List.foldlRecOn _ _ ht fun u hu _ _ => hpost u _ hu)

theorem State.startReset_trust : (s.startReset p scrub noWait).trust = s.trust :=
  s.startReset_induction p scrub noWait (P := fun t => t.trust = s.trust) rfl id (fun _ _ _ _ ht => ht) fun _ _ ht => ht

theorem State.reg_startReset {q o : Nat} (ho : o < 0x100000) (hnote : o ≠ resetNote) (hsince : o ≠ resetSince) :
    (s.startReset p scrub noWait).reg q o = s.reg q o := by
  refine s.startReset_induction p scrub noWait (P := fun t => t.reg q o = s.reg q o) rfl id (fun t r v hr ht => ?_) fun _ _ ht => ht
  obtain rfl | rfl := hr
  · exact (t.reg_setReg_own v (by decide) ho).trans ((if_neg fun heq => hnote heq.2).trans ht)
  · exact (t.reg_setReg_own v (by decide) ho).trans ((if_neg fun heq => hsince heq.2).trans ht)

variable {s p} {x : Part} (hx : s.part? p = some x) (hstate : x.state ≠ 1)
include hx hstate

/-- A reset that starts posts the end of its wait and sets the partition's STATE to 1. -/
theorem State.startReset_begins : Ev.resetWaitExpiry p ∈ (s.startReset p scrub noWait).due ∧
    ∀ y ∈ (s.startReset p scrub noWait).parts, y.id = p → y.state = 1 := by
  have hparts : (s.startReset p scrub noWait).parts = (s.setPartState p 1).parts := by
    simp only [State.startReset, hx, if_neg hstate]
    exact List.foldlRecOn (motive := fun (t : State) => t.parts = (s.setPartState p 1).parts) _ _ rfl fun _ ht _ _ => ht
  refine ⟨?_, fun y hy => ?_⟩
  · simp only [State.startReset, hx, if_neg hstate]
    exact List.mem_append_right _ (List.mem_singleton_self _)
  rw [hparts] at hy
  obtain ⟨z, -, rfl⟩ := List.mem_map.mp hy
  split
  · exact fun _ => rfl
  · next h => exact fun hid => absurd hid h

end

/-- A thermal trip holds the partition, sets TRIP and starts a reset with a WAIT of 0. -/
theorem execThermalTrip_outcome {die : Nat} {s : State} {x : Part} (hx : s.partOfDie die = some x) :
    ∃ t : State, execThermalTrip die s = .next t ∧ x.id ∈ t.trust.held ∧
      bit (t.reg x.id 0x8020) 2 = true ∧ bit (t.reg x.id resetNote) 1 = true ∧
      (s.part? x.id = some x → x.state ≠ 1 → Ev.resetWaitExpiry x.id ∈ t.due ∧ ∀ y ∈ t.parts, y.id = x.id → y.state = 1) := by
  refine ⟨_, execThermalTrip_owned hx, ?held, ?trip, ?noWait, fun hpart hstate => ?reset⟩
  case held =>
    rw [State.setReg_trust, State.startReset_trust, State.tripped, State.event_trust]
    dsimp only [State.setReg_trust]
    split
    · next h => exact List.contains_iff_mem.mp h
    · exact List.mem_append_right _ (List.mem_singleton_self _)
  case trip =>
    rw [State.reg_setReg_own _ _ (by decide) (by decide), if_neg (by simp [resetNote]), State.reg_startReset _ _ _ _ (by decide) (by decide) (by decide),
      State.tripped, State.reg_event _ _ _ (by decide) (by decide), State.reg_setReg, if_pos rfl, bit_setBits]
    rfl
  case noWait =>
    rw [State.reg_setReg, if_pos rfl, bit_setBits]
    rfl
  case reset =>
    refine State.startReset_begins false true ?_ hstate
    rw [State.part?, State.tripped, State.event_parts]
    exact hpart

/-! ### The training of a port (R515) -/

section
variable {die : Nat} {s : State}

theorem execPciExpressPortTraining_again (h : 4 ≤ die ∨ s.trust.trained.contains die = true) : execPciExpressPortTraining die s = .next s :=
  if_pos h

variable (hdie : die < 4) (hnew : s.trust.trained.contains die = false)
include hdie hnew

/-- A port of the bring-up die that trains begins reduced service, and the next die is released. -/
theorem execPciExpressPortTraining_bringUp (h : s.trust.service = 0 ∧ s.trust.released.head? = some die) :
    let t : State := { s with trust := { s.trust with trained := s.trust.trained ++ [die], service := 1 } }
    execPciExpressPortTraining die s = .next (if die < 3 then t.post (.dieRelease (die + 1)) else t) := by
  exact (if_neg fun ht => ht.elim (Nat.not_le_of_lt hdie) (Bool.eq_false_iff.mp hnew)).trans (if_pos h)

theorem execPciExpressPortTraining_other (h : ¬ (s.trust.service = 0 ∧ s.trust.released.head? = some die)) :
    execPciExpressPortTraining die s = .next { s with trust := { s.trust with trained := s.trust.trained ++ [die] } } := by
  exact (if_neg fun ht => ht.elim (Nat.not_le_of_lt hdie) (Bool.eq_false_iff.mp hnew)).trans (if_neg h)

/-- Reduced service begins with the bring-up die's port. -/
theorem execPciExpressPortTraining_outcome : ∃ t : State, execPciExpressPortTraining die s = .next t ∧
    t.trust.trained = s.trust.trained ++ [die] ∧
    t.trust.service = (if s.trust.service = 0 ∧ s.trust.released.head? = some die then 1 else s.trust.service) ∧
    t.due = if s.trust.service = 0 ∧ s.trust.released.head? = some die ∧ die < 3 then s.due ++ [Ev.dieRelease (die + 1)] else s.due := by
  by_cases h : s.trust.service = 0 ∧ s.trust.released.head? = some die
  · refine ⟨_, execPciExpressPortTraining_bringUp hdie hnew h, ?_⟩
    rw [if_pos h]
    by_cases hlast : die < 3
    · rw [if_pos hlast, if_pos ⟨h.1, h.2, hlast⟩]
      exact ⟨rfl, rfl, rfl⟩
    · rw [if_neg hlast, if_neg (fun hall => hlast hall.2.2)]
      exact ⟨rfl, rfl, rfl⟩
  · refine ⟨_, execPciExpressPortTraining_other hdie hnew h, rfl, (if_neg h).symm, (if_neg fun hall => h ⟨hall.1, hall.2.1⟩).symm⟩

end

/-- Settles O58: the writes by the branches of the window, the steps by what changing one die does to every die's. -/
theorem registerWritesPowerAndHeatTakeEffect : Obligations.RegisterWritesPowerAndHeatTakeEffect := by
  refine ⟨fun part port off v s x => execRegisterWrite_stores, fun part port off v s x => execRegisterWrite_unassigned,
    fun part port off v s hx h0 h8 => (execRegisterWrite_recovery hx).trans (recoveryWrite_outside h0 h8), fun part port c r v s x hx hc => ?context,
    fun c v s => ⟨_, execCtxRootWrite_eq c v s, ?root, ?slots⟩, fun part v s => ⟨_, rfl, ?ridx, ?pending⟩,
    fun part v s => ⟨fun hx => ?noLimit, fun x hx => ⟨_, execPwrLimitWrite_owned hx, fun d hd => ?limit⟩⟩,
    fun part mw s => ⟨fun hx => ?noGovernor, fun x hx hdies => execGovernorWindow_outcome hx hdies⟩,
    fun die s => ⟨fun hx => ?noHeat, fun x hx => ⟨execThermalThrottle_outcome hx, _, execThermalRecover_owned hx, ?cool, fun d => ?kept⟩⟩,
    fun die s => ⟨fun hx => ?noTrip, fun x hx => execThermalTrip_outcome hx⟩,
    fun die s => ⟨execPciExpressPortTraining_again, execPciExpressPortTraining_outcome⟩⟩
  case context =>
    refine ⟨fun hown hr => ?others, fun hown hr => ?plain, fun hown hr => ?save, fun hown hr => ?enable⟩
    case others => exact (execRegisterWrite_context hx hc hr).trans (by rw [hown]; rfl)
    case plain =>
      obtain ⟨hplain, hlow⟩ : r ∈ plainContextRegisters ∧ r < 0x30 := by revert r; decide
      exact (execRegisterWrite_plainContext hx hc hown hplain).trans (if_neg fun h => Nat.not_le_of_lt hlow h.1)
    case save =>
      obtain ⟨hplain, hhigh⟩ : r ∈ plainContextRegisters ∧ 0x30 ≤ r := by revert r; decide
      refine (execRegisterWrite_plainContext hx hc hown hplain).trans ?_
      simp only [hhigh, true_and]
      split <;> rfl
    case enable =>
      subst hr
      exact (execRegisterWrite_context hx hc (by decide)).trans (by rw [hown]; rfl)
  case root => split <;> exact (s.reg_setReg ..).trans (if_pos rfl)
  case slots => split <;> rfl
  case ridx => rw [State.reg_setReg_own _ _ (by decide) (by decide), if_neg (by omega), State.reg_setReg, if_pos rfl]
  case pending => exact (State.reg_setReg ..).trans (if_pos rfl)
  case limit =>
    have h := s.limits_foldl v.toNat part hd
    exact ⟨congrArg Prod.fst h, congrArg Prod.snd h⟩
  case cool => exact (State.hot_setHot ..).trans (if_pos rfl)
  case kept => exact s.curStep_setReg _ _ _ (by decide) (by decide)
  case noLimit => exact execPwrLimitWrite_unowned hx
  case noGovernor => exact execGovernorWindow_unowned part hx
  case noHeat => exact ⟨execThermalThrottle_unowned hx, execThermalRecover_unowned hx⟩
  case noTrip => exact execThermalTrip_unowned hx

end Sys2Proof.Machine
end

section
/-! The queue front-end: packets consumed, held and begun, waits, copies and nodes that go on, and the registers of a queue
(R388, R390 to R394, R396 to R405). -/
namespace Sys2Proof.Machine
open Sys2Proof

/-! ### A packet consumed (R390, R394, R396, R397) -/

/-- A queue is served: the round-robin goes on behind it, and its packet is present at its homes. -/
def State.serveQueue (s : State) (q : Nat) : State :=
  { s with served := nset (fun _ => 0) s.served (4 * s.partOfQueue q + bits (s.queue q).ctl 62 61) (q + 1) }.hwTouch (s.partOfQueue q)
    (bits (s.queue q).ctl 53 48) (s.packetAt q) 64

/-- A command that has joined its level: what a LAUNCH takes, and the state after it. -/
def State.takeFor (s sj : State) (q opc : Nat) (bs : List Byte) : State × Option (Nat × Option Launch) :=
  let taken := sj.takeLaunch q (s.partOfQueue q) (bits (s.queue q).ctl 53 48) (packetWord bs 2)
  (if opc = 4 then taken.1 else sj, if opc = 4 then some taken.2 else none)

/-- A command enters its queue, RIDX kept, and the levels that it closes are closed. -/
def State.enterCommand (s s2 : State) (q opc under : Nat) (got : Option (Nat × Option Launch)) : State :=
  let c : QCmd := { seq := s2.nextId, inst := none, opens := decide (opc ≤ 2), under := under, got := got, opc := opc }
  ({ s2 with nextId := s2.nextId + 1 }.setQueue q
    { s2.queue q with ridx := ((s.queue q).ridx + 1) % 2 ^ 64, cmds := (s2.queue q).cmds.filter (fun y => !s2.cmdOver y) ++ [c] }).closeBefore q opc

/-- A packet stays at the head of its queue until its command may begin. -/
def State.holdHead (s : State) (q : Nat) (bs : List Byte) : State :=
  (s.setQueue q { s.queue q with head := some bs, waitSince := 0 }).post (.commandBegin q)

section
variable {opc q : Nat} {s : State} {bs : List Byte}
  (hready : (s.queue q).ready = true) (hreset : s.resetting (s.partOfQueue q) = false)
  (hread : (s.serveQueue q).readPacket q = some bs) (hopc : packetOpc bs = opc)
include hready hreset hread hopc

theorem consume_malformed (hbad : packetOk bs = false) : consume opc q s = .next (((s.serveQueue q).queueError q 2).pumpOn q) := by
  simp only [State.serveQueue] at hread ⊢
  simp only [consume, hready, hreset, hread, hopc, hbad, Bool.not_true, Bool.not_false, Bool.or_false, Bool.false_eq_true, if_false, if_true, ne_eq,
    not_true_eq_false]

theorem consume_wellFormed {sj s2 : State} {under : Nat} (hok : packetOk bs = true) (hjoin : (s.serveQueue q).joinLevel q opc = some (sj, under))
    (hwrite : (s.takeFor sj q opc bs).1.hwWrite (s.partOfQueue q) (bits (s.queue q).ctl 53 48) ((s.queue q).base + 8)
      (leBytes 8 ((s.queue q).ridx + 1)) = some s2) :
    let s4 := s.enterCommand s2 q opc under (s.takeFor sj q opc bs).2
    consume opc q s = .next (((if s4.mayBegin q bs then s4.beginCmd q bs else s4.holdHead q bs).settleQueue q).pumpOn q) := by
  simp only [State.serveQueue] at hread hjoin
  simp only [State.takeFor] at hwrite
  simp only [consume, hready, hreset, hread, hopc, hok, hjoin, hwrite, Bool.not_true, Bool.or_false, Bool.false_eq_true, if_false, ne_eq,
    not_true_eq_false]
  rfl

end

/-! ### Commands held, and what commands do (R396, R398, R399) -/

section
variable {q : Nat} {s : State} {bs : List Byte}

section
variable (hhead : (s.queue q).head = some bs)
include hhead

theorem execCommandBegin_begins (hsince : (s.queue q).waitSince = 0) (hmay : s.mayBegin q bs = true) : execCommandBegin q s =
    .next ((((s.setQueue q { s.queue q with head := none }).beginCmd q bs).settleQueue q).pumpOn q) := by
  simp only [execCommandBegin, hhead, hsince, hmay, ne_eq, not_true_eq_false, if_false, if_true]

section
variable (hsince : (s.queue q).waitSince ≠ 0)
include hsince

theorem execWaitMemTimeout_over (hover : s.waitTimedOut q bs = true) : execWaitMemTimeout q s = .next (s.endWait q 6) := by
  simp only [execWaitMemTimeout, hhead, hsince, hover, if_false, if_true]

variable {v : Nat} (hlive : s.lastCancelled q = false)
  (hword : s.syncRead (s.partOfQueue q) (bits (s.queue q).ctl 53 48) (packetWord bs 1) 8 = some v)
include hlive hword

theorem execWaitMemReread_holds (hholds : waitHolds bs v = true) : execWaitMemReread q s = .next (s.endWait q 0) := by
  simp only [execWaitMemReread, hhead, hsince, hlive, hword, hholds, Bool.false_eq_true, if_false, if_true]

theorem execWaitMemReread_again (hholds : waitHolds bs v = false) (hover : s.waitTimedOut q bs = false) :
    execWaitMemReread q s = .next (s.postOnce (.waitMemReread q)) := by
  simp only [execWaitMemReread, hhead, hsince, hlive, hword, hholds, hover, Bool.false_eq_true, if_false]

end
end

theorem beginCmd_cancel (h : packetOpc bs = 8) : s.beginCmd q bs = (s.cancelByRecord (s.partOfQueue q) (bits (s.queue q).ctl 53 48)
    (packetWord bs 1) (packetWord bs 2)).cmdDone q (s.queue q).lastSeq := by
  simp only [State.beginCmd, h]

theorem beginCmd_fence (h : packetOpc bs = 9) :
    s.beginCmd q bs = (if s.lastCancelled q then s else s.fence (s.partOfQueue q)).cmdDone q (s.queue q).lastSeq := by
  simp only [State.beginCmd, h]

theorem beginCmd_signal {t : State} (h : packetOpc bs = 6) (hlive : s.lastCancelled q = false)
    (hheld : s.signalHeld (s.partOfQueue q) (bits (s.queue q).ctl 53 48) (packetWord bs 1) (packetWord bs 3) = false)
    (ht : s.signal q (s.queue q).lastSeq (s.partOfQueue q) (bits (s.queue q).ctl 53 48) (packetWord bs 1) (packetWord bs 2) (packetWord bs 3) = some t) :
    s.beginCmd q bs = t.cmdDone q (s.queue q).lastSeq := by
  simp only [State.beginCmd, h, hlive, hheld, ht, Bool.false_eq_true, if_false]

end

/-- CMP of a WAIT_MEM packet compares the masked word with the masked value: equal, not equal, at least, below. -/
theorem waitHolds_iff (bs : List Byte) (v : Nat) : let m := packetWord bs 3
    waitHolds bs v = true ↔ (packetWord bs 4 % 4 = 0 ∧ v &&& m = packetWord bs 2 &&& m) ∨ (packetWord bs 4 % 4 = 1 ∧ v &&& m ≠ packetWord bs 2 &&& m) ∨
      (packetWord bs 4 % 4 = 2 ∧ packetWord bs 2 &&& m ≤ v &&& m) ∨ (packetWord bs 4 % 4 = 3 ∧ v &&& m < packetWord bs 2 &&& m) := by
  dsimp only [waitHolds]
  split
  case h_1 h => simp [h]
  case h_2 h => simp [h]
  case h_3 h => simp [h]
  case h_4 h0 h1 h2 =>
    change ¬ _ at h0 h1 h2
    have h3 : packetWord bs 4 % 4 = 3 := by omega
    simp [h3]

/-! ### Copies and nodes (R401, R403 to R405) -/

theorem execCopyFinish_goesOn {n : Nat} {s : State} {c : CopyOp} {x : Inst} (hc : s.copies.find? (fun y => y.inst = n) = some c)
    (hx : s.inst? n = some x) (hlive : x.cancelled = false) : execCopyFinish n s = .next (s.copyOn x.part (c.len + 1) c) := by
  simp only [execCopyFinish, hc, hx, hlive, Bool.false_eq_true, if_false]

/-- A finished node's record is written, and its end counted in its graph. -/
def State.countNode (s : State) (g : Graph) (up j : Inst) (node : Nat) : State :=
  let bad := decide (j.canc ≠ 0) || decide (j.special ≠ 0)
  ((s.writeRecord j j.status).setInst { up with
    done := if bad then up.done else up.done + 1, canc := if bad then up.canc + 1 else up.canc
    gdone := up.gdone + j.gdone, gcanc := up.gcanc + j.gcanc }).setGraph { g with finished := g.finished ++ [node] }

section
variable {graph node n : Nat} {s : State} {g : Graph} {up j : Inst} (hg : s.graph? graph = some g) (hup : s.inst? graph = some up)
  (hnode : g.released.find? (fun x => x.1 = node) = some (node, n)) (hj : s.inst? n = some j) (hnew : g.finished.contains node = false)
  (hfinished : j.finished = true) (haccepted : s.unaccepted n = false)
include hg hup hnode hj hnew hfinished haccepted

theorem execNodeFinish_stopped (hstop : (g.stopped || g.dropped) = true) :
    execNodeFinish graph node s = .next ((s.countNode g up j node).settleGraph graph) := by
  simp only [execNodeFinish, hg, hup, hnode, hj, hnew, hfinished, haccepted, hstop, Bool.not_true, Bool.false_eq_true, if_false, if_true]
  rfl

theorem execNodeFinish_releases {x : Node} (hgoing : (g.stopped || g.dropped) = false)
    (hread : (s.countNode g up j node).readNode up.part g node = some x) : execNodeFinish graph node s =
      .next (((s.countNode g up j node).decrement up.part graph g x.succ 0 x.nsucc).settleGraph graph) := by
  simp only [State.countNode] at hread
  simp only [execNodeFinish, hg, hup, hnode, hj, hnew, hfinished, haccepted, hgoing, hread, Bool.not_true, Bool.false_eq_true, if_false]
  rfl

end

/-! ### The registers of a queue (R388, R390 to R393) -/

/-- The WIDX read puts more packets in the ring than it holds, or goes back. -/
def Queue.overrunBy (k : Queue) (w : Nat) : Prop := 2 ^ bits k.ctl 4 0 < (w + 2 ^ 64 - k.ridx) % 2 ^ 64 ∨ w < k.prevW

section
variable {q : Nat} {s : State} {bs : List Byte} (hon : (s.queue q).state ≠ 0) (hsound : (s.queue q).state ≠ 4)
  (hread : s.hwRead (s.partOfQueue q) (bits (s.queue q).ctl 53 48) (s.queue q).base 8 = some bs)
include hon hsound hread

theorem execQDoorbell_overrun (hpast : (s.queue q).overrunBy (ofLeBytes bs)) : execQDoorbell q s =
    .next ((s.hwTouch (s.partOfQueue q) (bits (s.queue q).ctl 53 48) (s.queue q).base 8).queueError q 1) := by
  simp only [execQDoorbell, hon, hsound, hread, or_self, if_false]
  exact if_pos hpast

theorem execQDoorbell_takes (hpast : ¬ (s.queue q).overrunBy (ofLeBytes bs)) : execQDoorbell q s =
    .next ((((s.hwTouch (s.partOfQueue q) (bits (s.queue q).ctl 53 48) (s.queue q).base 8).setQueue q { s.queue q with
      prevW := ofLeBytes bs
      state := if (s.queue q).state = 1 ∧ (ofLeBytes bs ≠ (s.queue q).ridx ∨ (s.queue q).head.isSome) then 2 else (s.queue q).state }).settleQueue
        q).pumpOn q) := by
  simp only [execQDoorbell, hon, hsound, hread, or_self, if_false]
  exact if_neg hpast

end

/-- A reset closes the open phase and job of a queue. -/
def State.closeLevels (s : State) (q : Nat) : State := (s.closeInst (s.queue q).phase).closeInst (s.queue q).job

/-- A queue that was reset to index `v`. -/
def Queue.resetTo (k : Queue) (v : Nat) : Queue :=
  { k with ridx := v, prevW := v, state := if bit k.ctl 63 then 1 else 0, reason := 0, job := 0, phase := 0, implicitJob := 0, implicitPhase := 0 }

theorem execQReset_resets {q : Nat} {v : Dword} {s t : State} (hstate : (s.queue q).state = 0 ∨ (s.queue q).state = 4)
    (hwrite : ((s.closeLevels q).setQueue q (((s.closeLevels q).queue q).resetTo v.toNat)).hwWrite ((s.closeLevels q).partOfQueue q)
      (bits ((s.closeLevels q).queue q).ctl 53 48) (((s.closeLevels q).queue q).base + 8) (leBytes 8 v.toNat) = some t) :
    execQReset q v s = .next (if bit ((s.closeLevels q).queue q).ctl 63 then t.post (.qDoorbell q) else t) := by
  have hclosed : ¬ ((s.queue q).state ≠ 0 ∧ (s.queue q).state ≠ 4) := fun h => hstate.elim h.1 h.2
  unfold execQReset
  rw [if_neg hclosed]
  dsimp only
  split
  · next hnone => cases hnone.symm.trans hwrite
  · next hsome =>
    cases hsome.symm.trans hwrite
    rfl

section
variable {q : Nat} {v : Dword} {s : State}

theorem execQCtlWrite_enabled (hon : bit (s.queue q).ctl 63 = true) : execQCtlWrite q v s =
    if bit (v.toNat &&& qCtlMask) 63 then .next s else .next (s.setQueue q { s.queue q with ctl := v.toNat &&& qCtlMask, state := 0, reason := 0 }) :=
  if_pos hon

section
variable (hoff : bit (s.queue q).ctl 63 = false)
include hoff

theorem execQCtlWrite_disabled (hx : bit (v.toNat &&& qCtlMask) 63 = false) :
    execQCtlWrite q v s = .next (s.setQueue q { s.queue q with ctl := v.toNat &&& qCtlMask }) := by
  simp only [execQCtlWrite, hoff, hx, Bool.false_eq_true, if_false, Bool.not_false, if_true]

/-- A queue may be enabled with a size within its range and an enabled context of its partition. -/
def State.mayEnable (s : State) (q x : Nat) : Bool :=
  decide (4 ≤ bits x 4 0 ∧ bits x 4 0 ≤ 16) && s.ownsCtx (s.partOfQueue q) (bits x 53 48) && bit (s.ctxReg (bits x 53 48) 0) 0

variable (hx : bit (v.toNat &&& qCtlMask) 63 = true)
include hx

theorem execQCtlWrite_enables (hok : s.mayEnable q (v.toNat &&& qCtlMask) = true) : ∃ t : State, execQCtlWrite q v s = .next t ∧
    t.queue q = { s.queue q with ctl := v.toNat &&& qCtlMask, state := 1, reason := 0 } := by
  simp only [State.mayEnable] at hok
  simp only [execQCtlWrite, hoff, hx, hok, Bool.false_eq_true, if_false, Bool.not_true, if_true]
  exact ⟨_, rfl, nget_nset_self _ _ _ _⟩

theorem execQCtlWrite_refuses (hok : s.mayEnable q (v.toNat &&& qCtlMask) = false) :
    execQCtlWrite q v s = .next (s.setQueue q { s.queue q with ctl := v.toNat &&& qCtlMask, state := 4, reason := 2 }) := by
  simp only [State.mayEnable] at hok
  simp only [execQCtlWrite, hoff, hx, hok, Bool.false_eq_true, if_false, Bool.not_true]

end
end

/-- Settles O49: each step's branch, its conditions given; the nine packet steps are one. -/
theorem commandPacketsAreConsumedAndBegin : Obligations.CommandPacketsAreConsumedAndBegin := by
  refine ⟨fun opc q i s bs hi => ?packets, fun q s bs hhead => ⟨execCommandBegin_begins hhead, fun hsince hlive => ?waits⟩,
    fun q s bs => ⟨beginCmd_cancel, beginCmd_fence, fun t => beginCmd_signal⟩, waitHolds_iff, fun n s c x => execCopyFinish_goesOn,
    fun graph node n s g up j hg hup hnode hj hnew hfin hacc => ⟨execNodeFinish_stopped hg hup hnode hj hnew hfin hacc,
      fun hgoing x => execNodeFinish_releases hg hup hnode hj hnew hfin hacc hgoing⟩,
    fun q s bs hon hsound hread => ⟨execQDoorbell_overrun hon hsound hread, execQDoorbell_takes hon hsound hread⟩,
    fun q v s0 t => execQReset_resets, fun q v s => ⟨fun hon hx => ?stays, fun hon hx => ?disables, execQCtlWrite_disabled, fun hoff hx =>
      ⟨execQCtlWrite_enables hoff hx, execQCtlWrite_refuses hoff hx⟩⟩⟩
  case packets =>
    have hstep : exec i s = consume opc q s := by
      obtain ⟨rfl, rfl⟩ | ⟨rfl, rfl⟩ | ⟨rfl, rfl⟩ | ⟨rfl, rfl⟩ | ⟨rfl, rfl⟩ | ⟨rfl, rfl⟩ | ⟨rfl, rfl⟩ | ⟨rfl, rfl⟩ | ⟨rfl, rfl⟩ := hi
      all_goals rfl
    rw [hstep]
    refine fun hready hreset hread hopc => ⟨consume_malformed hready hreset hread hopc, fun sj under s2 hok hjoin hwrite => ?_⟩
    have hnext := consume_wellFormed hready hreset hread hopc hok hjoin hwrite
    exact ⟨fun hmay => hnext.trans (congrArg (fun t : State => Host.Outcome.next ((t.settleQueue q).pumpOn q)) (if_pos hmay)),
      fun hmay => hnext.trans (congrArg (fun t : State => Host.Outcome.next ((t.settleQueue q).pumpOn q)) (if_neg (Bool.eq_false_iff.mp hmay)))⟩
  case waits =>
    exact ⟨fun v => execWaitMemReread_holds hhead hsince hlive, fun v => execWaitMemReread_again hhead hsince hlive,
      execWaitMemTimeout_over hhead hsince⟩
  case stays => exact (execQCtlWrite_enabled hon).trans (if_pos hx)
  case disables => exact (execQCtlWrite_enabled hon).trans (if_neg (Bool.eq_false_iff.mp hx))

end Sys2Proof.Machine
end

section
/-! Pre-emption: how a request chooses its mode, what a save leaves in its slot, and what a restore brings back (R427 to R436). -/
namespace Sys2Proof.Machine
open Sys2Proof

/-! ### Requests and draining (R427 to R429) -/

section
variable {gid : Nat} {s : State} {g : Group} (hg : s.group? gid = some g)
include hg

theorem exec_preemptRequest_live (fromReset : Bool) (hp : g.phase = .live) : exec (.preemptRequest gid fromReset) s = .next (s.preemptAsked g fromReset) := by
  show execPreemptRequest gid fromReset s = _
  simp only [execPreemptRequest, hg, hp]

theorem exec_preemptRetry_chooses {r : Bool} (hp : g.phase = .live) (hw : g.wanted = some r) (ht : (s.companions g).any Group.trapping = false)
    (hi : (s.companions g).any Group.icinvOpen = false) : exec (.preemptRetry gid) s = .next (s.preempt { g with wanted := none } r true) := by
  show execPreemptRetry gid s = _
  simp only [execPreemptRetry, hg, hp, hw, ht, hi, Bool.false_eq_true, if_false]

theorem exec_drainLimit_reached {limit : Nat} (hp : g.phase = .drain limit) (hl : limit ≤ g.retired) (ht : (s.companions g).any Group.trapping = false)
    (hi : (s.companions g).any Group.icinvOpen = false) : exec (.drainLimit gid) s =
      .next (((s.companions g).foldl (fun (t : State) h => t.setGroup { h with phase := .live }) s).preempt { g with phase := .live } false false) := by
  show execDrainLimit gid s = _
  simp only [execDrainLimit, hg, hp, Nat.not_lt.2 hl, ht, hi, Bool.or_self, Bool.false_eq_true, if_false]

end

section
variable {s : State} {g : Group}

theorem State.preemptAsked_trapping (ht : (s.companions g).any Group.trapping = true) :
    s.preemptAsked g false = (s.setGroup { g with wanted := some false }).postOnce (.preemptRetry g.id) := by
  simp only [State.preemptAsked, ht, Bool.false_eq_true, if_true, if_false]

theorem State.preemptAsked_free {fromReset : Bool} (ht : (s.companions g).any Group.trapping = false)
    (hi : (s.companions g).any Group.icinvOpen = false) : s.preemptAsked g fromReset = s.preempt g fromReset true := by
  simp only [State.preemptAsked, ht, hi, Bool.false_eq_true, if_false]

/-! ### The choice of a mode (Table 15-6) -/

/-- Row 1, for a group that goes alone. -/
theorem State.preempt_drains (hd : (s.companions g).all s.drains = true) (halone : s.companions g = [g]) :
    s.preempt g false true = (s.setGroup { g with phase := .drain (g.desc.estimate + bits (s.ctxReg g.ctx 0x38) 63 32), wanted := none }).post
      (.drainLimit g.id) := by
  rw [halone] at hd
  simp only [State.preempt, halone, hd, Bool.not_false, Bool.and_self, if_true, List.foldl_cons, List.foldl_nil]

/-- Row 2. -/
theorem State.preempt_restarts {fromReset first : Bool} (hrow : (first && !fromReset && (s.companions g).all s.drains) = false)
    (hr : s.restartable g = true) : s.preempt g fromReset first = s.requeue g none := by
  simp only [State.preempt, hrow, hr, Bool.false_eq_true, if_true, if_false]

theorem State.beginSave_posts_saveComplete (slot : Nat) : (s.beginSave g slot).due.any (fun e => decide (e = .saveComplete g.id)) = true := by
  simp [State.beginSave]

end

/-! ### Saving (R432 to R434) -/

section
variable {gid slot : Nat} {s : State} {g : Group} (hg : s.group? gid = some g) (hp : g.phase = .saving slot) (hw : g.saveWaits = false)
  (ha : s.unaccepted gid = false)
include hg hp hw ha

/-- A checker finds the unit that saves faulty. -/
theorem exec_saveComplete_upset (hu : s.upsets.contains s.free = true) :
    exec (.saveComplete gid) s = .next ((s.flushL1 (s.viewOf g) [g.loc.flat]).abandonSave g) := by
  show execSaveComplete gid s = _
  simp only [execSaveComplete, hg, hp, hw, ha, hu, Bool.false_eq_true, if_true, if_false]

variable (hu : s.upsets.contains s.free = false) {s1 : State} (hs : s.flushL1 (s.viewOf g) [g.loc.flat] = s1) {image : List Byte}
  (hb : s1.imageBytes g.settleSave (decide (g.gang ≠ 0 ∨ g.desc.cores = 2)) = image)
include hu hs hb

theorem exec_saveComplete_unwritten (hx : s1.hwWrite g.part g.ctx (s1.slotBase g.ctx + slot * s1.slotSize g.ctx) image = none) :
    exec (.saveComplete gid) s = .next (s1.abandonSave g) := by
  show execSaveComplete gid s = _
  simp only [execSaveComplete, hg, hp, hw, ha, hu, hs, hb, hx, Bool.false_eq_true, if_false]

theorem exec_saveComplete_written {t : State}
    (hx : s1.hwWrite g.part g.ctx (s1.slotBase g.ctx + slot * s1.slotSize g.ctx) image = some t) :
    exec (.saveComplete gid) s = .next ((t.setGroup { g.settleSave with phase := .saved slot }).kick g.loc.die) := by
  show execSaveComplete gid s = _
  simp only [execSaveComplete, hg, hp, hw, ha, hu, hs, hb, hx, Bool.false_eq_true, if_false]

end

/-! ### Restoring (R353, R436) -/

/-- A group of the list of those to be brought back has no image that can be read. -/
def State.imageLost (s : State) (p : Nat × Nat × Nat) : Bool := ((s.group? p.1).bind s.imageOf).isNone

section
variable {gid : Nat} {s : State} {g : Group} (hg : s.group? gid = some g)
include hg

theorem exec_restoreGroup_live (hp : g.phase = .live) : exec (.restoreGroup gid) s = .next (s.issueQueueReplays gid) := by
  show execRestoreGroup gid s = _
  simp only [execRestoreGroup, hg, hp]

variable {slot : Nat} (hp : g.phase = .saved slot)
include hp

theorem exec_restoreGroup_notChosen (hc : s.choice g.pos.die ≠ .restore gid) : exec (.restoreGroup gid) s = .next (s.kick g.pos.die) := by
  show execRestoreGroup gid s = _
  simp only [execRestoreGroup, hg, hp]
  cases h : s.choice g.pos.die with
  | restore id => simp only [if_neg (fun e : id = gid => hc (e ▸ h))]
  | _ => rfl

variable (hc : s.choice g.pos.die = .restore gid) {places : List (Nat × Nat × Nat)} (hr : s.restorePlan g = some places)
include hc hr

theorem exec_restoreGroup_all (hl : places.find? s.imageLost = none) : exec (.restoreGroup gid) s =
    .next (((places.foldl (fun (t : State) p => (t.touchImage p.1).bringBack p.1 p.2.1 p.2.2) s).kick g.pos.die).settle gid) := by
  show execRestoreGroup gid s = _
  unfold State.imageLost at hl
  simp only [execRestoreGroup, hg, hp, hc, hr, hl, if_true]

theorem exec_restoreGroup_lost {p : Nat × Nat × Nat} (hl : places.find? s.imageLost = some p) :
    exec (.restoreGroup gid) s = .next (s.loseImage ((s.group? p.1).getD g)) := by
  show execRestoreGroup gid s = _
  unfold State.imageLost at hl
  simp only [execRestoreGroup, hg, hp, hc, hr, hl, if_true]

end

/-- Settles O48, from one lemma for each branch of the steps of a request, a save and a restore. -/
theorem preemptionSavesAndRestores : Obligations.PreemptionSavesAndRestores := by
  refine ⟨fun gid fr s g hg => ⟨fun hp ht hi => ?asked, fun hp ht hfr => ?waits, fun r => exec_preemptRetry_chooses hg,
      fun limit => exec_drainLimit_reached hg⟩, fun s g fr first => ⟨?drains, State.preempt_restarts⟩,
    fun gid slot s g hg hp hw ha => ⟨exec_saveComplete_upset hg hp hw ha,
      fun hu => ⟨exec_saveComplete_unwritten hg hp hw ha hu rfl rfl, fun t => exec_saveComplete_written hg hp hw ha hu rfl rfl⟩⟩,
    fun gid slot s g places hg hp => ⟨exec_restoreGroup_notChosen hg hp,
      fun hc hr => ⟨exec_restoreGroup_all hg hp hc hr, fun p => exec_restoreGroup_lost hg hp hc hr⟩⟩,
    fun gid s g => exec_restoreGroup_live, fun s g => State.beginSave_posts_saveComplete 0⟩
  case asked => rw [exec_preemptRequest_live hg fr hp, State.preemptAsked_free ht hi]
  case waits =>
    obtain rfl := State.group?_id hg
    rw [exec_preemptRequest_live hg fr hp, hfr, State.preemptAsked_trapping ht]
  case drains =>
    rintro rfl rfl hd halone
    exact State.preempt_drains hd halone

end Sys2Proof.Machine
end

section
/-! Leaving a handler: a tile copy that stood still goes on then, and where its next row does not translate its trap is taken at once (R284, R425,
Table 15-1). -/
namespace Sys2Proof.Machine
open Sys2Proof

/-- A global pointer to rows at 2^35, in a page that the placed page tables do not map. -/
def unmappedRows : Ptr :=
  { valid := true, resv := 0, anchor := ⟨0, 0, 0⟩, swz := 0, scope := 0, cls := 0, space := 0, fmt := 0x12, len := 0x1000, base := 2 ^ 35 }
/-- The last row of a `TCOPY` from the scratchpad to those rows, which stands still since it did not translate. -/
def strandedCopy : TcopyCmd :=
  { out := true, hnum := 5, h := { bound := true, base := 0, words := 1024, fmt := 0x12, planes := rowWords 0x12, gen := 0 }
    ptr := BitVec.ofNat 128 unmappedRows.pack, e0 := 0, pitch := 32, row0 := 0, row := 0, remaining := 1, rows := [], asked := false, stuck := true }
/-- A group in the handler of the trap of that row, with no other trap pending. -/
def strandedGroup : Group :=
  { placeGroup 1 false with
    phase := .handler 0 { cause := 0x10, lane := 0, detail := 0, addr := 2 ^ 35, first := 0x1000 }, slot := some 0
    handles := [(5, strandedCopy.h)], cmds := [{ id := 9, unit := 0, addr := 0x1000, kind := .tcopy strandedCopy }] }
/-- It has left the row unmapped, and its context names no handler any more. -/
def strandedState : State := { State.reset.withTables with groups := [strandedGroup], nextId := 10, due := [] }

/-- The row's trap is raised again in the group that has just become live; with no handler to enter the group ends by it (R420). -/
theorem strandedState_leaveHandler : ((strandedState.leaveHandler 1).group? 1).map (fun h => h.phase) = some (.ended 1) := by decide +kernel

/-- Refutes O44: a group that leaves its handler with no trap pending is not live where a tile copy of it that stood still meets its trap again. -/
theorem not_trapReturnReloadsTheFrame : ¬ Obligations.TrapReturnReloadsTheFrame := by
  rintro ⟨-, -, hleave⟩
  obtain ⟨h, hfound, -, hlive, -⟩ := (hleave strandedState strandedGroup rfl).1 rfl rfl
  have hended := strandedState_leaveHandler
  rw [show (strandedState.leaveHandler 1).group? 1 = some h from hfound, Option.map_some, hlive rfl] at hended
  exact absurd hended (by decide)

end Sys2Proof.Machine
end

section
/-! Traps: a handler is entered at its address modulo 2^57, so a trap that carries an address beyond is a counterexample (R18, R418, R424). -/
namespace Sys2Proof.Machine
open Sys2Proof

/-! ### A handler entered (R424) -/

/-- The lanes of a unit that have not exited stand at the entry, of which a program counter holds 57 bits (R18). -/
theorem pcOf_enterCrew (g : Group) {u : Nat} (t : Trap) (entry slot base len : Nat) {l : Nat} (hu : u ≠ 32) (hl : l < 32) :
    (enterCrew g u t entry slot base len).pcOf l = if (g.unit u).out l then (g.unit u).pcOf l else entry % 2 ^ 57 := by
  have hpc : (enterCrew g u t entry slot base len).pcOf l = ((g.unit u).setPcs (allLanes.filter (fun l => !(g.unit u).out l)) entry).pcOf l := by
    simp [enterCrew, Crew.reports, Crew.pcOf, hu]
  have hmem : l ∈ allLanes := (mem_natsFrom 32 0 l).2 (by omega)
  rw [hpc, Crew.pcOf_setPcs]
  cases h : (g.unit u).out l <;> simp [h, hmem]

/-- A group whose unit has entered the handler of a trap, its frame in slot `k`. -/
def Group.inHandler (g : Group) (u : Nat) (t : Trap) (entry k base size : Nat) : Group :=
  { g.setUnit u (enterCrew g u t entry k base size) with phase := .handler u t, slot := some k }

theorem Group.unit_inHandler (g : Group) {u : Nat} (t : Trap) (entry k base size : Nat) (hu : g.hasUnit u = true) :
    (g.inHandler u t entry k base size).unit u = enterCrew g u t entry k base size :=
  (Group.unit_setUnit g u u _ hu).trans (if_pos rfl)

/-- With an entry address, a free slot that is large enough and a frame that is written, the unit stands in its handler. -/
theorem State.group?_enterHandler {s s1 : State} {g : Group} {u entry k : Nat} {t : Trap} (he : t.entry = some entry) (h0 : entry ≠ 0)
    (hslot : g.slot = none) (hk : s.freeSlot g.ctx = some k) (hlen : (frameBytes g u t (!g.pend.isEmpty)).length ≤ s.slotSize g.ctx)
    (hput : s.putVirtual g (s.slotBase g.ctx + k * s.slotSize g.ctx) (frameBytes g u t (!g.pend.isEmpty)) = .ok s1)
    (hg : (s1.group? g.id).isSome = true) : (s.enterHandler g u t).group? g.id =
      some (g.inHandler u t entry k (s.slotBase g.ctx + k * s.slotSize g.ctx) (s.slotSize g.ctx)) := by
  obtain ⟨old, hold⟩ := Option.isSome_iff_exists.mp hg
  have hset : ∀ h : Group, h.id = g.id → (s1.setGroup h).group? g.id = some h := fun h hid => by
    rw [← hid]
    exact State.group?_setGroup_self s1 h old (hid ▸ hold)
  have hentered := hset (g.inHandler u t entry k (s.slotBase g.ctx + k * s.slotSize g.ctx) (s.slotSize g.ctx)) (Group.setUnit_id g u _)
  simp only [State.enterHandler, he, Option.getD_some, h0, if_false, hslot, hk, Nat.not_lt.2 hlen, hput]
  split
  · exact hentered
  · exact hentered

/-! ### A frame written where every byte of it translates -/

/-- Bytes each of which translates translate together. -/
theorem State.vaBytes_eq_map {s : State} {v : View} {core ctx : Nat} {need : Need} (f : Nat → XByte) : ∀ (n va : Nat),
    (∀ a, va ≤ a → a < va + n → ∃ l, s.xbyte v core ctx a need 0 0 = .ok (f a, l)) →
    s.vaBytes v core ctx need va n = .ok ((natsFrom va n).map f)
  | 0, va, _ => rfl
  | n + 1, va, h => by
    obtain ⟨l, hl⟩ := h va (Nat.le_refl _) (by omega)
    have ih := State.vaBytes_eq_map f n (va + 1) (fun a h1 h2 => h a (by omega) (by omega))
    simp only [State.vaBytes, hl, ih, natsFrom, List.map_cons]

theorem State.putVirtual_of_xbyte {s : State} {g : Group} {va : Nat} {bs : List Byte} (f : Nat → XByte)
    (h : ∀ a, va ≤ a → a < va + bs.length → ∃ l, s.xbyte (s.viewOf g) g.loc.flat g.ctx a 1 0 0 = .ok (f a, l))
    (hu : s.upsets.contains s.free = false) : s.putVirtual g va bs = .ok (s.storeAll g (((natsFrom va bs.length).map f).zip bs)) := by
  simp only [State.putVirtual, State.vaBytes_eq_map f bs.length va h, hu, Bool.false_eq_true, if_false]

/-! ### A trap whose entry is no address of 57 bits

The placed page tables map the first 2^34 bytes of context 0 to themselves; its save slots are two pages from 0x8000. -/

/-- A user trap with such an entry. -/
def farTrap : Trap := { cause := 0x18, lane := 0, detail := 0, addr := 0x1000, first := 0x1000, entry := some (2 ^ 57) }
/-- A group of one crew stopped for it. -/
def farGroup : Group := { placeGroup 1 false with phase := .stopping 0 farTrap }
/-- The state with that group alone. -/
def farState : State :=
  { (State.reset.withTables.setReg 0 0x10030 0x8000).setReg 0 0x10038 0x1002 with groups := [farGroup], due := [] }
/-- The frame of that trap. -/
def farFrame : List Byte := frameBytes farGroup 0 farTrap false

/-- The page of 2^34 bytes that every low address lies in. -/
def lowPage (va : Nat) : Leaf :=
  { frame := 0, va := 0, size := 2 ^ 34, share := 2, repl := false, aflag := false, r := true, w := true, x := true, asked := va }
/-- The translation of a low address: itself, coherent. -/
def lowByte (va : Nat) : XByte := { pa := va, share := 2, repl := 0, edge := false }

theorem bits_of_low {va lv : Nat} (h : va < 2 ^ 30) (hl : 2 ≤ lv) : bits va (20 + 9 * lv) (12 + 9 * lv) = 0 := by
  have hlt : va < 2 ^ (12 + 9 * lv) := h.trans_le (Nat.pow_le_pow_right (by omega) (by omega))
  rw [bits, Nat.shiftRight_eq_div_pow, Nat.div_eq_of_lt hlt, Nat.zero_mod]

theorem readEntry_lowPage {va : Nat} (h : va < 2 ^ 30) : readEntry 0 2 va (7 * 2 ^ 61 + 0x81F) = .leaf (lowPage va) := by
  have hva : va / 17179869184 = 0 := Nat.div_eq_of_lt (by omega)
  simp [readEntry, bits, bit, pageLevel, pageSize, lowPage, Nat.testBit, Nat.shiftRight_eq_div_pow, hva]

/-- A walk that finds a pointer to the next table in the hashed window goes on in that table. -/
theorem State.walkFrom_of_table {s : State} {v : View} {va fuel level table next : Nat} {bs : List Byte} (hr : regionOf v table = .hashed)
    (ha : v.admits table false = true) (hb : s.homeGet v (table + 8 * bits va (20 + 9 * level) (12 + 9 * level)) 8 = some bs)
    (he : readEntry s.peer level va (ofLeBytes bs) = .table next) :
    s.walkFrom v va (fuel + 1) level table = s.walkFrom v va fuel (level - 1) next := by
  simp only [State.walkFrom, hr, ha, hb, he, Bool.not_true, Bool.false_eq_true, if_false]

theorem State.walkFrom_of_leaf {s : State} {v : View} {va fuel level table : Nat} {bs : List Byte} {l : Leaf} (hr : regionOf v table = .hashed)
    (ha : v.admits table false = true) (hb : s.homeGet v (table + 8 * bits va (20 + 9 * level) (12 + 9 * level)) 8 = some bs)
    (he : readEntry s.peer level va (ofLeBytes bs) = .leaf l) : s.walkFrom v va (fuel + 1) level table = .ok l := by
  simp only [State.walkFrom, hr, ha, hb, he, Bool.not_true, Bool.false_eq_true, if_false]

theorem farState_walk {va : Nat} (h : va < 2 ^ 30) : farState.walk (farState.viewOf farGroup) 0 va = .ok (lowPage va) := by
  have hcold : (farState.dieXlate ((farState.viewOf farGroup).sliceDie va)).wcache = [] := rfl
  have hroot : bits (farState.ctxReg 0 0) 56 12 * 4096 = placeTable := by decide +kernel
  have hwalk : farState.walk (farState.viewOf farGroup) 0 va = farState.walkFrom (farState.viewOf farGroup) va 5 4 placeTable := by
    rw [State.walk, hcold, hroot]
    rfl
  rw [hwalk, State.walkFrom_of_table (next := placeTable + 0x1000) (bs := leBytes 8 (placeTable + 0x1000 + 1)) (by decide +kernel) (by decide +kernel)
      (by rw [bits_of_low h (by omega)]; decide +kernel) rfl,
    State.walkFrom_of_table (next := placeTable + 0x2000) (bs := leBytes 8 (placeTable + 0x2000 + 1)) (by decide +kernel) (by decide +kernel)
      (by rw [bits_of_low h (by omega)]; decide +kernel) rfl]
  exact State.walkFrom_of_leaf (bs := leBytes 8 (7 * 2 ^ 61 + 0x81F)) (by decide +kernel) (by decide +kernel)
    (by rw [bits_of_low h (by omega)]; decide +kernel) (by rw [ofLeBytes_leBytes]; exact readEntry_lowPage h)

theorem farState_xbyte {va : Nat} (h : va < 2 ^ 30) :
    ∃ l, farState.xbyte (farState.viewOf farGroup) farGroup.loc.flat farGroup.ctx va 1 0 0 = .ok (lowByte va, l) := by
  have hon : bit (farState.ctxReg 0 0) 0 = true := by decide +kernel
  have hleaf : farState.leafOf (farState.viewOf farGroup) 0 0 va = .ok (lowPage va) := by
    have hcore : tlbFind (farState.core 0).tlb 0 va = none := rfl
    have hdie : tlbFind (farState.dieXlate ((farState.viewOf farGroup).sliceDie va)).tlb 0 va = none := rfl
    simp only [State.leafOf, hon, hcore, hdie, farState_walk h, Bool.not_true, Bool.false_eq_true, if_false]
  have hmod : va % 2 ^ 45 = va := Nat.mod_eq_of_lt (by omega)
  have hregion : regionOf (farState.viewOf farGroup) va = .hashed := by
    have hwindow : (farState.viewOf farGroup).dies.length * (farState.viewOf farGroup).lines * 192 = 137438945280 := by decide +kernel
    rw [regionOf, hwindow, if_pos (by omega)]
  have hpa : (lowPage va).frame + (va - (lowPage va).va) = va := Nat.zero_add va
  have hcheck : leafCheck (farState.viewOf farGroup) 0 (lowPage va) va 1 0 0 = none := by
    have hown : va / 2 ^ 45 = 0 := Nat.div_eq_of_lt (by omega)
    simp only [leafCheck, hpa, hmod, hown, hregion]
    simp [lowPage]
  have hinside : isEdge (lowPage va) va = false := by
    simp only [isEdge, lowPage, hmod, decide_eq_false_iff_not]
    omega
  have himports : (farState.viewOf farGroup).imported va = false := rfl
  have hpeer : farState.peer = 0 := rfl
  refine ⟨lowPage va, ?_⟩
  show farState.xbyte (farState.viewOf farGroup) 0 0 va 1 0 0 = _
  simp only [State.xbyte, hleaf, hpeer, hcheck, hpa, hmod, hinside, himports]
  rfl

theorem farFrame_length : farFrame.length = 0x680 := by decide +kernel

theorem farState_putVirtual : ∃ s1, farState.putVirtual farGroup 0x8000 farFrame = .ok s1 ∧ (s1.group? 1).isSome = true := by
  refine ⟨_, State.putVirtual_of_xbyte lowByte (fun a _ ha => farState_xbyte ?_) (by decide +kernel), ?_⟩
  · rw [farFrame_length] at ha
    omega
  · decide +kernel

/-- Refutes O43: the statement has the lanes stand at whatever entry the trap carries. Of a trap with entry 2^57, which `State.handlerAt` never is
but the statement admits, lane 0 stands at 0. -/
theorem not_trapsStopTheGroupAndEnterTheHandler : ¬ Obligations.TrapsStopTheGroupAndEnterTheHandler := by
  rintro ⟨-, -, -, henter⟩
  obtain ⟨s1, hput, hgroup⟩ := farState_putVirtual
  have hslot : farState.freeSlot 0 = some 0 := by decide +kernel
  have hsize : farState.slotSize 0 = 0x1000 := by decide +kernel
  have hbase : farState.slotBase 0 + 0 * farState.slotSize 0 = 0x8000 := by decide +kernel
  have hfits : farFrame.length ≤ farState.slotSize 0 := by rw [farFrame_length, hsize]; omega
  obtain ⟨-, -, hentered⟩ := henter farState s1 farGroup 0 0 farTrap
  obtain ⟨h, hfound, -, -, -, -, -, hpc, -⟩ := (hentered (by decide) (.inr ⟨rfl, hslot⟩) hfits rfl).2 (hbase ▸ hput) hgroup
  have hin := State.group?_enterHandler (s := farState) (g := farGroup) (u := 0) (t := farTrap) rfl (by decide) rfl hslot hfits (hbase ▸ hput) hgroup
  obtain rfl := Option.some.inj (hfound.symm.trans hin)
  have hlane := hpc 0 (by decide) (by decide)
  rw [Group.unit_inHandler _ _ _ _ _ _ rfl, pcOf_enterCrew _ _ _ _ _ _ (by decide) (by decide)] at hlane
  exact absurd hlane (by decide)

end Sys2Proof.Machine
end

section
/-! Requests from outside the package: packets of other packages in their flow's order, requests at the ports, what the host completes, and requests
of importing partitions (R453 to R456, R472 to R484). -/
namespace Sys2Proof.Machine
open Sys2Proof

/-! ### Packets of other packages (R453 to R456) -/

/-- The number that the flow of a packet expects. -/
def State.axExpected (s : State) (p : AxPkt) : Nat := nget (fun _ => 0) s.net.axExpect (axFlowIn p)
/-- A packet is taken in its turn: its flow expects the next number, and acknowledges so. -/
def State.axTake (s : State) (p : AxPkt) : State :=
  State.axAck { s with net := { s.net with axExpect := nset (fun _ => 0) s.net.axExpect (axFlowIn p) ((s.axExpected p + 1) % 65536) } } p

section
variable {p : AxPkt} {s : State} {ev : Ev} {k : State → Out} (hpeer : p.srcPeer ≠ s.peer) (hres : axReserved p = false)
  (hswitch : ¬ (2 ^ 32 ≤ p.tag ∧ p.cls = 2))
include hpeer hres hswitch

theorem State.axArrive_ofOtherPackage : s.axArrive p ev k =
    if p.seq = s.axExpected p then k (s.axTake p)
    else if (p.seq + 65536 - s.axExpected p) % 65536 < 32768 then .next (if s.axHeld p.dstGw < 4096 then s.post ev else s)
    else .next (s.axAck p) :=
  (if_neg (Bool.eq_false_iff.1 hres)).trans (if_neg (not_or.2 ⟨hpeer, hswitch⟩))

theorem State.axArrive_inTurn (h : p.seq = s.axExpected p) : s.axArrive p ev k = k (s.axTake p) :=
  (s.axArrive_ofOtherPackage hpeer hres hswitch).trans (if_pos h)

/-! A packet that comes in its turn: a request is served, a reply gives the request it answers what it carries (R454, R456). -/

theorem execAxsisRead_inTurn (h : p.seq = s.axExpected p) : execAxsisRead p s = .next ((s.axTake p).servePeer { p with typ := 1 }) :=
  s.axArrive_inTurn hpeer hres hswitch h
theorem execAxsisWrite_inTurn (h : p.seq = s.axExpected p) : execAxsisWrite p s = .next ((s.axTake p).servePeer { p with typ := 3 }) :=
  s.axArrive_inTurn hpeer hres hswitch h
theorem execAxsisAtomic_inTurn (h : p.seq = s.axExpected p) : execAxsisAtomic p s = .next ((s.axTake p).servePeer { p with typ := 5 }) :=
  s.axArrive_inTurn hpeer hres hswitch h
theorem execReadReply_inTurn (h : p.seq = s.axExpected p) : execReadReply p s = .next ((s.axTake p).answerRemote p.tag (replyOf p)) :=
  s.axArrive_inTurn hpeer hres hswitch h
theorem execWriteAcknowledgement_inTurn (h : p.seq = s.axExpected p) :
    execWriteAcknowledgement p s = .next ((s.axTake p).answerRemote p.tag (replyOf p)) := s.axArrive_inTurn hpeer hres hswitch h
theorem execAtomicReply_inTurn (h : p.seq = s.axExpected p) : execAtomicReply p s = .next ((s.axTake p).answerRemote p.tag (replyOf p)) :=
  s.axArrive_inTurn hpeer hres hswitch h

theorem execAxsisWrite_ahead (h : p.seq ≠ s.axExpected p) (hd : (p.seq + 65536 - s.axExpected p) % 65536 < 32768) :
    execAxsisWrite p s = .next (if s.axHeld p.dstGw < 4096 then s.post (.axsisWrite p) else s) :=
  (s.axArrive_ofOtherPackage hpeer hres hswitch).trans ((if_neg h).trans (if_pos hd))
theorem execAxsisWrite_behind (h : p.seq ≠ s.axExpected p) (hd : 32768 ≤ (p.seq + 65536 - s.axExpected p) % 65536) :
    execAxsisWrite p s = .next (s.axAck p) :=
  (s.axArrive_ofOtherPackage hpeer hres hswitch).trans ((if_neg h).trans (if_neg (Nat.not_lt.2 hd)))

end

theorem axArrival_reserved {p : AxPkt} {s : State} (h : axReserved p = true) : ∀ i ∈ [Instr.axsisRead p, .axsisWrite p, .axsisAtomic p, .readReply p,
    .writeAcknowledgement p, .atomicReply p, .flowAcknowledgement p], exec i s = .next (s.axDiscard p.dstGw) := by
  intro i hi
  simp only [List.mem_cons, List.not_mem_nil, or_false] at hi
  obtain rfl | rfl | rfl | rfl | rfl | rfl | rfl := hi
  all_goals exact if_pos h

/-- A read of memory that the gateway's partition does not own is refused (R482). -/
theorem servePeer_read_unowned {p : AxPkt} {s : State} (htyp : p.typ = 1)
    (h : p.addr / 2 ^ 45 ≠ s.peer ∨ s.ownsBytes (s.partIx (p.dstGw / 2)) (p.addr % 2 ^ 45) p.count = false) :
    s.servePeer p = s.peerReply p 2 (.error 6) := by
  simp only [State.servePeer, htyp, if_true]
  exact if_pos (by simpa using h)

/-! ### Requests at the ports (R472, R477, R478, R481) -/

theorem tlpPlace_memory {q : Tlp} (h : q.off < 2 ^ 40) : tlpPlace q = .memory q.off := if_pos h

theorem tlpPlace_window {q : Tlp} {o : Nat} (h : q.off = 2 ^ 40 + o) (ho : o < 0x100000) : tlpPlace q = .window o := by
  rw [tlpPlace, if_neg (by omega), if_pos (by omega), h, Nat.add_sub_cancel_left]

/-- A request that passes IDE leaves the port as it was. -/
theorem ideGate_fst_of_pass {q : Tlp} {s : State} (h : (s.ideGate q).2 = .pass) : (s.ideGate q).1 = s := by
  revert h
  unfold State.ideGate
  extract_lets
  split
  · exact nofun
  split
  · exact nofun
  split
  · exact nofun
  · exact fun _ => rfl

/-- Counting a refused request writes a register. -/
theorem byteAt_refuseIn (s : State) (port a : Nat) : (s.refuseIn port).byteAt a = s.byteAt a := rfl

theorem inbound_discarded {q : Tlp} {s : State} (h : (s.ideGate q).2 = .discard) :
    ∀ i ∈ [Instr.inboundPostedWrite q, .inboundRead q, .inboundAtomicop q], exec i s = .next (s.ideGate q).1 := by
  have hwrite : execInboundPostedWrite q s = .next (s.ideGate q).1 := by simp only [execInboundPostedWrite, h]
  have hread : execInboundRead q s = .next (s.ideGate q).1 := by simp only [execInboundRead, h]
  have hatom : execInboundAtomicop q s = .next (s.ideGate q).1 := by simp only [execInboundAtomicop, h]
  intro i hi
  simp only [List.mem_cons, List.not_mem_nil, or_false] at hi
  obtain rfl | rfl | rfl := hi
  · exact hwrite
  · exact hread
  · exact hatom

section
variable {q : Tlp} {s : State} (hgate : (s.ideGate q).2 = .pass)
include hgate

section
variable (hoff : q.off < 2 ^ 40)
include hoff

theorem execInboundPostedWrite_mapped {x : Part} {bs : List XByte} (hx : (s.ideGate q).1.inAddrs q q.off q.data.length true = some (x, bs))
    (hfirst : (s.ideGate q).1.unaccepted (tlpOwner q) = false) : execInboundPostedWrite q s =
      .next ((s.ideGate q).1.homeWriteAll ((s.ideGate q).1.view x.id) (tlpOwner q) (bs.zip q.data)) := by
  simp only [execInboundPostedWrite, hgate, tlpPlace_memory hoff, hx, hfirst, Bool.false_eq_true, if_false]

theorem execInboundPostedWrite_unmapped (hx : (s.ideGate q).1.inAddrs q q.off q.data.length true = none) :
    execInboundPostedWrite q s = .next ((s.ideGate q).1.refuseIn q.port) := by
  simp only [execInboundPostedWrite, hgate, tlpPlace_memory hoff, hx]

theorem execInboundRead_mapped {x : Part} {bs : List XByte} (hx : (s.ideGate q).1.inAddrs q q.off q.len false = some (x, bs))
    (hfirst : (s.ideGate q).1.unaccepted (tlpOwner q) = false) : execInboundRead q s =
      let s1 := (s.ideGate q).1
      let s2 := s1.settleHomes (s1.view x.id) bs
      let as := bs.map (fun b => storage (s1.view x.id) (s2.hwPlace (s1.view x.id) b))
      .next (s2.completeIn q 0 (as.any s2.poisoned) (as.map s2.byteAt)) := by
  simp only [execInboundRead, hgate, tlpPlace_memory hoff, hx, hfirst, Bool.false_eq_true, if_false]

theorem execInboundRead_unmapped (hx : (s.ideGate q).1.inAddrs q q.off q.len false = none) :
    execInboundRead q s = .next ((s.ideGate q).1.completeIn q 1 false []) := by
  simp only [execInboundRead, hgate, tlpPlace_memory hoff, hx]

end

theorem execInboundRead_window {o : Nat} (hoff : q.off = 2 ^ 40 + o) (ho : o < 0x100000) (hshape : windowShape o q.len = true)
    (hfirst : (s.ideGate q).1.unaccepted (tlpOwner q) = false) : execInboundRead q s = .next ((s.ideGate q).1.completeIn q 0 false
      (leBytes q.len ((s.ideGate q).1.windowRead q.port (o / 8 * 8) / 2 ^ (8 * (o % 8))))) := by
  simp only [execInboundRead, hgate, tlpPlace_window hoff ho, hshape, hfirst, Bool.false_eq_true, if_false, if_true]

end

/-- The width of an AtomicOp's operand; a compare-and-swap carries two. -/
def atomicopWidth (q : Tlp) : Nat := if q.op = 2 then q.data.length / 2 else q.data.length
/-- The size of the replicated page that translated bytes begin in, 0 for any other page. -/
def replOf (bs : List XByte) : Nat := (bs.map (fun b => b.repl)).headD 0
/-- What an AtomicOp of a partition asks of the home of the bytes it names. -/
def atomicopRequest (q : Tlp) (x : Part) (bs : List XByte) : HomeReq :=
  { id := 0, addr := (bs.map (fun b => b.pa % 2 ^ 45)).headD 0, op := tlpOp q, len := atomicopWidth q, data := q.data, core := none,
    coherent := true, part := x.id }
/-- An AtomicOp is performed, at its home or at the sequencer of its replicated page: the state after it, and the old value. -/
def State.performAtomicop (s : State) (q : Tlp) (x : Part) (bs : List XByte) : State × Option (List Byte) :=
  let v := s.view x.id
  let r := atomicopRequest q x bs
  if replOf bs = 0 then (s.catchUp v (lineOf r)).performAt v r else s.atomReplica v (64 * v.dies.headD 0) r (replOf bs)

section
variable {q : Tlp} {s : State} (hgate : (s.ideGate q).2 = .pass) (hoff : q.off < 2 ^ 40)
include hgate hoff

theorem execInboundAtomicop_performed {x : Part} {bs : List XByte} {old : List Byte} {y : State} (hwidth : atomicopWidth q = 4 ∨ atomicopWidth q = 8)
    (halign : q.off % atomicopWidth q = 0) (hop : q.op ≤ 2) (hx : (s.ideGate q).1.inAddrs q q.off (atomicopWidth q) true = some (x, bs))
    (hcoherent : bs.all (fun b => decide (b.share = 2)) = true) (hfirst : (s.ideGate q).1.unaccepted (tlpOwner q) = false)
    (hheld : replOf bs ≠ 0 →
      (s.ideGate q).1.pageHeld ((s.ideGate q).1.view x.id) ((atomicopRequest q x bs).addr / replOf bs * replOf bs) = false)
    (hy : (s.ideGate q).1.performAtomicop q x bs = (y, some old)) : execInboundAtomicop q s = .next (y.completeIn q 0 false old) := by
  have hfree : ¬ (replOf bs ≠ 0 ∧
      (s.ideGate q).1.pageHeld ((s.ideGate q).1.view x.id) ((atomicopRequest q x bs).addr / replOf bs * replOf bs) = true) :=
    fun h => Bool.false_ne_true ((hheld h.1).symm.trans h.2)
  unfold State.performAtomicop at hy
  unfold atomicopRequest replOf at hy hfree
  unfold atomicopWidth at hwidth halign hx hy
  simp only [execInboundAtomicop, hgate, tlpPlace_memory hoff, if_pos (And.intro hwidth (And.intro halign hop)), hx, hcoherent, hfirst, hfree, hy,
    Bool.not_true, Bool.false_or, Bool.and_eq_true, decide_eq_true_eq, Bool.false_eq_true, if_false]

theorem execInboundAtomicop_otherWidth (h4 : atomicopWidth q ≠ 4) (h8 : atomicopWidth q ≠ 8) :
    execInboundAtomicop q s = .next ((s.ideGate q).1.completeIn q 2 false []) := by
  have hnone : ¬ ((atomicopWidth q = 4 ∨ atomicopWidth q = 8) ∧ q.off % atomicopWidth q = 0 ∧ q.op ≤ 2) := fun h => h.1.elim h4 h8
  simp only [atomicopWidth] at hnone
  simp only [execInboundAtomicop, hgate, tlpPlace_memory hoff, if_neg hnone]

end

/-! ### Completions of the host, and cross-partition windows (R480, R482 to R484) -/

theorem execHostCompletionTimeout_found {tag : Nat} {s : State} {r : RemoteReq} (hr : s.remote.find? (fun y => y.tag = tag) = some r) :
    execHostCompletionTimeout tag s =
      if s.now (r.core / 96) < r.since + bits (s.reg (16 + hostPort r.pa) 0x3008) 31 0 then .next (s.post (.hostCompletionTimeout tag))
      else .next (s.answerRemote tag (.error 7)) := by
  simp only [execHostCompletionTimeout, hr]

section
variable {importer exporter : Nat} {r : HomeReq} {s : State}

theorem execXpartRequest_refused (h : s.linked importer r = false ∨ s.admits importer exporter r = none) :
    execXpartRequest importer exporter r s = .next (s.answerRemote r.id (.error 8)) := by
  have hnone : (if s.linked importer r then s.admits importer exporter r else none) = none := by
    obtain h | h := h
    · rw [h]; rfl
    · rw [h, ite_self]
  simp only [execXpartRequest, hnone]

theorem execXpartRequest_admitted {k : Nat} (hlink : s.linked importer r = true) (hk : s.admits importer exporter r = some k) :
    execXpartRequest importer exporter r s = .next (State.toHome { s with net := { s.net with admitted := s.net.admitted ++ [(r.id, exporter, k)] } }
      { r with part := exporter, core := none, coherent := true }) := by
  simp only [execXpartRequest, hlink, hk, if_true]

/-- A window that admits a request is open to the importer and holds the bytes that it touches, and its exporter is not under reset (R484). -/
theorem State.admits_spec {k : Nat} (h : s.admits importer exporter r = some k) : s.resetting exporter = false ∧
    s.xwinOpen exporter k importer = true ∧ (s.xwinRange exporter k).1 ≤ r.addr ∧
    r.addr + homeSize r ≤ (s.xwinRange exporter k).1 + (s.xwinRange exporter k).2 := by
  unfold State.admits at h
  split at h
  · exact nomatch h
  next hlive =>
  obtain ⟨hreset, -⟩ := Bool.or_eq_false_iff.1 (Bool.eq_false_iff.2 hlive)
  have hfound := List.find?_some h
  simp only [Bool.and_eq_true, decide_eq_true_eq] at hfound
  obtain ⟨⟨hopen, hlo, hhi⟩, -⟩ := hfound
  exact ⟨hreset, hopen, hlo, hhi⟩

end

theorem execXwinDrained_empty {part k : Nat} {s : State} (hclosed : bit (s.reg part (0x60000 + 0x40 * k)) 63 = false)
    (hempty : s.net.admitted.any (fun y => decide (y.2 = (part, k))) = false) : execXwinDrained part k s =
      .next (s.setReg part (0x60000 + 0x40 * k) (setBits (s.reg part (0x60000 + 0x40 * k)) 62 62 0)) := by
  simp only [execXwinDrained, hclosed, hempty, Bool.false_eq_true, if_false]

/-- Settles O57: each kind of request in its own lemmas, one for each outcome. -/
theorem outsideRequestsAreServedOrRefused : Obligations.OutsideRequestsAreServedOrRefused := by
  refine ⟨fun p s hpeer hres hswitch => ⟨fun h => ?inTurn, execAxsisWrite_ahead hpeer hres hswitch, execAxsisWrite_behind hpeer hres hswitch⟩,
    fun p s => axArrival_reserved, fun p s => servePeer_read_unowned,
    fun q s hgate hoff => ⟨fun x bs => execInboundPostedWrite_mapped hgate hoff,
      fun hx => ⟨execInboundPostedWrite_unmapped hgate hoff hx, fun a => ?sameBytes⟩,
      fun x bs => execInboundRead_mapped hgate hoff, execInboundRead_unmapped hgate hoff, fun x bs old y => execInboundAtomicop_performed hgate hoff,
      execInboundAtomicop_otherWidth hgate hoff⟩,
    fun q s => inbound_discarded, fun q s o hoff ho hshape hgate => execInboundRead_window hgate hoff ho hshape, fun tag ok bs s => rfl,
    fun tag s r hr => ⟨fun h => ?waits, fun h => ?late⟩,
    fun importer exporter r s => ⟨fun h => execXpartRequest_refused (.inl h), fun h => execXpartRequest_refused (.inr h),
      fun k => execXpartRequest_admitted, fun k => State.admits_spec⟩,
    fun part k s => execXwinDrained_empty⟩
  case inTurn =>
    exact ⟨execAxsisRead_inTurn hpeer hres hswitch h, execAxsisWrite_inTurn hpeer hres hswitch h, execAxsisAtomic_inTurn hpeer hres hswitch h,
      execReadReply_inTurn hpeer hres hswitch h, execWriteAcknowledgement_inTurn hpeer hres hswitch h, execAtomicReply_inTurn hpeer hres hswitch h⟩
  case sameBytes => rw [byteAt_refuseIn, ideGate_fst_of_pass hgate]
  case waits => exact (execHostCompletionTimeout_found hr).trans (if_pos h)
  case late => exact (execHostCompletionTimeout_found hr).trans (if_neg (Nat.not_lt.2 h))

end Sys2Proof.Machine
end

section
/-! The meshes: what an output grants and how packets age, move and are delivered, reorder credits, confirmations and the permit audit
(R438 to R444). -/
namespace Sys2Proof.Machine
open Sys2Proof

/-! ### The packet granted (R441, R442) -/

/-- A packet is granted at the head of its channel, where it is ready and behind no saturated packet of its input. -/
theorem State.granted_spec {die router out : Nat} {s : State} {p : MeshPkt} (h : s.granted die router out = some p) :
    p ∈ s.heads die router ∧ s.readyFor p out = true ∧ s.behindSaturated (s.heads die router) p = false := by
  unfold State.granted at h
  extract_lets heads at h
  split at h
  · exact nomatch h
  next first others hcandidates =>
  have hmem : p ∈ heads.filter (fun q => s.readyFor q out && !s.behindSaturated heads q) := by
    rw [hcandidates, ← Option.some.inj h]
    refine List.foldlRecOn others _ (motive := fun b => b ∈ first :: others) List.mem_cons_self fun b hb q hq => ?_
    split
    · exact List.mem_cons_of_mem _ hq
    · exact hb
  simpa only [List.mem_filter, Bool.and_eq_true, Bool.not_eq_true'] using hmem

/-- The state in which an output grants: its second grant begins the router's next mesh cycle. -/
def State.grantCycle (s : State) (die router out : Nat) : State := if (s.grants die router).contains out then s.nextCycle die router else s

theorem execMeshPacketHop_grants {die router out : Nat} {s : State} {p : MeshPkt} (h : (s.grantCycle die router out).granted die router out = some p) :
    let s0 := s.grantCycle die router out
    let s1 := ((s0.setGrants die router (s0.grants die router ++ [out])).movePkt p out).offerHops die router
    execMeshPacketHop die router out s = .next (if p.link = portIn p.src then s1.pumpPort p.src else s1) := by
  unfold State.grantCycle at h ⊢
  simp only [execMeshPacketHop, h]

/-! ### The next mesh cycle (R441) -/

/-- Each packet of a list takes its new form in turn; a packet of the mesh ends as they leave it. -/
theorem State.packets_foldl_setPkt (f : MeshPkt → MeshPkt) : ∀ (l : List MeshPkt) (s : State),
    (l.foldl (fun (t : State) q => t.setPkt (f q)) s).net.packets =
      s.net.packets.map (fun q => l.foldl (fun x p => if x.id = (f p).id then f p else x) q)
  | [], s => s.net.packets.map_id.symm
  | p :: l, s => (State.packets_foldl_setPkt f l (s.setPkt (f p))).trans (List.map_map ..)

/-- Where numbers tell packets apart, what becomes of a packet is its own new form, or nothing. -/
theorem foldl_newForm {f : MeshPkt → MeshPkt} (hf : ∀ p, (f p).id = p.id) {q : MeshPkt} : ∀ {l : List MeshPkt} {x : MeshPkt},
    (∀ p ∈ l, p.id = q.id → p = q) → x.id = q.id → l.foldl (fun x p => if x.id = (f p).id then f p else x) x = if q ∈ l then f q else x
  | [], x, _, _ => (if_neg List.not_mem_nil).symm
  | p :: l, x, hown, hx => by
    have ih := fun y => foldl_newForm hf (x := y) fun r hr => hown r (List.mem_cons_of_mem _ hr)
    rw [List.foldl_cons, hf]
    by_cases hp : x.id = p.id
    · obtain rfl := hown p List.mem_cons_self (hp.symm.trans hx)
      rw [if_pos hp, ih _ (hf p), ite_self, if_pos List.mem_cons_self]
    · have hne : q ≠ p := fun h => hp (h ▸ hx)
      rw [if_neg hp, ih _ hx]
      simp only [List.mem_cons, hne, false_or]

theorem State.heads_subset (s : State) (die router : Nat) : s.heads die router ⊆ s.net.packets :=
  fun _ h => List.mem_of_mem_filter (List.mem_of_mem_filter h)

/-- A packet one cycle older; an age of 255 is as high as it goes. -/
def MeshPkt.older (p : MeshPkt) : MeshPkt := { p with age := min 255 (p.age + 1) }

/-- In a router's next mesh cycle the packets that were ready at its heads and were not granted are one older. -/
theorem State.packets_nextCycle {s : State} (die router : Nat) (hids : (s.net.packets.map (fun p => p.id)).Nodup) :
    (s.nextCycle die router).net.packets = s.net.packets.map (fun q =>
      if (s.heads die router).contains q && (s.outsOf q).any (fun o => s.readyFor q o) then q.older else q) := by
  refine (s.packets_foldl_setPkt MeshPkt.older _).trans (List.map_congr_left fun q hq => ?_)
  refine (foldl_newForm (f := MeshPkt.older) (fun _ => rfl) (fun p hp hid => ?_) rfl).trans ?_
  · exact List.inj_on_of_nodup_map hids (s.heads_subset die router (List.mem_of_mem_filter hp)) hq hid
  · simp only [List.mem_filter, List.contains_eq_mem, Bool.and_eq_true, decide_eq_true_eq]

theorem State.grants_setGrants (s : State) (die router : Nat) (l : List Nat) : (s.setGrants die router l).grants die router = l := nget_nset_self ..

theorem State.grants_nextCycle (s : State) (die router : Nat) : (s.nextCycle die router).grants die router = [] := State.grants_setGrants ..

/-! ### What the moves and the posts leave (R438 to R440) -/

section
variable (s : State)

@[simp] theorem State.postOnce_net (e : Ev) : (s.postOnce e).net = s.net := by
  unfold State.postOnce
  split <;> rfl
theorem State.mem_due_postOnce (e : Ev) : e ∈ (s.postOnce e).due := by
  unfold State.postOnce
  split
  · next h => simpa using h
  · exact List.mem_append_right _ (List.mem_singleton_self e)

@[simp] theorem State.takeSlots_packets (link ch n : Nat) : (s.takeSlots link ch n).net.packets = s.net.packets := by
  unfold State.takeSlots
  extract_lets
  split <;> rfl
@[simp] theorem State.freeSlotsOf_packets (p : MeshPkt) : (s.freeSlotsOf p).net.packets = s.net.packets := by
  unfold State.freeSlotsOf
  split <;> rfl
@[simp] theorem State.leaveMesh_packets (p : MeshPkt) : (s.leaveMesh p).net.packets = s.net.packets := by
  simp only [State.leaveMesh, State.freeSlotsOf_packets, State.takeSlots_packets]

/-- A packet that its destination port takes has arrived, and its delivery is posted. -/
theorem State.movePkt_toPort (p : MeshPkt) : ∃ t : State, s.movePkt p 4 = t.post (.packetDelivery p.id) ∧
    t.net.packets = s.net.packets.map (fun q => if q.id = p.id then { p with arrived := true, link := 0, age := 0 } else q) := by
  refine ⟨_, if_pos rfl, ?_⟩
  simp only [State.postOnce_net, State.setPkt, State.leaveMesh_packets, State.freeSlotsOf_packets]

end

/-! ### Flows and deliveries (R440) -/

/-- The flow found under a source, a destination and a class is theirs. -/
theorem State.flow_key (s : State) (src dst cls : Nat) :
    (s.flow src dst cls).src = src ∧ (s.flow src dst cls).dst = dst ∧ (s.flow src dst cls).cls = cls := by
  unfold State.flow
  cases h : s.net.flows.find? (fun f => decide (f.src = src ∧ f.dst = dst ∧ f.cls = cls)) with
  | none => exact ⟨rfl, rfl, rfl⟩
  | some f => exact of_decide_eq_true (List.find?_some (p := fun (f : Flow) => decide (f.src = src ∧ f.dst = dst ∧ f.cls = cls)) h)

/-- A list in which the elements of a kind are replaced by one of that kind, or one added where there is none, has that one first of its kind. -/
theorem find?_replace {α : Type} {here : α → Bool} {f : α} (hf : here f = true) (l : List α) :
    (if l.any here then l.map (fun g => if here g then f else g) else l ++ [f]).find? here = some f := by
  split
  · next h =>
    have hkind : (here ∘ fun g => if here g then f else g) = here := by
      funext g
      cases hg : here g <;> simp [hf, hg]
    obtain ⟨g, hg⟩ := Option.isSome_iff_exists.1 (List.find?_isSome.2 (List.any_eq_true.1 h))
    rw [List.find?_map, hkind, hg, Option.map_some, if_pos (List.find?_some hg)]
  · next h =>
    have hnone : l.find? here = none := List.find?_eq_none.2 fun g hg hh => h (List.any_eq_true.2 ⟨g, hg, hh⟩)
    rw [List.find?_append, hnone, Option.none_or, List.find?_cons, hf]

theorem State.flow_setFlow {s : State} {f : Flow} {src dst cls : Nat} (hkey : f.src = src ∧ f.dst = dst ∧ f.cls = cls) :
    (s.setFlow f).flow src dst cls = f := by
  obtain ⟨rfl, rfl, rfl⟩ := hkey
  have hfound := find?_replace (here := fun (g : Flow) => decide (g.src = f.src ∧ g.dst = f.dst ∧ g.cls = f.cls)) (f := f) (by simp) s.net.flows
  simp only [State.flow, State.setFlow, hfound, Option.getD_some]

/-- A packet leaves the mesh in its turn, and its flow expects the next number. -/
def State.takeDelivered (s : State) (pid : Nat) (p : MeshPkt) : State :=
  State.setFlow { s with net := { s.net with packets := s.net.packets.filter (fun q => decide (q.id ≠ pid)) } }
    { s.flow p.src p.dst p.cls with expect := (p.seq + 1) % 256 }
/-- A credit that a packet was sent on goes back. -/
def State.returnCredit (s : State) (p : MeshPkt) : State :=
  if p.credit then
    let r := s.reorderPort p.dst p.cls
    let t := s.setReorderPort p.dst p.cls { r with granted := r.granted - 1 }
    if r.asking.isEmpty then t else t.postOnce (.reorderCreditGrant p.dst p.cls)
  else s
/-- The confirmation of a packet is posted, and the delivery of the one that was held behind it. -/
def State.confirmDelivered (s : State) (p : MeshPkt) : State :=
  let t := s.post (.deliveryConfirmation p.src p.dst p.cls)
  match t.net.packets.find? (fun q => q.arrived && decide (q.src = p.src ∧ q.dst = p.dst ∧ q.cls = p.cls ∧ q.seq = (p.seq + 1) % 256)) with
  | some q => t.post (.packetDelivery q.id)
  | none => t

section
variable (s : State) (p : MeshPkt)

theorem State.returnCredit_keeps : (s.returnCredit p).net.packets = s.net.packets ∧ (s.returnCredit p).net.flows = s.net.flows := by
  unfold State.returnCredit
  extract_lets
  split
  · split
    · exact ⟨rfl, rfl⟩
    · rw [State.postOnce_net]
      exact ⟨rfl, rfl⟩
  · exact ⟨rfl, rfl⟩
@[simp] theorem State.confirmDelivered_net : (s.confirmDelivered p).net = s.net := by
  unfold State.confirmDelivered
  extract_lets
  split <;> rfl
theorem State.mem_due_confirmDelivered : Ev.deliveryConfirmation p.src p.dst p.cls ∈ (s.confirmDelivered p).due := by
  unfold State.confirmDelivered
  extract_lets t
  have hposted : Ev.deliveryConfirmation p.src p.dst p.cls ∈ t.due := List.mem_append_right _ (List.mem_singleton_self _)
  split
  · exact List.mem_append_left _ hposted
  · exact hposted

end

theorem execPacketDelivery_inTurn {pid : Nat} {s : State} {p : MeshPkt} (hp : s.net.packets.find? (fun q => decide (q.id = pid) && q.arrived) = some p)
    (hseq : p.seq = (s.flow p.src p.dst p.cls).expect) :
    execPacketDelivery pid s = .next ((((s.takeDelivered pid p).returnCredit p).confirmDelivered p).post p.payload) := by
  simp only [execPacketDelivery, hp, hseq, ne_eq, not_true_eq_false, if_false, State.takeDelivered, State.returnCredit, State.confirmDelivered] <;> rfl

theorem execPacketDelivery_delivers {pid : Nat} {s : State} {p : MeshPkt}
    (hp : s.net.packets.find? (fun q => decide (q.id = pid) && q.arrived) = some p) (hseq : p.seq = (s.flow p.src p.dst p.cls).expect) :
    ∃ t : State, execPacketDelivery pid s = .next (t.post p.payload) ∧ t.net.packets = s.net.packets.filter (fun q => decide (q.id ≠ pid)) ∧
      (t.flow p.src p.dst p.cls).expect = (p.seq + 1) % 256 ∧ t.due.any (fun e => decide (e = .deliveryConfirmation p.src p.dst p.cls)) = true := by
  refine ⟨_, execPacketDelivery_inTurn hp hseq, ?packets, ?expects, ?confirms⟩
  case packets =>
    rw [State.confirmDelivered_net, (State.returnCredit_keeps _ p).1]
    rfl
  case expects =>
    have hflow : (((s.takeDelivered pid p).returnCredit p).confirmDelivered p).flow p.src p.dst p.cls = (s.takeDelivered pid p).flow p.src p.dst p.cls := by
      simp only [State.flow, State.confirmDelivered_net, (State.returnCredit_keeps _ p).2]
    rw [hflow]
    exact congrArg Flow.expect (State.flow_setFlow (f := { s.flow p.src p.dst p.cls with expect := (p.seq + 1) % 256 }) (s.flow_key p.src p.dst p.cls))
  case confirms => exact List.any_eq_true.2 ⟨_, State.mem_due_confirmDelivered _ p, decide_eq_true rfl⟩

/-! ### Reorder credits (R440) -/

@[simp] theorem State.reorderPort_setReorderPort (s : State) (dst cls : Nat) (r : ReorderPort) :
    (s.setReorderPort dst cls r).reorderPort dst cls = r := nget_nset_self ..

/-- A source asks a destination port for a credit, once. -/
def ReorderPort.ask (r : ReorderPort) (src : Nat) : ReorderPort :=
  { r with asking := if r.asking.contains src then r.asking else r.asking ++ [src] }

theorem execReorderCreditRequest_asks (src dst cls : Nat) (s : State) : ∃ t : State, execReorderCreditRequest src dst cls s = .next t ∧
    t.reorderPort dst cls = (s.reorderPort dst cls).ask src ∧
    Ev.reorderCreditGrant dst cls ∈ t.due := by
  refine ⟨_, rfl, ?_, State.mem_due_postOnce _ _⟩
  simp only [State.reorderPort, State.postOnce_net]
  exact State.reorderPort_setReorderPort ..

/-- A credit of a destination port is given to a source. -/
def State.giveCredit (s : State) (dst cls src : Nat) : State :=
  let r := s.reorderPort dst cls
  s.setReorderPort dst cls { granted := r.granted + 1, asking := r.asking.filter (fun x => decide (x ≠ src)) }

theorem execReorderCreditGrant_grants {dst cls a : Nat} {rest : List Nat} {s : State} (hask : (s.reorderPort dst cls).asking = a :: rest)
    (hfree : (s.reorderPort dst cls).granted < 32) :
    let src := rest.foldl min a
    let s1 := s.giveCredit dst cls src
    (s1.flow src dst cls).queue ≠ [] →
    let s2 := s1.pumpFlow { s1.flow src dst cls with credits := (s1.flow src dst cls).credits + 1 }
    let s3 := if (s2.flow src dst cls).queue.isEmpty then s2 else s2.post (.reorderCreditRequest src dst cls)
    execReorderCreditGrant dst cls s =
      .next (if (s3.reorderPort dst cls).asking.isEmpty then s3 else s3.postOnce (.reorderCreditGrant dst cls)) := by
  intro src s1 hwaits
  have hqueue : (s1.flow src dst cls).queue.isEmpty = false := List.isEmpty_eq_false_iff.2 hwaits
  simp only [src, s1, State.giveCredit, hask] at hqueue
  simp only [execReorderCreditGrant, src, s1, State.giveCredit, hask, Nat.not_le.2 hfree, hqueue, Bool.false_eq_true, if_false]

theorem foldl_min_le {a : Nat} {l : List Nat} : ∀ x ∈ a :: l, l.foldl min a ≤ x := (List.min?_eq_some_iff.1 List.min?_cons').2

/-! ### The permit audit (R443, R444) -/

@[simp] theorem Channel.collect_phase (c : Channel) : c.collect.phase = c.phase := by
  unfold Channel.collect
  split <;> rfl
@[simp] theorem Channel.collect_occupied (c : Channel) : c.collect.occupied = c.occupied := by
  unfold Channel.collect
  split <;> rfl

section
variable {link ch : Nat} {s : State}

theorem execPermitAudit_begins (hphase : (s.channel link ch).collect.phase = 0) (hgoes : (s.channel link ch).collect.stopped = false)
    (hperiod : s.auditPeriod link ≠ 0) (hdue : (s.channel link ch).collect.nextAudit ≤ s.now (dieOfLink link)) :
    let c := (s.channel link ch).collect
    execPermitAudit link ch s = .next ((s.setChannel link ch { c with
      phase := 1, p := channelSlots ch - c.used, c := 0, nextAudit := s.now (dieOfLink link) + s.auditPeriod link }).post (.auditMarker link ch)) := by
  have hfree : ¬ ((s.channel link ch).collect.phase ≠ 0 ∨ (s.channel link ch).collect.stopped = true) :=
    not_or.2 ⟨not_not.2 hphase, Bool.eq_false_iff.1 hgoes⟩
  exact (if_neg hfree).trans (if_neg (not_or.2 ⟨hperiod, Nat.not_lt.2 hdue⟩))

theorem execAuditMarker_returns (hphase : (s.channel link ch).collect.phase = 1) :
    let c := (s.channel link ch).collect
    execAuditMarker link ch s = .next ((s.setChannel link ch { c with phase := 2, o := c.occupied }).post (.auditMarkerReturn link ch)) := by
  have hsent : (s.channel link ch).phase = 1 := (s.channel link ch).collect_phase ▸ hphase
  simp only [execAuditMarker, Channel.mark, hsent, ne_eq, not_true_eq_false, if_false, if_true, Channel.collect_occupied]

section
variable (hphase : (s.channel link ch).phase = 2)
include hphase

theorem execAuditMarkerReturn_agrees (h : (s.channel link ch).p + (s.channel link ch).o + (s.channel link ch).c = channelSlots ch) :
    let t := (s.setChannel link ch (Channel.collect { s.channel link ch with phase := 0 })).post (.permitAudit link ch)
    execAuditMarkerReturn link ch s = .next (if link < 1537 then t else t.pumpPort ((link - 1537) / 2)) :=
  (if_neg (not_not.2 hphase)).trans (if_pos h)

/-- Permits lost are reported, and the sender stops (R444). -/
theorem execAuditMarkerReturn_lost (h : (s.channel link ch).p + (s.channel link ch).o + (s.channel link ch).c ≠ channelSlots ch) :
    ∃ (part : Nat) (e : EventInfo), e.typ = 0x06 ∧
      let s1 := (s.setChannel link ch { Channel.collect { s.channel link ch with phase := 0 } with stopped := true }).event part e
      execAuditMarkerReturn link ch s = .next ((match ucieNumber link with
        | some k => s1.setLinkStatus k (bumpStatus (s1.linkStatus k) 40)
        | none => s1).post (.channelRestart link ch)) := by
  refine ⟨_, _, ?typ, (if_neg (not_not.2 hphase)).trans (if_neg h)⟩
  rfl

end

theorem execChannelRestart_empty (hstopped : (s.channel link ch).stopped = true) (hempty : (s.channel link ch).occupied = 0) :
    let t := ((s.setChannel link ch { Channel.empty with nextAudit := (s.channel link ch).nextAudit }).post (.permitAudit link ch)).offerHops
      (dieOfLink link) (routerOfLink link)
    execChannelRestart link ch s = .next (if link < 1537 then t else t.pumpPort ((link - 1537) / 2)) := by
  simp only [execChannelRestart, hstopped, hempty, Bool.not_true, Bool.false_eq_true, ne_eq, not_true_eq_false, if_false]

end

/-- Settles O54: the grant, the moves, the flows and the audit each by the lemma of its step. -/
theorem meshPacketsMoveAndAreDelivered : Obligations.MeshPacketsMoveAndAreDelivered := by
  refine ⟨fun die router out s p h => ⟨execMeshPacketHop_grants h, State.granted_spec h⟩,
    fun die router s hids => ⟨s.grants_nextCycle die router, State.packets_nextCycle die router hids⟩, fun p s => s.movePkt_toPort p,
    fun pid s p => execPacketDelivery_delivers, fun src dst cls s => ?asks,
    fun dst cls a rest s hask hfree hwaits => ⟨execReorderCreditGrant_grants hask hfree hwaits, fun x hx => ?lowest⟩, fun src dst cls s => rfl,
    fun link ch s => ⟨execPermitAudit_begins, execAuditMarker_returns⟩,
    fun link ch s => ⟨execAuditMarkerReturn_agrees, execAuditMarkerReturn_lost, execChannelRestart_empty⟩⟩
  case asks =>
    obtain ⟨t, hnext, hport, hposted⟩ := execReorderCreditRequest_asks src dst cls s
    exact ⟨t, hnext, (congrArg ReorderPort.granted hport :), (congrArg ReorderPort.asking hport :), List.contains_iff_mem.2 hposted⟩
  case lowest => exact foldl_min_le x (hask ▸ hx)

end Sys2Proof.Machine
end

section
/-! Links: training, degradation and failure, the retraining of Axsis ports, acknowledgements and packets sent again (R446 to R455). -/
namespace Sys2Proof.Machine
open Sys2Proof

/-! ### Training (R446, R449) -/

/-- The revisions, from 0, that both ends of a link advertise. -/
def commonRevs (link revs : Nat) : List Nat := (natsFrom 0 8).filter (fun k => bit (Config.linkRevs (link / 8) &&& revs) k)

section
variable {link revs : Nat} {s : State} (hlink : ¬ (32 ≤ link ∨ 6 ≤ link % 8))
include hlink

theorem execLinkTraining_noRevision (hnone : commonRevs link revs = []) :
    execLinkTraining link revs true s = .next ((s.setReg pkgRegs (failCount link) 0).post (.linkFailed link)) := by
  unfold commonRevs at hnone
  simp only [execLinkTraining, if_neg hlink, hnone, List.getLast?_nil, Bool.not_true, Bool.false_eq_true, if_false]

theorem execLinkTraining_trains {k : Nat} (hk : (commonRevs link revs).getLast? = some k) :
    let s1 := s.setReg pkgRegs (failCount link) 0
    let s3 := ((if s1.linkUp link then s1.countRetrain link else s1).linkChange link 2 (fullWidth link) (k + 1)).measure7
    execLinkTraining link revs true s = .next (if link % 8 < 4 then s3.reroute else s3.axPumpPort (2 * (link / 8) + link % 8 - 4)) := by
  unfold commonRevs at hk
  simp only [execLinkTraining, if_neg hlink, hk, Bool.not_true, Bool.false_eq_true, if_false]

theorem execLinkTraining_failsAgain (h : 3 ≤ s.reg pkgRegs (failCount link) + 1) : execLinkTraining link revs false s =
    .next ((s.setReg pkgRegs (failCount link) (s.reg pkgRegs (failCount link) + 1)).post (.linkFailed link)) :=
  (if_neg hlink).trans (if_neg (Nat.not_lt.2 h))

theorem execLinkTraining_retries (h : s.reg pkgRegs (failCount link) + 1 < 3) :
    let t := s.setReg pkgRegs (failCount link) (s.reg pkgRegs (failCount link) + 1)
    execLinkTraining link revs false s = .next ((t.setLinkStatus link (setBits (setBits (t.linkStatus link) 2 0 1) 23 8 0)).post
      (.linkTraining link revs (Config.chance s.free))) :=
  (if_neg hlink).trans (if_pos h)

end

/-! ### Degradation (R448) -/

/-- The width of module `m` of a link's end, as its status holds it. -/
def State.moduleWidth (s : State) (link m : Nat) : Nat := bits (s.linkStatus link) (17 + 2 * m) (16 + 2 * m)

theorem execModuleRetrain_notNarrower {link m width : Nat} {s : State} (h : s.moduleWidth link m ≤ width) : execModuleRetrain link m width s = .next s :=
  if_pos (.inr (.inr (.inr (.inr h))))

theorem execModuleRetrain_narrows {link m width : Nat} {s : State} (hlink : link < 32) (hdie : link % 8 < 4) (hm : m < 4) (hup : s.linkUp link = true)
    (h : width < s.moduleWidth link m) :
    let s1 := s.narrow link m width
    execModuleRetrain link m width s =
      .next (if link % 8 ≠ link / 8 ∧ s1.linkUp (otherEnd link) then (s1.narrow (otherEnd link) m width).measure7 else s1.measure7) := by
  unfold State.moduleWidth at h
  refine if_neg ?_
  simp only [hup, Bool.not_true, Bool.false_eq_true, false_or]
  omega

/-- A change of a link's status sets its STATE, WIDTH and REV and raises its event. -/
theorem State.linkChange_spec (s : State) (link : Nat) {st w rev : Nat} (hst : st < 8) (hw : w < 256) (hrev : rev < 256) :
    ∃ (v part : Nat) (e : EventInfo), s.linkChange link st w rev = (s.setLinkStatus link v).event part e ∧ e.typ = 0x07 ∧
      bits v 2 0 = st ∧ bits v 23 16 = w ∧ bits v 15 8 = rev := by
  refine ⟨_, _, _, rfl, rfl, ?_, ?_, ?_⟩
  · rw [bits_setBits_disjoint _ _ (by decide) (by decide), bits_setBits_disjoint _ _ (by decide) (by decide), bits_setBits_same _ _ (by decide)]
    exact Nat.mod_eq_of_lt hst
  · rw [bits_setBits_disjoint _ _ (by decide) (by decide), bits_setBits_same _ _ (by decide)]
    exact Nat.mod_eq_of_lt hw
  · rw [bits_setBits_same _ _ (by decide)]
    exact Nat.mod_eq_of_lt hrev

/-! ### Failure (R449, R450) -/

/-- The end of a link that fails, and measurement 7 retaken. -/
def State.failEnd (s : State) (link : Nat) : State := (s.linkChange link 4 0 0).measure7
/-- A link between dies fails at both of its ends. -/
def State.failLink (s : State) (link : Nat) : State :=
  let t := s.failEnd link
  if bits (t.linkStatus (otherEnd link)) 2 0 = 4 then t else t.linkChange (otherEnd link) 4 0 0
/-- The queues of a partition with unfinished commands that work on a die cut off are torn down. -/
def State.tearCutOff (s : State) (x : Part) (e : Nat) (cut : List Nat) : State :=
  ((s.busyQueues x.id).filter (fun q => cut.any (fun y => s.worksOn q y))).foldl (fun (t : State) q => t.teardown q 4 e) s.reroute

section
variable {link : Nat} {s : State} (hlink : ¬ (32 ≤ link ∨ 6 ≤ link % 8))
include hlink

/-- A link to a gateway or to the trust die has one end here, and no detour. -/
theorem execLinkFailed_single (h : 4 ≤ link % 8 ∨ link % 8 = link / 8) : execLinkFailed link s = .next (s.failEnd link) :=
  (if_neg hlink).trans (if_pos h)

section
variable {x : Part} (h : ¬ (4 ≤ link % 8 ∨ link % 8 = link / 8)) (hx : (s.failLink link).partOfDie (link / 8) = some x)
include h hx

theorem execLinkFailed_detour (hout : x.dies.contains (link % 8) = false) : execLinkFailed link s = .next (s.failLink link).reroute := by
  unfold State.failLink State.failEnd otherEnd at hx ⊢
  simp only [execLinkFailed, if_neg hlink, if_neg h, hx, hout, Bool.false_eq_true, if_false]

theorem execLinkFailed_cutOff {e : Nat} {r : List Nat} (hin : x.dies.contains (link % 8) = true) (hcut : (s.failLink link).severed x = e :: r) :
    execLinkFailed link s = .next ((s.failLink link).tearCutOff x e (e :: r)) := by
  unfold State.failLink State.failEnd otherEnd at hx hcut ⊢
  simp only [execLinkFailed, if_neg hlink, if_neg h, hx, hin, hcut, if_true, State.tearCutOff]

end

end

/-! ### Axsis ports (R452) -/

section
variable {port lanes : Nat} {s : State} (hup : ¬ (8 ≤ port ∨ (!s.linkUp (8 * (port / 2) + 4 + port % 2)) = true))
include hup

theorem execAxsisPortRetrain_narrows (h : lanes = 4 ∨ lanes = 8) :
    let link := 8 * (port / 2) + 4 + port % 2
    execAxsisPortRetrain port lanes s = .next ((((s.countRetrain link).linkChange link (if lanes = 8 then 2 else 3) lanes
      (bits (s.linkStatus link) 15 8)).measure7).axPumpPort port) :=
  (if_neg hup).trans (if_pos h)

theorem execAxsisPortRetrain_fails (h : ¬ (lanes = 4 ∨ lanes = 8)) :
    execAxsisPortRetrain port lanes s = .next (s.failEnd (8 * (port / 2) + 4 + port % 2)) :=
  (if_neg hup).trans (if_neg h)

end

/-! ### Acknowledgement and resending (R455) -/

theorem execFlowAcknowledgement_acknowledges {p : AxPkt} {s : State} (h : axReserved p = false) :
    let k := axFlow p.dstGw p.srcPeer p.srcGw p.cls
    let left := s.net.axSent.filter (fun x =>
      !(decide (axFlow x.pkt.srcGw x.pkt.dstPeer x.pkt.dstGw x.pkt.cls = k) && x.left && ackedBy x.pkt.seq p.seq))
    execFlowAcknowledgement p s = .next (State.axPump { s with net := { s.net with axSent := left } } k) :=
  if_neg (Bool.eq_false_iff.1 h)

/-- Sealing a packet draws a counter and sends nothing. -/
theorem State.seal_axOut (s : State) (tag holder : Nat) : (s.seal tag holder).net.axOut = s.net.axOut := by
  unfold State.seal
  split
  · rfl
  extract_lets
  split
  · rw [State.postOnce_net]
  · rfl

/-- A packet is sealed afresh: it carries what it carried, under its number (R469). -/
theorem State.reseal_spec (s : State) (p : AxPkt) : (s.reseal p).1.net.axOut = s.net.axOut ∧ (s.reseal p).2.seq = p.seq ∧
    (s.reseal p).2.data = p.data ∧ (s.reseal p).2.elems = p.elems := by
  unfold State.reseal
  split
  · exact ⟨s.seal_axOut _ _, rfl, rfl, rfl⟩
  · exact ⟨rfl, rfl, rfl, rfl⟩

/-- A packet of a gateway leaves once more, its time-out counted from now. -/
def State.sendAgain (s : State) (gw : Nat) (x : SentPkt) : State :=
  let y := s.reseal x.pkt
  let again : SentPkt := { pkt := y.2, left := true, since := s.now (gw / 2), resends := x.resends + 1 }
  { y.1 with net := { y.1.net with axSent := y.1.net.axSent.map (fun z => if z = x then again else z), axOut := y.1.net.axOut ++ [y.2] } }

section
variable {gw dst seq : Nat} {s : State} {x : SentPkt} (hx : (s.axUnacked (gw * 2 ^ 17 + dst)).find? (fun y => y.pkt.seq = seq) = some x)
  (hleft : x.left = true) (hdue : x.since + 0x100000 ≤ s.now (gw / 2))
include hx hleft hdue

theorem execAxsisResendTimeout_givesUp (h : 4 ≤ x.resends) : execAxsisResendTimeout gw dst seq s =
    .next (State.undeliverable { s with net := { s.net with axSent := s.net.axSent.filter (fun y => y ≠ x) } } x.pkt) := by
  simp only [execAxsisResendTimeout, hx, hleft, if_neg (Nat.not_lt.2 hdue), if_pos h, Bool.not_true, Bool.false_and, Bool.false_eq_true, if_false]

theorem execAxsisResendTimeout_resends (h : x.resends < 4) (hup : s.portUp gw = true) (hfull : s.resealFull x.pkt = false) :
    execAxsisResendTimeout gw dst seq s = .next ((s.sendAgain gw x).post (.axsisResendTimeout gw dst seq)) := by
  simp only [execAxsisResendTimeout, hx, hleft, if_neg (Nat.not_lt.2 hdue), if_neg (Nat.not_le.2 h), hup, hfull, Bool.not_true, Bool.false_and,
    Bool.or_self, Bool.false_eq_true, if_false, if_true]
  rfl

end

/-- Settles O55: training, degradation, failure and resending each by the lemmas of their steps. -/
theorem linksTrainDegradeAndFail : Obligations.LinksTrainDegradeAndFail := by
  refine ⟨fun link revs s hlink hport => ⟨fun hnone => ?noRevision, fun k hk => ?trains, fun h => ?third, fun h => ⟨Config.chance s.free, ?retries⟩⟩,
    fun link m width s hlink hdie hm hup => ⟨execModuleRetrain_notNarrower, fun h => ⟨fun hne hother => ?bothEnds, fun hone => ?oneEnd⟩⟩,
    fun link m width s => ⟨fun h => if_pos h, fun h => if_neg h⟩,
    fun link s hlink hport => ⟨fun h => ?single, fun x hdie hne hx => ⟨fun hout => ?detour, fun hin e r hcut => ?cutOff⟩⟩,
    fun link st w rev s => s.linkChange_spec link, fun port flit s => rfl,
    fun port lanes s hport hup => ⟨fun h => ?narrows, fun h4 h8 => ?fails⟩, fun p s => execFlowAcknowledgement_acknowledges,
    fun gw dst seq s x hx hleft hdue => ⟨execAxsisResendTimeout_givesUp hx hleft hdue, fun h hup hfull => ?resends⟩⟩
  case noRevision => exact execLinkTraining_noRevision (by omega) hnone
  case trains => exact execLinkTraining_trains (by omega) hk
  case third => exact execLinkTraining_failsAgain (by omega) h
  case retries => exact execLinkTraining_retries (by omega) h
  case bothEnds => exact (execModuleRetrain_narrows hlink hdie hm hup h).trans (congrArg _ (if_pos ⟨hne, hother⟩))
  case oneEnd =>
    refine (execModuleRetrain_narrows hlink hdie hm hup h).trans (congrArg _ (if_neg fun hboth => ?_))
    exact hone.elim hboth.1 fun hother => Bool.false_ne_true (hother.symm.trans hboth.2)
  case single => exact execLinkFailed_single (by omega) h
  case detour => exact execLinkFailed_detour (by omega) (by omega) hx hout
  case cutOff => exact execLinkFailed_cutOff (by omega) (by omega) hx hin hcut
  case narrows => exact execAxsisPortRetrain_narrows (not_or.2 ⟨Nat.not_le.2 hport, by simp [hup]⟩) h
  case fails => exact execAxsisPortRetrain_fails (not_or.2 ⟨Nat.not_le.2 hport, by simp [hup]⟩) (not_or.2 ⟨h4, h8⟩)
  case resends =>
    obtain ⟨hout, hseq, hdata, helems⟩ := s.reseal_spec x.pkt
    exact ⟨s.sendAgain gw x, (s.reseal x.pkt).2, execAxsisResendTimeout_resends hx hleft hdue h hup hfull, hseq, hdata, helems,
      congrArg (· ++ [(s.reseal x.pkt).2]) hout⟩

end Sys2Proof.Machine
end

section
/-! What a step does with its turn when it is a posted step, an input or none, and the state that steps begin with (R514). -/
namespace Sys2Proof.Machine
open Sys2Proof

theorem step_of_turn_some {s : State} {m : Move} (h : s.turn = some m) : step s = after (s.runMove m) := by
  simp only [step, h]

theorem step_of_turn_none {s : State} (h : s.turn = none) : step s = .next s.tail := by
  simp only [step, h]

theorem runMove_due {s : State} {k : Nat} {e : Ev} (h : s.due[k]? = some e) :
    s.runMove (.due k) = runEv e { s with due := s.due.eraseIdx k, cur := none } := by
  simp only [State.runMove, h]

section
variable {s : State} {e : Ev} {r : List Ev} (h : s.inputs = e :: r)
include h

theorem runMove_input_runs (hfree : heldBack s.due e = false) : s.runMove .input = runEv e { s with inputs := r, cur := none } := by
  simp only [State.runMove, h, hfree, Bool.false_eq_true, if_false]

/-- An input that a posted step of its flow precedes joins the posted steps. -/
theorem runMove_input_joins (hheld : heldBack s.due e = true) :
    s.runMove .input = .next { s with inputs := r, due := s.due ++ [e], cur := none } := by
  simp only [State.runMove, h, hheld, if_true]

end

/-- Settles O7: a step is what follows its move, and the move is that of its turn. -/
theorem stepTakesPostedStepsAndInputs : Obligations.StepTakesPostedStepsAndInputs := by
  refine ⟨fun s k e hturn hdue => ?posted, fun s e r hturn hinputs => ⟨fun hfree => ?runs, fun hheld => ?joins⟩, fun s => step_of_turn_none⟩
  case posted => rw [step_of_turn_some hturn, runMove_due hdue]
  case runs => rw [step_of_turn_some hturn, runMove_input_runs hinputs hfree]
  case joins => rw [step_of_turn_some hturn, runMove_input_joins hinputs hheld, after]

/-- The state after reset has the invariant of the steps. -/
theorem inv_reset : Inv State.reset := ⟨State.memWf_reset, rfl⟩

/-- Settles O10: the invariant of the reset state, and its fields as they are defined. -/
theorem resetIsCanonical : Obligations.ResetIsCanonical := ⟨inv_reset, rfl, rfl, rfl, rfl, rfl, rfl⟩

end Sys2Proof.Machine
end

section
/-! The end of a partition reset (R486, R504), and a partition for which its clause on contexts fails. -/
namespace Sys2Proof.Machine
open Sys2Proof

/-- A reset goes on once every group has stopped or its WAIT has passed. -/
theorem execResetWaitExpiry_finishes {p : Nat} {s : State} {x : Part} (hx : s.part? p = some x) (hstate : x.state = 1)
    (hover : (s.groups.filter (fun (g : Group) => g.part = p)).all Group.stopped = true ∨
      s.reg p resetSince + (if bit (s.reg p resetNote) 1 then 0 else bits (s.reg p 0x20) 31 0) ≤ s.now (s.leadDie p)) :
    execResetWaitExpiry p s = .next (s.finishReset x) := by
  simp only [execResetWaitExpiry, hx, hstate, ne_eq, not_true_eq_false, if_false]
  refine if_neg fun hwait => ?_
  obtain ⟨hbusy, hearly⟩ := Bool.and_eq_true_iff.mp hwait
  obtain hquiet | hlate := hover
  · rw [hquiet] at hbusy
    exact Bool.false_ne_true hbusy
  · exact Nat.not_lt_of_le hlate (of_decide_eq_true hearly)

/-- A partition under reset that owns die 0 and a die 576, which no package has. -/
def strayPart : Part := { id := 0, dies := [0, 576], state := 1, channels := [] }

/-- Nothing runs, and the retired-unit record holds 1 as DEG_CORE0 of die 576. That register would lie at 0x7000 + 0x40 × 576, which is 0x10000, the
root register of context 0. -/
def strayState : State :=
  { State.reset with due := [], parts := [strayPart], trust := { Trust.reset with record := [(64 * 576, 1)] } }

/-- Retirements take effect after the contexts are disabled, and that of die 576 sets the enable bit of context 0. -/
theorem strayState_enables_context : bit ((strayState.finishReset strayPart).ctxReg 0 0) 0 = true := by decide +kernel

/-- Refutes O59: the statement has every context of the partition's dies disabled when a reset finishes, for dies of any number; only its clause on
windows bounds them by 4. Context 0 of `strayPart` is enabled, by the retirements of a die numbered 576. -/
theorem not_resetsAndBringUpFollowTheirSteps : ¬ Obligations.ResetsAndBringUpFollowTheirSteps := by
  rintro ⟨-, -, hwait, -⟩
  obtain ⟨-, -, hfinish⟩ := (hwait 0 strayState).2 strayPart rfl
  obtain ⟨t, ht, -, -, -, -, hcontexts, -⟩ := hfinish rfl (.inl rfl)
  have hexec : exec (.resetWaitExpiry 0) strayState = .next (strayState.finishReset strayPart) :=
    execResetWaitExpiry_finishes (p := 0) (s := strayState) (x := strayPart) rfl rfl (.inl rfl)
  obtain rfl := Host.Outcome.next.inj (hexec.symm.trans ht)
  exact Bool.false_ne_true ((hcontexts 0 (by decide) (by decide)).symm.trans strayState_enables_context)

end Sys2Proof.Machine
end

section
/-! What the trust die answers: requests of the mailbox about jobs and images, SPDM requests, and sessions (R507 to R515). -/
namespace Sys2Proof.Machine
open Sys2Proof

/-! ### What sending a collective packet leaves of the job entries (R438, R455, R469) -/

section
variable (s : State)

theorem State.takeSlots_jobs (link ch n : Nat) : (s.takeSlots link ch n).net.jobs = s.net.jobs := by
  unfold State.takeSlots
  extract_lets
  split <;> rfl

theorem State.offerHops_jobs (die router : Nat) : (s.offerHops die router).net.jobs = s.net.jobs :=
  List.foldlRecOn (motive := fun (t : State) => t.net.jobs = s.net.jobs) _ _ rfl fun _ ht _ _ =>
    List.foldlRecOn (motive := fun (u : State) => u.net.jobs = s.net.jobs) _ _ ht fun u hu _ _ => (congrArg Net.jobs (u.postOnce_net _)).trans hu

theorem State.injectPkt_jobs (f : Flow) (prio : Nat) (payload : Ev) (credit : Bool) (ch : Nat) :
    (s.injectPkt f prio payload credit ch).net.jobs = s.net.jobs := by
  unfold State.injectPkt
  rw [State.offerHops_jobs, State.postOnce_net, State.takeSlots_jobs]
  rfl

theorem State.pumpFlow_jobs (f : Flow) : (s.pumpFlow f).net.jobs = s.net.jobs := by
  unfold State.pumpFlow
  split
  · rfl
  · split
    · exact s.injectPkt_jobs ..
    · rfl

theorem State.sendMesh_jobs (src dst cls prio : Nat) (payload : Ev) : (s.sendMesh src dst cls prio payload).net.jobs = s.net.jobs := by
  unfold State.sendMesh
  extract_lets
  split
  · exact s.pumpFlow_jobs _
  · rfl

/-- The context, the job and the epoch of an entry. -/
def JobEntry.name (j : JobEntry) : Nat × Nat × Nat := (j.ctx, j.tag, j.epoch)

/-- A seal counts in the entries of its job. -/
theorem State.seal_names (tag holder : Nat) : (s.seal tag holder).net.jobs.map JobEntry.name = s.net.jobs.map JobEntry.name := by
  unfold State.seal
  split
  · rfl
  next j _ =>
    let counted := fun (k : JobEntry) =>
      if k.tag = tag then { k with counters := ninsert k.counters holder (nget (fun _ => 0) j.counters holder + 1) } else k
    have hnames : (s.net.jobs.map counted).map JobEntry.name = s.net.jobs.map JobEntry.name := by
      refine List.map_map.trans (List.map_congr_left fun k _ => ?_)
      dsimp only [Function.comp_apply, counted]
      split <;> rfl
    dsimp only
    split
    · rw [State.postOnce_net]
      exact hnames
    · exact hnames

/-- A collective packet that is sent leaves the contexts, jobs and epochs of the entries. -/
theorem State.collSend_names (gw : Nat) (dst : GwRef) (p : AxPkt) :
    (s.collSend gw dst p).net.jobs.map JobEntry.name = s.net.jobs.map JobEntry.name := by
  unfold State.collSend
  split
  · rfl
  dsimp only
  split
  · rfl
  split
  · split
    · exact s.seal_names ..
    · rw [State.sendMesh_jobs, State.seal_names]
  · exact s.seal_names ..

/-- The entries of a job have its next epoch after a rekey. -/
def JobEntry.raise (tag : Nat) (k : JobEntry) : JobEntry := if k.tag = tag then { k with epoch := (k.epoch + 1) % 256, counters := [] } else k

theorem State.rekey_names (tag : Nat) : (s.rekey tag).net.jobs.map JobEntry.name = (s.net.jobs.map (JobEntry.raise tag)).map JobEntry.name :=
  List.foldlRecOn (motive := fun (t : State) => t.net.jobs.map JobEntry.name = (s.net.jobs.map (JobEntry.raise tag)).map JobEntry.name) _ _ rfl
    fun t ht x _ => (t.collSend_names x.1 x.2.1 x.2.2).trans ht

/-- A rekey raises the epoch of each entry of its job by one. -/
theorem State.rekey_epoch {tag : Nat} {k : JobEntry} (hk : k ∈ (s.rekey tag).net.jobs) (htag : k.tag = tag) :
    ∃ k0 ∈ s.net.jobs, k0.tag = tag ∧ k.ctx = k0.ctx ∧ k.epoch = (k0.epoch + 1) % 256 := by
  have hname : k.name ∈ (s.net.jobs.map (JobEntry.raise tag)).map JobEntry.name := s.rekey_names tag ▸ List.mem_map_of_mem hk
  rw [List.map_map] at hname
  obtain ⟨k0, hk0, heq⟩ := List.mem_map.mp hname
  simp only [Function.comp_apply, JobEntry.name, JobEntry.raise, Prod.mk.injEq] at heq
  split at heq
  · next h => exact ⟨k0, hk0, h, heq.1.symm, heq.2.2.symm⟩
  · next h => exact absurd (heq.2.1.trans htag) h

end

/-! ### The mailbox (R511, R515) -/

section
variable (s : State) (port : Nat)
theorem State.hostPost_net (addr : Nat) (bs : List Byte) : (s.hostPost port addr bs).net = s.net := rfl
theorem State.hostPost_trust (addr : Nat) (bs : List Byte) : (s.hostPost port addr bs).trust = s.trust := rfl
theorem State.reg_hostPost (addr : Nat) (bs : List Byte) (q o : Nat) : (s.hostPost port addr bs).reg q o = s.reg q o := rfl
theorem State.answer_net (code : Nat) (body : List Nat) : (s.answer port code body).net = s.net := rfl
theorem State.reg_answer (code : Nat) (body : List Nat) (q o : Nat) : (s.answer port code body).reg q o = s.reg q o := rfl
end

section
variable (s : State) (part cmd st : Nat) (body : List Nat)

/-- A request of the mailbox completes with its registers, what is written to the host, and an answer. -/
theorem State.mailDone_eq : s.mailDone part cmd st body = (((s.setReg part 0x9008 0).setReg part 0x9010 st).hostPost
    ((s.part? part).elim (part - 20) (fun x => x.dies.headD 0)) (bits (s.reg part 0x9000) 63 12 * 4096)
    ((st :: body).flatMap (fun v => leBytes 8 v))).answer part (0x100 + cmd) (st :: body) := rfl

theorem State.mailDone_net : (s.mailDone part cmd st body).net = s.net := by
  rw [State.mailDone_eq, State.answer_net, State.hostPost_net, State.setReg_net, State.setReg_net]

theorem State.mailDone_trust : (s.mailDone part cmd st body).trust = { s.trust with
    answers := s.trust.answers ++ [{ port := part, code := 0x100 + cmd, body := st :: body }] } := by
  rw [State.mailDone_eq, State.answer, State.hostPost_trust, State.setReg_trust, State.setReg_trust]

theorem State.mailDone_status : (s.mailDone part cmd st body).reg part 0x9010 = st := by
  rw [State.mailDone_eq, State.reg_answer, State.reg_hostPost, State.reg_setReg, if_pos rfl]

theorem State.mailDone_go : (s.mailDone part cmd st body).reg part 0x9008 = 0 := by
  rw [State.mailDone_eq, State.reg_answer, State.reg_hostPost, State.reg_setReg_own _ _ (by decide) (by decide), if_neg (by omega),
    State.reg_setReg, if_pos rfl]

theorem State.mailDone_jobOfCtx (ctx : Nat) : (s.mailDone part cmd st body).jobOfCtx ctx = s.jobOfCtx ctx := by
  rw [State.jobOfCtx, State.mailDone_net, State.jobOfCtx]

end

/-- The status with which a request about a context is turned away. -/
theorem State.mailBar_of_refused {s : State} {part ctx : Nat} (h : (s.part? part).isNone = true ∨ s.ownsCtx part ctx = false) :
    s.mailBar part ctx = some (if (s.part? part).isNone = true then 1 else 2) := by
  unfold State.mailBar
  split
  · rfl
  · next hpart => rw [h.resolve_left hpart]; rfl

section
variable {s : State} {part ctx : Nat}

theorem execJobKey_refused {tag st : Nat} {gws : List GwRef} {sws : List SwitchRef} (h : s.mailBar part ctx = some st) :
    execJobKey part ctx tag gws sws s = .next (s.mailDone part 1 st []) := by rw [execJobKey, h]

theorem execJobRekey_refused {st : Nat} (h : s.mailBar part ctx = some st) : execJobRekey part ctx s = .next (s.mailDone part 2 st []) := by
  rw [execJobRekey, h]

theorem execJobClear_refused {st : Nat} (h : s.mailBar part ctx = some st) : execJobClear part ctx s = .next (s.mailDone part 3 st []) := by
  rw [execJobClear, h]

end

/-! ### Job entries (R508, R511 to R513) -/

/-- The switches that pass attestation, and those refused. -/
def attested (sws : List SwitchRef) : List Nat := (sws.filter (fun x => x.chainOk && x.measured)).map (fun (x : SwitchRef) => x.id)
def unattested (sws : List SwitchRef) : List Nat := (sws.filter (fun x => !(x.chainOk && x.measured))).map (fun (x : SwitchRef) => x.id)

/-- The entry that a context is keyed with: of the job's next epoch, or of epoch 0. -/
def State.keyedEntry (s : State) (part ctx tag : Nat) (gws : List GwRef) (sws : List SwitchRef) : JobEntry :=
  { ctx := ctx, part := part, tag := tag, valid := true, epoch := match s.jobOf tag with
      | some j => (j.epoch + 1) % 256
      | none => 0
    gateways := gws, switches := attested sws, counters := [] }

/-- An entry of the same job takes the lists and the epoch of another. -/
def JobEntry.follow (e j : JobEntry) : JobEntry :=
  if j.tag = e.tag then { j with epoch := e.epoch, gateways := e.gateways, switches := e.switches, counters := [] } else j

/-- An entry is written: the only one of its context, which the job's other entries follow. -/
def State.writeJob (s : State) (e : JobEntry) : State :=
  { s with
    net := { s.net with jobs := (s.net.jobs.filter (fun (j : JobEntry) => decide (j.ctx ≠ e.ctx))).map e.follow ++ [e] }
    trust := { s.trust with draws := s.trust.draws + 1 } }

theorem execJobKey_keys {part ctx tag : Nat} {gws : List GwRef} {sws : List SwitchRef} {s : State} (hbar : s.mailBar part ctx = none)
    (hsome : gws ≠ []) (hmany : gws.length ≤ 32768) : execJobKey part ctx tag gws sws s =
      .next ((s.writeJob (s.keyedEntry part ctx tag gws sws)).mailDone part 1 0 (unattested sws)) := by
  have hlist : ¬ (gws.isEmpty ∨ 32768 < gws.length) := by
    rw [List.isEmpty_iff]
    exact not_or.2 ⟨hsome, Nat.not_lt.2 hmany⟩
  rw [execJobKey, hbar]
  exact if_neg hlist

theorem JobEntry.follow_ctx (e j : JobEntry) : (e.follow j).ctx = j.ctx := by
  unfold JobEntry.follow
  split <;> rfl

theorem JobEntry.follow_same {e j : JobEntry} (h : j.tag = e.tag) :
    e.follow j = { j with epoch := e.epoch, gateways := e.gateways, switches := e.switches, counters := [] } := if_pos h

theorem JobEntry.follow_other {e j : JobEntry} (h : j.tag ≠ e.tag) : e.follow j = j := if_neg h

section
variable {s : State} {e j : JobEntry}

/-- The entry written is its context's. -/
theorem State.jobOfCtx_writeJob (hvalid : e.valid = true) : (s.writeJob e).jobOfCtx e.ctx = some e := by
  refine List.find?_append.trans ?_
  have hothers : ((s.net.jobs.filter (fun (j : JobEntry) => decide (j.ctx ≠ e.ctx))).map e.follow).find?
      (fun j => decide (j.ctx = e.ctx) && j.valid) = none := by
    refine List.find?_eq_none.2 fun k hk => ?_
    obtain ⟨j, hj, rfl⟩ := List.mem_map.mp hk
    have hctx : j.ctx ≠ e.ctx := of_decide_eq_true (List.mem_filter.mp hj).2
    simp [JobEntry.follow_ctx, hctx]
  rw [hothers]
  simp [hvalid]

/-- What an entry of another context becomes. -/
theorem State.follow_mem_writeJob (hj : j ∈ s.net.jobs) (hctx : j.ctx ≠ e.ctx) : e.follow j ∈ (s.writeJob e).net.jobs :=
  List.mem_append_left _ (List.mem_map_of_mem (List.mem_filter.mpr ⟨hj, decide_eq_true hctx⟩))

end

/-- JOB_KEY: the context's entry, those of the job's other contexts, those of other jobs, and the answer. -/
theorem execJobKey_outcome {part ctx tag : Nat} {gws : List GwRef} {sws : List SwitchRef} {s : State} (hbar : s.mailBar part ctx = none)
    (hsome : gws ≠ []) (hmany : gws.length ≤ 32768) : ∃ t : State, execJobKey part ctx tag gws sws s = .next t ∧
      (∃ e : JobEntry, t.jobOfCtx ctx = some e ∧ e.tag = tag ∧ e.valid = true ∧ e.gateways = gws ∧ e.switches = attested sws ∧
        ∀ j ∈ s.net.jobs, j.ctx ≠ ctx → j.tag = tag →
          { j with epoch := e.epoch, gateways := gws, switches := e.switches, counters := [] } ∈ t.net.jobs) ∧
      (∀ j ∈ s.net.jobs, j.ctx ≠ ctx → j.tag ≠ tag → j ∈ t.net.jobs) ∧ t.reg part 0x9010 = 0 ∧
      t.trust.answers = s.trust.answers ++ [{ port := part, code := 0x101, body := 0 :: unattested sws }] := by
  let e := s.keyedEntry part ctx tag gws sws
  have hfollow : ∀ j ∈ s.net.jobs, j.ctx ≠ ctx → e.follow j ∈ (s.writeJob e).net.jobs := fun j => State.follow_mem_writeJob (e := e)
  refine ⟨_, execJobKey_keys hbar hsome hmany, ⟨e, ?entry, rfl, rfl, rfl, rfl, fun j hj hctx htag => ?others⟩, fun j hj hctx htag => ?left,
    State.mailDone_status .., congrArg Trust.answers (State.mailDone_trust ..)⟩
  case entry => exact (State.mailDone_jobOfCtx ..).trans (State.jobOfCtx_writeJob (e := e) rfl)
  all_goals rw [State.mailDone_net]
  case others => exact JobEntry.follow_same (e := e) htag ▸ hfollow j hj hctx
  case left => exact JobEntry.follow_other (e := e) htag ▸ hfollow j hj hctx

section
variable {part ctx : Nat} {s : State} {j : JobEntry} (hbar : s.mailBar part ctx = none) (hjob : s.jobOfCtx ctx = some j)
include hbar hjob

theorem execJobRekey_rekeys : execJobRekey part ctx s = .next ((s.rekey j.tag).mailDone part 2 0 []) := by
  simp only [execJobRekey, hbar, hjob]

/-- JOB_CLEAR leaves no valid entry of the context. -/
theorem execJobClear_outcome : ∃ t : State, execJobClear part ctx s = .next t ∧ t.reg part 0x9010 = 0 ∧ t.jobOfCtx ctx = none := by
  simp only [execJobClear, hbar, hjob]
  refine ⟨_, rfl, State.mailDone_status .., (State.mailDone_jobOfCtx ..).trans (List.find?_eq_none.2 fun k hk => ?_)⟩
  obtain ⟨k0, -, rfl⟩ := List.mem_map.mp hk
  split
  · simp
  · next h => simp [h]

end

/-! ### Firmware images (R511, R515) -/

section
variable {part : Nat} {img : FwImage} {s : State}

theorem execFwStage_keeps (htarget : img.target ≤ 4) (hok : s.trust.accepts img = true) : execFwStage part img s =
    .next ({ s with trust := { s.trust with
      staged := s.trust.staged.filter (fun (x : FwImage) => decide (x.target ≠ img.target)) ++ [img] } }.mailDone part 4 0 []) :=
  if_neg (by simp [hok, htarget])

theorem execFwStage_refuses (h : 4 < img.target ∨ s.trust.accepts img = false) : execFwStage part img s = .next (s.mailDone part 4 1 []) :=
  if_pos (h.imp_right fun hbad => by rw [hbad]; rfl)

end

/-! ### SPDM sessions (R507, R509) -/

section
variable {s : State} {port id : Nat}

theorem State.session?_spec {done : Bool} {x : Session} (h : s.session? port id done = some x) : x.port = port ∧ x.id = id := by
  have hx := List.find?_some (p := fun (x : Session) => decide (x.port = port ∧ x.id = id) && (x.finished || !done)) h
  exact of_decide_eq_true (Bool.and_eq_true_iff.mp hx).1

/-- A session written is the only one of its port and number. -/
theorem State.eq_of_mem_setSession {x y : Session} (hy : y ∈ (s.setSession x).trust.sessions) (hport : y.port = x.port) (hid : y.id = x.id) :
    y = x := by
  obtain ⟨z, -, rfl⟩ := List.mem_map.mp hy
  split at hport
  · next h => exact if_pos h
  · next h => rw [if_neg h] at hid; exact absurd ⟨hport, hid⟩ h

theorem execGetMeasurements_found {index v : Nat} (h : nfind? s.trust.measured index = some v) :
    execGetMeasurements port index s = .next (s.answer port 7 [index, v]) := by rw [execGetMeasurements, h]

theorem execGetMeasurements_absent {index : Nat} (h : nfind? s.trust.measured index = none) :
    execGetMeasurements port index s = .next (s.answer port 7 [index]) := by rw [execGetMeasurements, h]

section
variable (h : s.session? port id true = none)
include h

theorem execKeyUpdate_refused : execKeyUpdate port id s = .next (s.answer port 0 [2]) := by rw [execKeyUpdate, h]; rfl
theorem execHeartbeat_refused : execHeartbeat port id s = .next (s.answer port 0 [2]) := by rw [execHeartbeat, h]; rfl
theorem execEndSession_refused : execEndSession port id s = .next (s.answer port 0 [2]) := by rw [execEndSession, h]; rfl
theorem execIdeKm_refused {stream key : Nat} : execIdeKm port id stream key s = .next (s.answer port 0 [2]) := by rw [execIdeKm, h]; rfl

end

theorem execFinish_refused (h : s.session? port id false = none) : execFinish port id s = .next (s.answer port 0 [2]) := by
  rw [execFinish, h]; rfl

theorem execFinish_finishes (h : s.session? port id false ≠ none) : ∃ t : State, execFinish port id s = .next t ∧
    ∀ y ∈ t.trust.sessions, y.port = port → y.id = id → y.finished = true := by
  obtain ⟨x, hx⟩ := Option.ne_none_iff_exists'.mp h
  obtain ⟨rfl, rfl⟩ := State.session?_spec hx
  refine ⟨(s.setSession { x with finished := true }).answer x.port 9 [x.id], by rw [execFinish, hx], fun y hy hport hid => ?_⟩
  rw [State.eq_of_mem_setSession (x := { x with finished := true }) hy hport hid]

section
variable (h : s.session? port id true ≠ none)
include h

theorem execHeartbeat_answers : execHeartbeat port id s = .next (s.answer port 11 [id]) := by
  obtain ⟨x, hx⟩ := Option.ne_none_iff_exists'.mp h
  rw [execHeartbeat, hx]

theorem execKeyUpdate_rekeys : ∃ t : State, execKeyUpdate port id s = .next t ∧
    ∀ y ∈ t.trust.sessions, y.port = port → y.id = id → y.key = s.trust.draws + 1 := by
  obtain ⟨x, hx⟩ := Option.ne_none_iff_exists'.mp h
  obtain ⟨rfl, rfl⟩ := State.session?_spec hx
  simp only [execKeyUpdate, hx]
  refine ⟨_, rfl, fun y hy hport hid => ?_⟩
  rw [State.eq_of_mem_setSession (x := { x with key := s.trust.draws + 1 }) hy hport hid]

/-- END_SESSION takes the session out and keeps the others. -/
theorem execEndSession_ends : ∃ t : State, execEndSession port id s = .next t ∧ t.session? port id false = none ∧
    ∀ y ∈ s.trust.sessions, ¬ (y.port = port ∧ y.id = id) → y ∈ t.trust.sessions := by
  obtain ⟨x, hx⟩ := Option.ne_none_iff_exists'.mp h
  simp only [execEndSession, hx]
  refine ⟨_, rfl, List.find?_eq_none.2 fun y hy => ?gone, fun y hy hother => List.mem_filter.mpr ⟨hy, ?kept⟩⟩
  case gone =>
    have hother := (List.mem_filter.mp hy).2
    simp only [Bool.not_eq_true'] at hother
    simp only [hother, Bool.false_and, Bool.false_eq_true, not_false_eq_true]
  case kept => rw [decide_eq_false hother]; rfl

/-- IDE_KM gives a stream its key and makes it secure, whether or not the port comes to accept protected requests only. -/
theorem execIdeKm_keys {stream key : Nat} (hstream : stream < 8) : ∃ t : State, execIdeKm port id stream key s = .next t ∧
    nfind? t.trust.ideKeys (8 * port + stream) = some key ∧ 8 * port + stream ∉ t.trust.insecure ∧
    bit (t.reg (16 + port) 0x4000) stream = true := by
  obtain ⟨x, hx⟩ := Option.ne_none_iff_exists'.mp h
  simp only [execIdeKm, hx, if_neg (Nat.not_le.2 hstream)]
  refine ⟨_, rfl, (nfind?_ninsert ..).trans (if_pos rfl), fun hmem => ?secure, ?on⟩
  case secure => exact of_decide_eq_true (List.mem_filter.mp hmem).2 rfl
  case on =>
    have hset : bit (setBits (s.reg (16 + port) 0x4000) stream stream 1) stream = true := by
      rw [bit_setBits, if_pos rfl]
      rfl
    refine (congrArg (bit · stream) ((State.reg_setReg ..).trans (if_pos rfl))).trans ?_
    split
    · rw [bit_setBits, if_neg (Nat.ne_of_lt hstream), hset]
    · exact hset

end
end

/-- A session is opened under a fresh key, the fifth of a port refused. -/
theorem execKeyExchange_outcome (port : Nat) (s : State) :
    (4 ≤ (s.trust.sessions.filter (fun x => decide (x.port = port))).length → execKeyExchange port s = .next (s.answer port 0 [1])) ∧
    ((s.trust.sessions.filter (fun x => decide (x.port = port))).length < 4 → ∃ (t : State) (x : Session), execKeyExchange port s = .next t ∧
      t.trust.sessions = s.trust.sessions ++ [x] ∧ x.port = port ∧ x.finished = false ∧ x.key = s.trust.draws + 1 ∧
      t.trust.draws = s.trust.draws + 1) :=
  ⟨fun h => if_pos h, fun h => ⟨_, { port := port, id := s.trust.draws + 1, key := s.trust.draws + 1, finished := false },
    if_neg (Nat.not_le.2 h), rfl, rfl, rfl, rfl, rfl⟩⟩

/-- Settles O60: each request by the lemmas of its meaning, the rekey by what sending leaves of the job entries. -/
theorem trustDieAnswersItsRequests : Obligations.TrustDieAnswersItsRequests := by
  refine ⟨fun part cmd st body s => ⟨State.mailDone_go .., State.mailDone_status .., congrArg Trust.answers (State.mailDone_trust ..)⟩,
    fun part ctx tag gws sws s hbar => ?refused,
    fun part ctx tag gws sws s => execJobKey_outcome, fun part ctx s j hbar hjob => ⟨?rekey, execJobClear_outcome hbar hjob⟩,
    fun part img s => ⟨fun htarget hok => ⟨_, execFwStage_keeps htarget hok, State.mailDone_status ..,
      congrArg Trust.staged (State.mailDone_trust ..)⟩, execFwStage_refuses⟩,
    fun port s i code body hi => ?plain, fun port nonce s => rfl,
    fun port index s => ⟨fun v => execGetMeasurements_found, execGetMeasurements_absent⟩, execKeyExchange_outcome,
    fun port id stream key s => ⟨execFinish_refused, fun h i hi => ?noSession, execFinish_finishes,
      fun h => ⟨execHeartbeat_answers h, execKeyUpdate_rekeys h, execEndSession_ends h, execIdeKm_keys h⟩⟩⟩
  case refused =>
    have h := State.mailBar_of_refused hbar
    exact ⟨execJobKey_refused h, execJobRekey_refused h, execJobClear_refused h⟩
  case rekey =>
    exact ⟨_, execJobRekey_rekeys hbar hjob, State.mailDone_status .., fun k hk => s.rekey_epoch (State.mailDone_net (s.rekey j.tag) .. ▸ hk)⟩
  case plain =>
    simp only [List.mem_cons, Prod.mk.injEq, List.not_mem_nil, or_false] at hi
    obtain ⟨rfl, rfl, rfl⟩ | ⟨rfl, rfl, rfl⟩ | ⟨rfl, rfl, rfl⟩ | ⟨rfl, rfl, rfl⟩ | ⟨rfl, rfl, rfl⟩ := hi <;> rfl
  case noSession =>
    simp only [List.mem_cons, List.not_mem_nil, or_false] at hi
    obtain rfl | rfl | rfl | rfl := hi
    · exact execKeyUpdate_refused h
    · exact execHeartbeat_refused h
    · exact execEndSession_refused h
    · exact execIdeKm_refused h

end Sys2Proof.Machine
end
